-- ==== Sys2Proof/Word.lean ====
section
/-! DEFINITION. The word types of the TX256 and their plainest arithmetic. -/

namespace Sys2Proof

/-- A 32-bit register word of BAR0 (01_architecture.md, 00_scope.md R12). -/
abbrev Word := BitVec 32

/-- A byte on a lane, in host memory or in a flash image. -/
abbrev Byte := BitVec 8

/-- A sequence of bytes, byte 0 first. -/
abbrev Bytes := List Byte

/-- A 64-bit value: GLB.TICK, a doubled register, a bank word. -/
abbrev DWord := BitVec 64

/-- The low word of a 64-bit value (00_scope.md R13). -/
def DWord.lo (x : DWord) : Word := x.setWidth 32

/-- The high word of a 64-bit value (00_scope.md R13). -/
def DWord.hi (x : DWord) : Word := (x >>> 32).setWidth 32

/-- The 64-bit value of a high and a low word (00_scope.md R13). -/
def DWord.ofWords (hi lo : Word) : DWord := hi ++ lo

end Sys2Proof
end

