-- ==== Sys2Proof/Syntax.lean ====
section
/-! DEFINITION. The commands of the TX256: one constructor per row of the opcode table. -/

namespace Sys2Proof

/-- One descriptor as the device's DMA reads it: its bytes and its extension, which a failed
read leaves out (13_host.md R336, R337). -/
structure Fetched where
  desc : Bytes
  ext : Option Bytes
  deriving DecidableEq, Repr

/-- A training frame as received (03_lanes.md R72): the UI count of the lane at its start and its 8,480 levels,
with whether the local receiver has finished adapting, and the request the local receiver now wants to send
(PRESET, TAP_SEL, TAP_REQ). -/
structure TrainFrame where
  ui : Nat
  levels : List (BitVec 2)
  adapted : Bool
  wantPreset : BitVec 3
  wantTap : BitVec 3
  wantReq : BitVec 2
  deriving DecidableEq, Repr

/-- One codeword as received (03_lanes.md R80, R83): the UI count of the lane at its boundary, and its 544 symbols,
symbol 0 first. -/
structure CodewordIn where
  ui : Nat
  symbols : List (BitVec 10)
  deriving DecidableEq, Repr

/-- One sample of the sensor hub (15_management.md R384): 64 temperatures in 0.125 degrees,
the input readings, the oven, and voltage and current of each domain. -/
structure SensorReading where
  temps : List (BitVec 16)
  vin : BitVec 16
  iin : BitVec 16
  pin : BitVec 16
  oven : BitVec 16
  domains : List (BitVec 32)
  deriving DecidableEq, Repr

/-- A faulty cell that a march test finds (11_engines_banks.md R291, R297): its identifier, row
and column. -/
structure MemFault where
  macr : Nat
  row : Nat
  col : Nat
  deriving DecidableEq, Repr

/-- Where an uncorrectable LPDDR6 error lies (15_management.md R380, R381): firmware or working memory,
the stored contents of a scenario slot, a bin of an object's history (0 the current one), a record of the
event log, the trace, or the staging buffer. -/
inductive LpddrRegion where
  | firmware
  | scenario (n : Nat)
  | history (obj : Nat) (day : Bool) (bin : Nat)
  | log (n : Nat)
  | trace
  | staging
  deriving DecidableEq, Repr

/-- What start-up finds outside the logic (17_power_startup.md R443, R444; 19_registers.md R494,
R495): the straps, whether OTP read without error, the flash devices that answered with their
identity bytes and size in MiB, and faults that the start-up memory test will find. -/
structure BootInput where
  straps : BitVec 7
  otpOk : Bool
  flash0 : Option (BitVec 24 × Nat)
  flash1 : Option (BitVec 24 × Nat)
  faults : List MemFault
  deriving DecidableEq, Repr

/-- Where a host access lands (13_host.md R325, R326; 19_registers.md R496): BAR0 of the PF, BAR0 of a VF, BAR2 or the
configuration space of a function, or the MSI-X table and pending bits of a VF. -/
inductive HostWindow where
  | bar0
  | vf (f : Nat)
  | bar2 (f : Nat)
  | config (f : Nat)
  | vfMsix (f : Nat)
  deriving DecidableEq, Repr

/-- A register's place: a window and the offset in it. -/
structure HostAddr where
  win : HostWindow
  off : Nat
  deriving DecidableEq, Repr

/-- A host access to a bank (13_host.md Table 13.2): the value written, none for a read, and what the word's ECC shows
on a read, as in a bank access. -/
structure WindowData where
  data : Option DWord
  ecc : Nat
  deriving DecidableEq, Repr

/-- Who writes a bank's ownership (11_engines_banks.md R274, R287): engine 0-191 at kernel or task level, or 192 plus
the owner code of a port B master. -/
structure BankWriter where
  agent : Nat
  kernel : Bool
  deriving DecidableEq, Repr

/-- What is written: a new owner code, or LEND_OK. -/
inductive BankWrite where
  | owner (o : Nat)
  | lend (v : Bool)
  deriving DecidableEq, Repr

/-- What link training and configuration leave besides speed and width (13_host.md R325, Table 13.10): FLIT mode, VFs
enabled, and the maximum payload and read request sizes. -/
structure LinkSetup where
  flit : Bool
  vfs : Nat
  mps : Nat
  mrrs : Nat
  deriving DecidableEq, Repr

/-- What LPDDR6 shows (15_management.md R381): errors corrected since the last report, and the place of an
uncorrectable one. -/
structure LpddrReport where
  region : Option LpddrRegion
  corr : Nat
  deriving DecidableEq, Repr

/-- What an access to a scratchpad bank does (11_engines_banks.md R283, R288); `wide` is a 64-bit
access, else an aligned 32-bit half. -/
inductive BankOp where
  | read (wide : Bool)
  | write (wide : Bool) (v : DWord)
  | fetchAdd (wide : Bool) (v : DWord)
  | swap (wide : Bool) (v : DWord)
  deriving DecidableEq, Repr

/-- One access to a scratchpad bank (11_engines_banks.md R284): by engine `agent` on port A, or on
port B by the master whose owner code is `agent`, as supervisor or not; `addr` is a byte offset in
the bank, and `ecc` what the word's ECC shows on a read: 0 good, 1 corrected, 2 uncorrectable. -/
structure BankReq where
  portB : Bool
  supervisor : Bool
  agent : Nat
  kernel : Bool
  bank : Nat
  addr : Nat
  op : BankOp
  ecc : Nat
  deriving DecidableEq, Repr

/-- The commands, in the order of the opcode table. -/
inductive Instr where
  -- host commands (13_host.md Table 13.8): the descriptor at the head of queue q
  | nop (q : Nat)
  | eventCatalog (q : Nat)
  | stringCreate (q : Nat)
  | stringConnect (q : Nat)
  | stringDisconnect (q : Nat)
  | stringResize (q : Nat)
  | stringCondition (q : Nat)
  | stringDelete (q : Nat)
  | batchCommit (q : Nat)
  | repack (q : Nat)
  | pageDisarm (q : Nat)
  | pageSwapAt (q : Nat)
  | scenSave (q : Nat)
  | scenLoad (q : Nat)
  | scenDelete (q : Nat)
  | stringRead (q : Nat)
  | pageRead (q : Nat)
  | groupCreate (q : Nat)
  | groupModify (q : Nat)
  | groupDelete (q : Nat)
  | groupRequest (q : Nat)
  | groupRead (q : Nat)
  | timingConfig (q : Nat)
  | timingFreq (q : Nat)
  | timingPhaseStep (q : Nat)
  | todSet (q : Nat)
  | todAdj (q : Nat)
  | timingRead (q : Nat)
  | pmFetch (q : Nat)
  | perfRead (q : Nat)
  | eventLogRead (q : Nat)
  | bankAlloc (q : Nat)
  | bankRelease (q : Nat)
  | mtestConfig (q : Nat)
  | mtestRun (q : Nat)
  | keyUnwrap (q : Nat)
  | keyErase (q : Nat)
  | keyRead (q : Nat)
  | cipherOp (q : Nat)
  | imageStage (q : Nat) (container : Option Bytes)
  | imageActivate (q : Nat)
  | clusterActivate (q : Nat)
  | lifecycleSet (q : Nat)
  | debugUnlock (q : Nat)
  | attest (q : Nat)
  | sensorRead (q : Nat)
  | jnlConfig (q : Nat)
  | jnlCompact (q : Nat)
  | seesawConfig (q : Nat)
  | seesawRelease (q : Nat)
  | jnlRead (q : Nat)
  -- host accesses
  | sqPiDoorbell (f q : Nat) (v : Word)
  | cqCiDoorbell (f q : Nat) (v : Word)
  | eqCiDoorbell (f r : Nat) (v : Word)
  | queueEnable (q : Nat) (v : Word)
  | queueDisable (q : Nat) (v : Word)
  | eqEnable (r : Nat) (v : Word)
  | eqDisable (r : Nat) (v : Word)
  | descriptorFetch (q : Nat) (ds : List (Option Fetched))
  | interruptTimerExpiry (event : Bool) (ring : Nat)
  | functionLevelReset (f : Nat)
  | perstNAssert
  | perstNDeassert
  | warmReset (v : Word) (b : BootInput)
  /-- `faults`: faults that the start-up memory test will find -/
  | resume (v : Word) (faults : List MemFault)
  | shutdown (v : Word)
  | lockSet (v : Word)
  | coreInjectArm (v : Word)
  | secInjectArm (v : Word)
  | huntRestart (l : Nat) (v : Word)
  | trainRestart (l : Nat) (v : Word)
  | laneEnable (l : Nat) (v : Word)
  | laneDisable (l : Nat) (v : Word)
  | portEnable (p : Nat) (v : Word)
  | portDisable (p : Nat) (v : Word)
  | tdCfgWrite (p : Nat) (v : Word)
  | perfCounterWrite (off : Nat) (v : Word)
  | perfSelectWrite (off : Nat) (v : Word)
  | perfHoldClear (v : Word)
  | perfFreezeWrite (v : Word)
  | regReadClear (off : HostAddr)
  | reg64LowRead (off : Nat)
  | reg64HighWrite (off : Nat) (v : Word)
  | todSecRead
  | bar0AccessRefused (write : Bool) (off size : Nat)
  | bankWindowAccess (off size : Nat) (data : WindowData)
  | registerWrite (off : HostAddr) (v : Word)
  -- SMBus and JTAG
  | smbIdent
  | smbPowerState
  | smbSeesaw
  | smbTempMax
  | smbTempAll
  | smbVin
  | smbIin
  | smbPin
  | smbDomains
  | smbOven
  | smbEventSummary
  | smbEventAck (v : Byte)
  | smbAlertResponse
  | jtagBypass
  | jtagIdcode
  | jtagSamplePreload (data : List Bool)
  | jtagExtest
  | jtagClamp
  | jtagHighz
  | dbgAccess
  -- power and start-up
  | vinGood (b : BootInput)
  | vinLost
  | vinOvervoltage
  | inputOvercurrent
  | porNAssert
  | porNDeassert (b : BootInput)
  | startupStepLate (step : Nat)
  | seesawDecisionTimeout
  -- tick and engines
  | tickEdge
  | tickOverrun (e : Nat)
  | engineHalt (e : Nat)
  | clusterMigration (c : Nat)
  | clusterReady (c : Nat)
  | clusterReturn (c : Nat)
  | fabricMessage (src dst : Nat) (msg : BitVec 128)
  -- core, lanes, ports
  | coreStep (k : Nat)
  | egressRowRead (m : Nat)
  | trainingFrameRx (l : Nat) (fr : TrainFrame)
  | trainingTimeout (l : Nat) (timer : Nat)
  | electricalIdleEnd (l : Nat)
  | codewordRx (l : Nat) (cw : CodewordIn)
  | codewordHuntTimeout (l : Nat)
  | laneSignalChange (l : Nat) (signal cdr : Bool)
  | rowRx (l pos cclk : Nat) (bytes : Bytes)
  | srmRx (l : Nat) (msg : Word)
  | capabilityFrameRx (l : Nat) (payload : Bytes)
  | capabilitySend (p : Nat)
  | capabilityTimeout (p : Nat)
  | capabilitySilence (p : Nat)
  -- twin
  | todFrameRx (payload : Bytes)
  | todFrameSend
  | heartbeatRx (payload : Bytes)
  | heartbeatSend
  | heartbeatPathFail (px : Bool)
  | peerReset
  | copyDataRx (payload : Bytes)
  | copyAckRx (payload : Bytes)
  | copyResendRx (payload : Bytes)
  | copyGapTimeout
  | copyAckSend
  | sswActInFall
  | sswActInRise
  | claim
  | claimEnHoldExpiry
  | trafficStateRelease
  -- pages and abacus
  | swapCommit
  | pageSwap
  | resyncDone
  | stepLend (k : Nat)
  | stepVacateRequest (k : Nat)
  | stepReturn (k : Nat)
  | placementDone
  | repackDone (colours : Option (List (Nat × Nat)))
  | scenSaveDone
  | scenLoadDone
  | scenarioMarkStale (n : Nat)
  | scenarioRebuildDone (n : Nat)
  -- protection
  | holdOffExpiry (g : Nat)
  | wtrExpiry (g : Nat)
  | exerTimeout (g : Nat)
  | channelTimeout (g : Nat)
  | noResponseTimeout (g : Nat)
  | restoreHoldExpiry (g : Nat)
  -- monitoring
  /-- class 1 lane, 2 port, 3 string, as 09_monitoring.md Table 9.5 numbers them -/
  | defectClear (cls obj defect : Nat)
  | secondBoundary
  | tallyHandoff (p : Nat)
  | foldDone (p : Nat)
  | tallyHandbackMissed (p : Nat)
  -- timing
  | todApply
  | selectionEvaluation
  | referenceActivityFail (n : Nat)
  | frequencyWindowEnd (n : Nat) (freq : Int)
  | referenceWtrExpiry (n : Nat)
  | dpllLocked
  | softWatchdogExpiry
  | learnHour (model : Bytes)
  | estimateValid
  | holdQlTimeExpiry
  | ovenReady
  -- management
  | sensorSample (r : SensorReading)
  | watchdogExpiry (core : Nat)
  /-- `faults`: faults that the start-up memory test will find when the restart leaves recovery -/
  | mgmtRestartDone (faults : List MemFault)
  | lpddrEccUncorr (region : LpddrReport)
  | trialTimeout
  -- journal
  | recordPersisted
  | compactionDone
  /-- block `blk` of flash device `dev`; an erase or a program operation fails -/
  | flashBlockFail (dev blk : Nat) (erase : Bool)
  | flashDeviceLost (dev : Nat)
  -- cipher
  | datapathGrant (d : Nat) (input : Option Bytes)
  | datapathFault (d : Nat)
  | cipherOperationDone (d : Nat)
  | windowZeroed (w : Nat)
  | keySlotErased (k : Nat)
  -- banks and memory test
  | bankAccess (reqs : List BankReq)
  | recallDone (b : Nat)
  | bankHandover (b : Nat) (agent : BankWriter) (owner : BankWrite)
  | handoverEffect (b : Nat)
  | handoverTimeout (b : Nat)
  | bankBorrow (b : Nat)
  | segmentDone (b : Nat) (faults : List MemFault)
  | retentionPauseEnd
  | pageBorrow
  | memoryTestDone (faults : List MemFault)
  -- the rest of the table
  | portDomainPowerDown (d : Nat)
  | perfCounterWrap (k : Nat)
  | wireHeartbeatRx
  | referenceInputEdge (n : Nat) (phase : Int)
  | pcieLinkChange (up : Bool) (speed width : Nat) (flit : LinkSetup)
  | copyTimeout
  | trainingFrameTx (l : Nat)
  | imageStageDone (ok : Bool)
  | bankAllocDone
  | peerRstOutEnd
  | portDomainPowered (d : Nat)
  /-- bank 0-127, or 128 plus a port -/
  | destructiveTestStart (target : Nat)
  deriving DecidableEq, Repr

end Sys2Proof
end

