-- ==== Sys2Proof/Decode.lean ====
section
/-! DEFINITION. The word form of the commands. -/

namespace Sys2Proof

/-- The command that a word spells by the bits of the opcode table. The table gives no row any bits,
because the device's commands are accesses, frames and events rather than instruction words; every
word is therefore refused. -/
def decodeTableWord (_nbits _w : Nat) : Option Instr := none

end Sys2Proof
end

