-- ==== Sys2Proof/Machine/Sparse.lean ====
section
/-! DEFINITION. Sparse maps and byte memories: association lists with rising keys. -/

namespace Sys2Proof.Machine

/-- The value at key `k`; `d k` where the list has no entry. -/
def spGet {α : Type} (d : Nat → α) : List (Nat × α) → Nat → α
  | [], k => d k
  | (j, v) :: m, k => if j = k then v else spGet d m k

/-- Insert or replace the entry of `k`, keeping the keys rising. -/
def spIns {α : Type} (k : Nat) (v : α) : List (Nat × α) → List (Nat × α)
  | [] => [(k, v)]
  | (j, w) :: m =>
    if k < j then (k, v) :: (j, w) :: m
    else if k = j then (k, v) :: m
    else (j, w) :: spIns k v m

/-- Remove the entry of `k`. -/
def spDel {α : Type} (k : Nat) : List (Nat × α) → List (Nat × α)
  | [] => []
  | (j, w) :: m => if j = k then spDel k m else (j, w) :: spDel k m

/-- Write `v` at `k`; writing the default removes the entry. -/
def spSet {α : Type} [DecidableEq α] (d : Nat → α) (k : Nat) (v : α) (m : List (Nat × α)) :
    List (Nat × α) :=
  if v = d k then spDel k m else spIns k v m

/-- The canonical form: keys rise and no entry equals its default. -/
abbrev spWf {α : Type} (d : Nat → α) (m : List (Nat × α)) : Prop :=
  m.Pairwise (fun a b => a.1 < b.1) ∧ ∀ e ∈ m, e.2 ≠ d e.1

/-- Apply `f` to every listed value, dropping those that become the default. -/
def spMap {α : Type} [DecidableEq α] (d : Nat → α) (f : Nat → α → α) :
    List (Nat × α) → List (Nat × α)
  | [] => []
  | (j, v) :: m => spSet d j (f j v) (spMap d f m)

/-- A byte of a memory, none where nothing has written it. -/
def memGet (m : List (Nat × Byte)) (a : Nat) : Option Byte :=
  match m with
  | [] => none
  | (j, v) :: m => if j = a then some v else memGet m a

/-- Write bytes at successive addresses from `a`. -/
def memPut (a : Nat) : Bytes → List (Nat × Byte) → List (Nat × Byte)
  | [], m => m
  | b :: bs, m => memPut (a + 1) bs (spIns a b m)

/-- A memory is in canonical form when its addresses rise. -/
abbrev Memory.wf {α : Type} (m : List (Nat × α)) : Prop := m.Pairwise (fun a b => a.1 < b.1)

/-- The little-endian bytes of a number (00_scope.md R11). -/
def leBytes : Nat → Nat → Bytes
  | 0, _ => []
  | n + 1, v => BitVec.ofNat 8 v :: leBytes n (v / 256)

/-- The big-endian bytes of a number (00_scope.md R10). -/
def beBytes (n v : Nat) : Bytes := (leBytes n v).reverse

/-- The number that little-endian bytes spell. -/
def leNat : Bytes → Nat
  | [] => 0
  | b :: bs => b.toNat + 256 * leNat bs

/-- The number that big-endian bytes spell. -/
def beNat (bs : Bytes) : Nat := leNat bs.reverse

/-- `n` bytes from offset `o`, zero where the list ends. -/
def sub (bs : Bytes) (o n : Nat) : Bytes := (List.range n).map fun i => bs.getD (o + i) 0

/-- The little-endian number in `n` bytes from offset `o`. -/
def leAt (bs : Bytes) (o n : Nat) : Nat := leNat (sub bs o n)

/-- The big-endian number in `n` bytes from offset `o`. -/
def beAt (bs : Bytes) (o n : Nat) : Nat := beNat (sub bs o n)

/-- Pad with zero bytes to length `n`. -/
def padTo (n : Nat) (bs : Bytes) : Bytes := bs ++ List.replicate (n - bs.length) 0

/-- Bits [hi:lo] of a number. -/
def bitsOf (x hi lo : Nat) : Nat := x / 2 ^ lo % 2 ^ (hi + 1 - lo)

/-- Bit `i` of a number. -/
def bitOf (x i : Nat) : Bool := x / 2 ^ i % 2 == 1

/-- 1 for true. -/
def b2n (b : Bool) : Nat := if b then 1 else 0

/-- Insert into an ascending list without repeats. -/
def insNat (k : Nat) : List Nat → List Nat
  | [] => [k]
  | j :: m => if k < j then k :: j :: m else if k = j then j :: m else j :: insNat k m

end Sys2Proof.Machine
end

