-- ==== Sys2Proof/Machine/Crc.lean ====
section
/-! DEFINITION. The checks of the Omvik link (02_tray_format.md R39, R50; 03_lanes.md R81), the
row scrambler (R46) and the HDLC-like stuffing (R52). -/

namespace Sys2Proof.Machine

/-- One bit of a CRC register of `n` bits, most significant bit first. -/
def crcBit (n poly reg : Nat) (b : Bool) : Nat :=
  let out := bitOf reg (n - 1)
  let sh := reg * 2 % 2 ^ n
  if out != b then sh ^^^ poly else sh

/-- The bits of a number of `n` bits, most significant first. -/
def bitsMsb (n x : Nat) : List Bool := (List.range n).map fun i => bitOf x (n - 1 - i)

/-- A CRC over bytes, bit 7 of each byte first. -/
def crcBytes (n poly init : Nat) (bs : Bytes) : Nat :=
  bs.foldl (fun r b => (bitsMsb 8 b.toNat).foldl (crcBit n poly) r) init

/-- HCHK and the frame check of the message channel (02_tray_format.md R39). -/
def crc16 (bs : Bytes) : Nat := crcBytes 16 0x1021 0xFFFF bs

/-- SR_CHK and the check of training fields (02_tray_format.md R50, 03_lanes.md R73). -/
def crc8 (bs : Bytes) : Nat := crcBytes 8 0x07 0 bs

/-- CW_CHK over bits [19:5] of a codeword head (03_lanes.md R81). -/
def crc5 (x : Nat) : Nat := (bitsMsb 15 x).foldl (crcBit 5 0x05) 0x1F

/-- The CRC-32 polynomial of IEEE 802.3 (06_pages.md R160). -/
def crc32Poly : Nat := 0x04C11DB7

/-- CRC-32 of IEEE 802.3 over bytes: each least significant bit first, from all ones, inverted
(16_journal_seesaw.md Table 16.2). -/
def crc32 (bs : Bytes) : Nat :=
  let r := (bs.flatMap fun b => (bitsMsb 8 b.toNat).reverse).foldl (crcBit 32 crc32Poly) 0xFFFFFFFF
  (bitsMsb 32 r).reverse.foldl (fun a c => 2 * a + b2n (!c)) 0

/-- A remainder times x, modulo the CRC-32 polynomial. -/
def crcX (a : Nat) : Nat := crcBit 32 crc32Poly a false

/-- The product of two remainders. -/
def crcMul (a b : Nat) : Nat := (bitsMsb 32 b).foldl (fun r c => if c then crcX r ^^^ a else crcX r) 0

/-- x to the power n, for n below 2^25. -/
def crcPow (n : Nat) : Nat := (bitsMsb 25 n).foldl (fun r c => if c then crcX (crcMul r r) else crcMul r r) 1

/-- One bit of the scrambler of 02_tray_format.md R46: output bit and next state. -/
def lfsr (st : Nat) : Bool × Nat :=
  let o := bitOf st 30 != bitOf st 27
  (o, (st * 2 + b2n o) % 2 ^ 31)

/-- Eight bits of the scrambler, the first in bit 7. -/
def lfsrByte (st : Nat) : Nat × Nat :=
  (List.range 8).foldl (fun (a : Nat × Nat) _ => let (o, n) := lfsr a.2; (a.1 * 2 + b2n o, n)) (0, st)

/-- Add the scrambler sequence to bytes. -/
def scrambleFrom : Nat → Bytes → Bytes
  | _, [] => []
  | st, b :: bs => let (k, n) := lfsrByte st; (b ^^^ BitVec.ofNat 8 k) :: scrambleFrom n bs

/-- Scramble or descramble bytes 6 onwards of row `row` (02_tray_format.md R46). -/
def scramble (row : Nat) (bs : Bytes) : Bytes := scrambleFrom (0x2A5A5A00 ||| row) bs

/-- Exclusive OR of bytes: a row's BIP-8 (02_tray_format.md R45). -/
def xorBytes (bs : Bytes) : Byte := bs.foldl (· ^^^ ·) 0

/-- Octet stuffing of one frame body between flags (02_tray_format.md R52). -/
def stuff : Bytes → Bytes
  | [] => []
  | b :: bs => if b = 0x7E ∨ b = 0x7D then 0x7D :: (b ^^^ 0x20) :: stuff bs else b :: stuff bs

/-- A message-channel frame as it is sent: flag, TYPE, payload and FCS stuffed, flag
(02_tray_format.md R52, R53). -/
def frameBytes (type : Byte) (payload : Bytes) : Bytes :=
  let body := type :: payload
  0x7E :: stuff (body ++ beBytes 2 (crc16 body)) ++ [0x7E]

/-- The number of ones in a byte. -/
def ones (b : Byte) : Nat := ((bitsMsb 8 b.toNat).filter id).length

/-- P of a payload: exclusive OR of its odd bits and of its even bits (02_tray_format.md R42). -/
def parity (p : BitVec 384) : BitVec 2 :=
  let x := xorBytes ((List.range 48).map fun i => BitVec.ofNat 8 (p.toNat / 2 ^ (8 * i)))
  let odd := (bitOf x.toNat 7 != bitOf x.toNat 5) != (bitOf x.toNat 3 != bitOf x.toNat 1)
  let even := (bitOf x.toNat 6 != bitOf x.toNat 4) != (bitOf x.toNat 2 != bitOf x.toNat 0)
  BitVec.ofNat 2 (2 * b2n odd + b2n even)

end Sys2Proof.Machine
end

