-- ==== Sys2Proof/Machine/Rs.lean ====
section
/-! DEFINITION. The RS(544,514) code of a lane's codewords (03_lanes.md R80): symbols of GF(2^10), the first
symbol on the line the highest power. Field and generator polynomials are those of IEEE 802.3 Clause 91, to
which the rule refers (log entry 58). -/

namespace Sys2Proof.Machine

/-- A symbol times alpha, the field polynomial being x^10 + x^3 + 1. -/
def gfTwice (a : Nat) : Nat := if a < 512 then 2 * a else Nat.xor (2 * a - 1024) 9

/-- The product of two symbols, by the bits of the second from its top one. -/
def gfMul (a b : Nat) : Nat :=
  (bitsMsb 10 b).foldl (fun r bit => if bit then Nat.xor (gfTwice r) a else gfTwice r) 0

/-- A power of a symbol. -/
def gfPow (a : Nat) : Nat → Nat
  | 0 => 1
  | n + 1 => gfMul (gfPow a n) a

/-- The inverse of a symbol that is not 0: its power 1,022, by squares. -/
def gfInv (a : Nat) : Nat :=
  (bitsMsb 10 1022).foldl (fun r bit => let q := gfMul r r; if bit then gfMul q a else q) 1

/-- The sum of symbols. -/
def gfSum (xs : List Nat) : Nat := xs.foldl Nat.xor 0

/-- The value at x of a polynomial whose coefficients stand lowest first. -/
def gfEval (cs : List Nat) (x : Nat) : Nat := cs.foldr (fun c r => Nat.xor (gfMul r x) c) 0

/-- The 30 syndromes of a received word: its values at the powers 0 to 29 of alpha, the generator's roots. -/
def syndromes (ws : List Nat) : List Nat :=
  (List.range 30).map fun j => let x := gfPow 2 j; ws.foldl (fun r w => Nat.xor (gfMul r x) w) 0

/-- The search for the shortest recurrence of the syndromes. -/
structure Locator where
  /-- error locator, lowest coefficient first -/
  poly : List Nat
  /-- the locator before its length last grew -/
  prev : List Nat
  /-- length of the recurrence -/
  len : Nat
  /-- steps since the length last grew -/
  gap : Nat
  /-- discrepancy at which it grew -/
  base : Nat

/-- The sum of two polynomials. -/
def polyAdd (a b : List Nat) : List Nat :=
  (List.range (max a.length b.length)).map fun i => Nat.xor (a.getD i 0) (b.getD i 0)

/-- One syndrome more. -/
def locatorStep (ss : List Nat) (k : Locator) (n : Nat) : Locator :=
  let d := gfSum ((List.range (k.len + 1)).map fun i => gfMul (k.poly.getD i 0) (ss.getD (n - i) 0))
  if d = 0 then { k with gap := k.gap + 1 }
  else
    let f := gfMul d (gfInv k.base)
    let p := polyAdd k.poly (List.replicate k.gap 0 ++ k.prev.map (gfMul f))
    if 2 * k.len ≤ n then ⟨p, k.poly, n + 1 - k.len, 1, d⟩
    else { k with poly := p, gap := k.gap + 1 }

/-- The locator of the errors of a word with these syndromes. -/
def locatorOf (ss : List Nat) : Locator := (List.range 30).foldl (locatorStep ss) ⟨[1], [1], 0, 1, 1⟩

/-- The value of the error at the place whose power of alpha is n. -/
def errorAt (ss : List Nat) (loc : List Nat) (n : Nat) : Nat :=
  let x := gfPow 2 n
  let y := gfInv x
  let omega := (List.range 30).map fun i =>
    gfSum ((List.range (i + 1)).map fun j => gfMul (loc.getD j 0) (ss.getD (i - j) 0))
  let slope := loc.zipIdx.map fun c => if c.2 % 2 = 1 then c.1 else 0
  gfMul (gfMul x (gfEval omega y)) (gfInv (gfMul x (gfEval slope y)))

/-- A codeword corrected, with the number of symbols in error: none when no codeword lies within 15 symbols
(03_lanes.md R80, R82). -/
def rsDecode (ws : List Nat) : Option (Nat × List Nat) :=
  let ss := syndromes ws
  if ss.all (· = 0) then some (0, ws)
  else
    let k := locatorOf ss
    let places := (List.range 544).filter fun i => gfEval k.poly (gfInv (gfPow 2 (543 - i))) = 0
    if k.len ≤ 15 ∧ places.length = k.len then
      let fixed := places.foldl (fun w i => w.set i (Nat.xor (w.getD i 0) (errorAt ss k.poly (543 - i)))) ws
      if (syndromes fixed).all (· = 0) then some (k.len, fixed) else none
    else none

/-! ### Encoding (R80, R81) -/

/-- The generator polynomial without its leading 1, highest power first: the product of x + alpha^j for j from 0
to 29. -/
def rsGenerator : List Nat :=
  ((List.range 30).foldl (fun g j =>
    List.zipWith Nat.xor (g ++ [0]) (0 :: g.map (gfMul (gfPow 2 j)))) [1]).drop 1

/-- One message symbol through the division by the generator. -/
def rsStep (g r : List Nat) (w : Nat) : List Nat :=
  let f := Nat.xor w (r.headD 0)
  List.zipWith Nat.xor (r.drop 1 ++ [0]) (g.map (gfMul f))

/-- A message of 514 symbols with its 30 parity symbols. -/
def rsEncode (ws : List Nat) : List Nat := ws ++ ws.foldl (rsStep rsGenerator) (List.replicate 30 0)

/-- The 512 symbols of 640 bytes, five bytes to four symbols, bit 7 of byte 0 first (03_lanes.md Table 3.10). -/
def packSymbols : Bytes → List Nat
  | a :: b :: c :: d :: e :: bs =>
    let n := beNat [a, b, c, d, e]
    [bitsOf n 39 30, bitsOf n 29 20, bitsOf n 19 10, bitsOf n 9 0] ++ packSymbols bs
  | _ => []

/-- The bytes of data symbols. -/
def unpackSymbols : List Nat → Bytes
  | a :: b :: c :: d :: ws => beBytes 5 (((a * 1024 + b) * 1024 + c) * 1024 + d) ++ unpackSymbols ws
  | _ => []

/-- The head of a codeword: CW_INDEX, CW_LANE and CW_CHK (03_lanes.md R81). -/
def codewordHead (index lane : Nat) : Nat :=
  let x := index * 32 + lane % 32
  x * 32 + crc5 x

/-- The 544 symbols of a codeword that carries 640 bytes (03_lanes.md R80, R81). -/
def encodeCodeword (index lane : Nat) (data : Bytes) : List Nat :=
  let h := codewordHead index lane
  rsEncode (h / 1024 :: h % 1024 :: packSymbols data)

/-! ### Decoding (R81, R82) -/

/-- What the decoder found in a codeword: its boundary, the number of symbols in error (none when it could not
correct), the head after correction, or as received where there is none, and the 640 data bytes handed on. -/
structure Codeword where
  ui : Nat
  errors : Option Nat
  head : BitVec 20
  data : Bytes
  deriving DecidableEq, Repr

/-- The head, symbols 0 and 1 of a word. -/
def headOf (xs : List Nat) : BitVec 20 := BitVec.ofNat 20 (1024 * xs.getD 0 0 + xs.getD 1 0)

/-- The data bytes of a word: symbols 2 to 513. -/
def dataOf (xs : List Nat) : Bytes := unpackSymbols ((xs.drop 2).take 512)

/-- A codeword decoded (03_lanes.md R81, R82). Its data go on corrected, or as received where it could not be
corrected and in bypass (R88). -/
def decodeCodeword (bypass : Bool) (c : CodewordIn) : Codeword :=
  let ws := c.symbols.map (·.toNat)
  match rsDecode ws with
  | some (n, xs) => ⟨c.ui, some n, headOf xs, dataOf (if bypass then ws else xs)⟩
  | none => ⟨c.ui, none, headOf ws, dataOf ws⟩

end Sys2Proof.Machine
end

