-- ==== Sys2Proof/Machine/Line.lean ====
section
/-! DEFINITION. A lane on the wire: PAM4 levels, the precoder, and training frames as they are sent and received
(03_lanes.md R68, R72 to R75). -/

namespace Sys2Proof.Machine

/-! ### Levels (R68) -/

/-- The level of a pair of bits by Gray coding, the earlier bit the more significant (03_lanes.md R68). -/
def grayLevel (pair : Nat) : BitVec 2 := if pair = 2 then 3 else if pair = 3 then 2 else BitVec.ofNat 2 pair

/-- The five levels of a symbol, bit 9 first (03_lanes.md R80). -/
def symbolLevels (w : Nat) : List (BitVec 2) :=
  [grayLevel (bitsOf w 9 8), grayLevel (bitsOf w 7 6), grayLevel (bitsOf w 5 4), grayLevel (bitsOf w 3 2),
    grayLevel (bitsOf w 1 0)]

/-- The precoder 1/(1+D) mod 4: each level sent is the level less the one sent before it (03_lanes.md R68). -/
def precode : BitVec 2 → List (BitVec 2) → List (BitVec 2)
  | _, [] => []
  | p, g :: gs => (g - p) :: precode (g - p) gs

/-! ### Training frames (R72 to R75) -/

/-- MARKER: 16 UI at level 3, then 16 UI at level 0 (03_lanes.md Table 3.5). -/
def marker : List (BitVec 2) := List.replicate 16 3 ++ List.replicate 16 0

/-- One bit of a field in Manchester code (03_lanes.md R72). -/
def manchester (b : Bool) : List (BitVec 2) := if b then [3, 3, 0, 0] else [0, 0, 3, 3]

/-- The bit that four levels carry. -/
def manchesterBit (ls : List (BitVec 2)) : Option Bool :=
  if ls = [3, 3, 0, 0] then some true else if ls = [0, 0, 3, 3] then some false else none

/-- A field of 3 bytes with its check, as a number of 32 bits (03_lanes.md R73). -/
def withCheck (x : Nat) : Nat := x * 256 + crc8 (beBytes 3 x)

/-- The levels of a field (03_lanes.md R72). -/
def fieldLevels (x : Nat) : List (BitVec 2) := (bitsMsb 32 (withCheck x)).flatMap manchester

/-- The field whose levels begin at UI `o` of a frame: none when a bit is no Manchester code or the check does not
fit (03_lanes.md R73). -/
def fieldAt (ls : List (BitVec 2)) (o : Nat) : Option (BitVec 24) :=
  let bits := (List.range 32).map fun i => manchesterBit ((ls.drop (o + 4 * i)).take 4)
  if bits.all (·.isSome) then
    let n := bits.foldl (fun n b => 2 * n + b2n (b.getD false)) 0
    if withCheck (n / 256) = n then some (BitVec.ofNat 24 (n / 256)) else none
  else none

/-- One bit of the PRBS13Q generator, polynomial x^13 + x^12 + x^2 + x + 1: output and next state (03_lanes.md
R72; the output convention is that of log entry 58). -/
def prbsBit (st : Nat) : Nat × Nat :=
  let o := b2n ((bitOf st 12 != bitOf st 11) != (bitOf st 1 != bitOf st 0))
  (o, (st * 2 + o) % 8192)

/-- `n` levels of PATTERN from a state of the generator, two bits to a UI (03_lanes.md R72). -/
def pattern : Nat → Nat → List (BitVec 2)
  | 0, _ => []
  | n + 1, st =>
    let a := prbsBit st
    let b := prbsBit a.2
    grayLevel (2 * a.1 + b.1) :: pattern n b.2

/-- The seed of PATTERN on a lane (03_lanes.md R72). -/
def patternSeed (laneIdx : Nat) : Nat := 4096 + laneIdx % 32 * 8 + 5

/-- A training frame, its PATTERN continued for `more` UI (03_lanes.md R72, R78 step 4). -/
def frameLevels (laneIdx control status more : Nat) : List (BitVec 2) :=
  marker ++ fieldLevels control ++ fieldLevels status ++ pattern (8192 + more) (patternSeed laneIdx)

/-- MARKER of a received frame is intact (03_lanes.md R73). -/
def markerOk (fr : TrainFrame) : Bool := fr.levels.take 32 == marker

/-- CONTROL of a received frame, where its check fits. -/
def frameControl (fr : TrainFrame) : Option (BitVec 24) := fieldAt fr.levels 32

/-- STATUS of a received frame, where its check fits. -/
def frameStatus (fr : TrainFrame) : Option (BitVec 24) := fieldAt fr.levels 160

end Sys2Proof.Machine
end

