-- ==== Sys2Proof/Config.lean ====
section
/-! DEFINITION. What the spec leaves open: constants without a body, so that no proof can see their
values (notes/assumptions). -/

namespace Sys2Proof

/-- Severity of an event for which no rule names one, by the event's place in `Ev`: information, warning or critical
(13_host.md Table 13.6; log entry 8). -/
opaque Config.evSeverity : Nat → Fin 3

/-- CODE of an event within its source (13_host.md R339; log entry 8). -/
opaque Config.evCode : Nat → BitVec 16

/-- The event's name: how long it is, and its characters (13_host.md R347, EVENT_CATALOG; log entry 8). -/
opaque Config.evNameLen : Nat → Nat
opaque Config.evName : Nat → Nat → BitVec 8

/-- Output frequency while the DPLL follows a reference, in 2^-16 ppb, by tick: the loop is analogue
and the spec states no value (log entry 10). -/
opaque Config.dpllFreq : Nat → BitVec 32

/-- Coefficients of the holdover model as the bytes of its fit give them: 0 to 2 the temperature terms of the first to
third order, 3 the linear and 4 the logarithmic term of ageing; and what a journal record of the model holds besides,
5 the sensor's temperature at the end of the last learning hour and 6 the first learning hour (10_timing.md R256, R258;
log entry 10). -/
opaque Config.modelCoef : List (BitVec 8) → Nat → Int

/-- The factory calibration of the oscillator in OTP: 0 to 2 the temperature terms, 3 the temperature they are reckoned
from (10_timing.md R258; log entry 10). -/
opaque Config.oscCal : Nat → Int

/-- The logarithm of a time in seconds, as the ageing model takes it (10_timing.md R258; log entry 10). -/
opaque Config.logOf : Nat → Int

/-- A word of a scratchpad bank that nothing has written since its last destructive test, by that
test's number and the word (11_engines_banks.md R292; log entry 12). -/
opaque Config.bankWord : Nat → Nat → BitVec 64

/-- How the issue slots of an engine fell, and how often it called the kernel or was interrupted, in a run of
ECLK: engine, first ECLK since GLB.TICK 0, and class (12_perf_counters.md R306; log entry 11). -/
opaque Config.engineSlots : Nat → Nat → Nat → Nat

/-- The encoding of the counter and of the length in the key derivation of 14_cipher.md R359, which
NIST SP 800-108 leaves to the user (log entry 13). -/
opaque Config.kdfCounter : Nat → List (BitVec 8)
opaque Config.kdfLength : Nat → List (BitVec 8)

/-- The random source of the device, byte by byte (15_management.md R400, 16_journal_seesaw.md R407;
log entry 13). -/
opaque Config.random : Nat → BitVec 8

/-- The RSASSA-PSS signature of the identity key over a report (15_management.md R396, R397; log
entry 13). -/
opaque Config.identitySign : List (BitVec 8) → Nat → BitVec 3072

/-- How many more records a logical record takes whose payload layout the spec does not give, by its
SEQ (16_journal_seesaw.md R408; log entry 17). -/
opaque Config.extraParts : Nat → Nat

/-- The bytes of a part of such a payload, and of a COMMIT's digest and block numbers: the contents as
numbers, and the part (16_journal_seesaw.md Table 16.4; log entry 17). -/
opaque Config.recordLayout : List Nat → Nat → List (BitVec 8)

/-- The numbers that such a payload, received from the twin, stands for (log entry 17). -/
opaque Config.recordRead : List (BitVec 8) → Nat → Nat

/-- The 32-bit cells of a lane's or port's tally record in the last bank of a half, by the object
(09_monitoring.md R228; log entry 69). -/
opaque Config.tallyCells : Nat → List Nat

/-- What a tick's counts add to cell i of a tally record, by the class of the object (09_monitoring.md R229; log
entry 69). -/
opaque Config.tallyAdd : Nat → List Nat → Nat → BitVec 64

/-- A fresh free value of any width: the n-th draw (log entry 2). -/
opaque Config.free : Nat → Nat

end Sys2Proof
end

