-- ==== Sys2Proof/Machine/State.lean ====
section
/-! DEFINITION. The state of the TX256, as plain data. Each field's docstring gives its width,
the rule that names it ("06 R145" is rule R145 of the spec's file 06_pages.md), its value at
reset, and what it holds. Sparse maps are lists of key and value with rising keys and no entry
equal to the default. -/

namespace Sys2Proof.Machine

/-- The faults of the model. No command of this table faults: a command whose occasion does not
exist has no effect (log entry 1). -/
inductive Fault where
  /-- Raised by nothing; it keeps the type inhabited. Safe. -/
  | none
  deriving DecidableEq, Repr

/-- The refusals of the model. -/
inductive Refusal where
  /-- The command named has no meaning yet; raised by its arm of `exec` only. Safe. -/
  | notModelled (mnemonic : String)
  deriving DecidableEq, Repr

/-- The events the device raises (13_host.md R339), in one list over all sources; their numeric
codes are the firmware's and are not in the spec (log entry 8). -/
inductive Ev where
  | trainFail
  | cwLol
  | cwBypassErr
  | cwCycleErr
  | identChange
  | flagMismatch
  | mimic
  | los
  | lol
  | locw
  | loa
  | lot
  | lsf
  | lsd
  | rateMismatch
  | bondDrop
  | capFail
  | capChange
  | farStandby
  | cutExit
  | slip
  | modeRefused
  | pdn
  | pbd
  | pcap
  | readFailed
  | strictLost
  | rearrLost
  | stepRetired
  | pageSwap
  | followMiss
  | resyncEcc
  | rebindUnplaced
  | chFail
  | exerEnd
  | bridgeFail
  | restoreFail
  | scs
  | queueError
  | ringError
  | batchDiscarded
  | eventsDropped
  | authFail
  | replay
  | noTakeover
  | sswMismatch
  | peerHbLost
  | hbPath
  | sswChange
  | jnlState
  | jnlDegraded
  | jnlFrozen
  | jnlLost
  | copyState
  | diverged
  | ckptTooLarge
  | takeoverUnplaced
  | dpllMode
  | refDisagree
  | stepDropped
  | stepInService
  | softWatchdog
  | engHalt
  | selRefused
  | bankRefused
  | bankEcc
  | bankFailed
  | rowNotLent
  | columnLost
  | repairUnkept
  | laneFailed
  | stepUnvacated
  | perfOverflow
  | cipherFault
  | sealLost
  | blobLost
  | lpddrUncorr
  | watchdog
  | debugOpen
  | logCorrupt
  | sensInvalid
  | thermWarn
  | thermCrit
  | stepLate
  | inputOvercurrent
  | resumeHot
  deriving DecidableEq, Repr

/-- One event record (13_host.md Table 13.6). -/
structure EvRec where
  /-- 64 bits; 13 R339; -; TICK -/
  tick : Nat
  /-- name; 13 R339; -; the event, which gives SOURCE, CODE and SEVERITY -/
  ev : Ev
  /-- 1 bit; 13 R339; -; CLEAR -/
  clear : Bool
  /-- 32 bits; 13 R339; -; OBJECT -/
  obj : Nat
  /-- 96 bits; 13 R339; -; DATA -/
  data : Nat
  deriving DecidableEq, Repr

/-! ### Lanes (files 02 and 03) -/

/-- One slot as the device carries it: its 4-bit tag and 48 payload bytes, byte 0 most significant. -/
structure SlotWord where
  /-- 4 bits; 02 R42; -; V, C and P of the slot -/
  tag : BitVec 4
  /-- 384 bits; 02 R36; -; the 48 payload bytes, the first on the line in the top 8 bits -/
  payload : BitVec 384
  deriving DecidableEq, Repr

/-- One candidate of the row alignment table. -/
structure Cand where
  /-- Nat; 02 R56; -; stream byte at which the next header is expected -/
  pos : Nat
  /-- Nat (row number); 02 R56; -; row number expected there -/
  row : Nat
  /-- 0-2; 02 R56; -; confirmations, saturating at 2 -/
  count : Nat
  /-- 1 bit; 02 R56; -; this is the SYNC candidate -/
  sync : Bool
  /-- 0-3; 02 R56; -; run of bad headers of the SYNC candidate -/
  bad : Nat
  /-- 0-16; 02 R57; -; consecutive rows a background candidate has held count 2 -/
  mimic : Nat
  deriving DecidableEq, Repr

/-- The identity a row 0 carries (02_tray_format.md Table 2.6). -/
structure Identity where
  /-- 32 bits; 02 R48, R62; 0; DEVICE_ID of the last good row 0 (LANE[l].RX_IDENT) -/
  device : Word
  /-- 8 bits; 02 R48, R62; 0; PORT_NUM -/
  portNum : BitVec 8
  /-- 5 bits; 02 R48, R62; 0; LANE_IDX -/
  laneIdx : BitVec 5
  /-- 8 bits; 02 R48, R62; 0; ROLE -/
  role : BitVec 8
  /-- 4 bits; 02 R48, R62; 0; QL -/
  ql : BitVec 4
  /-- 8 bits; 02 R48; 0; PAGE_GEN -/
  gen : BitVec 8
  deriving DecidableEq, Repr

/-- The receiving framer of one lane. -/
structure Framer where
  /-- 0-4 entries; 02 R56; empty (HUNT); the candidate table -/
  cands : List Cand
  /-- 1 bit; 02 R58, R63; 0; tray lock held -/
  lock : Bool
  /-- 1 bit; 02 R59; 0; a background candidate took over and its next fitting header decides tray lock -/
  takeover : Bool
  /-- 32 bits or none; 02 R58; none; sequence of the last fitting row 0 of the SYNC candidate -/
  lastRow0 : Option Word
  /-- 32 bits; 02 R59, R62; 0; sequence of the current tray, RX_SEQ under tray lock -/
  seq : Word
  /-- 1 bit; 02 R59; 0; the current tray held a sequence error -/
  seqErr : Bool
  /-- 1 bit; 02 R59; 0; the previous tray held a sequence error -/
  seqErrPrev : Bool
  /-- 1 bit; 02 R40; 0; the current tray's flags have been taken -/
  flagsTaken : Bool
  /-- 4 bits; 02 R40, R63; 0; flags of the current tray (RX_FLAGS) -/
  flags : BitVec 4
  /-- 1 bit; 02 R40; 0; the current tray has been counted in FLAG_MISMATCH -/
  flagCounted : Bool
  /-- 4 bits; 02 R63; 0; ROW of the last good header of the SYNC candidate (LAST_ROW) -/
  lastRow : BitVec 4
  /-- 1 bit; 04 R96, 06 R158; 0; row 0 of the current tray was received in alignment with a fitting header -/
  row0Ok : Bool
  /-- 1 bit; 04 R103; 0; a good row 0 has been received -/
  identSeen : Bool
  /-- record; 02 R49; zeros; identity of the last good row 0 -/
  ident : Identity
  /-- 8 bits or none; 02 R45; none; exclusive OR over the previous row, when that row was received in alignment -/
  bip : Option (BitVec 8)
  /-- 8 bits or none; 02 R51; none; SR_SEQ of the last switching-request row received -/
  srSeq : Option (BitVec 8)
  /-- 8 bits; 02 R51; 0; rows missed, to be reported with the next message -/
  srMissed : BitVec 8
  /-- 1 bit; 02 R53; 0; a message-channel frame is in progress (else bytes are dropped up to the next flag) -/
  inFrame : Bool
  /-- 1 bit; 02 R52; 0; the last byte was the escape 0x7D -/
  esc : Bool
  /-- bytes; 02 R53; empty; the unstuffed bytes of the frame in progress -/
  buf : Bytes
  deriving DecidableEq, Repr

/-- The equaliser taps that are set, in 1/128 of the peak swing; c(0) is derived. -/
structure Taps where
  /-- signed 8 bits; 03 R76; 0; c(-4) -/
  m4 : Int
  /-- signed 8 bits; 03 R76; 0; c(-3) -/
  m3 : Int
  /-- signed 8 bits; 03 R76; 0 (DESIGN CHOICE 3: before the first training); c(-2) -/
  m2 : Int
  /-- signed 8 bits; 03 R76; 0; c(-1) -/
  m1 : Int
  /-- signed 8 bits; 03 R76; 0; c(+1) -/
  p1 : Int
  /-- signed 8 bits; 03 R76; 0; c(+2) -/
  p2 : Int
  deriving DecidableEq, Repr

/-- Link training of one lane. Times are absolute CCLK counts. -/
structure Training where
  /-- 2 bits; 03 R93; 0 (electrical idle); TX_STATE -/
  tx : BitVec 2
  /-- 3 bits; 03 R93; 0 (OFF); RX_STATE -/
  rx : BitVec 3
  /-- 1 bit; 03 R93; 0; SIGNAL -/
  signal : Bool
  /-- 1 bit; 03 R93; 0; CDR_LOCK as received; reads 0 while SIGNAL is 0 -/
  cdr : Bool
  /-- 1 bit; 03 R73, R93; 0; FRAME_LOCK -/
  frameLock : Bool
  /-- 0-2; 03 R73; 0; consecutive good training frames -/
  goodRun : Nat
  /-- 0-4; 03 R73; 0; consecutive failed training frames -/
  badRun : Nat
  /-- record; 03 R76; zeros; transmitter taps -/
  taps : Taps
  /-- 1 bit; 03 R78; 0; the receiver has finished adapting: RX_READY of the next frame sent -/
  ready : Bool
  /-- 1 bit; 03 R78, R93; 0; RX_READY received (PARTNER_READY) -/
  partner : Bool
  /-- 0-3; 03 R78; 0; consecutive good STATUS fields with RX_READY = 1 -/
  readyRun : Nat
  /-- 24 bits; 03 R73; 0; last good CONTROL field received, bytes 0-2 -/
  control : BitVec 24
  /-- 24 bits; 03 R73; 0; last good STATUS field received, bytes 0-2 -/
  status : BitVec 24
  /-- 1 bit; 03 R77; 0; a STATUS field has been received since training began -/
  heard : Bool
  /-- 4 bits; 03 R75, R77; 0; ACK_ID sent -/
  ackId : BitVec 4
  /-- 2 bits; 03 R75; 0; RESULT sent -/
  result : BitVec 2
  /-- 3 bits; 03 R75; 0b111; TAP_ECHO sent -/
  tapEcho : BitVec 3
  /-- 4 bits; 03 R74; 0; REQ_ID sent -/
  reqId : BitVec 4
  /-- 8 bits; 03 R74; hold; PRESET, TAP_SEL and TAP_REQ sent -/
  request : BitVec 8
  /-- 4 bits; 03 R75, R78; 0; FRAMES_LEFT of the next frame sent -/
  framesLeft : BitVec 4
  /-- 1 bit; 03 R78, R93; 0; PRECODE_TX -/
  precodeTx : Bool
  /-- 1 bit; 03 R93; 0; PRECODE_RX -/
  precodeRx : Bool
  /-- 1 bit; 03 R78, R93; 0; RX_READY of the last frame sent (LOCAL_READY) -/
  readySent : Bool
  /-- UI count or none; 03 R73; none; start of the last training frame received -/
  lastUi : Option Nat
  /-- levels; 03 R72, R78; empty; the last training frame sent, with the pattern that followed it -/
  sent : List (BitVec 2)
  deriving DecidableEq, Repr

/-- The timers and values in force of one lane's training. -/
structure LaneTimers where
  /-- 10 bits; 03 R92; LN_CFG reset 0x32; LN_CFG as taken at the start of training -/
  inForce : Word
  /-- CCLK or none; 03 R79; none; start of the frame-lock timer -/
  frameAt : Option Nat
  /-- CCLK or none; 03 R79; none; start of the training timer -/
  trainAt : Option Nat
  /-- CCLK or none; 03 R79; none; start of the request-response timer -/
  reqAt : Option Nat
  /-- CCLK or none; 03 R79; none; start of the codeword-lock timer after training -/
  cwAt : Option Nat
  /-- CCLK or none; 03 R85; none; start of the hunt after a loss of codeword lock -/
  huntAt : Option Nat
  /-- CCLK or none; 03 R79; none; start of the 1 ms of electrical idle -/
  idleAt : Option Nat
  /-- 1 bit; 03 R89; 0; a codeword error has been reported since entry to bypass -/
  bypassErr : Bool
  deriving DecidableEq, Repr

/-- One candidate codeword boundary. -/
structure CwCand where
  /-- UI count; 03 R83; -; boundary of its next codeword -/
  ui : Nat
  /-- 0-2; 03 R83; -; consecutive good codewords -/
  good : Nat
  /-- 10 bits; 03 R83; -; CW_INDEX of the last -/
  index : Nat
  deriving DecidableEq, Repr

/-- The codeword layer of one lane. -/
structure Codewords where
  /-- 0-8 entries; 03 R83; empty; candidates under test -/
  cands : List CwCand
  /-- 10 bits; 03 R84; 0; CW_INDEX predicted under lock -/
  index : Nat
  /-- 0-3; 03 R84; 0; consecutive bad codewords under lock -/
  bad : Nat
  /-- 5 bits; 03 R85, R93; 0; CW_LANE_IDX -/
  lane : BitVec 5
  /-- Nat or none; 03 R87; none; stream byte of data byte 0 of a codeword with CW_INDEX 0, the last one or the first to come -/
  cycleAt : Option Nat
  /-- Nat; 03 R82; 0; stream byte of the next codeword's data byte 0 -/
  pos : Nat
  /-- UI count; 03 R83; 0; boundary of the next codeword under lock -/
  ui : Nat
  /-- codeword time or none; 03 R83; none; codeword time at which the hunt tested its first eight positions -/
  huntFrom : Option Nat
  /-- 0-6,400 bytes; 03 R82; empty; the last tray bytes handed to the framer, up to stream byte pos -/
  rx : Bytes
  deriving DecidableEq, Repr

/-- The transmit side of one lane's framer. -/
structure LaneTx where
  /-- 8 bits; 02 R45; 0 (DESIGN CHOICE 3); exclusive OR over the last row sent, the next row's BIP8 -/
  bip : BitVec 8
  /-- 8 bits; 02 R50; 0 (DESIGN CHOICE 3); SR_SEQ of the last switching-request row sent -/
  srSeq : BitVec 8
  /-- bytes; 02 R52; empty; stuffed message-channel bytes waiting to be sent -/
  msg : Bytes
  /-- words; 08 R201; empty; switching-request messages laid out for the tray being sent -/
  calendar : List Word
  /-- bytes; 02 R37; empty; the last row handed to the transmit path -/
  row : Bytes
  /-- 4 bits; 02 R40, R55; 0; TEST, CUT_CAP, STANDBY and COLOUR of the tray being sent -/
  flags : BitVec 4
  /-- 2 bits; 03 R68; 0; level the precoder sent last -/
  level : BitVec 2
  /-- bytes; 03 R80, R86; empty; tray bytes that await the rest of their codeword -/
  tail : Bytes
  /-- levels; 03 R68, R80; empty; the codewords sent with the last row, as PAM4 levels -/
  line : List (BitVec 2)
  deriving DecidableEq, Repr

/-- What the port keeps of one lane (04_ports.md). -/
structure LaneBond where
  /-- 1 bit; 04 R96, R113; 0; the lane is in the bond -/
  bonded : Bool
  /-- 0-2; 04 R97; 0; consecutive trays that met every condition -/
  good : Nat
  /-- 32 bits and CCLK, or none; 04 R96; none; sequence and moment of the last row 0 written -/
  row0 : Option (Word × Nat)
  deriving DecidableEq, Repr

/-- What one tick brought on one lane (09_monitoring.md Table 9.2). -/
structure LaneTick where
  /-- Nat; 09 R223; 0; corrected symbols of the tick -/
  corr : Nat
  /-- Nat; 09 R223; 0; uncorrectable codewords of the tick -/
  uncorr : Nat
  /-- Nat; 09 R223; 0; bad headers and sequence errors of the tick -/
  hdr : Nat
  /-- Nat; 09 R223; 0; BIP-8 errors of the tick -/
  bip8 : Nat
  /-- Nat; 09 R223; 0; BIP-2 errored slots of the tick -/
  bip2 : Nat
  /-- 1 bit; 01 R26, 09 R220; 0; loss of alignment was declared in the tick -/
  loa : Bool
  /-- 1 bit; 01 R26, 03 R94; 0; loss of signal was declared in the tick -/
  los : Bool
  /-- 1 bit; 01 R26, 03 R94; 0; loss of the receive clock was declared in the tick -/
  lol : Bool
  /-- 1 bit; 01 R26, 03 R94; 0; loss of codeword lock was declared in the tick -/
  locw : Bool
  /-- 1 bit; 01 R26, 03 R94; 0; loss of frame lock was declared in the tick -/
  lof : Bool
  /-- 1 bit; 09 R221; 0; ENABLE was cleared in the tick -/
  off : Bool
  /-- 1 bit; 09 R221; 0; codeword lock was gained in the tick -/
  locked : Bool
  deriving DecidableEq, Repr

/-- One lane: 0-255 the global lanes, 256-259 the lanes of PX. -/
structure Lane where
  frm : Framer
  trn : Training
  tim : LaneTimers
  cw : Codewords
  out : LaneTx
  bond : LaneBond
  cnt : LaneTick
  deriving DecidableEq, Repr

def Identity.reset : Identity := ⟨0, 0, 0, 0, 0, 0⟩
def Framer.reset : Framer :=
  { cands := [], lock := false, takeover := false, lastRow0 := none, seq := 0, seqErr := false,
    seqErrPrev := false, flagsTaken := false, flags := 0, flagCounted := false, lastRow := 0,
    row0Ok := false, identSeen := false, ident := Identity.reset, bip := none, srSeq := none,
    srMissed := 0, inFrame := false, esc := false, buf := [] }
def Taps.reset : Taps := ⟨0, 0, 0, 0, 0, 0⟩
def Training.reset : Training :=
  { tx := 0, rx := 0, signal := false, cdr := false, frameLock := false, goodRun := 0, badRun := 0,
    taps := Taps.reset, ready := false, partner := false, readyRun := 0, control := 0, status := 0, heard := false,
    ackId := 0, result := 0, tapEcho := 7, reqId := 0, request := 0x1C, framesLeft := 0,
    precodeTx := false, precodeRx := false, readySent := false, lastUi := none, sent := [] }
def LaneTimers.reset : LaneTimers :=
  { inForce := 0x32, frameAt := none, trainAt := none, reqAt := none, cwAt := none, huntAt := none,
    idleAt := none, bypassErr := false }
def Codewords.reset : Codewords := ⟨[], 0, 0, 0, none, 0, 0, none, []⟩
def LaneTx.reset : LaneTx := ⟨0, 0, [], [], [], 0, 0, [], []⟩
def LaneBond.reset : LaneBond := ⟨false, 0, none⟩
def LaneTick.reset : LaneTick := ⟨0, 0, 0, 0, 0, false, false, false, false, false, false, false⟩
/-- A lane after POR_N: every field at its Reset column. -/
def Lane.reset : Lane :=
  ⟨Framer.reset, Training.reset, LaneTimers.reset, Codewords.reset, LaneTx.reset, LaneBond.reset,
   LaneTick.reset⟩

/-! ### Ports (file 04) -/

/-- A port's binding and tray phase. -/
structure Binding where
  /-- 1 bit; 04 R105, R113; 0; BOUND -/
  bound : Bool
  /-- 32 bits; 04 R105; 0; K -/
  k : Word
  /-- 2 bits; 04 R107, R113; 0b01 (STORE); MODE_ACTIVE -/
  mode : BitVec 2
  /-- 32 bits; 04 R111; TD_CFG reset; TD_CFG in force -/
  td : Word
  /-- 1 bit; 04 R111, R113; 0; MODE_PENDING -/
  modePending : Bool
  /-- 1 bit; 04 R109, R113; 0; EXIT_PENDING -/
  exitPending : Bool
  /-- signed 14 bits; 04 R106, R113; 0; A of the last tray -/
  arrival : Int
  /-- signed 14 bits, two; 04 R113; none; smallest and largest A since the last read of ARRIVAL_RANGE -/
  range : Option (Int × Int)
  /-- 0-4 entries; 04 R106, 05 R117; empty; sequence of the last trays and the CCLK moment at which the latest bonded lane wrote them -/
  arrivals : List (Word × Nat)
  /-- 10 bits; 04 R113; 0; largest skew of the last tray (SKEW) -/
  skew : Nat
  /-- 5 bits; 04 R113; 0; latest bonded lane (SKEW) -/
  late : Nat
  /-- tick and mode change, or none; 04 R108, R110; none; a slip scheduled: rebinding tick and delta K -/
  slip : Option (Nat × Int)
  /-- ticks; 04 R108; empty; conditioned ticks of a rebinding not yet over -/
  cond : List Nat
  /-- tick and K, or none; 04 R108; none; tick of the last rebinding, with K before it -/
  last : Option (Nat × Word)
  deriving DecidableEq, Repr

/-- A port's capability exchange. -/
structure Capability where
  /-- 1 bit; 04 R102, R115; 0; CAP_AGREED -/
  agreed : Bool
  /-- 1 bit; 04 R102; 0; agreement declared in this tick, to act at the next edge -/
  agreeNow : Bool
  /-- 4 bits; 04 R103, R115; 0; CAP_REASON -/
  reason : BitVec 4
  /-- CCLK or none; 04 R102; none; moment of the last acceptable frame -/
  goodAt : Option Nat
  /-- CCLK or none; 04 R104; none; moment of the last frame of any kind, or of entry to SERVICE or STANDBY -/
  heardAt : Option Nat
  /-- 1 bit; 04 R104, 09 R220; 0; 16 ms of silence has been reported (PCAP) -/
  silent : Bool
  /-- 1 bit; 09 R220; 0; no acceptable frame has come since 16 ms of silence -/
  mute : Bool
  /-- CCLK or none; 04 R104; none; start of the 10 ms count in CAPABILITY -/
  since : Option Nat
  /-- 1 bit; 04 R103; 1; the last frame judged was acceptable -/
  ok : Bool
  /-- bytes; 04 R102; empty; payload of the last frame sent -/
  sent : Bytes
  /-- tick; 04 R102; 0; tick in which it was sent -/
  sentAt : Nat
  /-- 32 bits; 04 R113; 0; FAR_CAP -/
  farCap : Word
  /-- 32 bits; 04 R113; 0; FAR_ID -/
  farId : Word
  /-- 1 bit; 04 R104; 0; an acceptable frame has been received -/
  farSeen : Bool
  /-- 16 bits; 04 R104; 0; PORT_NUM and REASON of the last acceptable frame -/
  farRest : BitVec 16
  /-- tick or none; 04 R102; none; tick of the last acceptable frame with SEEN = 1 -/
  seenAt : Option Nat
  deriving DecidableEq, Repr

/-- What one tick brought on one port (09_monitoring.md Table 9.2). -/
structure PortTick where
  /-- Nat; 09 R223; 0; repeat slips of the tick -/
  late : Nat
  /-- Nat; 09 R223; 0; drop slips of the tick -/
  early : Nat
  /-- Nat; 09 R223; 0; CUT exits of the tick -/
  exit : Nat
  /-- Nat; 09 R223; 0; lanes that left the bond in the tick -/
  drop : Nat
  /-- Nat; 09 R223; 0; conditioned ticks of a rebinding -/
  cond : Nat
  /-- 1 bit; 09 R221; 0; CFG.ENABLE was cleared in the tick -/
  off : Bool
  deriving DecidableEq, Repr

/-- One port: 0-7 are P0-P7, 8 is PX. -/
structure Port where
  /-- 3 bits; 04 R99, R115; 0 (DOWN); STATE -/
  st : BitVec 3
  /-- 1-32; 04 R114; 32 (PX 4); LANES in force, taken when the port leaves DOWN -/
  lanes : Nat
  /-- 1-32; 04 R114; 1; MIN_LANES in force -/
  minLanes : Nat
  /-- 1 bit; 04 R101, R115; 0; FAR_STANDBY -/
  farStandby : Bool
  /-- lanes with sequence and CCLK; 04 R96; empty; the group of row 0 writes in progress, or judged last -/
  group : List (Nat × Word × Nat)
  /-- 1 bit; 04 R96; 1; that group has been judged -/
  judged : Bool
  bind : Binding
  cap : Capability
  cnt : PortTick
  deriving DecidableEq, Repr

def Binding.reset : Binding :=
  { bound := false, k := 0, mode := 1, td := 0x01000181, modePending := false,
    exitPending := false, arrival := 0, range := none, arrivals := [], skew := 0, late := 0,
    slip := none, cond := [], last := none }
def Capability.reset : Capability :=
  { agreed := false, agreeNow := false, reason := 0, goodAt := none, heardAt := none,
    silent := false, mute := false, since := none, ok := true, sent := [], sentAt := 0, farCap := 0, farId := 0,
    farSeen := false, farRest := 0, seenAt := none }
def PortTick.reset : PortTick := ⟨0, 0, 0, 0, 0, false⟩
/-- A port after POR_N. -/
def Port.reset : Port := ⟨0, 32, 1, false, [], true, Binding.reset, Capability.reset, PortTick.reset⟩

/-! ### Core and pages (files 05 and 06) -/

/-- One row of an ingress buffer page. -/
structure RowBuf where
  /-- 32 bits; 02 R41, 01 R24; -; sequence of the tray -/
  seq : Word
  /-- 64 words; 01 R24; -; the slots of the row, in order -/
  slots : List SlotWord
  deriving DecidableEq, Repr

/-- One copy of the three connection memories, each sparse over the index lane * 2048 + step or
slot; an entry not listed is zero. -/
structure PageSet where
  /-- 256 x 2048 x 12 bits; 05 R120; 0; ingress entries -/
  ing : List (Nat × BitVec 12)
  /-- 256 x 2048 x 10 bits; 05 R121; 0; space entries -/
  spc : List (Nat × BitVec 10)
  /-- 256 x 1024 x 42 bits; 05 R122; 0; egress entries -/
  egr : List (Nat × BitVec 42)
  deriving DecidableEq, Repr

def PageSet.empty : PageSet := ⟨[], [], []⟩

/-- The switching core. -/
structure Core where
  /-- 1 bit; 05 R142; 0; RUNNING -/
  running : Bool
  /-- 2048 bits; 05 R130, R141; 0; retired steps, ascending -/
  retired : List Nat
  /-- steps; 05 R130; empty; those of them retired by the last swap, which are not retired for earlier data ticks -/
  retiredLast : List Nat
  /-- 256 x 4 pages x rows; 01 R24; nothing received; ingress buffers, key (lane * 4 + page) * 16 + row -/
  ingress : List (Nat × RowBuf)
  /-- 256 x 2 x 2048 words; 05 R125; nothing written; egress step pages, key (lane * 2 + page) * 2048 + step -/
  steps : List (Nat × SlotWord)
  /-- 8192 bits; 05 R126; 0; selector bits latched for the present data tick -/
  latched : List (Nat × Bool)
  /-- 8192 bits; 05 R126; 0; selector bits latched for the data tick before -/
  latchedPrev : List (Nat × Bool)
  /-- steps; 05 R130; empty; steps waiting to be retired at the next swap to a page that names them nowhere -/
  retiring : List Nat
  /-- slots; 11 R297; empty; input slots flagged unreliable, as global slot identifiers -/
  unreliable : List Nat
  /-- slots, sequences and ticks; 09 R223, R231; empty; slots of trays for which the device has put in conditioned fill, with the tick of the read, for two ticks -/
  filled : List (Nat × Word × Nat)
  deriving DecidableEq, Repr

/-- The states of the standby page (06_pages.md Table 6.2), in code order. -/
inductive Standby where
  | clean | building | built | armed | committed | resync | loading | saving | borrowed
  deriving DecidableEq, Repr

/-- The work a page set is made for (06_pages.md R153, Table 6.9; 07 R191). -/
inductive PageWork where
  /-- a batch or a build for a save of queue q: requested tick, follow port and generation, stage -/
  | batch (q : Nat) (atTick : Nat) (follow : Option (Nat × BitVec 8)) (stage : Bool)
  /-- a full repack on demand by queue q -/
  | repack (q : Nat)
  /-- a scenario load by the host: queue, slot, requested tick, stage -/
  | hostLoad (q n atTick : Nat) (stage : Bool)
  /-- a scenario load by a group engine: group, slot -/
  | groupLoad (g n : Nat)
  /-- a bridge change of a 1:N head: group, signal -/
  | groupBridge (g sig : Nat)
  /-- a rebinding of the ports named, with no other change -/
  | rebind (ports : List Nat)
  /-- a step vacated for the memory test -/
  | vacate (k : Nat)
  /-- the first page set after start-up or takeover -/
  | first
  /-- a save of the standby page by queue q into slot n: AUTO, from BUILT, name -/
  | save (q n : Nat) (auto fromBuilt : Bool) (name : Bytes)
  deriving DecidableEq, Repr

/-- The record of a page set that is ARMED or COMMITTED (06_pages.md Table 6.9). -/
structure Armed where
  /-- work; 06 R168; none; what armed it -/
  work : PageWork
  /-- 64 bits or none; 06 R150; none; swap tick X; none for a follow page not yet decided -/
  swap : Option Nat
  /-- CCLK; 06 R150, R158; -; moment of arming -/
  armedAt : Nat
  /-- legs; 07 R179; 0; legs that fell back in this build -/
  fallback : Nat
  /-- ports; 06 R153; empty; rebindings this page set carries -/
  carries : List Nat
  /-- queue or none; 06 R150, 13 R347; none; queue whose command completes at the swap -/
  waiter : Option Nat
  deriving DecidableEq, Repr

/-- One leg of a string (07_strings_abacus.md Table 7.2) with its placement. -/
structure Leg where
  /-- 0-15; 07 R171; -; leg number -/
  idx : Nat
  /-- P0-P7; 07 R171; -; OUT_PORT -/
  outPort : Nat
  /-- 1 bit; 07 R171; -; OUT_CHOICE = DEVICE -/
  device : Bool
  /-- SIZE x 18 bits; 07 R171; -; OUT_SLOTS, empty until chosen -/
  outs : List Nat
  /-- 32 bits; 07 R171; -; LANE_MASK -/
  mask : Word
  /-- 2 bits; 07 R171; -; LATENCY: 0 UNCONSTRAINED, 1 MIN_STRICT, 2 MIN_OR_FALLBACK -/
  latency : Nat
  /-- 1 bit; 07 R171; -; CONDITIONED -/
  cond : Bool
  /-- none or 0-8191; 07 R171; -; GROUP -/
  group : Option Nat
  /-- 1 bit; 07 R179; -; placed with the lags of UNCONSTRAINED -/
  loose : Bool
  /-- 1 bit; 05 R118, 07 R173; -; ILAG of every connection of the leg -/
  ilag : Bool
  /-- 1 bit; 05 R118, 07 R173; -; LAG of every connection of the leg -/
  lag : Bool
  /-- SIZE x 12 bits; 07 R171, R180, R181; -; the step of each string slot; 2048 while it is not placed, 2049 while it is left out -/
  steps : List Nat
  deriving DecidableEq, Repr

/-- One string (07_strings_abacus.md Table 7.1). -/
structure Str where
  /-- 2 bits; 07 R171; 0 (FREE); STATE: 0 FREE, 1 DEFINED, 2 CONNECTED -/
  st : Nat
  /-- P0-P7; 07 R171; 0; IN_PORT -/
  inPort : Nat
  /-- SIZE x 18 bits; 07 R171; empty; IN_SLOTS -/
  ins : List Nat
  /-- 0-16 legs; 07 R171; empty; LEGS, by ascending number -/
  legs : List Leg
  deriving DecidableEq, Repr

def Str.free : Str := ⟨0, 0, [], []⟩

/-- A connection map as the abacus models it: strings with their placement, the idle feeds
(08_protection.md R196) and the signal each 1:N head bridges by its page (R197). -/
structure CMap where
  /-- 65536 strings; 07 R171; all FREE; strings not FREE, by number -/
  strs : List (Nat × Str)
  /-- 256 x (none or step); 08 R196; none; idle feed of each egress lane, as step + 1 -/
  idle : List (Nat × Nat)
  /-- 8192 x signal; 08 R197; 0; signal bridged by the page of each 1:N head -/
  bridged : List (Nat × Nat)
  deriving DecidableEq, Repr

def CMap.empty : CMap := ⟨[], [], []⟩

/-- One scenario slot (06_pages.md R160, R170). -/
structure Scenario where
  /-- 3 bits; 06 R170; 0 (EMPTY); STATE -/
  st : BitVec 3
  /-- 1 bit; 06 R160, R170; 0; AUTO -/
  auto : Bool
  /-- 4 bits; 06 R170; 0; STALE_REASON -/
  reason : BitVec 4
  /-- 16 bits; 06 R170; 0; LOADS -/
  loads : BitVec 16
  /-- 16 bytes; 06 R160; empty; name -/
  name : Bytes
  /-- 64 bits; 06 R160; 0; GLB.TICK of the save -/
  tick : Nat
  /-- ports and modes; 06 R160; empty; ports bound at the save with their tray delay mode -/
  modes : List (Nat × BitVec 2)
  /-- one page set; 06 R160; empty; the page set stored -/
  pages : PageSet
  /-- one map; 06 R161; empty; the definition the journal records -/
  map : CMap
  /-- 32 bits; 06 R160; 0; CRC-32 over the page set -/
  crc : Word
  /-- 1 bit; 06 R161; 0; the slot holds only the journal's definition, and is to be rebuilt -/
  fromJnl : Bool
  deriving DecidableEq, Repr

def Scenario.empty : Scenario :=
  { st := 0, auto := false, reason := 0, loads := 0, name := [], tick := 0, modes := [], pages := PageSet.empty,
    map := CMap.empty, crc := 0, fromJnl := false }

/-- The follow record of one port (06_pages.md R157, R169). -/
structure Follow where
  /-- 1 bit; 06 R169; 0; VALID -/
  valid : Bool
  /-- 1 bit; 06 R169; 0; COLOUR -/
  colour : Bool
  /-- 8 bits; 06 R169; 0; GEN -/
  gen : BitVec 8
  /-- 4 bits; 06 R169; 0; LAST_MISS -/
  miss : BitVec 4
  deriving DecidableEq, Repr

def Follow.reset : Follow := ⟨false, false, 0, 0⟩

/-- The page controller. -/
structure Page where
  /-- 1 bit; 06 R145, R166; 0; ACTIVE -/
  active : Bool
  /-- one page set; 06 R145; zeros; page 0 -/
  page0 : PageSet
  /-- one page set; 06 R145; zeros; page 1 -/
  page1 : PageSet
  /-- 8 bits; 06 R147; 0; generation of the active page set -/
  gen : BitVec 8
  /-- 1 bit; 06 R147; 0; colour of the active page set -/
  colour : Bool
  /-- 4 bits; 06 R149; CLEAN; STANDBY_STATE -/
  standby : Standby
  /-- work or none; 06 R153; none; the request that holds the standby page -/
  holder : Option PageWork
  /-- record or none; 06 R151, R168; none; the ARMED or COMMITTED page set -/
  armed : Option Armed
  /-- one map or none; 07 R177; none; the map of the page set built or loaded, in force from its swap -/
  next : Option CMap
  /-- moments and requests; 06 R153; empty; waiting requests with the CCLK of their arrival, next first -/
  waiting : List (Nat × PageWork)
  /-- ports; 06 R153; empty; ports whose rebinding awaits a page set -/
  rebinds : List Nat
  /-- 64 bits; 06 R165; 0; LAST_SWAP_TICK -/
  lastSwap : Nat
  /-- CCLK; 07 R190, 06 R162; 0; moment the present build, load or save began -/
  since : Nat
  /-- 3 bits; 06 R153; 0; state of the scenario slot before the save in progress -/
  saveWas : BitVec 3
  /-- 64 slots; 06 R160; EMPTY; scenario slots -/
  scens : List (Nat × Scenario)
  /-- 8 records; 06 R169; zeros; FOLLOW_SEEN -/
  follow : List (Nat × Follow)
  deriving DecidableEq, Repr

def Page.reset : Page :=
  { active := false, page0 := PageSet.empty, page1 := PageSet.empty, gen := 0, colour := false,
    standby := .clean, holder := none, armed := none, next := none, waiting := [], rebinds := [],
    lastSwap := 0, since := 0, saveWas := 0, scens := [], follow := [] }

def Core.reset : Core := ⟨false, [], [], [], [], [], [], [], [], []⟩

/-! ### Strings and the abacus (file 07) -/

/-- One string command in a batch (07_strings_abacus.md Table 7.3). -/
inductive StrCmd where
  | create (n inPort : Nat) (ins : List Nat)
  | connect (n : Nat) (leg : Leg)
  | disconnect (n leg : Nat)
  | resize (n : Nat) (ins : List Nat) (outs : List (List Nat))
  | condition (n : Nat) (mask value : BitVec 16)
  | delete (n : Nat)
  deriving DecidableEq, Repr

/-- A queue's batch. -/
structure Batch where
  /-- queue 0-255; 07 R175; -; the queue whose batch it is -/
  q : Nat
  /-- 1 bit; 07 R175; -; committed and waiting for its swap -/
  committed : Bool
  /-- 1-1024 commands; 07 R175; -; the commands, in order of acceptance -/
  cmds : List StrCmd
  deriving DecidableEq, Repr

/-- The abacus engines. -/
structure Abacus where
  /-- one map; 07 R171, R181; empty; the map in force -/
  map : CMap
  /-- batches; 07 R175, R176; none; open and committed batches -/
  batches : List Batch
  /-- 3 bits; 07 R191; 0 (idle); STATUS.JOB -/
  job : BitVec 3
  /-- 1 bit; 07 R191; 0; STATUS.FIRST -/
  first : Bool
  /-- 2048 bits; 07 R190; 0; lent steps, ascending (STEP_LENT) -/
  lent : List Nat
  /-- steps and tick; 07 R187; empty; vacated steps with the tick from whose edge they are lent -/
  lending : List (Nat × Nat)
  /-- 32 bits; 07 R190; 0; LAST_BUILD in ECLK -/
  lastBuild : Word
  /-- scenario or none; 06 R164; none; scenario being rebuilt -/
  rebuilding : Option Nat
  /-- 0-63; 06 R164; 0; the slot that a rebuild looks at first -/
  rebuildNext : Nat
  /-- 32 bits; 07 R192; 0x15; CFG as it stood when the present placement started -/
  buildCfg : Word
  /-- 32 bits; 07 R192; 0x15; CFG as it stood when the present scenario rebuild started -/
  rebuildCfg : Word
  deriving DecidableEq, Repr

def Abacus.reset : Abacus :=
  { map := CMap.empty, batches := [], job := 0, first := false, lent := [], lending := [], lastBuild := 0,
    rebuilding := none, rebuildNext := 0, buildCfg := 0x15, rebuildCfg := 0x15 }

/-! ### Protection groups (file 08) -/

/-- The definition of a protection group (08_protection.md Table 8.2, 13_host.md Table 13.12). -/
structure GroupDef where
  /-- 2 bits; 08 R193; -; TYPE: 0 1+1 uni, 1 1+1 bi, 2 1:1, 3 1:N -/
  type : Nat
  /-- 1-14; 08 R195; -; N -/
  n : Nat
  /-- 1 bit; 08 R195; -; DIR = BI -/
  bi : Bool
  /-- 1 bit; 08 R195; -; UNI_END = TAIL -/
  tail : Bool
  /-- 1 bit; 08 R195; -; ET -/
  et : Bool
  /-- 1 bit; 08 R195; -; REVERTIVE -/
  revert : Bool
  /-- 1 bit; 08 R195, R213; -; FALLBACK_UNI -/
  fallback : Bool
  /-- 1 bit; 08 R195; -; FAST -/
  fast : Bool
  /-- 1-16; 08 R195; -; CS_TICKS -/
  csTicks : Nat
  /-- 0-1048576 ticks; 08 R195; -; HOLD_OFF -/
  holdOff : Nat
  /-- 1-720 s; 08 R195; -; WTR -/
  wtr : Nat
  /-- port and lane, or none; 08 R195; -; SR_PORT and SR_LANE -/
  sr : Option (Nat × Nat)
  /-- 1-65535 ticks; 08 R195; -; SD_WINDOW -/
  sdWindow : Nat
  /-- 1 to 2^24; 08 R195; -; SD_THRESH -/
  sdThresh : Nat
  /-- 1 to 2^24; 08 R195; -; SF_THRESH -/
  sfThresh : Nat
  /-- scenario or none; 08 R195; -; RESTORE -/
  restore : Option Nat
  /-- 0-65535 ticks; 08 R195; -; RESTORE_HOLD -/
  restoreHold : Nat
  /-- string or none; 08 R195; -; PROT_IN -/
  protIn : Option Nat
  /-- string or none; 08 R195; -; ET_IN -/
  etIn : Option Nat
  /-- 14 entries; 08 R195; -; WORK_IN[1..14] -/
  workIn : List (Option Nat)
  /-- 14 entries; 08 R195; -; NORM_IN[1..14] -/
  normIn : List (Option Nat)
  deriving DecidableEq, Repr

/-- The signal conditions of one path of a group (08_protection.md R204). -/
structure PathCond where
  /-- 1 bit; 08 R204; 0; SF holds -/
  sf : Bool
  /-- 1 bit; 08 R204; 0; SD holds -/
  sd : Bool
  /-- 0-16; 08 R204; 0; consecutive ticks with a C = 1 slot -/
  csRun : Nat
  /-- ticks; 08 R204; 0; consecutive ticks with every SF cause absent -/
  sfClear : Nat
  /-- ticks; 08 R204; 0; consecutive ticks with every SD cause absent -/
  sdClear : Nat
  /-- counts; 08 R204; empty; BIP-2 errored slots of the last SD_WINDOW ticks, newest first -/
  window : List Nat
  /-- 16 bits, saturating; 08 R204; 65535 (no cause has stood); consecutive ticks with the windowed count below SF_THRESH -/
  belowSf : Nat
  /-- 16 bits, saturating; 08 R204; 65535 (no cause has stood); consecutive ticks with the windowed count below SD_THRESH -/
  belowSd : Nat
  /-- tick or none; 08 R205; none; tick in which SF was raised, for the hold-off -/
  sfAt : Option Nat
  /-- tick or none; 08 R205; none; tick in which SD was raised, for the hold-off -/
  sdAt : Option Nat
  /-- 1 bit; 08 R205; 0; SF has become a local request -/
  sfReq : Bool
  /-- 1 bit; 08 R205; 0; SD has become a local request -/
  sdReq : Bool
  deriving DecidableEq, Repr

def PathCond.reset : PathCond :=
  { sf := false, sd := false, csRun := 0, sfClear := 0, sdClear := 0, window := [], belowSf := 65535,
    belowSd := 65535, sfAt := none, sdAt := none, sfReq := false, sdReq := false }

/-- The state of a protection group. -/
structure Group where
  /-- record; 08 R195; -; the attributes -/
  dfn : GroupDef
  /-- 15 records; 08 R204; clear; conditions of the paths, 0 the protect path, s working path s -/
  paths : List (Nat × PathCond)
  /-- paths and records; 01 R29, R30; empty; conditions that an overrunning port engine has posted late, for the next decide phase -/
  latePaths : List (Nat × PathCond)
  /-- 1 bit; 08 R207; 0; LO stands -/
  lo : Bool
  /-- 0-14; 08 R207; 0; signal of the standing FS, 0 for none -/
  fs : Nat
  /-- 0-14; 08 R207; 0; signal of the standing MS, 0 for none -/
  ms : Nat
  /-- signals and ticks; 08 R207; empty; the standing EXERs, each with the tick in which it was accepted, the last accepted first -/
  exer : List (Nat × Nat)
  /-- signal and tick, or none; 08 R206; none; WTR(s) and the tick at which it expires -/
  wtr : Option (Nat × Nat)
  /-- 0-14; 08 R206; 0; signal of DNR, 0 for none -/
  dnr : Nat
  /-- 4 bits; 08 R208; 0 (NR); REQ of the top request -/
  topReq : Nat
  /-- 4 bits; 08 R208; 0; REQ_SIG of the top request -/
  topSig : Nat
  /-- 1 bit; 08 R208; 0; the top request is the far one -/
  topFar : Bool
  /-- 0-14; 08 R209; 0; bridged signal -/
  bridged : Nat
  /-- 0-14; 08 R209; 0; signal the protect path carries at this tail -/
  carries : Nat
  /-- 32 bits or none; 08 R202; none; last far message received -/
  lastRx : Option Word
  /-- 0-7; 08 R202; 0; its persistence count -/
  rxCount : Nat
  /-- 32 bits or none; 08 R202; none; accepted far message -/
  accepted : Option Word
  /-- tick; 08 R212; -; tick of GROUP_CREATE or of the last message that passed the checks -/
  heardAt : Nat
  /-- 4 bits; 08 R212, 13 R349; 0; cause of a failed request channel -/
  chCause : Nat
  /-- tick or none; 08 R212; none; tick since which a local top request awaits BR_SIG -/
  waitBr : Option Nat
  /-- 32 bits; 08 R199, R208; -; outgoing message as its engine last wrote it -/
  sent : Word
  /-- 32 bits; 08 R201, 01 R28; -; outgoing message as the calendar carries it -/
  posted : Word
  /-- 1 bit; 08 R214; 0; RESTORED -/
  restored : Bool
  /-- tick or none; 08 R214; none; tick since which SF and SF_P both hold -/
  bothAt : Option Nat
  /-- ticks; 08 R194; 0; ticks by which the waiting evaluation has been deferred -/
  deferred : Nat
  /-- 1 bit; 08 R194; 1; an input changed since the last evaluation -/
  changed : Bool
  /-- requests; 08 R195, R207; empty; GROUP_REQUESTs and GROUP_DELETEs waiting for the decide phase, in the order they reach the engine: CCLK of arrival, queue, REQ (0x10 for a delete), SIG -/
  asks : List (Nat × Nat × Nat × Nat)
  deriving DecidableEq, Repr

/-- The transmit calendar of one lane (08_protection.md R201). -/
structure Calendar where
  /-- head number; 08 R201; 0; head number after which the round robin continues -/
  next : Nat
  /-- entries; 08 R201; empty; urgent queue: head number and copies left -/
  urgent : List (Nat × Nat)
  deriving DecidableEq, Repr

/-- A switching-request message as the framer delivers it (02_tray_format.md R51). -/
structure SrMsg where
  /-- lane; 02 R51; -; receiving lane -/
  lane : Nat
  /-- 32 bits; 02 R51; -; the message -/
  msg : Word
  /-- 8 bits; 02 R51; -; SR_SEQ of its row -/
  srSeq : BitVec 8
  /-- 32 bits; 02 R51; -; tray sequence -/
  seq : Word
  /-- 8 bits; 02 R51; -; rows missed before it -/
  missed : BitVec 8
  deriving DecidableEq, Repr

/-- The PROT block. -/
structure Prot where
  /-- 8192 groups; 08 R193; none; groups by head number -/
  groups : List (Nat × Group)
  /-- 8192 bits; 08 R193, R218; 0; SEL as written -/
  sel : List (Nat × Bool)
  /-- calendars by lane; 08 R201; empty; transmit calendars -/
  cals : List (Nat × Calendar)
  /-- messages; 02 R51; empty; switching-request messages delivered by the framers -/
  inbox : List SrMsg
  /-- 8192 bits; 01 R28; 0; SEL as it stood at the last tick edge -/
  edgeSel : List (Nat × Bool)
  /-- group numbers and bits; 01 R28, R30; empty; bits written too late for the next tick, with the value that tick takes -/
  late : List (Nat × Bool)
  /-- head numbers and messages; 01 R28; empty; messages written in time for the next tick's calendars -/
  posts : List (Nat × Word)
  /-- ticks, head numbers and messages; 01 R28, R30; empty; messages written too late, with the tick whose calendars take them -/
  latePosts : List (Nat × Nat × Word)
  /-- 8 x 32 bits; 08 R219; 0x00140331; PORT_CFG as in force in this tick -/
  portCfg : List (Nat × Nat)
  deriving DecidableEq, Repr

def Prot.reset : Prot :=
  { groups := [], sel := [], cals := [], inbox := [], edgeSel := [], late := [], posts := [], latePosts := [],
    portCfg := [] }

/-! ### Monitoring (file 09) -/

/-- One bin of one object (09_monitoring.md R232, Table 9.7). -/
structure Bin where
  /-- 8 bits; 09 R235; 0; FLAGS without PENDING -/
  flags : BitVec 8
  /-- Nat, saturating; 09 R225; 0; ES -/
  es : Nat
  /-- Nat, saturating; 09 R225; 0; SES -/
  ses : Nat
  /-- Nat, saturating; 09 R226; 0; UAS -/
  uas : Nat
  /-- Nat, saturating; 09 R225; 0; BBE -/
  bbe : Nat
  /-- counts, saturating; 09 R223, R238; 0; the raw counts in the order of Table 9.7 -/
  raw : List Nat
  deriving DecidableEq, Repr

def Bin.empty : Bin := ⟨0, 0, 0, 0, 0, []⟩

/-- The bin of an object that has not been monitored: PARTIAL and NO_OBJECT (09_monitoring.md R235). -/
def Bin.absent : Bin := { Bin.empty with flags := 0x41 }

/-- What every object's bin of one interval shares (09_monitoring.md R232, Table 9.6). -/
structure BinInfo where
  /-- 48 bits; 09 R232, R238; -; time of day of the first second -/
  tod : Nat
  /-- 32 bits; 09 R232; -; sequence number -/
  seq : Nat
  /-- 17 bits; 09 R232; -; seconds counted -/
  secs : Nat
  deriving DecidableEq, Repr

/-- A second not yet decided (09_monitoring.md R227): the sequence numbers of its bins and its class. -/
structure Pending where
  /-- Nat; 09 R227, R228; -; second number -/
  sec : Nat
  /-- Nat or none; 09 R227, R236; -; sequence of its 15-minute bin, none when that bin has been emptied -/
  seq15 : Option Nat
  /-- Nat or none; 09 R227, R236; -; sequence of its 24-hour bin, none when that bin has been emptied -/
  seq24 : Option Nat
  /-- 1 bit; 09 R225; -; errored -/
  es : Bool
  /-- 1 bit; 09 R225; -; severely errored -/
  ses : Bool
  /-- Nat; 09 R225; -; errored ticks of a second that is not SES -/
  bbe : Nat
  deriving DecidableEq, Repr

/-- The tally of one object for the second in progress (09_monitoring.md R225, R228). -/
structure Tally where
  /-- Nat; 09 R225; 0; monitored ticks of the second -/
  ticks : Nat
  /-- Nat; 09 R225; 0; errored ticks -/
  err : Nat
  /-- 1 bit; 09 R225; 0; a defect that causes SES was present -/
  ses : Bool
  /-- counts; 09 R223; 0; raw counts -/
  raw : List Nat
  /-- 1 bit; 09 R230, R231, 11 R276; 0; counts of the second were dropped -/
  lost : Bool
  /-- 1 bit; 09 R221, R227; 0; monitoring started in the second -/
  start : Bool
  deriving DecidableEq, Repr

def Tally.empty : Tally := ⟨0, 0, false, [], false, false⟩

/-- The tally of a second that has ended and is not yet folded (09_monitoring.md R225, R229). -/
structure PastSec where
  /-- 1 bit; 09 R225; -; counted -/
  counted : Bool
  /-- 1 bit; 09 R230, R231; -; tallies were lost -/
  lost : Bool
  /-- 1 bit; 09 R227; -; monitoring started in it -/
  start : Bool
  /-- record; 09 R225, R227; -; bins and class of the second -/
  cls : Pending
  /-- counts; 09 R223; -; raw counts -/
  raw : List Nat
  deriving DecidableEq, Repr

/-- History and defects of one monitored object: lanes 0-259, ports 300-308, strings 1000+s. -/
structure Hist where
  /-- 1 bit; 09 R221, R242; 0; MONITORED -/
  mon : Bool
  /-- 7 bits; 09 R220, R242; 0; declared defects -/
  defects : BitVec 8
  /-- 7 bits; 09 R222; 0; defects held before the present tick's update -/
  before : BitVec 8
  /-- 7 bits; 09 R222; 0; declared defects whose declaration was reported -/
  reported : BitVec 8
  /-- ticks by defect; 09 R220; 0; consecutive ticks a declared defect's condition has been absent -/
  absent : List (Nat × Nat)
  /-- 0-15; 09 R220; 0; consecutive ticks with (or, while SCS is declared, without) an upstream C = 1 slot -/
  csRun : Nat
  /-- counts; 09 R220; empty; BIP-8 errors of the last WINDOW ticks, newest first -/
  window : List Nat
  /-- ticks; 09 R220; 0; consecutive ticks with the windowed count below SF_THRESH -/
  belowSf : Nat
  /-- ticks; 09 R220; 0; consecutive ticks with the windowed count below SD_THRESH -/
  belowSd : Nat
  /-- Nat; 09 R235, R236; 0; SIZE of the string, rate of the lane or LANES of the port in the last tick -/
  shape : Nat
  /-- 0-8; 09 R228; 0; for a string, the port whose engines tallied it last -/
  port : Nat
  /-- record; 09 R228; zero; tally of the second in progress -/
  now : Tally
  /-- records; 09 R229; none; tallies of seconds not yet folded, oldest first -/
  past : List PastSec
  /-- record; 09 R232, R235; PARTIAL and NO_OBJECT; current 15-minute bin -/
  cur15 : Bin
  /-- 96 records; 09 R232; empty; previous 15-minute bins, newest first -/
  prev15 : List Bin
  /-- record; 09 R232, R235; PARTIAL and NO_OBJECT; current 24-hour bin -/
  cur24 : Bin
  /-- 7 records; 09 R232; empty; previous 24-hour bins, newest first -/
  prev24 : List Bin
  /-- 1 bit; 09 R227; 1; available -/
  avail : Bool
  /-- 0-9 seconds; 09 R227; empty; pending seconds, oldest first -/
  pending : List Pending
  /-- 0-9; 09 R227; 0; length of the unfinished run -/
  run : Nat
  deriving DecidableEq, Repr

def Hist.reset : Hist :=
  { mon := false, defects := 0, before := 0, reported := 0, absent := [], csRun := 0, window := [],
    belowSf := 0, belowSd := 0, shape := 0, port := 0, now := Tally.empty, past := [], cur15 := Bin.absent, prev15 := [],
    cur24 := Bin.absent, prev24 := [], avail := true, pending := [], run := 0 }

/-- What one tick brought on one string (09_monitoring.md R223, R231). -/
structure StrTick where
  /-- Nat; 09 R223; 0; input slots with a BIP-2 mismatch -/
  bip2 : Nat
  /-- Nat; 09 R223; 0; input slots received with C = 1 from upstream -/
  cUp : Nat
  /-- Nat; 09 R231; 0; slots for which the device substituted conditioned fill -/
  cSub : Nat
  deriving DecidableEq, Repr

def StrTick.reset : StrTick := ⟨0, 0, 0⟩

/-- The halves of the tally banks of one port (09_monitoring.md R229, R230). -/
structure Halves where
  /-- second numbers; 09 R229; none; seconds whose half is with MGMT, oldest first -/
  out : List Nat
  /-- Nat; 09 R229; 0; seconds handed over so far: the next one to hand over -/
  given : Nat
  /-- 1 bit; 09 R230; 0; the second in progress is lost for the port -/
  lost : Bool
  deriving DecidableEq, Repr

/-- The PM block. -/
structure Pm where
  /-- 1 bit; 09 R240; 0; RUNNING -/
  running : Bool
  /-- 32 bits; 09 R239; 0; SECOND -/
  second : Nat
  /-- ticks; 09 R225; 0; ticks begun in the second in progress -/
  ticks : Nat
  /-- 48 bits; 09 R224; 0; seconds value of the second in progress -/
  lastSec : Nat
  /-- 32 bits; 09 R239; 0x00640002; PM.CFG in force -/
  cfg : Word
  /-- 32 bits; 09 R239; 0x3E8; DEG_CFG in force -/
  degCfg : Word
  /-- 32 bits; 09 R239; 0x9C400190; DEG_THRESH in force -/
  degThresh : Word
  /-- 32 bits; 09 R239; 0; DAY_OFFSET in force -/
  dayOffset : Word
  /-- records; 09 R232; empty; the 15-minute bins, current first -/
  info15 : List BinInfo
  /-- records; 09 R232; empty; the 24-hour bins, current first -/
  info24 : List BinInfo
  /-- 1 bit; 09 R234; 0; a time-of-day change ended the present second -/
  todChange : Bool
  /-- objects; 09 R220, R232; none monitored; defects and history -/
  hist : List (Nat × Hist)
  /-- strings; 09 R231; 0; counts of the tick by string -/
  strTick : List (Nat × StrTick)
  /-- 8 records; 09 R229; home; tally halves of each port -/
  halves : List (Nat × Halves)
  deriving DecidableEq, Repr

def Halves.reset : Halves := ⟨[], 0, false⟩
def Pm.reset : Pm :=
  { running := false, second := 0, ticks := 0, lastSec := 0, cfg := 0x00640002,
    degCfg := 0x3E8, degThresh := 0x9C400190, dayOffset := 0, info15 := [], info24 := [],
    todChange := false, hist := [], strTick := [], halves := [] }

/-! ### Host interface (file 13) -/

/-- One queue. -/
structure Queue where
  /-- 1 bit; 13 R351; 0; QSTATUS.ENABLED -/
  enabled : Bool
  /-- 1 bit; 13 R333; 0; ENABLE has been cleared and the queue is finishing its commands -/
  closing : Bool
  /-- 1 bit; 13 R351; 0; QSTATUS.ERROR -/
  error : Bool
  /-- 6 bits; 13 R351; 0; QSTATUS.CAUSE -/
  cause : Nat
  /-- 16 bits; 13 R329; 0; command ring producer index (SQ_PI) -/
  pi : Nat
  /-- 16 bits; 13 R329; 0; next descriptor to fetch -/
  fi : Nat
  /-- 16 bits; 13 R351; 0; QSTATUS.SQ_CI -/
  ci : Nat
  /-- 16 bits; 13 R329; 0; completion ring producer index -/
  cpi : Nat
  /-- 16 bits; 13 R329; 0; completion ring consumer index (CQ_CI) -/
  cci : Nat
  /-- 1 bit; 13 R332; 1; completion phase -/
  phase : Bool
  /-- 64 bits; 13 R342; 0; QCTR -/
  ctr : Nat
  /-- 64 bits; 13 R342; 0; counter reservation in force -/
  reserved : Nat
  /-- 0-8; 13 R331; empty; fetched descriptors not yet started, head first -/
  fetched : List Fetched
  /-- descriptor or none; 13 R341; none; the command executing, started and not yet completed -/
  running : Option Fetched
  /-- Nat; 13 R335; 0; completions written since the ring last signalled -/
  unsig : Nat
  /-- tick; 13 R335; 0; tick of the first of them -/
  unsigAt : Nat
  /-- ticks; 13 R328, R335; 0; TIME as of the last completion written -/
  time : Nat
  /-- Nat; 13 R345; 0; AUTH_FAILs within the last second -/
  authFails : List Nat
  /-- 1 bit; 13 R327; 0; the running command's completion is not to be written -/
  mute : Bool
  /-- SEQ or none; 13 R342; none; reservation record for which the command at the head waits at step 4 -/
  waitSeq : Option Nat
  /-- 1 bit; 13 R342; 0; the running command's counter lies above a reservation that could not be written -/
  unkept : Bool
  /-- 0-8; 15 R383; 0; commands at the head that a restart of the management complex met unstarted, and that complete with DEVICE_ERROR -/
  doomed : Nat
  deriving DecidableEq, Repr

/-- One event ring. -/
structure EvRing where
  /-- 1 bit; 13 R351; 0; EQSTATUS.ENABLED -/
  enabled : Bool
  /-- 1 bit; 13 R333; 0; EQSTATUS.ERROR -/
  error : Bool
  /-- 6 bits; 13 R351; 0; EQSTATUS.CAUSE -/
  cause : Nat
  /-- 16 bits; 13 R351; 0; producer index -/
  pi : Nat
  /-- 16 bits; 13 R329; 0; consumer index (EQ_CI) -/
  ci : Nat
  /-- 1 bit; 13 R332; 1; phase -/
  phase : Bool
  /-- Nat; 13 R340; 0; records dropped since the last EVENTS_DROPPED record -/
  dropped : Nat
  /-- Nat; 13 R335; 0; records written since the ring last signalled -/
  unsig : Nat
  /-- tick; 13 R335; 0; tick of the first of them -/
  unsigAt : Nat
  /-- ticks; 13 R328, R335; 0; TIME as of the last record written -/
  time : Nat
  deriving DecidableEq, Repr

def Queue.reset : Queue :=
  { enabled := false, closing := false, error := false, cause := 0, pi := 0, fi := 0, ci := 0,
    cpi := 0, cci := 0, phase := true, ctr := 0, reserved := 0, fetched := [], running := none,
    unsig := 0, unsigAt := 0, time := 0, authFails := [], mute := false, waitSeq := none, unkept := false,
    doomed := 0 }
def EvRing.reset : EvRing :=
  { enabled := false, error := false, cause := 0, pi := 0, ci := 0, phase := true,
    dropped := 0, unsig := 0, unsigAt := 0, time := 0 }

/-- An MSI-X message sent: function and table entry. -/
structure Msi where
  fn : Nat
  vec : Nat
  deriving DecidableEq, Repr

/-- The host interface. -/
structure Hif where
  /-- 1 bit; 13 R351, 17 R442; 0; the host interface is out of reset and ready -/
  ready : Bool
  /-- 1 bit; 13 R351; 0; LINK_UP -/
  link : Bool
  /-- 3 bits; 13 R351; 0; SPEED -/
  speed : Nat
  /-- 2 bits; 13 R351; 0; WIDTH -/
  width : Nat
  /-- 1 bit; 13 R351; 0; FLIT -/
  flit : Bool
  /-- 4 bits; 13 R325, R351; 0; VFs enabled -/
  vfs : Nat
  /-- 0-2; 13 R325; 0 (PRESUMED 7: the PCIe default, 128 bytes); maximum payload size set, 128, 256 or 512 bytes -/
  mps : Nat
  /-- 0-5; 13 R325; 2 (PRESUMED 7: the PCIe default, 512 bytes); maximum read request size set, 128 to 4,096 bytes -/
  mrrs : Nat
  /-- 256 queues; 13 R328; disabled; queues -/
  queues : List (Nat × Queue)
  /-- 16 event rings; 13 R328; disabled; event rings -/
  rings : List (Nat × EvRing)
  /-- 16 x 16 bits; 13 R340; 0; SEQ of the next record routed to each event ring -/
  seqs : List (Nat × Nat)
  /-- queue; 13 R331; 0; the queue served last in the round robin of descriptor fetches -/
  turn : Nat
  /-- words; 13 R334, 19 R496; each vector control 1, else 0 (PRESUMED 6); MSI-X tables of the VFs, by function * 512 + word -/
  vfTable : List (Nat × Word)
  /-- messages; 13 R334; none; MSI-X messages sent, newest first -/
  sent : List Msi
  /-- 2048 bits; 13 R335, 19 R496; 0; MSI-X pending bits -/
  pba : List (Nat × Bool)
  /-- bytes; 13 R332; empty; what the device has written to host memory -/
  hostMem : List Host.Cell
  /-- 64 bits; 00 R13; 0; the value the last register read returned (the model's bus) -/
  readData : DWord
  /-- words; 10 R262; empty; the TIMING registers that the last TIMING_READ returned (log entry 23) -/
  timingOut : List Word
  deriving DecidableEq, Repr

def Hif.reset : Hif :=
  { ready := false, link := false, speed := 0, width := 0, flit := false, vfs := 0, mps := 0, mrrs := 2, queues := [],
    rings := [], seqs := [], turn := 0, vfTable := [], sent := [], pba := [], hostMem := [], readData := 0, timingOut := [] }

/-! ### Timing (file 10) -/

/-- One reference, REF0-REF13. -/
structure Ref where
  /-- 1 bit; 10 R250, R272; 0; QUALIFIED -/
  qualified : Bool
  /-- tick or none; 10 R250, R272; none; tick since which all checks have passed (IN_WTR, WTR_LEFT) -/
  wtrAt : Option Nat
  /-- 1 bit; 10 R248, R272; 0; ACTIVE -/
  active : Bool
  /-- 1 bit; 10 R249, R272; 0; FREQ_OK -/
  freqOk : Bool
  /-- 1 bit; 10 R249, R272; 0; WANDER_OK -/
  wanderOk : Bool
  /-- signed 32 bits, 2^-16 ppb; 10 R249, R267; 0; REF_FREQ -/
  freq : Int
  /-- signed ps; 10 R244, R267; 0; REF_PHASE -/
  phase : Int
  /-- ticks and ps; 10 R249; empty; phase errors of the last WINDOW seconds, newest first -/
  samples : List (Nat × Int)
  /-- CCLK; 10 R248; 0; moment of the last edge -/
  edgeAt : Nat
  /-- tick; 10 R249; 0; start of the present frequency window -/
  winAt : Nat
  deriving DecidableEq, Repr

def Ref.reset : Ref := ⟨false, none, false, false, false, 0, 0, [], 0, 0⟩

/-- A change of time of day waiting for its tick edge. -/
inductive TodAsk where
  /-- queue, tick, seconds, nanoseconds -/
  | set (q at_ sec ns : Nat)
  /-- queue, tick, signed nanoseconds -/
  | adj (q at_ : Nat) (ns : Int)
  /-- tick, and the nanoseconds its edge carries: a standby aligns its time of day (R265) -/
  | twin (at_ : Nat) (ns : Int)
  deriving DecidableEq, Repr

/-- One clock output CLKOUT0-CLKOUT3. -/
structure ClkOut where
  /-- 3 bits; 10 R273; 0; FREQ in force -/
  freq : Nat
  /-- 1 bit; 10 R266; 0; squelched -/
  squelched : Bool
  deriving DecidableEq, Repr

def ClkOut.reset : ClkOut := ⟨0, false⟩

/-- The timing subsystem. -/
structure Timing where
  /-- 3 bits; 10 R253, R268; 0 (FREE); MODE -/
  mode : Nat
  /-- 0-13 or none; 10 R251, R268; none (0x1F); SELECTED -/
  selected : Option Nat
  /-- 4 bits; 10 R246, R268; 4; QL_TX -/
  qlTx : Nat
  /-- 1 bit; 10 R263, R268; 0; TOD_VALID -/
  todValid : Bool
  /-- 1 bit; 10 R259, R268; 0; OVEN_READY -/
  ovenReady : Bool
  /-- pairs; 10 R252; empty; disagreements that stand -/
  disagree : List (Nat × Nat)
  /-- signed ps; 10 R261, R267; 0; STEP_LEFT -/
  stepLeft : Int
  /-- 1 bit; 10 R261; 0; the phase step in progress was forced -/
  stepForced : Bool
  /-- 1 bit; 10 R261, R268; 0; the present tick is lengthened or shortened by a phase step -/
  stepping : Bool
  /-- signed fs; 10 R254; 0; phase still to be pulled -/
  pull : Int
  /-- 1 bit; 10 R254; 0; the pull runs at 50 ps per tick -/
  fast : Bool
  /-- signed 2^-16 ppb; 10 R254; 0; frequency at which the move to the selected reference's began -/
  moveFrom : Int
  /-- signed 2^-16 ppb; 10 R254; 0; frequency of the selected reference, at which that move aims -/
  moveTo : Int
  /-- tick or none; 10 R254; none; start of that move while it lasts -/
  moveSince : Option Nat
  /-- tick or none; 10 R253; none; tick since which the phase error of the selected reference has been within LOCK_PHASE -/
  lockAt : Option Nat
  /-- 1 bit; 10 R257, R267; 0; ESTIMATE_VALID -/
  estValid : Bool
  /-- ticks; 10 R257; 0; qualifying operation gathered toward 300 s -/
  gathered : Nat
  /-- at most 302 pairs; 10 R257; empty; output frequency at each second of qualifying operation, with its tick, newest first -/
  freqLog : List (Nat × Int)
  /-- signed 2^-16 ppb; 10 R257; 0; estimate taken at entry into HOLDOVER -/
  held : Int
  /-- 16 bits; 10 R256, R267; 0; LEARN_HOURS -/
  learnHours : Nat
  /-- ticks; 10 R256; 0; learning toward the next hour -/
  learned : Nat
  /-- bytes; 10 R258; empty (no fit); model coefficients, as the firmware forms them -/
  model : Bytes
  /-- signed 0.01 degrees; 10 R258; 0; temperature of the oscillator sensor at the end of the last learning hour -/
  modelTemp : Int
  /-- tick; 10 R258; 0; end of the first learning hour -/
  learnFrom : Int
  /-- signed 2^-16 ppb; 10 R257; 0; what the models gave at entry into HOLDOVER -/
  driftFrom : Int
  /-- signed 2^-16 ppb; 10 R257; 0; change the models predict since, taken every second -/
  drift : Int
  /-- tick or none; 10 R246; none; entry into HOLDOVER -/
  holdAt : Option Nat
  /-- 1 bit; 10 R246; 0; holdover has lasted more than HOLD_QL_TIME -/
  holdOld : Bool
  /-- 3 bits or none; 10 R253; none; FREE or HOLDOVER requested, to apply at the next tick edge -/
  modeAsk : Option Nat
  /-- 1 bit; 10 R253, R260; 0; REQ_MODE has been written since the last selection evaluation -/
  reqNew : Bool
  /-- signed 2^-16 ppb; 10 R260; 0; frequency at which the present approach began -/
  softFrom : Int
  /-- signed 2^-16 ppb; 10 R260; 0; last word written with TIMING_FREQ -/
  softTo : Int
  /-- tick; 10 R260; 0; start of the present approach -/
  softSince : Nat
  /-- tick; 10 R260; 0; last TIMING_FREQ accepted, or entry into SOFT -/
  softAt : Nat
  /-- 1 bit; 10 R260; 0; the SOFT watchdog has expired since REQ_MODE was written -/
  softOut : Bool
  /-- 48 bits; 10 R263; 0; seconds carried by the last tick edge -/
  sec : Nat
  /-- 32 bits; 10 R263; 0; nanoseconds carried by the last tick edge -/
  ns : Nat
  /-- 48 bits; 10 R264, R267; 0; TOD_SEC as latched -/
  latSec : Nat
  /-- 32 bits; 10 R264, R267; 0; TOD_NS as latched -/
  latNs : Nat
  /-- 64 bits; 10 R264, R267; 0; TOD_TICK as latched -/
  latTick : Nat
  /-- requests; 10 R263; empty; changes of time of day waiting for their edge -/
  todAsk : List TodAsk
  /-- queues; 10 R263; empty; commands that have applied and await their completion -/
  todDone : List Nat
  /-- tick; 10 R251; 0; last selection evaluation -/
  evalAt : Nat
  /-- 1 bit; 10 R251; 0; the selected reference was disqualified since the last evaluation -/
  urgent : Bool
  /-- tick; 10 R265; 0; last time-of-day frame sent -/
  todSentAt : Nat
  /-- 14 records; 10 R243; not qualified; references -/
  refs : List (Nat × Ref)
  /-- 4 records; 10 R266; off; CLKOUT0-CLKOUT3 -/
  outs : List (Nat × ClkOut)
  /-- tick or none; 10 R266; none; tick of the last PPS_OUT rising edge -/
  ppsAt : Option Nat
  /-- tick; 10 R266; 0; tick edge of the last second boundary -/
  secAt : Nat
  /-- configuration words; 10 R262; reset values; configuration in force, taken at the last selection evaluation -/
  inForce : List (Nat × Word)
  deriving DecidableEq, Repr

/-- The timing state after POR_N. The time of day that the tick edges carry before the first TOD_SET starts at 0 s 0 ns, and
TOD_SEC, TOD_NS and TOD_TICK show 0 before the first read that latches them: the spec gives neither value (00_scope.md R8,
R13; DESIGN CHOICE, log entry 79). -/
def Timing.reset : Timing :=
  { mode := 0, selected := none, qlTx := 4, todValid := false, ovenReady := false, disagree := [],
    stepLeft := 0, stepForced := false, stepping := false, pull := 0, fast := false, moveFrom := 0, moveTo := 0, moveSince := none,
    lockAt := none, estValid := false, gathered := 0, freqLog := [], held := 0, learnHours := 0, learned := 0, model := [],
    modelTemp := 0, learnFrom := 0, driftFrom := 0, drift := 0, holdAt := none, holdOld := false,
    modeAsk := none, reqNew := false, softFrom := 0,
    softTo := 0, softSince := 0, softAt := 0, softOut := false, sec := 0, ns := 0, latSec := 0,
    latNs := 0, latTick := 0, todAsk := [], todDone := [], evalAt := 0, urgent := false, todSentAt := 0, refs := [],
    outs := [], ppsAt := none, secAt := 0, inForce := [] }

/-! ### Engines, banks and the march test (file 11) -/

/-- One engine. -/
structure Eng where
  /-- 3 bits; 11 R300; 0 (OFF); STATE: 0 OFF, 1 LOADING, 2 RUNNING, 3 HALTED, 4 FAILED -/
  st : Nat
  /-- 10 bits; 11 R276, R300; 0; CONSEC_OVR, saturating at 1,023 -/
  consec : Nat
  /-- messages; 01 R21, 11 R279; empty; fabric messages held for the engine's number: ECLK of arrival, source and 16 bytes, in the order of delivery -/
  inbox : List (Nat × Nat × BitVec 128)
  /-- 1 bit; 01 R30; 0; it overran the present tick -/
  overran : Bool
  /-- VERSION and measurement, or none; 11 R274, R281; none; the component its instruction memory holds -/
  imem : Option (Word × Bytes)
  /-- count; 11 R274, R281, R292; 0; destructive tests of its memories since power-on, each of which leaves its data memory undefined -/
  dmem : Nat
  /-- 1 bit; 12 R306; 0; it has signalled tick-done in the present tick -/
  done : Bool
  /-- ECLK; 12 R306, R318; 0; ECLK lost in port A arbitration and not yet counted as issue slots -/
  lost : Nat
  /-- ECLK; 12 R306, R318; 0; ECLK waited on a bank under recall, or on an access that met another at its word, and not yet counted as issue slots -/
  heldUp : Nat
  deriving DecidableEq, Repr

def Eng.reset : Eng := ⟨0, 0, [], false, none, 0, false, 0, 0⟩

/-- A restart of a cluster, waiting or under way (11_engines_banks.md R278 to R282). -/
structure Restart where
  /-- cluster; 11 R278; -; the restarting cluster -/
  cl : Nat
  /-- queue or none; 11 R278; -; queue of the CLUSTER_ACTIVATE, none for a recovery -/
  q : Option Nat
  /-- tick; 11 R278; -; tick of acceptance or of the halt -/
  since : Nat
  /-- tick or none; 11 R278; none; migration tick M -/
  moved : Option Nat
  /-- 1 bit; 11 R281; 0; the memories of its engines have been tested -/
  tested : Bool
  /-- tick or none; 11 R281; none; tick in which every engine reported ready -/
  ready : Option Nat
  /-- tick or none; 11 R281; none; return tick R -/
  back : Option Nat
  /-- banks; 11 R278; empty; banks handed to the host -/
  banks : List Nat
  /-- 32 bits; 15 R395; -; component VERSION being loaded -/
  version : Word
  /-- 32 bytes; 15 R397; -; SHA-256 of the component's HASH_LIST entries -/
  meas : Bytes
  deriving DecidableEq, Repr

/-- The engines and clusters. -/
structure Engines where
  /-- 192 engines; 11 R274; OFF; engines -/
  engs : List (Nat × Eng)
  /-- 12 x 3 bits; 11 R299; 4 (OFF); CL_STATUS.STATE of each cluster -/
  cls : List (Nat × Nat)
  /-- 12 x (cluster or none); 11 R277, R299; none (0xF); HOST_CL of each cluster, as host + 1 -/
  host : List (Nat × Nat)
  /-- restart or none; 11 R280; none; the one migration or restart under way -/
  active : Option Restart
  /-- restarts; 11 R280, 15 R395; empty; restarts that wait, recoveries ahead of activations -/
  waiting : List Restart
  /-- 12 x 32 bits; 15 R395, R401; 0; CL_IMAGE -/
  image : List (Nat × Word)
  /-- 12 x 32 bytes; 15 R397; empty; ENG_MEAS, the measurement of the component each cluster runs -/
  meas : List (Nat × Bytes)
  deriving DecidableEq, Repr

def Engines.reset : Engines := ⟨[], [], [], none, [], [], []⟩

/-- What became of one bank access (11_engines_banks.md R285, R289, R290). -/
inductive BankEnd where
  /-- served, with the data returned -/
  | served (data : DWord)
  | refused
  | collide
  | eccUncorr
  /-- it stalls and is retried -/
  | stalled
  deriving DecidableEq, Repr

/-- One scratchpad bank's ownership. -/
structure Bank where
  /-- 5 bits; 11 R284, R302; 0 (NONE); OWNER -/
  owner : Nat
  /-- 5 bits; 11 R294, R302; 0; LENDER -/
  lender : Nat
  /-- 2 bits; 11 R302; 0; TEST: 1 preserving, 2 destructive, 3 recall in progress -/
  test : Nat
  /-- 1 bit; 11 R297, R302; 0; FAILED -/
  failed : Bool
  /-- 1 bit; 11 R286, R302; 0; LEND_OK -/
  lendOk : Bool
  /-- owner code, CCLK and writer, or none; 11 R287; none; a handover written and not yet in effect -/
  handover : Option (Nat × Nat × Nat)
  /-- queue or none; 13 R347; none; queue whose BANK_RELEASE wrote the handover that stands -/
  release : Option Nat
  /-- ECLK; 11 R283, R287; 0; first ECLK from which no access of the current owner is granted or in flight -/
  idleFrom : Nat
  /-- ECLK; 11 R287; 0; first ECLK in which the accesses of the owner are served -/
  ownFrom : Nat
  /-- queue or none; 13 R347; none; queue whose BANK_ALLOC is zeroing the bank -/
  zeroing : Option Nat
  /-- 0-8; 11 R294; 0; borrows recalled in a row without a completed segment -/
  recalls : Nat
  /-- tick; 11 R294; 0; first tick at which the bank may be borrowed again -/
  resumeAt : Nat
  /-- 0-511; 11 R294; 0; segment at which its test resumes -/
  segment : Nat
  /-- 1 bit; 11 R294; 0; tested or passed over in this round -/
  done : Bool
  /-- counts; 11 R295; empty; corrected errors by row within the last second: row and tick -/
  ecc : List (Nat × Nat)
  deriving DecidableEq, Repr

def Bank.reset : Bank :=
  { owner := 0, lender := 0, test := 0, failed := false, lendOk := false, handover := none,
    release := none, idleFrom := 0, ownFrom := 0, zeroing := none, recalls := 0, resumeAt := 0, segment := 0, done := false, ecc := [] }

/-- The scratchpad banks. -/
structure Banks where
  /-- 128 records; 11 R284; NONE; ownership -/
  own : List (Nat × Bank)
  /-- 128 x 32768 words; 11 R283; nothing written (a word not listed is undefined, log entry 12); contents by bank * 32768 + word -/
  mem : List (Nat × DWord)
  /-- 128 counts; 11 R292; 0; destructive tests of each bank, which leave its words undefined -/
  epoch : List (Nat × Nat)
  /-- banks; 13 R347; none; banks whose unlisted words are zero -/
  zeroed : List Nat
  /-- requests and ECLK; 11 R289, R294, 12 R318; empty; stalled accesses, in the order of arrival, each with the ECLK since which it stalls -/
  stalled : List (BankReq × Nat)
  /-- answers; 11 R285; empty; what became of the accesses of the last BANK_ACCESS, RECALL_DONE or window access -/
  answers : List (BankReq × BankEnd)
  deriving DecidableEq, Repr

def Banks.reset : Banks := ⟨[], [], [], [], [], []⟩

/-- Repairs of one memory block (11_engines_banks.md R296, R297). -/
structure MemBlock where
  /-- 0-8; 11 R296; 0; spare rows used -/
  rows : Nat
  /-- 0-2; 11 R296; 0; spare columns used -/
  cols : Nat
  /-- rows and columns; 11 R296; empty; failing cells found and not repaired by a column -/
  cells : List (Nat × Nat)
  /-- columns; 11 R297; empty; columns failed beyond spares -/
  lost : List Nat
  deriving DecidableEq, Repr

def MemBlock.reset : MemBlock := ⟨0, 0, [], []⟩

/-- An MTEST_RUN that waits for its bank (13_host.md R347). -/
structure Ask where
  /-- queue; 13 R347; -; queue of the command -/
  q : Nat
  /-- bank; 13 R347; -; BANK -/
  bank : Nat
  /-- 1 bit; 13 R347; -; MODE is destructive -/
  destructive : Bool
  /-- 0-511; 11 R294; 0; segment at which a recalled test goes on -/
  segment : Nat
  /-- Nat; 13 R347; 0; faulty words found before the recall -/
  found : Nat
  deriving DecidableEq, Repr

/-- The march-test engine. -/
structure Mtest where
  /-- 0-6; 11 R304; 0 (idle); TARGET -/
  target : Nat
  /-- 2 bits; 11 R304; 0; MODE -/
  mode : Nat
  /-- CCLK or none; 11 R291, R304; none; start of the next retention pause, or of the one in progress (PAUSED) -/
  pausedAt : Option Nat
  /-- us; 11 R291, R303; 0; RET_PAUSE in force for the target -/
  pause : Nat
  /-- 32 bits; 11 R303; 0x03E80A01; SCHED in force for the target -/
  sched : Word
  /-- 8 bits; 11 R295, R303; 4; ECC_TRIG in force for the target -/
  trig : Nat
  /-- 0-8; 11 R292; 0; pass of the start-up test with which the present run began -/
  pass : Nat
  /-- 0-512; 11 R304; 0; SEGMENT; 512 once the last segment is done -/
  segment : Nat
  /-- 0, 1 or 4; 11 R291, R304; 0; the element with which the present run began: the first, or the one after a pause -/
  element : Nat
  /-- CCLK; 11 R291; 0; start of the present run: of the target or segment, or the end of a pause -/
  runAt : Nat
  /-- 11 bits; 11 R304; 0; INDEX -/
  index : Nat
  /-- queue or none; 13 R347; none; the MTEST_RUN in progress -/
  q : Option Nat
  /-- Nat; 13 R347; 0; faulty words found by the test in progress -/
  found : Nat
  /-- faults; 11 R293; empty; faults that the start-up test will find, as its start was given them -/
  known : List MemFault
  /-- 1 bit; 11 R295; 0; the test in progress is a targeted test of one row -/
  single : Bool
  /-- requests; 13 R347; empty; MTEST_RUN commands waiting -/
  asks : List Ask
  /-- bank and row; 11 R295; empty; targeted tests waiting -/
  rows : List (Nat × Nat)
  /-- macro and row; 11 R295; empty; rows of tray buffers, of connection memories and of banks that may not be lent in which errors were met, until a test covers them -/
  marks : List (Nat × Nat)
  /-- tick; 11 R294; 0; tick from which the next bank may be taken (BANK_GAP) -/
  bankAt : Nat
  /-- tick; 11 R295; 0; tick from which the next step may be asked for (STEP_GAP) -/
  stepAt : Nat
  /-- 0-2047; 11 R295; 0; next step of the round -/
  stepNext : Nat
  /-- steps; 11 R292, R295; empty; lent steps whose test waits for the engine -/
  lentWait : List Nat
  /-- records; 11 R296; none repaired; repairs by its identifier -/
  blocks : List (Nat × MemBlock)
  /-- 32 bits; 11 R303; 0; REPAIR_LAST -/
  last : Word
  /-- slots; 11 R303; empty; output slots flagged unreliable -/
  outFlags : List Nat
  /-- 32 bits; 11 R303; 0; FLAG_LAST -/
  flagLast : Word
  /-- 256 bits; 11 R297, R303; 0; lanes FAILED on the ingress side, ascending -/
  inFailed : List Nat
  /-- 256 bits; 11 R297, R303; 0; lanes FAILED on the egress side, ascending -/
  outFailed : List Nat
  deriving DecidableEq, Repr

def Mtest.reset : Mtest :=
  { target := 0, mode := 0, pausedAt := none, pause := 0, sched := 0x03E80A01, trig := 4, pass := 0, segment := 0, element := 0, runAt := 0, index := 0,
    q := none, found := 0, known := [], single := false, asks := [], rows := [], marks := [], bankAt := 0, stepAt := 0, stepNext := 0, lentWait := [],
    blocks := [], last := 0, outFlags := [], flagLast := 0, inFailed := [], outFailed := [] }

/-! ### Performance counters (file 12) -/

/-- The performance counters. Counters of engine e: 8e CYCLES, 8e + 1 RETIRED, 8e + 2 + i CNT[i]; DEV[k] is 1536 + k. -/
structure Perf where
  /-- 64 bits (CNT 48); 12 R305, R308; 0; counters by number -/
  cnt : List (Nat × DWord)
  /-- 64 bits; 12 R310; 0; shadows by counter number -/
  sh : List (Nat × DWord)
  /-- 64 bits; 12 R310, R319; 0; SHADOW_TICK -/
  shTick : DWord
  /-- bits; 12 R314; 0; OVF and DOVF bits that are set, as counter numbers, ascending -/
  ovf : List Nat
  /-- counters; 12 R314; empty; counters that wrapped in the present tick and whose event is still to be raised, ascending -/
  wrapped : List Nat
  /-- ticks; 12 R314; none; tick of the last PERF_OVERFLOW of a counter -/
  evAt : List (Nat × Nat)
  /-- 0-1024 ECLK; 12 R305; 0; ECLK of the present tick up to which the engines' cycles and issue slots are counted -/
  eclk : Nat
  /-- counter, ECLK and 64 bits; 12 R315; none; counters written in an ECLK, with the value that they would have had without the write -/
  wrote : List (Nat × Nat × Nat)
  /-- offset, ECLK and 32 bits; 12 R316, R317; none; selects, filters and CTRL written in an ECLK, with the setting that still counts in it -/
  was : List (Nat × Nat × Word)
  deriving DecidableEq, Repr

def Perf.reset : Perf := ⟨[], [], 0, [], [], [], 0, [], []⟩

/-! ### Cipher engine (file 14) -/

/-- One key slot (14_cipher.md R363). -/
structure KeySlot where
  /-- 2 bits; 14 R363, R374; 0 (EMPTY); STATE: 0 EMPTY, 1 LOADING, 2 VALID, 3 ERASING -/
  st : Nat
  /-- 2 bits; 14 R363; 0; state to which a failed unwrap returns -/
  was : Nat
  /-- 16 or 32 bytes; 14 R363; empty; the key -/
  key : Bytes
  /-- 1 bit; 14 R361; 0; SIZE of ALG -/
  size : Nat
  /-- 2 bits; 14 R361; 0; DIR -/
  dir : Nat
  /-- 6 bits; 14 R361; 0; MODES -/
  modes : Nat
  /-- 0-3; 14 R361; 0; USER -/
  user : Nat
  /-- 0-15; 14 R361; 0; FUNCTION -/
  fn : Nat
  /-- 16 bits; 14 R361; 0; QUEUE -/
  queue : Nat
  /-- 64 bits; 14 R361; 0; MAX_USES -/
  maxUses : Nat
  /-- 32 bits; 14 R361; 0; BLOB_ID -/
  blobId : Nat
  /-- 16 bits; 14 R363; 0; GEN -/
  gen : Nat
  /-- 64 bits; 14 R363; 0; USES -/
  uses : Nat
  /-- 8 bits, saturating; 14 R363; 0; FAULTS -/
  faults : Nat
  deriving DecidableEq, Repr

def KeySlot.reset : KeySlot := ⟨0, 0, [], 0, 0, 0, 0, 0, 0, 0, 0, 0, 0, 0⟩

/-- Work of the device's own users of the cipher engine (14_cipher.md R356): the tag check of the critical command at
the head of queue q, journal sealing, state copy, and work of the management complex. -/
inductive DpWork where
  | tag (q : Nat)
  | seal
  | copy
  | image
  deriving DecidableEq, Repr

/-- Class of R356 of the device's own work. -/
def DpWork.cls : DpWork → Nat
  | .tag _ => 1
  | .seal | .copy => 2
  | .image => 3

/-- An operation waiting for a datapath or running on one (14_cipher.md R356). -/
inductive CipherJob where
  /-- work of the device's own users that found no datapath free -/
  | work (w : DpWork)
  /-- unwrapping the blob of queue q's KEY_UNWRAP into a slot, none for the owner key -/
  | unwrap (q : Nat) (slot : Option Nat)
  /-- the CIPHER_OP of queue q -/
  | op (q : Nat)
  deriving DecidableEq, Repr

/-- Class of R356 of an operation that waits. -/
def CipherJob.cls : CipherJob → Nat
  | .work w => w.cls
  | .unwrap .. => 3
  | .op .. => 4

/-- What a datapath runs. -/
structure DpRun where
  /-- job; 14 R356; -; the operation -/
  job : CipherJob
  /-- 3 bits; 14 R377; -; MODE: 0 CBC, 1 CTR, 2 CFB-128, 3 OFB, 4 GCM, 5 CMAC, 6 AES-KW -/
  mode : Nat
  /-- 1 bit; 14 R377; -; DIRECTION: decrypting -/
  dec : Bool
  /-- 10 bits or none; 14 R377; -; slot, none for a key that no slot holds (KEK) -/
  slot : Option Nat
  /-- 16 or 32 bytes; 14 R365; -; the key latched at the start -/
  key : Bytes
  /-- 16 bits; 14 R365; -; generation latched at the start -/
  gen : Nat
  /-- bytes; 14 R372; -; input read by DMA -/
  input : Bytes
  /-- CCLK; 14 R355; -; start of the operation -/
  since : Nat
  deriving DecidableEq, Repr

/-- A quarantine window (14_cipher.md R368, R369): free, held by an on-chip consumer, or being
written to zero. -/
inductive Window where
  | free | held | zeroing
  deriving DecidableEq, Repr

/-- The cipher engine. -/
structure Sec where
  /-- 1 bit; 14 R358, R376; 0; LOCKED -/
  locked : Bool
  /-- ticks; 14 R358, R376; empty; faults within the last 1,000,000 ticks (FAULTS_1S), newest first -/
  faultAt : List Nat
  /-- 32 bytes or none; 14 R359, R376; none; root key (ROOT_READY) -/
  root : Option Bytes
  /-- key and BLOB_ID, or none; 14 R360, R375, R376; none; owner key (OWNER_INSTALLED, OWNER_KEY) -/
  owner : Option (Bytes × Nat)
  /-- 1024 slots; 14 R363; EMPTY; key slots -/
  slots : List (Nat × KeySlot)
  /-- 4 datapaths; 14 R355, R377; idle; operations running -/
  dps : List (Nat × DpRun)
  /-- 4 windows; 14 R369, R376; free; quarantine windows that are not free (WIN_HELD) -/
  wins : List (Nat × Window)
  /-- operations; 14 R356; empty; operations waiting, oldest first -/
  waiting : List CipherJob
  /-- work; 14 R356, R358; empty; own work whose turn on a datapath is over and that has not gone on yet, with whether
  its check passed -/
  won : List (DpWork × Bool)
  /-- queue by slot; 14 R366; empty; KEY_ERASE commands waiting for their slot -/
  erasing : List (Nat × Nat)
  deriving DecidableEq, Repr

def Sec.reset : Sec := ⟨false, [], none, none, [], [], [], [], [], []⟩

/-! ### Management, sensors and fuses (files 13 and 15) -/

/-- The fuses (15_management.md R390). -/
structure Otp where
  /-- 32 bits; 04 R113, 15 R397, 19 R485; 0 (DESIGN CHOICE 3: factory content); NODE_ID -/
  nodeId : Word
  /-- 32 bytes; 15 R390; zeros (DESIGN CHOICE 3); ROOT_HASH -/
  rootHash : Bytes
  /-- 32 bytes or none; 15 R390; not programmed; OWNER_HASH -/
  ownerHash : Option Bytes
  /-- 32 bytes; 15 R389; zeros (DESIGN CHOICE 3); product image key -/
  imageKey : Bytes
  /-- 32 bytes; 14 R359; zeros (DESIGN CHOICE 3); device-unique secret -/
  secret : Bytes
  /-- 0-64; 15 R392; 0 (DESIGN CHOICE 3); anti-rollback fuses blown (ARB) -/
  arb : Nat
  /-- 2 bits; 15 R399, R402; 1 DEVELOPMENT (DESIGN CHOICE 3); LIFECYCLE -/
  life : Nat
  /-- bytes; 15 R396; empty (DESIGN CHOICE 3); the identity certificate in flash, at most 2,048 bytes -/
  cert : Bytes
  /-- 32 bits or none; 13 R325, 19 Table 19.12; none held (DESIGN CHOICE 3: factory content); subsystem ID and subsystem vendor ID -/
  subsys : Option Word
  /-- repairs; 11 R296; none (DESIGN CHOICE 3: factory content); repairs fused at production: macro, column, spare, row or column -/
  fused : List (Nat × Bool × Nat × Nat)
  deriving DecidableEq, Repr

def Otp.reset : Otp :=
  { nodeId := 0, rootHash := List.replicate 32 0, ownerHash := none, imageKey := List.replicate 32 0,
    secret := List.replicate 32 0, arb := 0, life := 1, cert := [], subsys := none, fused := [] }

/-- A boot record (15_management.md R390). -/
structure BootRec where
  /-- 1 bit; 15 R390; 0 (DESIGN CHOICE 3); active slot: B -/
  active : Bool
  /-- 1 bit or none; 15 R390; none (DESIGN CHOICE 3); pending trial slot -/
  trial : Option Bool
  /-- 0-3; 15 R390; 0 (DESIGN CHOICE 3); trial attempts -/
  attempts : Nat
  /-- count; 15 R390; 0 (DESIGN CHOICE 3); sequence number -/
  seq : Nat
  /-- 32 bits; 15 R390; 0 (DESIGN CHOICE 3: not valid); CRC-32 -/
  crc : Word
  deriving DecidableEq, Repr

/-- A boot record that nothing has written. -/
def BootRec.blank : BootRec := ⟨false, none, 0, 0, 0⟩

/-- The image slots and the boot record in flash (15_management.md R390, R394). -/
structure Image where
  /-- a boot record; 15 R390; erased (DESIGN CHOICE 3: factory content, with no valid CRC); the copy on flash 0 -/
  rec0 : BootRec
  /-- a boot record; 15 R390; erased (DESIGN CHOICE 3: factory content, with no valid CRC); the copy on flash 1 -/
  rec1 : BootRec
  /-- container; 15 R390; empty (DESIGN CHOICE 3); image slot A -/
  slotA : Bytes
  /-- container; 15 R390; empty (DESIGN CHOICE 3); image slot B -/
  slotB : Bytes
  /-- 1 bit; 15 R390; 0; active slot of the boot record: B -/
  active : Bool
  /-- 1 bit or none; 15 R390; none; pending trial slot of the boot record -/
  trial : Option Bool
  /-- 0-3; 15 R390, R394; 0; trial attempts -/
  attempts : Nat
  /-- 1 bit; 15 R402; 0; BOOT_SLOT, the slot running -/
  boot : Bool
  /-- 1 bit; 15 R402; 0; TRIAL, running a trial image -/
  onTrial : Bool
  /-- tick; 15 R401; 0; start of the trial (TRIAL_LEFT) -/
  trialAt : Nat
  /-- 1 bit; 15 R402; 0; SLOT_A_BAD -/
  badA : Bool
  /-- 1 bit; 15 R402; 0; SLOT_B_BAD -/
  badB : Bool
  /-- bytes; 15 R380, R383; empty; the running image, as its verified copy in LPDDR6 -/
  running : Bytes
  /-- queue and container, or none; 15 R394; none; IMAGE_STAGE in progress -/
  staging : Option (Nat × Bytes)
  /-- queue or none; 15 R394; none; the IMAGE_ACTIVATE that waits for the restart -/
  activating : Option Nat
  /-- 1 bit; 15 R394; 0; the restart in progress boots a slot chosen anew -/
  reboot : Bool
  /-- 0-64 and a queue, or none; 15 R392; none; count to which fuses are being blown, and the IMAGE_ACTIVATE that waits -/
  blowing : Option (Nat × Nat)
  deriving DecidableEq, Repr

def Image.reset : Image :=
  { rec0 := BootRec.blank, rec1 := BootRec.blank, blowing := none, slotA := [], slotB := [], active := false, trial := none, attempts := 0, boot := false,
    onTrial := false, trialAt := 0, badA := false, badB := false, running := [], staging := none,
    activating := none, reboot := false }

/-- The management complex. -/
structure Mgmt where
  /-- 4 bits; 15 R402; 0; CORES_UP -/
  up : BitVec 4
  /-- CCLK or none; 15 R383; none; start of the restart in progress -/
  restartAt : Option Nat
  /-- 1 bit; 15 R382, R402; 0; HALTED -/
  halted : Bool
  /-- ticks; 15 R382; empty; watchdog restarts within the last 600 s -/
  dogs : List Nat
  /-- 1 bit; 15 R402; 0; RECOVERY -/
  recovery : Bool
  /-- 1 bit; 13 R353, 15 R402; 0; DEBUG_UNLOCK accepted since POR_N -/
  unlocked : Bool
  /-- 32 bytes; 15 R400, R401; drawn at POR_N (zeros before); CHALLENGE -/
  challenge : Bytes
  /-- tick or none; 15 R397; none; the last ATTEST -/
  attestAt : Option Nat
  /-- 64 bits; 15 R386; 0; LOG_NEXT -/
  logNext : Nat
  /-- numbers; 15 R381; empty; log records corrupted by an LPDDR6 error -/
  corrupt : List Nat
  /-- at most 64 ticks; 15 R386; empty; critical records journalled within the last second, newest first -/
  crit : List Nat
  /-- records; 15 R383; empty; event records held during a restart, oldest first -/
  held : List EvRec
  /-- queue and answer; 15 R383; empty; completions that wait for the end of the restart -/
  past : List (Nat × List Nat)
  deriving DecidableEq, Repr

def Mgmt.reset : Mgmt :=
  { up := 0, restartAt := none, halted := false, dogs := [], recovery := false, unlocked := false,
    challenge := List.replicate 32 0, attestAt := none, logNext := 0, corrupt := [], crit := [],
    held := [], past := [] }

/-- The sensor hub. -/
structure Sens where
  /-- 64 x 17 bits; 15 R384, R403; 0; TEMP: INVALID and reading, by sensor -/
  temp : List (Nat × Word)
  /-- 16 bits; 15 R403; 0; TEMP_MAX -/
  max : BitVec 16
  /-- 0-64; 15 R403; 0; valid sensors -/
  valid : Nat
  /-- 16 bits; 15 R403; 0; VIN -/
  vin : BitVec 16
  /-- 16 bits; 15 R403; 0; IIN -/
  iin : BitVec 16
  /-- 16 bits; 15 R403; 0; PIN -/
  pin : BitVec 16
  /-- 16 bits; 15 R403; 0; OVEN -/
  oven : BitVec 16
  /-- 20 x 32 bits; 15 R403; 0; PD_MON -/
  dom : List (Nat × Word)
  /-- 1 bit; 15 R385, R403; 0; WARN -/
  warn : Bool
  /-- 1 bit; 15 R385, R403; 0; CRIT_TRIPPED -/
  tripped : Bool
  deriving DecidableEq, Repr

def Sens.reset : Sens := ⟨[], 0, 0, 0, 0, 0, 0, [], false, false⟩

/-- The SMBus sideband (13_host.md R352). -/
structure Smb where
  /-- 3 bits; 13 R352; 0; SMB_ADDR latched at POR_N -/
  addr : BitVec 3
  /-- 16 bits, saturating; 13 R352; 0; critical count -/
  crit : Nat
  /-- 16 bits, saturating; 13 R352; 0; warning count -/
  warn : Nat
  /-- record or none; 13 R352; none; last critical event since POR_N -/
  last : Option EvRec
  /-- 1 bit; 13 R352; 0; SMB_ALERT_N is asserted -/
  alert : Bool
  /-- bytes; 13 R352; empty; the last answer on SMBus -/
  reply : Bytes
  deriving DecidableEq, Repr

def Smb.reset : Smb := ⟨0, 0, 0, none, false, []⟩

/-- The instruction in the JTAG port (13_host.md R353). -/
inductive JInstr where
  | bypass | idcode | sample | extest | clamp | highz | dbg
  deriving DecidableEq, Repr

/-- What drives the balls of the boundary-scan register (13_host.md R353): the device's functions, the bits preloaded
(EXTEST, CLAMP), or nothing (HIGHZ). -/
inductive Balls where
  | system
  | scan (bits : List Bool)
  | highZ
  deriving DecidableEq, Repr

/-- The JTAG port. -/
structure Jtag where
  /-- name; 13 R353; IDCODE (IEEE 1149.1 after reset); instruction in force -/
  ir : JInstr
  /-- bits; 13 R353; empty; boundary-scan register as preloaded -/
  bsr : List Bool
  /-- bits; 13 R353; the bypass bit; data register selected between TDI and TDO -/
  dr : List Bool
  /-- 1 bit; 13 R353; 0; debug ports open -/
  open_ : Bool
  /-- name; 13 R353; the device's functions; what drives the output balls that the boundary-scan register covers -/
  balls : Balls
  deriving DecidableEq, Repr

def Jtag.reset : Jtag := ⟨.idcode, [], [], false, .system⟩

/-! ### Journal, copy and seesaw (file 16) -/

/-- What a journal record holds (16_journal_seesaw.md Table 16.4). -/
inductive JPay where
  | epoch (salt version cause : Nat)
  | regs (vals : List (Nat × Word))
  | counter (q slot gen resv : Nat)
  | keyRef (slot gen : Nat) (erased : Bool) (blob : Bytes)
  | repair (blk kind spare index : Nat)
  | retire (k : Nat)
  | holdover (model : Bytes) (hours : Nat)
  | critical (e : EvRec)
  | commit (id count ckptSeq term origin : Nat) (sha : Bytes) (blocks : List Nat)
  | term (t : Nat) (node : Word) (side : Bool)
  | str (batch n : Nat) (x : Str)
  | swap (batch tick : Nat) (gen : BitVec 8) (source : Nat) (scen : Nat)
  | group (g : Nat) (deleted : Bool) (d : Option GroupDef)
  | decision (g sel topReq topSig bridged : Nat) (ask : Option (Nat × Nat)) (restored : Bool) (wtrTod : Nat)
  | scenario (n : Nat) (auto deleted : Bool) (name : Bytes) (map : CMap)
  deriving DecidableEq, Repr

/-- One journal record (16_journal_seesaw.md Table 16.3). -/
structure JRec where
  /-- 64 bits; 16 R406; -; SEQ -/
  seq : Nat
  /-- 64 bits; 16 R406; -; TICK -/
  tick : Nat
  /-- 32 bits; 16 R406, R407; -; SALT -/
  salt : Nat
  /-- 1 bit; 16 R406; -; PEER -/
  peer : Bool
  /-- 64 bits; 16 R406; -; ORIGIN_SEQ -/
  origin : Nat
  /-- Nat; 16 R408; -; records the logical record takes; seq is that of the last -/
  parts : Nat
  /-- payload; 16 R408; -; TYPE and contents -/
  pay : JPay
  deriving DecidableEq, Repr

/-- A working block in use (16_journal_seesaw.md R405, Table 16.2). -/
structure Block where
  /-- 0-511; 16 R404; -; its number in the region -/
  no : Nat
  /-- 8 bits; 16 Table 16.2; -; KIND: 1 log, 2 checkpoint, 3 checkpoint copied from the peer -/
  kind : Nat
  /-- 64 bits; 16 Table 16.2; -; BSEQ -/
  bseq : Nat
  /-- 32 bits; 16 Table 16.2; -; ERASES -/
  erases : Nat
  /-- 32 bits; 16 Table 16.2; -; CKPT_ID, 0 for a log block -/
  ckpt : Nat
  /-- 64 bits; 16 R413; 0; SEQ of the last record of a closed log block -/
  last : Nat
  /-- 1 bit; 16 R406, R413, R421; 0; a closed log block, or a block of a committed checkpoint -/
  done : Bool
  deriving DecidableEq, Repr

/-- What a region held when it left service (16_journal_seesaw.md R411, R416). -/
structure Held where
  /-- 32 bits; 16 R413; -; CKPT_ID of its checkpoint -/
  ckptId : Nat
  /-- 64 bits; 16 R413; -; CKPT_SEQ -/
  ckptSeq : Nat
  /-- records; 16 R413; -; the checkpoint -/
  ckpt : List JRec
  /-- records; 16 R411; -; the log -/
  log : List JRec
  /-- 64 bits; 16 R411; -; SEQ of its last record -/
  last : Nat
  deriving DecidableEq, Repr

/-- One journal region in flash (16_journal_seesaw.md R405, R415). -/
structure Region where
  /-- 1 bit; 16 R416, R432; 0; in service (REGIONn_OK) -/
  ok : Bool
  /-- bytes; 16 R406; 0; bytes used of the open log block, 0 when none is open -/
  fill : Nat
  /-- blocks; 16 R405, R431; empty; the working blocks in use, in the order in which they were opened (USAGE) -/
  used : List Block
  /-- block numbers; 16 R405, R415; 0-479 (DESIGN CHOICE 3); the erased working blocks, oldest erased first -/
  free : List Nat
  /-- block numbers; 16 R405, R415, R431; 480-511 (DESIGN CHOICE 3); the spare pool (SPARES) -/
  pool : List Nat
  /-- 32 bits a block; 16 Table 16.2; 0 (DESIGN CHOICE 3: factory content); erase count of each block -/
  erases : List (Nat × Nat)
  /-- 64 bits; 16 Table 16.2; 0 (DESIGN CHOICE 3); BSEQ of the block opened last -/
  bseq : Nat
  /-- contents or none; 16 R411, R416; none; what the region holds, once it has left service -/
  held : Option Held
  deriving DecidableEq, Repr

/-- The journal. -/
structure Jnl where
  /-- 3 bits; 16 R432; 0b100 (NOT_STARTED); STATE -/
  st : Nat
  region0 : Region
  region1 : Region
  /-- 32 bits; 16 R407; 0; SALT of this start -/
  salt : Nat
  /-- 64 bits; 16 R406; 1; SEQ of the next record -/
  nextSeq : Nat
  /-- 64 bits; 16 R431; 0; LAST_SEQ -/
  lastSeq : Nat
  /-- records; 16 R410; empty; records raised and not yet persisted, oldest first -/
  waiting : List JRec
  /-- records; 16 R404, R411; empty; the records of the log in flash, oldest first -/
  log : List JRec
  /-- records; 16 R413; empty; the checkpoint in force, as its sequence of records -/
  ckpt : List JRec
  /-- 64 bits; 16 R431; 0; CKPT_SEQ -/
  ckptSeq : Nat
  /-- 32 bits; 16 R431; 0; CKPT_ID -/
  ckptId : Nat
  /-- SEQ and queue, or none; 16 R413, R432; none; CKPT_SEQ of the compaction in progress (COMPACTING) and the queue of the JNL_COMPACT that started it -/
  compacting : Option (Nat × Option Nat)
  /-- queue and number; 16 R410, R420; empty; commands waiting for a record: queue, SEQ, answer status and results, shared class -/
  waiters : List (Nat × Nat × List Nat × Bool)
  /-- tick by SEQ; 16 R420; empty; tick of local persistence of the records peer-persist commands wait for -/
  persistedAt : List (Nat × Nat)
  /-- 64 bits; 16 R418, R431; 0; TERM in force -/
  term : Nat
  /-- 32 bits; 16 R408; 0; BATCH_ID of the next swap -/
  batchId : Nat
  deriving DecidableEq, Repr

/-- The state copy over PX (16_journal_seesaw.md R417 to R423). -/
structure Copy where
  /-- 3 bits; 16 R432; 0 (OFF); COPY_STATE -/
  st : Nat
  /-- 64 bits; 16 R420, R431; 0; PEER_ACK_SEQ -/
  ackSeq : Nat
  /-- 64 bits; 16 R420; 0; stream position of the next byte sent (active) -/
  pos : Nat
  /-- 64 bits; 16 R420; 0; last PERSIST_POS acknowledged -/
  ackPos : Nat
  /-- 64 bits; 16 R420; 0; position from which the active sends next -/
  sendFrom : Nat
  /-- bytes; 16 R420; empty; stream bytes formed and not yet acknowledged, from ackPos on (active) -/
  out : Bytes
  /-- 64 bits; 16 R420, R421; 0; SEQ of the last record put into the stream (active) -/
  outSeq : Nat
  /-- 64 bits; 16 R420; 0; next position expected (standby, NEXT_POS) -/
  next : Nat
  /-- frames; 16 R420; empty; frames received beyond a gap: position and bytes -/
  held : List (Nat × Bytes)
  /-- tick or none; 16 R420; none; tick since which a gap stands -/
  gapAt : Option Nat
  /-- bytes; 16 R419, R422; empty; bytes of the partial item in progress -/
  item : Bytes
  /-- items; 16 R421, R423; empty; complete items received and not yet persisted: kind and sealed bytes -/
  items : List (Nat × Bytes)
  /-- 64 bits; 16 R420; 0; PERSISTED_SEQ, the ORIGIN_SEQ persisted here (standby) -/
  persisted : Nat
  /-- 32 bits; 16 R420; 0; CKPT_ID last committed from the peer -/
  ckptId : Nat
  /-- 64 bits; 16 R421; 0; TERM of the checkpoint committed from the peer -/
  ckptTerm : Nat
  /-- records; 16 R420; empty; received records journalled here: own SEQ, ORIGIN_SEQ and the stream position after the record -/
  marks : List (Nat × Nat × Nat)
  /-- 64 bits; 16 R420; 0; PERSIST_POS: stream position up to which every item is persisted (standby) -/
  persistPos : Nat
  /-- 64 bits; 16 R419, R421; 0; TERM of the stream in progress, from its START item -/
  streamTerm : Nat
  /-- tick; 16 R420; 0; tick of the last COPY_ACK sent -/
  ackAt : Nat
  deriving DecidableEq, Repr

/-- The last heartbeat received (16_journal_seesaw.md Table 16.10). -/
structure Heartbeat where
  /-- 1 bit; 16 R427; 0; a heartbeat has been received -/
  seen : Bool
  /-- 1 bit; 16 R427; 0; SYNCED -/
  synced : Bool
  /-- 1 bit; 16 R427; 0; SIDE -/
  side : Bool
  /-- 1 bit; 16 R427; 0; CLAIM_EN -/
  claimEn : Bool
  /-- 1 bit; 16 R427; 0; ACT -/
  act : Bool
  /-- 2 bits; 16 R427; 0; JNL_STATE -/
  jnl : Nat
  /-- 64 bits; 16 R427; 0; TERM -/
  term : Nat
  /-- 64 bits; 16 R427; 0; ORIGIN_SEQ -/
  origin : Nat
  /-- 32 bits; 16 R427; 0; COUNT -/
  count : Nat
  deriving DecidableEq, Repr

/-- The seesaw interlock. -/
structure Seesaw where
  /-- 1 bit; 16 R424, R434; 0; SSW_ACT_OUT -/
  actOut : Bool
  /-- 1 bit; 16 R424, R434; 0; SSW_ACT_IN -/
  actIn : Bool
  /-- 1 bit; 16 R424, R434; strap; SIDE -/
  side : Bool
  /-- 1 bit; 16 R426, R434; 0; CLAIM_EN -/
  claimEn : Bool
  /-- 1 bit; 16 R427, R434; 0; HB_WIRE_OK -/
  wireOk : Bool
  /-- 1 bit; 16 R427, R434; 0; HB_PX_OK -/
  pxOk : Bool
  /-- 1 bit; 16 R434; 0; PEER_RST -/
  peerRst : Bool
  /-- 3 bits; 16 R434; 0 (STARTING); ROLE -/
  role : Nat
  /-- 5 bits; 16 R434; 0; LAST_RELEASE -/
  lastRelease : Nat
  /-- 64 bits; 16 R433; 0; LAST_CHANGE -/
  lastChange : Nat
  /-- tick; 16 R426; 0; tick of the last fall of SSW_ACT_IN -/
  inFell : Nat
  /-- CCLK or none; 16 R424; none; moment since which SSW_ACT_IN is low and CLAIM_EN is 1 -/
  guardAt : Option Nat
  /-- CCLK or none; 16 R425; none; start of the 1 s hold of CLAIM_EN -/
  holdAt : Option Nat
  /-- CCLK or none; 16 R427; none; last arrival on the wire path -/
  wireAt : Option Nat
  /-- CCLK or none; 16 R427; none; last arrival on the PX path -/
  pxAt : Option Nat
  /-- CCLK or none; 16 R428; none; moment since which both paths have failed -/
  silentAt : Option Nat
  /-- CCLK or none; 16 R428; none; start of the last PEER_RST_OUT pulse -/
  rstAt : Option Nat
  /-- 0-10; 16 R427; 0; consecutive heartbeats whose ACT differs from SSW_ACT_IN -/
  differ : Nat
  /-- 1 bit; 16 R427; 0; the wire heartbeat output HB_OUT -/
  hbOut : Bool
  /-- 32 bits; 16 R427; 0; heartbeats sent -/
  sent : Nat
  /-- CCLK; 16 R427; 0; moment of the last heartbeat sent -/
  sentAt : Nat
  hb : Heartbeat
  /-- CCLK or none; 16 R426; none; moment at which step 8 was reached, for the 2 s decision -/
  decideAt : Option Nat
  /-- 1 bit; 16 R425; 0; the traffic state is still to be given up -/
  giveUp : Bool
  /-- 1 bit; 16 R426; 0; STANDBY_ONLY of P0-P7 is held at 1 by the firmware -/
  holdPorts : Bool
  deriving DecidableEq, Repr

def Region.reset : Region := ⟨false, 0, [], List.range 480, List.range' 480 32, [], 0, none⟩
def Jnl.reset : Jnl :=
  { st := 4, region0 := Region.reset, region1 := Region.reset, salt := 0, nextSeq := 1, lastSeq := 0,
    waiting := [], log := [], ckpt := [], ckptSeq := 0, ckptId := 0, compacting := none,
    waiters := [], persistedAt := [], term := 0, batchId := 0 }
def Copy.reset : Copy :=
  { st := 0, ackSeq := 0, pos := 0, ackPos := 0, sendFrom := 0, out := [], outSeq := 0, next := 0, held := [],
    gapAt := none, item := [], items := [], persisted := 0, ckptId := 0, ckptTerm := 0,
    marks := [], persistPos := 0, streamTerm := 0, ackAt := 0 }
def Heartbeat.reset : Heartbeat := ⟨false, false, false, false, false, 0, 0, 0, 0⟩
def Seesaw.reset : Seesaw :=
  { actOut := false, actIn := false, side := false, claimEn := false, wireOk := false, pxOk := false,
    peerRst := false, role := 0, lastRelease := 0, lastChange := 0, inFell := 0, guardAt := none, holdAt := none,
    wireAt := none, pxAt := none, silentAt := none, rstAt := none, differ := 0, hbOut := false,
    sent := 0, sentAt := 0, hb := Heartbeat.reset, decideAt := none, giveUp := false,
    holdPorts := false }

/-! ### Power and start-up (files 17 and 19) -/

/-- The power controller. -/
structure Pwr where
  /-- 8 bits; 17 R439, 19 R492; 0 (OFF_READY); STATE: 0 OFF_READY, 1 STARTING, 2 ACTIVE, 3 STANDBY, 4 MGMT_ONLY, 5 RECOVERY -/
  st : Nat
  /-- 0-10; 17 R444, 19 R492; 0; STEP -/
  step : Nat
  /-- 64 bits; 19 R490; 0; tick at which step 8, 9 or 10 began, for STEP_TIME -/
  stepAt : Nat
  /-- 1 bit; 19 R492; 0; LATE -/
  late : Bool
  /-- 1 bit; 19 R492; 0; RESUMING -/
  resuming : Bool
  /-- 20 bits; 17 R437, 19 R490; 0x00001; PD_ON -/
  on : BitVec 20
  /-- 7 bits; 17 R443, 19 R493; straps (0 before the first latch, DESIGN CHOICE 3); STRAPS -/
  straps : BitVec 7
  /-- 10 x 32 bits; 19 R490; 0; STEP_TIME -/
  times : List (Nat × Word)
  /-- 1 bit; 17 R436, 18 R457; 1; VIN is good -/
  vin : Bool
  /-- 1 bit; 17 R440; 1; POR_N is low -/
  por : Bool
  /-- 1 bit; 17 R441; 1 (DESIGN CHOICE 3: held by the board); PERST_N is low -/
  perst : Bool
  /-- 1 bit; 17 R454, 19 R491; 0; an orderly power-down runs -/
  shutting : Bool
  /-- 1 bit; 18 R458; 0; input overcurrent has been met and is to be reported at the next start -/
  overcurrent : Bool
  /-- 1 bit; 19 R494; 0; READ_OK -/
  otpOk : Bool
  /-- 4 bits; 19 R488; 1; START.CAUSE -/
  cause : Nat
  /-- 16 bits, saturating; 19 R488; 0; START.WARM_COUNT -/
  warm : Nat
  /-- tick by domain; 17 R438; none; tick since which the ENABLEs of PD6-PD14 have been 0 -/
  idle : List (Nat × Nat)
  /-- 2 x (24 bits and MiB); 19 R495; none; flash devices that answered: identity and size -/
  flash : List (Nat × (BitVec 24 × Nat))
  /-- counter; 18 R469; 1 (POR_N is low); times that FLASH0_RESET_N and FLASH1_RESET_N have been driven low -/
  flashRst : Nat
  deriving DecidableEq, Repr

def Pwr.reset : Pwr :=
  { st := 0, step := 0, stepAt := 0, late := false, resuming := false, on := 1, straps := 0, times := [],
    vin := true, por := true, perst := true, shutting := false, overcurrent := false, otpOk := false,
    cause := 1, warm := 0, idle := [], flash := [], flashRst := 1 }

/-- The state of the TX256. -/
structure State where
  /-- commands; the block's form; empty; commands waiting, first in first out -/
  pending : List Instr
  /-- 64 bits; 00 R8, 01 R23; 0; GLB.TICK -/
  tick : Nat
  /-- 0-2047; 00 R7; 0; the CCLK cycle of the tick that events are stamped with -/
  cclk : Nat
  /-- counter; the model's own; 0 (DESIGN CHOICE 2); next index of the free values -/
  free : Nat
  /-- words; 00 R12; the Reset column; registers of the register file that hold what was written, by BAR0 offset -/
  regs : List (Nat × Word)
  /-- words; 00 R12, 02 R62; 0; RC registers by BAR0 offset -/
  rc : List (Nat × Word)
  /-- 64 bits; 00 R13, 03 R91; 0; 64-bit RC counters by BAR0 offset -/
  rc64 : List (Nat × DWord)
  /-- 32 bits each; 00 R13; none; high-word latch of each 64-bit register read low since reset -/
  latch : List (Nat × Option Word)
  /-- 32 bits each; 00 R13; 0; low word held for a write, by offset -/
  held : List (Nat × Word)
  lanes : List (Nat × Lane)
  ports : List (Nat × Port)
  core : Core
  page : Page
  abacus : Abacus
  prot : Prot
  pm : Pm
  timing : Timing
  eng : Engines
  bank : Banks
  mtest : Mtest
  perf : Perf
  hif : Hif
  sec : Sec
  mgmt : Mgmt
  sens : Sens
  smb : Smb
  jtag : Jtag
  otp : Otp
  image : Image
  jnl : Jnl
  copy : Copy
  ssw : Seesaw
  pwr : Pwr
  /-- frames; 02 R53, R54; empty; message-channel frames the framers delivered: lane, TYPE, payload -/
  frames : List (Nat × Byte × Bytes)
  /-- 2,097,152 records; 15 R386; empty; event log, newest first -/
  log : List EvRec
  deriving DecidableEq, Repr

/-- The machine right after reset: VIN good, POR_N low, OFF_READY (17_power_startup.md R439, R440). -/
def State.reset : State :=
  { pending := [], tick := 0, cclk := 0, free := 0, regs := [], rc := [], rc64 := [], latch := [],
    held := [], lanes := [], ports := [], core := Core.reset, page := Page.reset,
    abacus := Abacus.reset, prot := Prot.reset, pm := Pm.reset, timing := Timing.reset,
    eng := Engines.reset, bank := Banks.reset, mtest := Mtest.reset, perf := Perf.reset,
    hif := Hif.reset, sec := Sec.reset, mgmt := Mgmt.reset, sens := Sens.reset, smb := Smb.reset,
    jtag := Jtag.reset, otp := Otp.reset, image := Image.reset, jnl := Jnl.reset, copy := Copy.reset,
    ssw := Seesaw.reset, pwr := Pwr.reset, frames := [], log := [] }

end Sys2Proof.Machine
end

