-- ==== Sys2Proof/Machine/Events.lean ====
section
/-! DEFINITION. The source and the severity of each event (13_host.md R339, Table 13.6). The
severities are those the rules name ("a critical event", "a warning"); where a rule only says that
an event is raised, the severity is the firmware's (Config, log entry 8). -/

namespace Sys2Proof.Machine

/-- SOURCE of an event (13_host.md Table 13.6). -/
def Ev.source : Ev → Nat
  | .stepLate | .inputOvercurrent | .resumeHot => 0x01
  | .sensInvalid | .thermWarn | .thermCrit => 0x02
  | .dpllMode | .refDisagree | .stepDropped | .stepInService | .softWatchdog => 0x03
  | .noTakeover | .sswMismatch | .peerHbLost | .hbPath | .sswChange | .takeoverUnplaced => 0x04
  | .queueError | .ringError | .batchDiscarded | .eventsDropped | .authFail | .replay => 0x05
  | .cipherFault | .sealLost | .blobLost => 0x06
  | .lpddrUncorr | .watchdog | .debugOpen | .logCorrupt => 0x07
  | .jnlState | .jnlDegraded | .jnlFrozen | .jnlLost | .copyState | .diverged | .ckptTooLarge => 0x08
  | .rateMismatch | .bondDrop | .capFail | .capChange | .farStandby | .cutExit | .slip | .modeRefused | .pdn | .pbd | .pcap => 0x09
  | .trainFail | .cwLol | .cwBypassErr | .cwCycleErr | .identChange | .flagMismatch | .mimic | .los | .lol | .locw | .loa | .lot | .lsf | .lsd => 0x0A
  | .readFailed | .strictLost | .rearrLost | .stepRetired => 0x0B
  | .pageSwap | .followMiss | .resyncEcc => 0x0C
  | .rebindUnplaced => 0x0D
  | .chFail | .exerEnd | .bridgeFail | .restoreFail => 0x0E
  | .scs => 0x0F
  | .engHalt | .selRefused => 0x10
  | .bankRefused | .bankEcc | .bankFailed => 0x11
  | .rowNotLent | .columnLost | .repairUnkept | .laneFailed | .stepUnvacated => 0x12
  | .perfOverflow => 0x13

/-- SEVERITY of an event: 2 critical, 1 warning, 0 information, where a rule names it. -/
def Ev.named : Ev → Option (BitVec 2)
  | .rearrLost | .noTakeover | .sswMismatch | .peerHbLost | .jnlDegraded | .jnlFrozen | .jnlLost | .engHalt | .bankFailed | .laneFailed | .stepUnvacated | .cipherFault | .sealLost | .lpddrUncorr | .watchdog | .debugOpen | .thermCrit | .stepLate | .inputOvercurrent => some 2
  | .thermWarn => some 1
  | .trainFail | .cwLol | .cwBypassErr | .cwCycleErr | .identChange | .flagMismatch | .mimic | .los | .lol | .locw | .loa | .lot | .lsf | .lsd | .rateMismatch | .bondDrop | .capFail | .capChange | .farStandby | .cutExit | .slip | .modeRefused | .pdn | .pbd | .pcap | .readFailed | .strictLost | .stepRetired | .pageSwap | .followMiss | .resyncEcc | .rebindUnplaced | .chFail | .exerEnd | .bridgeFail | .restoreFail | .scs | .queueError | .ringError | .batchDiscarded | .eventsDropped | .authFail | .replay | .hbPath | .sswChange | .jnlState | .copyState | .diverged | .ckptTooLarge | .takeoverUnplaced | .dpllMode | .refDisagree | .stepDropped | .stepInService | .softWatchdog | .selRefused | .bankRefused | .bankEcc | .rowNotLent | .columnLost | .repairUnkept | .perfOverflow | .blobLost | .logCorrupt | .sensInvalid | .resumeHot => none

/-- Part 0 of the catalogue. -/
def Ev.all0 : List Ev :=
  [.trainFail, .cwLol, .cwBypassErr, .cwCycleErr, .identChange, .flagMismatch, .mimic, .los, .lol, .locw, .loa, .lot, .lsf, .lsd, .rateMismatch, .bondDrop, .capFail, .capChange, .farStandby, .cutExit]

/-- Part 1 of the catalogue. -/
def Ev.all1 : List Ev :=
  [.slip, .modeRefused, .pdn, .pbd, .pcap, .readFailed, .strictLost, .rearrLost, .stepRetired, .pageSwap, .followMiss, .resyncEcc, .rebindUnplaced, .chFail, .exerEnd, .bridgeFail, .restoreFail, .scs, .queueError, .ringError]

/-- Part 2 of the catalogue. -/
def Ev.all2 : List Ev :=
  [.batchDiscarded, .eventsDropped, .authFail, .replay, .noTakeover, .sswMismatch, .peerHbLost, .hbPath, .sswChange, .jnlState, .jnlDegraded, .jnlFrozen, .jnlLost, .copyState, .diverged, .ckptTooLarge, .takeoverUnplaced, .dpllMode, .refDisagree, .stepDropped]

/-- Part 3 of the catalogue. -/
def Ev.all3 : List Ev :=
  [.stepInService, .softWatchdog, .engHalt, .selRefused, .bankRefused, .bankEcc, .bankFailed, .rowNotLent, .columnLost, .repairUnkept, .laneFailed, .stepUnvacated, .perfOverflow, .cipherFault, .sealLost, .blobLost, .lpddrUncorr, .watchdog, .debugOpen, .logCorrupt]

/-- Part 4 of the catalogue. -/
def Ev.all4 : List Ev :=
  [.sensInvalid, .thermWarn, .thermCrit, .stepLate, .inputOvercurrent, .resumeHot]

/-- Every event the device raises, for EVENT_CATALOG (13_host.md R347). -/
def Ev.all : List Ev := Ev.all0 ++ Ev.all1 ++ Ev.all2 ++ Ev.all3 ++ Ev.all4

/-- SEVERITY of an event (13_host.md R339). -/
def Ev.severity (e : Ev) : BitVec 2 :=
  match e.named with
  | some v => v
  | none => BitVec.ofNat 2 (Config.evSeverity e.ctorIdx).val

end Sys2Proof.Machine
end

