-- ==== Sys2Proof/Machine/Ops.lean ====
section
/-! DEFINITION. The named operations over registers, counters, lanes, ports, events, host memory
and interrupts, on which every meaning is built. -/

namespace Sys2Proof.Machine

/-! ### Time -/

/-- The absolute CCLK count of the present moment (00_scope.md R7). -/
def now (s : State) : Nat := s.tick * 2048 + s.cclk

/-- Ticks of a number of milliseconds (00_scope.md R8). -/
def ms (n : Nat) : Nat := n * 1000

/-- CCLK cycles of a number of ticks. -/
def ticks (n : Nat) : Nat := n * 2048

/-- The first tick whose edge lies at least two ticks after the moment `m` (06_pages.md R150). -/
def tickAfter2 (m : Nat) : Nat := (m + 4096 + 2047) / 2048

/-- A free value below `n` (log entry 2): the draw and the state with the counter advanced. -/
def draw (s : State) : Nat × State := (Config.free s.free, { s with free := s.free + 1 })

/-! ### Register offsets -/

/-- PORT[p] (04_ports.md R113). -/
def portBase (p : Nat) : Nat := 0x100000 + p * 0x10000

/-- LANE[l] for l below 256, PXLANE[l - 256] above (03_lanes.md R91, 04_ports.md R112). -/
def laneBase (l : Nat) : Nat := if l < 256 then 0x200000 + l * 0x1000 else 0x190000 + (l - 256) * 0x1000

/-- The port of a lane. -/
def portOf (l : Nat) : Nat := l / 32

/-- The lane-in-port of a lane. -/
def inPort (l : Nat) : Nat := l % 32

/-- The lane of a port by its lane-in-port. -/
def laneOf (p i : Nat) : Nat := p * 32 + i

/-- Reset values of the PERF block (12_perf_counters.md R321 to R324). -/
def perfReset (o : Nat) : Word :=
  if o = 0 then 2
  else if 0x1000 ≤ o ∧ o < 0x19000 then
    if 0x40 ≤ o % 0x200 ∧ o % 0x200 < 0x58 then 0x60000000
    else if 0x60 ≤ o % 0x200 ∧ o % 0x200 < 0x78 then 0x0003FE00
    else 0
  else if 0x20180 ≤ o ∧ o < 0x20200 then 0x0C0001FF
  else if 0x20200 ≤ o ∧ o < 0x20280 then 0x0003FE00
  else 0

/-- The register blocks whose words hold a value other than 0 after reset (19_registers.md and the
chapters of the blocks). -/
def resetOf (o : Nat) : Word :=
  if o < 0x100000 then
    if o = 0x20004 then 0x00006900
    else if o = 0x30004 then 0x00320641
    else if o = 0x30008 then 0x001405A0
    else if o = 0x3000C then 0x044C0384
    else if o = 0x30010 then 0x03E8000A
    else if o = 0x30014 then 0x34515180
    else if o = 0x30018 then 0x006403E8
    else if o = 0x30070 then 0x80000064
    else if 0x30100 ≤ o ∧ o < 0x301E0 ∧ o % 16 = 0 then 0x03C084B0
    else if 0x30104 ≤ o ∧ o < 0x30184 ∧ o % 16 = 4 then 0x000121EB
    else if o = 0x40004 then 0x15010032
    else if o = 0x50004 then 0x00000010
    else if o = 0x50040 then 0x000001FF
    else if 0x50044 ≤ o ∧ o < 0x50080 then 0x00000010
    else if 0x50100 ≤ o ∧ o < 0x50180 then 0x80000001
    else if o = 0x70004 then 0x00000E10
    else if o = 0x80004 then 0x000A07FF
    else 0
  else if o < 0x190000 then
    if o % 0x10000 = 0 then (if o = 0x180000 then 0x440 else 0x600)
    else if o % 0x10000 = 8 ∧ o ≠ 0x180008 then 0x01000181
    else 0
  else if o < 0x194000 ∨ (0x200000 ≤ o ∧ o < 0x300000) then
    if o % 0x1000 = 0 then 0x32
    else if o % 0x1000 = 8 then 0x00C80000
    else 0
  else if o = 0x310004 then 3
  else if o = 0x320004 then 0x15
  else if 0x330010 ≤ o ∧ o < 0x330030 then 0x00140331
  else if o = 0x340004 then 0x00640002
  else if o = 0x340008 then 0x3E8
  else if o = 0x34000C then 0x9C400190
  else if 0x510000 ≤ o ∧ o < 0x510100 then
    if o = 0x510004 then 0x1F else if o = 0x51000C then 0x03E80A01 else if o = 0x510010 then 4 else 0
  else if 0x600000 ≤ o ∧ o < 0x700000 then perfReset (o - 0x600000)
  else if 0x700000 ≤ o ∧ o < 0x700800 ∧ o % 16 = 12 then 1
  else 0

/-- The value a register of the register file holds. -/
def cfg (s : State) (o : Nat) : Word := spGet resetOf s.regs o

/-- A register's value as a number. -/
def cfgN (s : State) (o : Nat) : Nat := (cfg s o).toNat

/-- Set a register of the register file. -/
def setReg (o : Nat) (v : Word) (s : State) : State := { s with regs := spSet resetOf o v s.regs }

/-- Bits [hi:lo] of a register. -/
def fld (s : State) (o hi lo : Nat) : Nat := bitsOf (cfgN s o) hi lo

/-- Bit i of a register. -/
def flg (s : State) (o i : Nat) : Bool := bitOf (cfgN s o) i

/-- A register word with bits [hi:lo] replaced. -/
def putBits (x : Word) (hi lo v : Nat) : Word :=
  let w := 2 ^ (hi + 1 - lo)
  BitVec.ofNat 32 (x.toNat - bitsOf x.toNat hi lo * 2 ^ lo + v % w * 2 ^ lo)

/-! ### RC registers -/

/-- The value of an RC register. -/
def rcGet (s : State) (o : Nat) : Word := spGet (fun _ => 0) s.rc o

/-- Set an RC register. -/
def rcSet (o : Nat) (v : Word) (s : State) : State := { s with rc := spSet (fun _ => 0) o v s.rc }

/-- Add to a 32-bit RC counter, which saturates (02_tray_format.md R62). -/
def countN (o n : Nat) (s : State) : State :=
  rcSet o (BitVec.ofNat 32 (min 0xFFFFFFFF ((rcGet s o).toNat + n))) s

/-- Count one. -/
def count (o : Nat) (s : State) : State := countN o 1 s

/-- Add to a 64-bit RC counter (03_lanes.md R91, 05_core.md R141). -/
def count64 (o n : Nat) (s : State) : State :=
  let v := min 0xFFFFFFFFFFFFFFFF ((spGet (fun _ => (0 : DWord)) s.rc64 o).toNat + n)
  { s with rc64 := spSet (fun _ => 0) o (BitVec.ofNat 64 v) s.rc64 }

/-! ### Lanes, ports, groups, queues -/

/-- Lane l: 0-255 the global lanes, 256-259 the lanes of PX. -/
def lane (s : State) (l : Nat) : Lane := spGet (fun _ => Lane.reset) s.lanes l

/-- Set a lane. -/
def setLane (l : Nat) (x : Lane) (s : State) : State :=
  { s with lanes := spSet (fun _ => Lane.reset) l x s.lanes }

/-- Port p: 0-7, and 8 for PX. -/
def port (s : State) (p : Nat) : Port := spGet (fun _ => Port.reset) s.ports p

/-- Set a port. -/
def setPort (p : Nat) (x : Port) (s : State) : State :=
  { s with ports := spSet (fun _ => Port.reset) p x s.ports }

/-- Queue q. -/
def queue (s : State) (q : Nat) : Queue := spGet (fun _ => Queue.reset) s.hif.queues q

/-- Set a queue. -/
def setQueue (q : Nat) (x : Queue) (s : State) : State :=
  { s with hif := { s.hif with queues := spSet (fun _ => Queue.reset) q x s.hif.queues } }

/-- Event ring r. -/
def ring (s : State) (r : Nat) : EvRing := spGet (fun _ => EvRing.reset) s.hif.rings r

/-- The rate code in force on a lane; 0b11 acts as 0b10 (03_lanes.md R92). -/
def laneRate (s : State) (l : Nat) : Nat := min 2 (bitsOf (lane s l).tim.inForce.toNat 1 0)

/-- Rows of a tray at a rate code (02_tray_format.md Table 2.1). -/
def rowsOf (r : Nat) : Nat := 4 * 2 ^ r

/-- Rows of the trays of a lane. -/
def laneRows (s : State) (l : Nat) : Nat := rowsOf (laneRate s l)

/-- Slots of the trays of a lane (00_scope.md Table 0.6). -/
def laneSlots (s : State) (l : Nat) : Nat := 64 * laneRows s l

/-- Tray size in bytes of a lane (02_tray_format.md Table 2.1). -/
def traySize (s : State) (l : Nat) : Nat := 3125 * laneRows s l

/-! ### Interrupts and host memory -/

/-- The host link carries memory writes (13_host.md R327). -/
def linkUp (s : State) : Bool := s.hif.link && s.hif.ready

/-- Write bytes to host memory (13_host.md R332); lost while the link is down. -/
def dmaWrite (h : Hif) (a : Nat) (bs : Bytes) : List Host.Cell :=
  if h.link && h.ready then memPut a bs h.hostMem else h.hostMem

/-- A word of a VF's MSI-X table after reset: every vector control has its mask bit set (log entry 6). -/
def vfWordReset (k : Nat) : Word := if k % 4 = 3 then 1 else 0

/-- An entry is masked by its vector control word, shown for the PF in the register map
(19_registers.md R496); the mask bit is 1 after reset as PCIe lays down (log entry 6). -/
def msixMasked (s : State) (fn vec : Nat) : Bool :=
  if fn = 0 then flg s (0x700000 + vec * 16 + 12) 0
  else (spGet vfWordReset s.hif.vfTable (fn * 512 + vec * 4 + 3)).getLsbD 0

/-- Fire an MSI-X entry: send its message, or set its pending bit while masked
(13_host.md R334, R335). -/
def msix (s : State) (h : Hif) (fn vec : Nat) : Hif :=
  if msixMasked s fn vec then { h with pba := spSet (fun _ => false) (fn * 128 + vec) true h.pba }
  else if h.link && h.ready then { h with sent := ⟨fn, vec⟩ :: h.sent }
  else h

/-! ### Journal records -/

/-- TYPE of a record (16_journal_seesaw.md Table 16.4). -/
def JPay.type : JPay → Nat
  | .epoch .. => 0x01 | .regs .. => 0x02 | .counter .. => 0x03 | .keyRef .. => 0x04
  | .repair .. => 0x05 | .retire .. => 0x06 | .holdover .. => 0x07 | .critical .. => 0x08
  | .commit .. => 0x09 | .term .. => 0x10 | .str .. => 0x11 | .swap .. => 0x12
  | .group .. => 0x13 | .decision .. => 0x14 | .scenario .. => 0x15

/-- SHARED class of a record (16_journal_seesaw.md Table 16.4). -/
def JPay.shared (p : JPay) : Bool := decide (0x10 ≤ p.type)

/-- The journal can write: started, a region in service, and the cipher engine not locked
(16_journal_seesaw.md R410, R416; 01_architecture.md R33). -/
def jnlWrites (s : State) : Bool := decide (s.jnl.st < 2) && !s.sec.locked

/-- A newer DECISION record of a group replaces an older one still queued (16_journal_seesaw.md
R409). -/
def sameDecision (p q : JPay) : Bool :=
  match p, q with
  | .decision g .., .decision h .. => g == h
  | _, _ => false

/-- While the management complex restarts, a newer record of a string replaces an older one that its
cluster's banks still hold (15_management.md R383). -/
def sameString (p q : JPay) : Bool :=
  match p, q with
  | .str _ m _, .str _ n _ => m == n
  | _, _ => false

/-- Record `p`, newly raised, replaces the queued record `q`. -/
def replaces (s : State) (p q : JPay) : Bool :=
  sameDecision q p || (s.mgmt.restartAt.isSome && sameString q p)

/-- How many records a logical record raised at SEQ `n` takes (16_journal_seesaw.md R408): a register
snapshot of 647 registers takes two, and records whose layout the spec does not give take an open number
(log entry 17). -/
def JPay.parts (p : JPay) (n : Nat) : Nat :=
  match p with
  | .regs _ => 2
  | .str .. | .scenario .. | .holdover .. => 1 + Config.extraParts n
  | _ => 1

/-- Records can be raised: the journal has started and the cipher engine can seal them. While the journal
is FROZEN they stay in RAM, from where state copy continues (16_journal_seesaw.md R416;
01_architecture.md R33). -/
def jnlSeals (s : State) : Bool := decide (s.jnl.st < 3) && !s.sec.locked

/-- Raise a journal record (16_journal_seesaw.md R406, R409): it takes the next SEQ and waits to be
programmed. -/
def journal (p : JPay) (s : State) : State :=
  let j := s.jnl
  let n := p.parts j.nextSeq
  let r : JRec := ⟨j.nextSeq + n - 1, s.tick, j.salt, false, j.nextSeq + n - 1, n, p⟩
  { s with
    jnl := (if !jnlSeals s then j
            else { j with
              nextSeq := j.nextSeq + n
              waiting := j.waiting.filter (fun x => !replaces s p x.pay) ++ [r] }) }

/-! ### Events -/

/-- SOURCE and OBJECT of a record (13_host.md Table 13.6): an event of a PX lane names PXLANE and its
number there. -/
def recSource (r : EvRec) : Nat × Nat :=
  if r.ev.source = 0x0A ∧ 256 ≤ r.obj then (0x14, r.obj - 256) else (r.ev.source, r.obj)

/-- The 32 bytes of an event record (13_host.md Table 13.6). -/
def evBytes (r : EvRec) (seq : Nat) (phase : Bool) : Bytes :=
  leBytes 8 r.tick ++ [BitVec.ofNat 8 (recSource r).1,
    BitVec.ofNat 8 (r.ev.severity.toNat * 64 + b2n r.clear * 32)]
  ++ leBytes 2 (Config.evCode r.ev.ctorIdx).toNat ++ leBytes 4 (recSource r).2 ++ leBytes 12 r.data
  ++ leBytes 2 seq ++ [0, BitVec.ofNat 8 (b2n phase)]

/-- Entries of event ring r (13_host.md R328). -/
def ringSize (s : State) (r : Nat) : Nat := 2 ^ fld s (0x56008 + 0x20 * r) 26 22

/-- Base address of event ring r. -/
def ringBase (s : State) (r : Nat) : Nat := cfgN s (0x56000 + 0x20 * r) + 2 ^ 32 * cfgN s (0x56004 + 0x20 * r)

/-- Write one record at a ring's producer index and signal it (13_host.md R332, R335). -/
def ringWrite (s : State) (h : Hif) (r : Nat) (e : EvRec) (seq : Nat) : Hif :=
  let x := spGet (fun _ => EvRing.reset) h.rings r
  let size := ringSize s r
  let c := 0x56008 + 0x20 * r
  let fn := fld s c 30 27
  let vec := fld s c 21 15
  let pi := (x.pi + 1) % size
  let int := cfgN s (0x56014 + 0x20 * r)
  let n := x.unsig + 1
  let fire := e.ev.severity = 2 || decide (int / 65536 ≤ n)
  let x' := { x with pi := pi, phase := (if pi = 0 then !x.phase else x.phase),
                     unsig := (if fire then 0 else n),
                     unsigAt := (if x.unsig = 0 then s.tick else x.unsigAt), time := int % 65536 }
  let h' := { h with rings := spSet (fun _ => EvRing.reset) r x' h.rings,
                     hostMem := dmaWrite h (ringBase s r + 32 * x.pi) (evBytes e seq x.phase) }
  if fire && vec ≠ 0 then msix s h' fn vec else h'

/-- SEQ of the next record routed to ring r. -/
def evSeq (h : Hif) (r : Nat) : Nat := spGet (fun _ => 0) h.seqs r

/-- SEQ rises for every record routed to a ring, whether the record is written or not (13_host.md R340). -/
def bumpSeq (h : Hif) (r : Nat) : Hif := { h with seqs := spSet (fun _ => 0) r ((evSeq h r + 1) % 65536) h.seqs }

/-- Route a record to one ring (13_host.md R340): written, or dropped when the ring is full or in
ERROR; a failed write puts the ring into ERROR (R333). A disabled ring takes nothing but the SEQ. -/
def ringPut (s : State) (h : Hif) (r : Nat) (e : EvRec) : Hif :=
  let x := spGet (fun _ => EvRing.reset) h.rings r
  let seq := evSeq h r
  let h := bumpSeq h r
  let up (y : EvRing) : Hif := { h with rings := spSet (fun _ => EvRing.reset) r y h.rings }
  if !x.enabled then h
  else if x.error || (x.pi + 1) % ringSize s r = x.ci then up { x with dropped := x.dropped + 1 }
  else if !(h.link && h.ready) then
    msix s (up { x with dropped := x.dropped + 1, error := true, cause := 3 })
      (fld s (0x56008 + 0x20 * r) 30 27) 0
  else ringWrite s h r e seq

/-- The rings a record goes to (13_host.md R340). -/
def ringsFor (s : State) (e : EvRec) : List Nat :=
  let c := 0x50100 + 4 * (recSource e).1
  let main := if flg s c 31 && fld s c 1 0 ≤ e.ev.severity.toNat then [fld s c 19 16] else []
  let crit := fld s 0x50004 3 0
  if e.ev.severity = 2 && flg s 0x50004 4 && !main.contains crit then main ++ [crit] else main

/-- Records newly dropped at each ring, for EQ_DROPPED (13_host.md R340). -/
def dropCounts (s : State) (h : Hif) : List (Nat × Nat) :=
  ((List.range 16).map fun r =>
    (r, (spGet (fun _ => EvRing.reset) h.rings r).dropped - (ring s r).dropped)).filter (·.2 ≠ 0)

/-- The host interface after a record has been routed. -/
def route (s : State) (e : EvRec) : Hif :=
  if s.hif.rings.isEmpty then { s.hif with seqs := ((ringsFor s e).foldl bumpSeq s.hif).seqs }
  else (ringsFor s e).foldl (fun h r => ringPut s h r e) s.hif

/-- The management firmware takes event records: running, not in a restart, and past step 4 of
start-up (15_management.md R383, 17_power_startup.md R448). -/
def logReady (s : State) : Bool :=
  s.mgmt.up ≠ 0 && s.mgmt.restartAt.isNone && (s.pwr.step = 0 || decide (5 ≤ s.pwr.step))

/-- The critical and warning counts of the sideband (13_host.md R352). -/
def smbNote (m : Smb) (e : EvRec) : Smb :=
  { m with
    crit := (if e.ev.severity = 2 then min 0xFFFF (m.crit + 1) else m.crit)
    warn := (if e.ev.severity = 1 then min 0xFFFF (m.warn + 1) else m.warn)
    last := (if e.ev.severity = 2 then some e else m.last)
    alert := (m.alert || decide (e.ev.severity = 2)) }

/-- Whether a critical record may still be journalled, with those journalled in the second that ends with it: at most 64
in any second (15_management.md R386). -/
def critSlot (s : State) : Bool × List Nat :=
  let c := s.mgmt.crit.filter fun t => decide (s.tick < t + 1000000)
  if c.length < 64 then (true, s.tick :: c) else (false, c)

/-- Deliver one record: into the event log, to the event rings and, when it is critical, to the
journal (13_host.md R340, 15_management.md R386). -/
def deliver (e : EvRec) (s : State) : State :=
  let h := route s e
  let c := critSlot s
  { s with
    log := (e :: s.log).take 2097152
    mgmt := { s.mgmt with
      logNext := s.mgmt.logNext + 1
      crit := (if e.ev.severity = 2 then c.2 else s.mgmt.crit) }
    hif := { s.hif with rings := h.rings, seqs := h.seqs, hostMem := h.hostMem, sent := h.sent, pba := h.pba }
    jnl := (if e.ev.severity = 2 ∧ c.1 then (journal (.critical e) s).jnl else s.jnl)
    rc := (let m := if e.ev.severity = 2 ∧ !c.1 then
               spSet (fun _ => 0) 0x7002C (BitVec.ofNat 32
                 (min 0xFFFFFFFF ((spGet (fun _ => (0 : Word)) s.rc 0x7002C).toNat + 1))) s.rc
             else s.rc
           if s.hif.rings.isEmpty then m
           else (dropCounts s h).foldl (fun m d =>
             spSet (fun _ => 0) (0x56010 + 0x20 * d.1)
               (BitVec.ofNat 32 (min 0xFFFFFFFF ((spGet (fun _ => 0) m (0x56010 + 0x20 * d.1)).toNat + d.2))) m) m) }

/-- A ring drops a record that it never sees: its SEQ and, while it is enabled, the number for EVENTS_DROPPED rise. -/
def ringMiss (h : Hif) (r : Nat) : Hif :=
  let x := spGet (fun _ => EvRing.reset) h.rings r
  let h := bumpSeq h r
  if x.enabled then { h with rings := spSet (fun _ => EvRing.reset) r { x with dropped := x.dropped + 1 } h.rings } else h

/-- Hold a record while the firmware cannot take it: at most 4,096, and beyond that it is dropped and
counted for each ring it would have gone to (15_management.md R383), though it enters the event log (13_host.md
R340). -/
def holdBack (e : EvRec) (s : State) : State :=
  let full := decide (4096 ≤ s.mgmt.held.length)
  let h := if full then (ringsFor s e).foldl ringMiss s.hif else s.hif
  { s with
    mgmt := { s.mgmt with
      held := (if full then s.mgmt.held else s.mgmt.held ++ [e])
      logNext := (if full then s.mgmt.logNext + 1 else s.mgmt.logNext) }
    log := (if full then (e :: s.log).take 2097152 else s.log)
    hif := { s.hif with rings := h.rings, seqs := h.seqs }
    rc := (if !full then s.rc
           else (ringsFor s e).foldl (fun m r =>
             spSet (fun _ => 0) (0x56010 + 0x20 * r)
               (BitVec.ofNat 32 (min 0xFFFFFFFF ((spGet (fun _ => 0) m (0x56010 + 0x20 * r)).toNat + 1))) m) s.rc) }

/-- Event rings that entered ERROR between two states. -/
def newRingErrors (s t : State) : List Nat :=
  if t.hif.rings.isEmpty then [] else (List.range 16).filter fun r => (ring t r).error && !(ring s r).error

/-- Deliver a record, and the event of every event ring whose write failed with it (13_host.md R333),
which a further ring may fail to take. -/
def deliverAll (n : Nat) (e : EvRec) (s : State) : State :=
  let t := deliver e s
  match n with
  | 0 => t
  | n + 1 => (newRingErrors s t).foldl (fun u r =>
      let x : EvRec := ⟨s.tick, .ringError, false, r, 3⟩
      deliverAll n x { u with smb := smbNote u.smb x }) t

/-- Raise an event (13_host.md R339): the sideband counts it at once, and one record is delivered, or
held until the firmware can take it. -/
def raiseX (ev : Ev) (clear : Bool) (obj data : Nat) (s : State) : State :=
  let e : EvRec := ⟨s.tick, ev, clear, obj, data⟩
  let s := { s with smb := smbNote s.smb e }
  if logReady s then deliverAll 16 e s else holdBack e s

/-- The record EVENTS_DROPPED, written first when a ring that dropped records has room again
(13_host.md R340). Like every record it enters the event log. -/
def flushDrops (r : Nat) (s : State) : State :=
  let x := ring s r
  if x.dropped = 0 ∨ !x.enabled ∨ x.error ∨ (x.pi + 1) % ringSize s r = x.ci then s
  else
    let e : EvRec := ⟨s.tick, .eventsDropped, false, r, x.dropped⟩
    let h := ringPut s { s.hif with rings := spSet (fun _ => EvRing.reset) r { x with dropped := 0 } s.hif.rings } r e
    { s with
      hif := { s.hif with rings := h.rings, seqs := h.seqs, hostMem := h.hostMem, sent := h.sent, pba := h.pba }
      log := (e :: s.log).take 2097152
      mgmt := { s.mgmt with logNext := s.mgmt.logNext + 1 } }

/-- Deliver the records held back, in order; then the rings that were to have those beyond them say so. -/
def deliverHeld (s : State) : State :=
  let s := s.mgmt.held.foldl (fun t e => deliverAll 16 e t) { s with mgmt := { s.mgmt with held := [] } }
  if s.hif.rings.isEmpty then s else (List.range 16).foldl (fun t r => flushDrops r t) s

/-- Raise the event of a condition's onset. -/
def raise (ev : Ev) (obj data : Nat) (s : State) : State := raiseX ev false obj data s

/-! ### Performance counters (12_perf_counters.md) -/

/-- The counter numbers: 8e CYCLES, 8e + 1 RETIRED, 8e + 2 + i CNT[i] of engine e, 1536 + k DEV[k]. -/
def devCounter (k : Nat) : Nat := 1536 + k

/-- Width of a counter (R305, R308). -/
def cntWidth (i : Nat) : Nat := if i < 1536 ∧ 2 ≤ i % 8 then 48 else 64

/-- Add to a counter, which wraps and sets its overflow bit (R314). -/
def perfAdd (c i n : Nat) (p : Perf) : Perf :=
  let w := 2 ^ cntWidth i
  let wrote := p.wrote.find? fun e => e.1 = i && e.2.1 = c
  let v := (match wrote with | some e => e.2.2 | none => (spGet (fun _ => (0 : DWord)) p.cnt i).toNat) + n
  { p with
    cnt := (if wrote.isSome then p.cnt else spSet (fun _ => 0) i (BitVec.ofNat 64 (v % w)) p.cnt)
    wrote := (if wrote.isSome then (i, c, v % w) :: p.wrote.filter (·.1 ≠ i) else p.wrote)
    ovf := (if w ≤ v then insNat i p.ovf else p.ovf)
    wrapped := (if w ≤ v then insNat i p.wrapped else p.wrapped) }

/-- A select, a filter or CTRL as it counts in the present ECLK: a write acts from the next one on
(12_perf_counters.md R316, R317). -/
def perfSel (s : State) (off : Nat) : Nat :=
  match s.perf.was.find? fun e => e.1 = off && e.2.1 = now s / 2 with
  | some e => e.2.2.toNat
  | none => cfgN s off

/-- CTRL.FREEZE holds every counter (12_perf_counters.md R317). -/
def frozen (s : State) : Bool := bitOf (perfSel s 0x600000) 0

/-- Whether an event select chooses an event (R309, R318, R322). -/
def selects (sel cls ev : Nat) : Bool :=
  bitOf sel 31 && bitsOf sel 15 8 = cls && (bitsOf sel 7 0 = ev || bitsOf sel 7 0 = 0xFF)

/-- Count `n` occurrences of a device event of class 0x10, 0x11 or 0x13 (R308, R309), with the lane or
port its scope filter is held against. -/
def perfEv (cls ev scope n : Nat) (s : State) : State :=
  let one (p : Perf) (k : Nat) : Perf :=
    let f := bitsOf (perfSel s (0x620180 + 4 * k)) 8 0
    if selects (perfSel s (0x620100 + 4 * k)) cls ev && (cls = 0x13 || f = 0x1FF || (f = scope && decide (f < 256)))
    then perfAdd (now s / 2) (devCounter k) n p else p
  { s with perf := (if frozen s then s.perf else (List.range 32).foldl one s.perf) }

/-- Apply an operation when a condition holds. -/
def onlyIf (c : Bool) (f : State → State) (s : State) : State := if c then f s else s

/-- Apply an operation for each element of a list, in order. -/
def forAll {α : Type} (xs : List α) (f : α → State → State) (s : State) : State :=
  xs.foldl (fun t x => f x t) s

end Sys2Proof.Machine
end

