-- ==== Sys2Proof/Machine/Refs.lean ====
section
/-! DEFINITION. Timing references and the modes of the DPLL: the operations that other blocks reach
(10_timing.md R243 to R255). -/

namespace Sys2Proof.Machine

/-! ### Configuration in force (R262) -/

/-- A TIMING configuration register as it is in force (10_timing.md R262): as it was at the last
selection evaluation. -/
def tcfg (s : State) (o : Nat) : Nat := (spGet resetOf s.timing.inForce (0x30000 + o)).toNat

/-- REF_CFG[n] in force. -/
def refCfg (s : State) (n : Nat) : Nat := tcfg s (0x100 + 16 * n)

/-- REF_CFG[n].ENABLE (10_timing.md R243). -/
def refOn (s : State) (n : Nat) : Bool := decide (n < 14) && bitOf (refCfg s n) 31

/-- WTR of reference n in seconds (10_timing.md Table 10.14). -/
def refWtr (s : State) (n : Nat) : Nat := min 3600 (bitsOf (refCfg s n) 13 2)

/-- PRIO of reference n; 0 acts as 15. -/
def refPrio (s : State) (n : Nat) : Nat := if bitsOf (refCfg s n) 25 22 = 0 then 15 else bitsOf (refCfg s n) 25 22

/-- IN_FREQ of REF8-REF11; other codes act as 10 MHz. -/
def refFreqCode (s : State) (n : Nat) : Nat := if 4 < bitsOf (refCfg s n) 16 14 then 2 else bitsOf (refCfg s n) 16 14

/-- REF_OFS[n], signed ps. -/
def refOfs (s : State) (n : Nat) : Int := (BitVec.ofNat 32 (tcfg s (0x104 + 16 * n))).toInt

/-- REQ_MODE in force: 0 AUTO, 1 FREE, 2 HOLDOVER, 3 SOFT. -/
def reqMode (s : State) : Nat := bitsOf (tcfg s 8) 1 0

/-! ### References -/

/-- Reference n. -/
def ref (s : State) (n : Nat) : Ref := spGet (fun _ => Ref.reset) s.timing.refs n

/-- Set reference n. -/
def setRef (n : Nat) (r : Ref) (s : State) : State :=
  { s with timing := { s.timing with refs := spSet (fun _ => Ref.reset) n r s.timing.refs } }

/-- The lane a reference takes its clock from, for REF0-REF7 and REF12 (10_timing.md Table 10.1). -/
def refLane (s : State) (n : Nat) : Option Nat :=
  if n < 8 then some (laneOf n (bitsOf (refCfg s n) 21 17))
  else if n = 12 then some (256 + bitsOf (refCfg s 12) 21 17 % 4)
  else none

/-- Alignment period of a reference in ps (10_timing.md Table 10.1). -/
def refPeriod (s : State) (n : Nat) : Int :=
  if n < 8 ∨ 12 ≤ n then 1000000
  else match refFreqCode s n with
    | 2 => 100000
    | 3 => 40000
    | 4 => 6400
    | _ => 1000000

/-- A phase error wrapped into the half-open range around 0 (10_timing.md R244). -/
def wrapPhase (period x : Int) : Int := (x + period / 2) % period - period / 2

/-- A reserved quality level is treated as DNU (10_timing.md R245). -/
def qlCode (q : Nat) : Nat := if 6 ≤ q then 0xF else q

/-- The quality level of a reference in force (10_timing.md Table 10.1). -/
def refQl (s : State) (n : Nat) : Nat :=
  let own := bitsOf (refCfg s n) 29 26
  let over_ := bitOf (refCfg s n) 30
  qlCode (
    if n < 8 ∨ n = 12 then
      if over_ then own else match refLane s n with
        | some l => (lane s l).frm.ident.ql.toNat
        | none => own
    else if n = 13 ∧ !over_ ∧ (port s 8).st = 7 then
      (lane s (256 + bitsOf (refCfg s 12) 21 17 % 4)).frm.ident.ql.toNat
    else own)

/-- Rank of a quality level (10_timing.md Table 10.2); DNU has none. -/
def qlRank (q : Nat) : Nat := if q = 0 then 6 else if q = 0xF then 16 else q

/-- A reference is selectable (10_timing.md R251). -/
def selectable (s : State) (n : Nat) : Bool :=
  refOn s n && (ref s n).qualified && refQl s n ≠ 0xF && (refQl s n ≠ 0 || bitOf (tcfg s 8) 6)
    && (n < 12 || !s.ssw.actOut)

/-- The port of a port reference still serves it (10_timing.md Table 10.3). -/
def refPortOk (s : State) (n : Nat) : Bool :=
  match refLane s n with
  | none => true
  | some l =>
    let st := (port s (portOf l)).st
    (lane s l).frm.lock && (if n = 12 then st = 7 else st = 5 || st = 6)

/-- A reference is disqualified at once (10_timing.md R248); the DPLL acts at the next tick edge when
it was selected. Its frequency check passes again only with a new window (R249). -/
def disqualify (n : Nat) (s : State) : State :=
  let r := ref s n
  let s := setRef n { r with qualified := false, active := false, freqOk := false, wtrAt := none } s
  if s.timing.selected = some n ∧ r.qualified then { s with timing := { s.timing with urgent := true } } else s

/-- The references that take their clock from a lane. -/
def refsOfLane (s : State) (l : Nat) : List Nat :=
  (List.range 14).filter fun n => refOn s n && refLane s n = some l

/-- Loss of tray lock on the lane of a port reference disqualifies it (01_architecture.md R32). -/
def loseRefs (l : Nat) (s : State) : State := forAll (refsOfLane s l) disqualify s

/-- All checks of a reference pass (10_timing.md R250). -/
def refPasses (s : State) (n : Nat) : Bool :=
  refOn s n && (ref s n).active && (ref s n).freqOk && (ref s n).wanderOk

/-- The wait-to-restore of a disqualified reference runs while all checks pass (10_timing.md R250). -/
def checkRef (n : Nat) (s : State) : State :=
  let r := ref s n
  if refPasses s n then
    (if r.qualified ∨ r.wtrAt.isSome then s else setRef n { r with wtrAt := some s.tick } s)
  else setRef n { r with wtrAt := none } s

/-- An edge of reference n, `d` ps after the nearest local tick edge, restores its activity and gives
its phase error (10_timing.md R244, R248); an edge out of place, or on a port that does not serve,
disqualifies it. The lock timer of the DPLL follows the selected reference's error (R253). -/
def refEdge (n : Nat) (d : Int) (s : State) : State :=
  let r := ref s n
  let e := wrapPhase (refPeriod s n) (d + refOfs s n)
  let gap := now s - r.edgeAt
  let ok := if 8 ≤ n ∧ n < 12 ∧ refFreqCode s n = 0 then
      decide (ticks 999900 ≤ gap ∧ gap ≤ ticks 1000100) else refPortOk s n
  let window := 1000000 * max 1 (bitsOf (tcfg s 0x10) 15 0)
  let s := setRef n { r with
    phase := e, edgeAt := now s, active := ok,
    winAt := (if ok && !r.active then s.tick else r.winAt),
    samples := (s.tick, e) :: r.samples.filter fun x => decide (s.tick < x.1 + window) } s
  let s := checkRef n (if ok then s else disqualify n s)
  let lim : Int := 1000 * max 1 (bitsOf (tcfg s 4) 15 4)
  if s.timing.selected = some n then
    { s with timing := { s.timing with
      lockAt := (if e.natAbs ≤ lim.natAbs then
                   (match s.timing.lockAt with | some t => some t | none => some s.tick) else none) } }
  else s

/-- Picoseconds from the nearest tick edge of a moment given in CCLK, to the nearest ps (10_timing.md
R244; log entry 14). -/
def psOf (m : Nat) : Int :=
  let c : Int := m % 2048
  let c := if c < 1024 then c else c - 2048
  (c * 15625 + 16) / 32

/-- The write of byte 0 of row 0 on a lane is an edge of every reference that uses the lane
(10_timing.md R244). -/
def laneEdge (l : Nat) (s : State) : State := forAll (refsOfLane s l) (fun n => refEdge n (psOf (now s))) s

/-- The quality level sent on port p (10_timing.md R246, R247): DNU towards the selected reference. -/
def qlSent (s : State) (p : Nat) : Nat :=
  match s.timing.selected with
  | some n => if (n < 8 ∧ n = p) ∨ (12 ≤ n ∧ p = 8) then 0xF else s.timing.qlTx
  | none => s.timing.qlTx

/-! ### Message-channel frames -/

/-- Put a frame on a lane's message channel (02_tray_format.md R52, R53). -/
def sendFrame (l : Nat) (type : Byte) (payload : Bytes) (s : State) : State :=
  let x := lane s l
  setLane l { x with out := { x.out with msg := x.out.msg ++ frameBytes type payload } } s

/-- Take a frame that the framer delivered from the list of those waiting. -/
def takeFrame (l : Nat) (type : Byte) (payload : Bytes) (s : State) : Option State :=
  if s.frames.contains (l, type, payload) then
    some { s with frames := s.frames.erase (l, type, payload) }
  else none

/-- The first PX lane on which a frame of a type with a payload waits. -/
def pxFrame (type : Byte) (payload : Bytes) (s : State) : Option (Nat × State) :=
  [256, 257, 258, 259].findSome? fun l => (takeFrame l type payload s).map fun t => (l, t)

end Sys2Proof.Machine
end

