-- ==== Sys2Proof/Machine/Lanes.lean ====
section
/-! DEFINITION. Lanes: training, codewords and lock (03_lanes.md). -/

namespace Sys2Proof.Machine

/-- The lane of an operand exists: 0-255, and 256-259 for PX (04_ports.md R112). -/
def laneOk (l : Nat) : Bool := decide (l < 260)

/-- The rate code configured for a lane (03_lanes.md Table 3.15). -/
def cfgRate (s : State) (l : Nat) : Nat := min 2 (fld s (laneBase l) 1 0)

/-! ### Transmitter taps (R76) -/

/-- The preset of a TX_PRESET or PRESET value; values other than 2-5 act as preset 1
(03_lanes.md Tables 3.6 and 3.15). -/
def presetTaps (n : Nat) : Taps :=
  if n = 2 then ⟨0, 0, 0, -12, -4, 0⟩
  else if n = 3 then ⟨0, 0, 4, -20, -8, 0⟩
  else if n = 4 then ⟨0, -2, 8, -28, -8, 0⟩
  else if n = 5 then ⟨2, -4, 12, -36, -8, 2⟩
  else ⟨0, 0, 0, 0, 0, 0⟩

/-- The main tap c(0), derived (03_lanes.md R76). -/
def Taps.c0 (t : Taps) : Int :=
  128 - (t.m4.natAbs + t.m3.natAbs + t.m2.natAbs + t.m1.natAbs + t.p1.natAbs + t.p2.natAbs : Nat)

/-- The taps stay within their ranges and c(0) is at least 64 (03_lanes.md R76, Table 3.6). -/
def Taps.ok (t : Taps) : Bool :=
  decide (-6 ≤ t.m4 ∧ t.m4 ≤ 6 ∧ -12 ≤ t.m3 ∧ t.m3 ≤ 12 ∧ -20 ≤ t.m2 ∧ t.m2 ≤ 20 ∧
    -48 ≤ t.m1 ∧ t.m1 ≤ 0 ∧ -32 ≤ t.p1 ∧ t.p1 ≤ 0 ∧ -8 ≤ t.p2 ∧ t.p2 ≤ 8 ∧ 64 ≤ t.c0)

/-- The code of the tap that TAP_SEL names (03_lanes.md Table 3.7). -/
def Taps.get (t : Taps) (sel : Nat) : Int :=
  if sel = 0 then t.m4 else if sel = 1 then t.m3 else if sel = 2 then t.m2
  else if sel = 3 then t.m1 else if sel = 4 then t.c0 else if sel = 5 then t.p1
  else if sel = 6 then t.p2 else 0

/-- One tap changed by one code. -/
def Taps.bump (t : Taps) (sel : Nat) (d : Int) : Taps :=
  if sel = 0 then { t with m4 := t.m4 + d } else if sel = 1 then { t with m3 := t.m3 + d }
  else if sel = 2 then { t with m2 := t.m2 + d } else if sel = 3 then { t with m1 := t.m1 + d }
  else if sel = 5 then { t with p1 := t.p1 + d } else if sel = 6 then { t with p2 := t.p2 + d }
  else t

/-- A signed code as 8 bits. -/
def code8 (x : Int) : Nat := (BitVec.ofInt 8 x).toNat

/-- Act on a CONTROL field (03_lanes.md R77): a preset, an increment or decrement answered 0b01,
0b10 at a limit, 0b11 on c(0), and a hold. PRESET 6, 7 and TAP_REQ 0b11 are reserved and answered
0b11, not supported (DEDUCED, log entry 9). The RESULT of a hold and of TAP_SEL = 0b111, which the rule does not
name, is 0b01 (DESIGN CHOICE, log entry 60). -/
def respond (t : Training) (ctl : BitVec 24) : Training :=
  let c := ctl.toNat
  let id := bitsOf c 23 20
  let preset := bitsOf c 18 16
  let sel := bitsOf c 15 13
  let req := bitsOf c 12 11
  if id = t.ackId.toNat then t
  else
    let t := { t with ackId := BitVec.ofNat 4 id }
    if preset ≠ 0 then
      if preset ≤ 5 then { t with taps := presetTaps preset, result := 1, tapEcho := 7 }
      else { t with result := 3, tapEcho := 7 }
    else if req = 0 ∨ sel = 7 then { t with result := 1, tapEcho := 7 }
    else if sel = 4 ∨ req = 3 then { t with result := 3, tapEcho := BitVec.ofNat 3 sel }
    else
      let n := t.taps.bump sel (if req = 1 then 1 else -1)
      if n.ok then { t with taps := n, result := 1, tapEcho := BitVec.ofNat 3 sel }
      else { t with result := 2, tapEcho := BitVec.ofNat 3 sel }

/-! ### Start and end of training -/

/-- Start training (03_lanes.md R76, R79, R92): the values of LN_CFG are taken into force, the
preset is loaded, training frames are sent, and the frame-lock and training timers start. The
first CONTROL carries the reset request, a hold (R77). The stream position of the codewords to come is kept. -/
def startTraining (l : Nat) (s : State) : State :=
  let x := lane s l
  let c := cfg s (laneBase l)
  let t : Training := { Training.reset with
    tx := 1, rx := 1, signal := x.trn.signal, cdr := x.trn.cdr,
    taps := presetTaps (bitsOf c.toNat 6 4) }
  setLane l { x with
    trn := t, cw := { Codewords.reset with lane := x.cw.lane, pos := x.cw.pos },
    tim := { LaneTimers.reset with inForce := c, frameAt := some (now s), trainAt := some (now s) } } s

/-- FEC bypass in force: never at 425 Gbit/s (03_lanes.md R88). -/
def bypassActive (s : State) (l : Nat) : Bool :=
  bitOf (lane s l).tim.inForce.toNat 3 && decide (laneRate s l < 2)
    && decide ((lane s l).trn.rx ≠ 0)

/-- The framer drops every candidate and tray lock and enters HUNT (02_tray_format.md R56 step 6,
03_lanes.md R84). -/
def dropAlignment (l : Nat) (s : State) : State :=
  let x := lane s l
  setLane l { x with frm := { x.frm with
    cands := [], lock := false, takeover := false,
    lastRow0 := none, bip := none, inFrame := false, row0Ok := false } } s

/-- A lane that fails a condition leaves the bond at once, counted and reported (04_ports.md
R97). The condition is given in the event's DATA: 1 rate, 2 tray lock, 3 LANE_IDX, 4 sequence,
5 skew. -/
def leaveBond (l cause : Nat) (s : State) : State :=
  let x := lane s l
  let p := portOf l
  if x.bond.bonded then
    let s := setLane l { x with bond := { x.bond with bonded := false, good := 0 } } s
    let s := count (portBase p + 0x3C) s
    let y := port s p
    let s := setPort p { y with cnt := { y.cnt with drop := y.cnt.drop + 1 } } s
    raise .bondDrop l cause (perfEv 0x11 0x06 p 1 s)
  else setLane l { x with bond := { x.bond with good := 0 } } s

/-- A lane loses row alignment: it leaves the bond, and the references that take their clock from it
are disqualified (04_ports.md R97, 10_timing.md R248). -/
def loseAlignment (l : Nat) (s : State) : State := leaveBond l 2 (loseRefs l (dropAlignment l s))

/-- A lane returns to OFF (03_lanes.md R92): electrical idle at once, alignment and lock gone. CW_LANE_IDX shows 0 again,
though R93 names no event that clears it (DESIGN CHOICE, log entry 79). -/
def laneOff (l : Nat) (s : State) : State :=
  let s := loseAlignment l s
  let x := lane s l
  setLane l { x with
    trn := { Training.reset with signal := x.trn.signal, cdr := x.trn.cdr, taps := x.trn.taps },
    tim := { LaneTimers.reset with inForce := x.tim.inForce },
    cw := { Codewords.reset with pos := x.cw.pos }, out := { x.out with tail := [], line := [] },
    cnt := { x.cnt with off := true } } s

/-- The power domain of a lane. -/
def laneDomain (l : Nat) : Nat := if l < 256 then 7 + portOf l else 6

/-- An expiry of a training timer (03_lanes.md R79): one failure, an event, and electrical idle
for 1 ms. -/
def trainFailure (l timer : Nat) (s : State) : State :=
  let s := loseAlignment l (count (laneBase l + 0x20) s)
  let x := lane s l
  let s := setLane l { x with
    trn := { x.trn with tx := 0, rx := 1, frameLock := false, ready := false, partner := false,
                        readyRun := 0, framesLeft := 0, readySent := false, precodeTx := false },
    tim := { LaneTimers.reset with inForce := x.tim.inForce, idleAt := some (now s) },
    out := { x.out with tail := [], line := [] } } s
  raise .trainFail l timer s

/-- Training restarts at once (03_lanes.md R79, R85). -/
def restartTraining (l : Nat) (s : State) : State := startTraining l (loseAlignment l s)

/-! ### Training frames (R73 to R78) -/

/-- Frame lock after two consecutive good frames exactly 8,480 UI apart, lost after four frames that fail a test
(03_lanes.md R73). -/
def frameLockStep (good spaced : Bool) (t : Training) : Training :=
  let g := if good then (if spaced then min 2 (t.goodRun + 1) else 1) else 0
  let b := if good && spaced then 0 else min 4 (t.badRun + 1)
  { t with goodRun := g, badRun := b,
           frameLock := (if t.frameLock then decide (b < 4) else decide (g = 2)) }

/-- A frame follows the one before it exactly 8,480 UI later (03_lanes.md R73). -/
def followsOn (last : Option Nat) (ui : Nat) : Bool :=
  match last with
  | some u => decide (ui = u + 8480)
  | none => true

/-- The marker detector on one frame: MARKER, the two checks and the spacing (03_lanes.md R73). -/
def detectFrame (fr : TrainFrame) (t : Training) : Training :=
  let good := markerOk fr && (frameControl fr).isSome && (frameStatus fr).isSome
  { frameLockStep good (followsOn t.lastUi fr.ui) t with lastUi := some fr.ui }

/-- The request sent is acknowledged: the last good STATUS has its REQ_ID as ACK_ID (03_lanes.md R77). -/
def requestAcked (t : Training) : Bool := t.heard && decide (bitsOf t.status.toNat 23 20 = t.reqId.toNat)

/-- The requester's side (03_lanes.md R77, R78), while its countdown has not started: it may change its request,
and RX_READY may rise, once the STATUS received acknowledges the request; a side whose receiver is ready sends a
hold. -/
def requestStep (fr : TrainFrame) (t : Training) : Training :=
  let hold : BitVec 8 := 0x1C
  if t.tx ≠ 1 then t
  else
    let t := { t with ready := fr.adapted && (t.ready || requestAcked t) }
    let want : BitVec 8 := if t.ready then hold
      else BitVec.ofNat 8 (fr.wantPreset.toNat * 32 + fr.wantTap.toNat * 4 + fr.wantReq.toNat)
    if !requestAcked t then t
    else if want ≠ hold then { t with reqId := t.reqId + 1, request := want }
    else { t with request := hold }

/-- The STATUS of a frame (03_lanes.md R73, R78): PARTNER_READY, the run of three, PRECODE_RX; RX_READY that
returns to 0 during the countdown takes the side back to step 2. -/
def takeStatus (st : BitVec 24) (t : Training) : Training :=
  let rdy := bitOf st.toNat 17
  let t := { t with
    status := st, heard := true, partner := rdy, readyRun := (if rdy then min 3 (t.readyRun + 1) else 0)
    precodeRx := bitOf st.toNat 16 }
  if !rdy ∧ t.tx = 2 then { t with framesLeft := 0, tx := 1, precodeTx := false } else t

/-- The receive side of one training frame: checks, lock, STATUS, the responder and the requester
(03_lanes.md R73 to R78). A field whose check fits is acted on whether or not the MARKER is intact and frame lock
is held (DESIGN CHOICE, log entry 60). -/
def trainFrame (fr : TrainFrame) (t : Training) : Training :=
  let t := detectFrame fr t
  let t := match frameStatus fr with
    | some st => takeStatus st t
    | none => t
  let t := match frameControl fr with
    | some c => respond { t with control := c } c
    | none => t
  requestStep fr t

/-- The countdown starts once RX_READY has been sent and received three times
(03_lanes.md R78 step 2); PRECODE of the last good CONTROL decides PRECODE_TX. -/
def startCountdown (t : Training) : Training :=
  if t.tx = 1 ∧ t.ready ∧ t.readySent ∧ t.readyRun = 3 then
    { t with framesLeft := 8, tx := 2, precodeTx := bitOf t.control.toNat 7 }
  else t

/-- The timers after a training frame (03_lanes.md R79): loss of frame lock before the countdown restarts the
frame-lock timer and the current request; FRAMES_LEFT = 1 starts the hunt and its 50 us. -/
def frameTimers (m : Nat) (old t : Training) (ending : Bool) (x : LaneTimers) : LaneTimers :=
  let lost := old.frameLock && !t.frameLock && t.tx = 1
  { x with
    frameAt := (if lost then some m else if t.frameLock then none else x.frameAt)
    reqAt := (if requestAcked t then none
              else if lost || t.reqId ≠ old.reqId then some m else x.reqAt)
    cwAt := (if ending then some m else x.cwAt) }

/-- TRAINING_FRAME_RX (03_lanes.md R73 to R78, R85): a training frame is received on a lane that is
on. In CW_HUNT after a loss, frame lock restarts training. -/
def execTrainingFrameRx (l : Nat) (fr : TrainFrame) (s : State) : Host.Outcome State Fault Refusal :=
  let x := lane s l
  if !laneOk l || x.trn.rx = 0 || x.tim.idleAt.isSome then .next s
  else if x.tim.huntAt.isSome then
    let t := detectFrame fr x.trn
    if t.frameLock && !x.trn.frameLock then .next (restartTraining l s)
    else .next (setLane l { x with trn := t } s)
  else if x.trn.rx ≠ 1 then .next s
  else
    let t := startCountdown (trainFrame fr x.trn)
    let ending := (frameStatus fr).any fun st => decide (bitsOf st.toNat 11 8 = 1)
    .next (setLane l { x with
      trn := { t with rx := (if ending then 2 else t.rx) }
      tim := frameTimers (now s) x.trn t ending x.tim
      cw := (if ending then { x.cw with cands := [], huntFrom := none } else x.cw)
      cnt := { x.cnt with lof := x.cnt.lof || (x.trn.frameLock && !t.frameLock) } } s)

/-! ### The frame sent (R74, R75, R78) -/

/-- CONTROL sent: the request, PRECODE_REQ in force and the lane's index (03_lanes.md Table 3.7). -/
def sentControl (l : Nat) (x : Lane) : Nat :=
  let r := x.trn.request.toNat
  (x.trn.reqId.toNat * 16 + r / 32) * 65536 + (bitsOf r 4 2 * 32 + r % 4 * 8) * 256
    + (b2n (bitOf x.tim.inForce.toNat 8) * 128 + inPort l)

/-- STATUS sent (03_lanes.md Table 3.8), with the TAP_VALUE `v`. -/
def sentStatus (t : Training) (v : Nat) : Nat :=
  (t.ackId.toNat * 16 + t.result.toNat * 4 + b2n t.ready * 2 + b2n t.precodeTx) * 65536
    + (t.tapEcho.toNat * 32 + t.framesLeft.toNat) * 256 + v % 256

/-- TAP_VALUE: the code of the tap TAP_ECHO names; where it names none the spec states no value, and it is a free
one (03_lanes.md Table 3.8, log entry 60). -/
def tapValue (t : Training) (s : State) : Nat × State :=
  if t.tapEcho = 7 then draw s else (code8 (t.taps.get t.tapEcho.toNat), s)

/-- UI of a tick at a rate code (03_lanes.md Table 3.1). -/
def uiPerTick (rate : Nat) : Nat := 53125 * 2 ^ rate

/-- Trays of a codeword cycle at a rate code (03_lanes.md Table 3.12). -/
def cycleTrays (rate : Nat) : Nat := 32 / 2 ^ rate

/-- The UI of the codeword cycle that is sent at the present moment (03_lanes.md R86). -/
def cycleUi (s : State) (rate : Nat) : Nat :=
  s.tick % cycleTrays rate * uiPerTick rate + s.cclk * uiPerTick rate / 2048

/-- One training frame sent (03_lanes.md R72, R74, R75, R78): the frame itself, with the pattern that runs on for
`more` UI after it, RX_READY as sent, and the countdown. -/
def frameSent (l : Nat) (v more : Nat) (x : Lane) : Training :=
  let t := { x.trn with
    sent := frameLevels (inPort l) (sentControl l x) (sentStatus x.trn v) more, readySent := x.trn.ready }
  if t.tx ≠ 2 then startCountdown t
  else if t.framesLeft = 1 then { t with framesLeft := 0, tx := 3 }
  else { t with framesLeft := t.framesLeft - 1 }

/-- The limit of a training timer in CCLK (03_lanes.md Table 3.9): 0 frame lock, 1 training,
2 request response, 3 codeword lock after training. MAX_TIME below 10 acts as 10, above 1,000 as
1,000 (Table 3.17). -/
def timerLimit (s : State) (l timer : Nat) : Nat :=
  if timer = 0 then ticks (ms 1)
  else if timer = 1 then ticks (ms (min 1000 (max 10 (fld s (laneBase l + 8) 25 16))))
  else if timer = 2 then ticks 100
  else ticks 50

/-- The start of a training timer that is running. -/
def timerStart (x : LaneTimers) (timer : Nat) : Option Nat :=
  if timer = 0 then x.frameAt else if timer = 1 then x.trainAt
  else if timer = 2 then x.reqAt else if timer = 3 then x.cwAt else none

/-- A deadline that started at `start` has passed. -/
def due (s : State) (start : Option Nat) (limit : Nat) : Bool :=
  match start with
  | some t => decide (t + limit ≤ now s)
  | none => false

/-- TRAINING_TIMEOUT (03_lanes.md R79): a training timer of the lane has reached its limit. -/
def execTrainingTimeout (l timer : Nat) (s : State) : Host.Outcome State Fault Refusal :=
  if laneOk l && due s (timerStart (lane s l).tim timer) (timerLimit s l timer)
  then .next (trainFailure l timer s) else .next s

/-- ELECTRICAL_IDLE_END (03_lanes.md R79): the 1 ms after a failure ends and training restarts,
while ENABLE stands. -/
def execElectricalIdleEnd (l : Nat) (s : State) : Host.Outcome State Fault Refusal :=
  if laneOk l && due s (lane s l).tim.idleAt (ticks (ms 1)) && flg s (laneBase l) 9
  then .next (startTraining l s) else .next s

/-! ### Codewords (R80 to R89) -/

/-- The head check fits (03_lanes.md R81). -/
def headOk (h : BitVec 20) : Bool := crc5 (h.toNat / 32) == h.toNat % 32

/-- CW_INDEX of a head. -/
def headIndex (h : BitVec 20) : Nat := h.toNat / 1024

/-- A codeword that decodes and whose head check fits with a CW_INDEX that is used (03_lanes.md R81, R82). -/
def goodCodeword (c : Codeword) : Bool := c.errors.isSome && headOk c.head && decide (headIndex c.head < 625)

/-- CW_LANE of a head. -/
def headLane (h : BitVec 20) : BitVec 5 := BitVec.ofNat 5 (bitsOf h.toNat 9 5)

/-- Codeword lock is gained (03_lanes.md R83): hunting and its timers end. The framer takes the data of the
codewords that follow; the first of them with CW_INDEX 0 starts the cycle (R86). -/
def gainLock (l : Nat) (c : Codeword) (s : State) : State :=
  let x := lane s l
  let done := decide (x.trn.tx = 3)
  let i := (headIndex c.head + 1) % 625
  setLane l { x with
    trn := { x.trn with rx := 3 }
    tim := { x.tim with
      cwAt := none, huntAt := none, frameAt := none
      trainAt := (if done then none else x.tim.trainAt) }
    cw := { x.cw with
      cands := [], bad := 0, index := i, ui := c.ui + 2720, rx := [], huntFrom := none
      lane := headLane c.head, cycleAt := some (x.cw.pos + 640 * ((625 - i) % 625)) }
    cnt := { x.cnt with locked := true } } s

/-- The hunt tests a UI position in its codeword time: eight positions in each, in order (03_lanes.md R83), from position 0 in
the first codeword time after hunting starts (DESIGN CHOICE, log entry 79). -/
def huntTests (x : Codewords) (ui : Nat) : Bool :=
  decide (ui % 2720 / 8 = (ui / 2720 - x.huntFrom.getD (ui / 2720)) % 340)

/-- Hunting (03_lanes.md R83, R85): the UI positions are stepped through eight in each codeword time; a candidate
boundary is dropped at its first bad codeword and confirmed at the third consecutive good one whose CW_INDEX follows
on; at most eight are held, and a ninth is not taken up (DESIGN CHOICE, log entry 79). -/
def huntStep (l : Nat) (c : Codeword) (s : State) : State :=
  let x := lane s l
  let good := goodCodeword c
  let i := headIndex c.head
  let w := { x.cw with
    huntFrom := some (x.cw.huntFrom.getD (c.ui / 2720)), lane := (if good then headLane c.head else x.cw.lane) }
  let others := x.cw.cands.filter (·.ui ≠ c.ui)
  match x.cw.cands.find? (·.ui = c.ui) with
  | none =>
    let test := huntTests x.cw c.ui
    setLane l { x with cw :=
      (if !test then { x.cw with huntFrom := w.huntFrom }
       else if good && decide (x.cw.cands.length < 8) then
         { w with cands := x.cw.cands ++ [⟨c.ui + 2720, 1, i⟩] }
       else w) } s
  | some k =>
    let n := if i = (k.index + 1) % 625 then k.good + 1 else 1
    if good && decide (n = 3) then gainLock l c s
    else if good then setLane l { x with cw := { w with cands := others ++ [⟨c.ui + 2720, n, i⟩] } } s
    else setLane l { x with cw := { w with cands := others } } s

/-- Loss of codeword lock (03_lanes.md R84): counted, reported, the framer hunts, and the lane hunts
again (R85). FRAME_LOCK, kept from the training until then, is given up (DESIGN CHOICE, log entry 60). -/
def loseCodewordLock (l : Nat) (s : State) : State :=
  let s := loseAlignment l (count (laneBase l + 0x418) s)
  let x := lane s l
  let s := setLane l { x with
    trn := { x.trn with rx := 2, goodRun := 0, badRun := 0, frameLock := false, lastUi := none },
    tim := { x.tim with huntAt := some (now s) },
    cw := { x.cw with cands := [], bad := 0, cycleAt := none, huntFrom := none, rx := [] },
    cnt := { x.cnt with locw := true } } s
  raise .cwLol l 0 s

/-- The counters of one codeword under lock (03_lanes.md Table 3.14, R88, R89): corrected symbols, errored and
uncorrectable codewords; the first error in bypass raises an event. -/
def countCodeword (l : Nat) (c : Codeword) (s : State) : State :=
  let b := laneBase l
  let x := lane s l
  if c.errors = some 0 then s
  else
    let n := c.errors.getD 0
    let lost := b2n c.errors.isNone
    let byp := bypassActive s l
    let s := count (b + 0x408) (countN (b + 0x40C) lost (count64 (b + 0x400) n s))
    let s := setLane l { x with
      cnt := { x.cnt with corr := x.cnt.corr + n, uncorr := x.cnt.uncorr + lost },
      tim := { x.tim with bypassErr := x.tim.bypassErr || byp } } s
    onlyIf (byp && !x.tim.bypassErr) (raise .cwBypassErr l 0) s

/-- The data of a codeword go to the framer (03_lanes.md R82, R88): the last 6,400 stream bytes are kept. -/
def streamData (x : Codewords) (data : Bytes) : Codewords :=
  let bs := x.rx ++ data
  { x with rx := bs.drop (bs.length - 6400), pos := x.pos + 640 }

/-- One codeword under lock (03_lanes.md R82, R84). -/
def lockedStep (l : Nat) (c : Codeword) (s : State) : State :=
  let x := lane s l
  let ok := headOk c.head && decide (headIndex c.head = x.cw.index)
  let good := c.errors.isSome && ok
  let s := onlyIf (!ok) (count (laneBase l + 0x410)) s
  let x := lane s l
  let cw := { streamData x.cw c.data with
    index := (x.cw.index + 1) % 625, bad := (if good then 0 else x.cw.bad + 1), ui := x.cw.ui + 2720
    lane := (if good then headLane c.head else x.cw.lane)
    cycleAt := (if x.cw.index = 0 then some x.cw.pos else x.cw.cycleAt) }
  let s := setLane l { x with cw := cw } s
  if cw.bad = 4 then loseCodewordLock l s else s

/-- The row of 3,125 bytes at stream byte `p`, while the stream kept holds all of it (02_tray_format.md R36). -/
def rowAt (s : State) (l p : Nat) : Option Bytes :=
  let x := (lane s l).cw
  if p + 3125 ≤ x.pos ∧ x.pos ≤ p + x.rx.length then some (sub x.rx (p + x.rx.length - x.pos) 3125) else none

/-- CODEWORD_HUNT_TIMEOUT (03_lanes.md R85): 1 ms without codeword lock after a loss restarts
training at once. -/
def execCodewordHuntTimeout (l : Nat) (s : State) : Host.Outcome State Fault Refusal :=
  if laneOk l && due s (lane s l).tim.huntAt (ticks (ms 1)) then .next (restartTraining l s) else .next s

/-- LANE_SIGNAL_CHANGE (03_lanes.md R93, R94): SIGNAL and the lock of clock recovery as received; a loss is
declared to the event latch of the tick. -/
def execLaneSignalChange (l : Nat) (signal cdr : Bool) (s : State) : Host.Outcome State Fault Refusal :=
  if !laneOk l then .next s
  else
    let x := lane s l
    .next (setLane l { x with
      trn := { x.trn with signal := signal, cdr := signal && cdr }
      cnt := { x.cnt with los := x.cnt.los || !signal, lol := x.cnt.lol || !(signal && cdr) } } s)

end Sys2Proof.Machine
end

