-- ==== Sys2Proof/Machine/Ports.lean ====
section
/-! DEFINITION. Ports: bonding, tray phase, binding and service states (04_ports.md), and the
follow decision on page colour (06_pages.md R156 to R158). -/

namespace Sys2Proof.Machine

/-- The lanes of a port, as in force (04_ports.md R95, R114). -/
def portLanes (s : State) (p : Nat) : List Nat := (List.range (port s p).lanes).map (laneOf p)

/-- The bonded lanes of a port, in ascending order. -/
def bondedLanes (s : State) (p : Nat) : List Nat := (portLanes s p).filter fun l => (lane s l).bond.bonded

/-- LANES as it acts: 0 as 1, above 32 as 32, 4 on PX (04_ports.md R114). -/
def cfgLanes (s : State) (p : Nat) : Nat :=
  if p = 8 then 4 else min 32 (max 1 (fld s (portBase p) 9 4))

/-- MIN_LANES as it acts: 0 as 1, above LANES as LANES (04_ports.md R114). -/
def cfgMinLanes (s : State) (p : Nat) : Nat := min (cfgLanes s p) (max 1 (fld s (portBase p) 15 10))

/-- CUT_SPAN as it acts (04_ports.md R116). -/
def cutSpan (td : Word) : Int := min 1024 (max 16 (bitsOf td.toNat 26 16))

/-- CUT_EDGE as it acts (04_ports.md R116). -/
def cutEdge (td : Word) : Int := min 1024 (max 24 (bitsOf td.toNat 14 4))

/-- MODE as it acts: 0 CUT, 1 STORE, 2 STORE2; 0b11 acts as 0b01 (04_ports.md R116). -/
def tdMode (td : Word) : Nat := if bitsOf td.toNat 1 0 = 3 then 1 else bitsOf td.toNat 1 0

/-- The binding band of A of a mode (04_ports.md Table 4.3). -/
def bandOf (mode : Nat) (td : Word) : Int × Int :=
  if mode = 0 then (-(cutEdge td) - cutSpan td, -(cutEdge td))
  else if mode = 2 then (-6128, -4081) else (-4111, -2064)

/-- The holding range of A of a mode (04_ports.md Table 4.3). -/
def holdOf (mode : Nat) (td : Word) : Int × Int := if mode = 0 then bandOf 0 td else (-6128, -2064)

/-- `x` lies in the range, ends included. -/
def within (r : Int × Int) (x : Int) : Bool := decide (r.1 ≤ x ∧ x ≤ r.2)

/-- The tick, of those whose low 32 bits equal `w`, that is nearest to the present. -/
def nearTick (s : State) (w : Word) : Int := s.tick + (w - BitVec.ofNat 32 s.tick).toInt

/-- A of a tray whose row 0 was written at moment `t` and whose read tick is `x` (R106). -/
def offsetA (t : Nat) (x : Int) : Int := t - 2048 * x

/-- A outside SERVICE: against the tick in which the tray's last byte is written (R106). -/
def freeA (t : Nat) : Int := (t : Int) - 2048 * (((t + 2048) / 2048 : Nat) : Int)

/-- The read tick of a mode's band for a tray written at `t` (04_ports.md R107): none when A
cannot lie in the band. -/
def bandTick (r : Int × Int) (t : Nat) : Option Int :=
  let x := -(((r.2 - t) / 2048 : Int))
  if within r (offsetA t x) then some x else none

/-- The binding the port chooses for a mode from its last tray: read tick and mode, STORE when A
falls outside the CUT window (04_ports.md R107). -/
def chooseBinding (mode : Nat) (td : Word) (t : Nat) : Int × Nat :=
  match bandTick (bandOf mode td) t with
  | some x => (x, mode)
  | none => ((bandTick (bandOf 1 td) t).getD 0, 1)

/-- K of a read tick for a sequence (04_ports.md R105). -/
def kOf (x : Int) (seq : Word) : Word := BitVec.ofInt 32 x - seq

/-- The port binds as it enters SERVICE (04_ports.md R105, R107). -/
def bindPort (p : Nat) (s : State) : State :=
  let x := port s p
  let td := x.bind.td
  match x.bind.arrivals.getLast? with
  | none => s
  | some (seq, t) =>
    let (rt, mode) := chooseBinding (tdMode td) td t
    setPort p { x with bind := { x.bind with
      bound := true, k := kOf rt seq, mode := BitVec.ofNat 2 mode, exitPending := false,
      slip := none, cond := [], last := none, arrival := offsetA t rt } } s

/-- The port leaves SERVICE: it holds no binding (04_ports.md R105). -/
def unbindPort (p : Nat) (s : State) : State :=
  let x := port s p
  let td := cfg s (portBase p + 8)
  setPort p { x with bind := { x.bind with
    bound := false, k := 0, mode := BitVec.ofNat 2 (tdMode td), td := td, modePending := false,
    exitPending := false, slip := none, cond := [], last := none } } s

/-- A rebinding at tick `x` to K `k` (04_ports.md R108): the conditioned ticks are laid down. Two causes in the same
tick make one rebinding, from the K before both. -/
def rebindTo (p : Nat) (x : Nat) (k : Word) (s : State) : State :=
  let y := port s p
  let k0 := match y.bind.last with
    | some (t, k0) => if t = x then k0 else y.bind.k
    | none => y.bind.k
  let d := (k - k0).toInt
  let cond := if d ≥ 1 then (List.range d.toNat).map (x + ·) else if d ≤ -1 then [x] else []
  setPort p { y with bind := { y.bind with k := k, slip := none, cond := cond, last := some (x, k0) } } s

/-- A rebinding into the band of a mode at tick `x` (04_ports.md R108, R109, R111). -/
def rebindInto (p mode : Nat) (x : Nat) (s : State) : State :=
  let y := port s p
  match y.bind.arrivals.getLast? with
  | none => s
  | some (seq, t) =>
    let (rt, m) := chooseBinding mode y.bind.td t
    let s := rebindTo p x (kOf rt seq) s
    let y := port s p
    setPort p { y with bind := { y.bind with mode := BitVec.ofNat 2 m, exitPending := false } } s

/-- A pending write of TD_CFG takes effect at the data tick of a swap (04_ports.md R111): a new mode
of CUT that finds A outside the window leaves the port in its previous mode. The new CUT_EDGE and CUT_SPAN are then
in force all the same (DESIGN CHOICE, log entry 62). -/
def applyTdPending (p x : Nat) (s : State) : State :=
  let y := port s p
  let td := cfg s (portBase p + 8)
  let s := setPort p { y with bind := { y.bind with td := td, modePending := false } } s
  match y.bind.arrivals.getLast? with
  | none => s
  | some (_, t) =>
    if tdMode td = 0 ∧ (bandTick (bandOf 0 td) t).isNone then
      raise .modeRefused p 0 (if y.bind.exitPending then rebindInto p 1 x s else s)
    else rebindInto p (tdMode td) x s

/-- What a page set that carries a port's rebinding does at its swap tick (04_ports.md R109, R111;
06_pages.md R153 step 4). -/
def rebindAtSwap (x : Nat) (p : Nat) (s : State) : State :=
  let y := port s p
  if !y.bind.bound then s
  else if y.bind.modePending then applyTdPending p x s
  else if y.bind.exitPending then rebindInto p 1 x s
  else s

/-- Change the page controller. -/
def onPage (f : Page → Page) (s : State) : State := { s with page := f s.page }

/-- Change the abacus. -/
def onAbacus (f : Abacus → Abacus) (s : State) : State := { s with abacus := f s.abacus }

/-- The abacus ends its job; a scenario rebuild in the background shows again. -/
def jobEnds (s : State) : State :=
  onAbacus (fun a => { a with job := (if a.rebuilding.isSome then 4 else 0), first := false }) s

/-- The standby page goes to RESYNC and what it held is gone (06_pages.md R152); rebindings it carried
wait again (R153 step 4). -/
def resync (s : State) : State :=
  jobEnds (onPage (fun p => { p with
    standby := .resync, holder := none, armed := none, next := none, since := now s
    rebinds := ((p.armed.map (·.carries)).getD []).foldl (fun m x => insNat x m) p.rebinds }) s)

/-- A test of the standby page that a request abandons (06_pages.md R154): counted, and the page goes
to RESYNC. -/
def abandonPageTest (s : State) : State :=
  if s.page.standby = .borrowed then
    resync { count 0x51002C s with mtest := { s.mtest with target := 0, mode := 0, pausedAt := none } }
  else s

/-- The port asks for a page swap for its rebinding (06_pages.md R153 step 4): a build, which abandons a
test of the standby page (R154). -/
def askRebind (p : Nat) (s : State) : State :=
  onPage (fun x => { x with rebinds := insNat p x.rebinds }) (abandonPageTest s)

/-- Count a slip and schedule it (04_ports.md R110). -/
def slip (p : Nat) (x : Int) (d : Int) (s : State) : State :=
  let y := port s p
  let late := decide (d = 1)
  let s := setPort p { y with
    bind := { y.bind with slip := some (x.toNat, d) },
    cnt := { y.cnt with
      late := y.cnt.late + b2n late, early := y.cnt.early + b2n (!late) } } s
  raise .slip p (b2n late)
    (perfEv 0x11 (if late then 0x03 else 0x04) p 1 (count (portBase p + if late then 0x30 else 0x34) s))

/-- What the port does when A leaves its holding range (04_ports.md R109, R110). -/
def watchPhase (p : Nat) (t : Nat) (x a : Int) (s : State) : State :=
  let y := port s p
  let m := y.bind.mode.toNat
  if !y.bind.bound || y.bind.slip.isSome || within (holdOf m y.bind.td) a then s
  else if m = 0 then
    if y.bind.exitPending then s
    else
      let s := setPort p { y with
        bind := { y.bind with exitPending := true }, cnt := { y.cnt with exit := y.cnt.exit + 1 } } s
      askRebind p (raise .cutExit p 0 (perfEv 0x11 0x05 p 1 (count (portBase p + 0x38) s)))
  else if a > -2064 then
    slip p (if (t : Int) > 2048 * (x - 1) + 2032 then x + 1 else x) 1 s
  else slip p x (-1) s

/-- The moment at which the latest bonded lane wrote tray `seq` (05_core.md R117); the last four are kept. -/
def noteArrival (p : Nat) (seq : Word) (t : Nat) (s : State) : State :=
  let y := port s p
  let arr := y.bind.arrivals.filter (·.1 ≠ seq) ++ [(seq, t)]
  setPort p { y with bind := { y.bind with arrivals := arr.drop (arr.length - 4) } } s

/-- The port measures A of a tray and its skew (04_ports.md R106, R113) and reacts to A; PX has no tray phase
(R112). -/
def measure (p : Nat) (seq : Word) (t : Nat) (skew latest : Nat) (s : State) : State :=
  let y := port s p
  let s := setPort p { y with bind := { y.bind with skew := skew, late := latest } } s
  if p = 8 then s
  else
    let y := port s p
    let x := nearTick s (seq + y.bind.k)
    let a := if y.bind.bound then offsetA t x else freeA t
    let r := match y.bind.range with
      | none => (a, a)
      | some (lo, hi) => (min lo a, max hi a)
    let s := noteArrival p seq t (setPort p { y with bind := { y.bind with arrival := a, range := some r } } s)
    watchPhase p t x a s

/-! ### Bonding (R95 to R97) -/

/-- The first three conditions of 04_ports.md R96: the condition that fails, 0 for none. -/
def bondFail (s : State) (p l : Nat) : Nat :=
  let x := lane s l
  if cfgRate s l ≠ cfgRate s (laneOf p 0) then 1
  else if !x.frm.lock then 2
  else if !x.frm.identSeen || x.frm.ident.laneIdx.toNat ≠ inPort l then 3
  else 0

/-- The sequence most lanes carry; on a tie, that of the lowest lane (04_ports.md R96). -/
def refSeq (g : List (Nat × Word × Nat)) : Word :=
  let cnt (w : Word) := (g.filter (·.2.1 = w)).length
  let n := (g.map fun e => cnt e.2.1).foldl max 0
  let best := g.filter fun e => cnt e.2.1 = n
  (best.foldl (fun (b : Nat × Word) e => if e.1 < b.1 then (e.1, e.2.1) else b) (1000, 0)).2

/-- The write of the earliest bonded lane among `xs`, or of the earliest lane while none is bonded. -/
def earliest (s : State) (xs : List (Nat × Word × Nat)) : Nat :=
  let bonded := xs.filter fun e => (lane s e.1).bond.bonded
  let base := if bonded.isEmpty then xs else bonded
  base.foldl (fun m e => min m e.2.2) (base.head?.elim 0 (·.2.2))

/-- The moment from which skew is counted (04_ports.md R96): the write of the earliest bonded lane with
the reference sequence; while no such lane is bonded, that of the earliest lane with it (DESIGN CHOICE,
log entry 62). -/
def skewBase (s : State) (g : List (Nat × Word × Nat)) : Nat := earliest s (g.filter (·.2.1 = refSeq g))

/-- The moment from which the window of 1,024 CCLK of a group runs: the write of its earliest bonded lane, so that
the lanes of a bond always fall in one group (04_ports.md R96); while it has none, its first write (DESIGN
CHOICE, log entry 62). -/
def groupStart (s : State) (g : List (Nat × Word × Nat)) : Nat := earliest s g

/-- Judge one lane by a group (04_ports.md R96, R97). -/
def judgeLane (p : Nat) (g : List (Nat × Word × Nat)) (ref : Word) (t0 : Nat) (l : Nat)
    (s : State) : State :=
  let c := bondFail s p l
  if c ≠ 0 then leaveBond l c s
  else match g.find? (·.1 = l) with
    | none => leaveBond l 4 s
    | some (_, q, t) =>
      if q ≠ ref then leaveBond l 4 s
      else if t > t0 + 614 then leaveBond l 5 s
      else
        let x := lane s l
        let n := min 2 (x.bond.good + 1)
        setLane l { x with bond := { x.bond with good := n, bonded := x.bond.bonded || n = 2 } } s

/-- Judge the group of trays that is complete (04_ports.md R96, R97), and measure the tray. -/
def judgeGroup (p : Nat) (s : State) : State :=
  let g := (port s p).group
  let s := setPort p { port s p with judged := true } s
  let ref := refSeq g
  let s := forAll (portLanes s p) (judgeLane p g ref (skewBase s g)) s
  let live := g.filter fun e => e.2.1 = ref && (lane s e.1).bond.bonded
  match live with
  | [] => s
  | e0 :: rest =>
    let lastE := rest.foldl (fun m e => if e.2.2 > m.2.2 then e else m) e0
    let first := rest.foldl (fun m e => min m e.2.2) e0.2.2
    measure p ref lastE.2.2 (lastE.2.2 - first) (inPort lastE.1) s

/-- The group in progress is judged once its window of 1,024 CCLK is past (04_ports.md R96). -/
def closeGroup (p : Nat) (s : State) : State :=
  let y := port s p
  if !y.judged && decide (now s > groupStart s y.group + 1024) then judgeGroup p s else s

/-- The group in progress is judged as soon as every lane that meets the first three conditions is in it. -/
def fullGroup (p : Nat) (s : State) : State :=
  let y := port s p
  if !y.judged && (portLanes s p).all (fun l => bondFail s p l ≠ 0 || y.group.any (·.1 = l))
  then judgeGroup p s else s

/-- Once every bonded lane has written the tray, the latest of them gives its arrival, whatever lanes outside the bond
are still to come (04_ports.md R98). -/
def bondArrived (p : Nat) (s : State) : State :=
  let g := (port s p).group
  let ref := refSeq g
  let bs := (bondedLanes s p).map fun l => (g.find? fun e => e.1 = l && e.2.1 = ref).map (·.2.2)
  if p = 8 || bs.isEmpty || bs.any (·.isNone) then s
  else noteArrival p ref ((bs.filterMap id).foldl max 0) s

/-- A lane that comes within the window of a group already judged joins it: it is judged by the group with it in,
and lanes of the group whose sequence is then not the reference leave (DEDUCED, log entry 62). -/
def joinGroup (p l : Nat) (s : State) : State :=
  let g := (port s p).group
  let ref := refSeq g
  let s := forAll (g.filter fun e => e.1 ≠ l && e.2.1 ≠ ref) (fun e s => leaveBond e.1 4 s) s
  judgeLane p g ref (skewBase s g) l s

/-- Byte 0 of row 0 of the tray with sequence `q` is written at the present moment on a lane of port p
(04_ports.md R96, R97): a lane that fails one of the first three conditions leaves the bond; any other enters the
group in progress, or starts the next one. -/
def row0Written (p l : Nat) (q : Word) (s : State) : State :=
  let c := bondFail s p l
  if !(portLanes s p).contains l then s
  else if c ≠ 0 then fullGroup p (leaveBond l c s)
  else
    let y := port s p
    let e := (l, q, now s)
    if !y.group.isEmpty && decide (now s ≤ groupStart s y.group + 1024) && !y.group.any (·.1 = l) then
      let s := setPort p { y with group := y.group ++ [e] } s
      if y.judged then joinGroup p l s else fullGroup p (bondArrived p s)
    else
      let s := if y.judged then s else judgeGroup p s
      fullGroup p (bondArrived p (setPort p { port s p with group := [e], judged := false } s))

/-! ### Forward moves (R99) -/

/-- Lanes of a port that hold codeword lock. -/
def lockedLanes (s : State) (p : Nat) : List Nat := (portLanes s p).filter fun l => (lane s l).trn.rx = 3

/-- A port enters CAPABILITY (04_ports.md R99, R104): the 10 ms count starts. -/
def enterCapability (p : Nat) (s : State) : State :=
  let y := port s p
  setPort p { y with st := 4, cap := { y.cap with
    agreed := false, agreeNow := false, since := some (now s), heardAt := none, silent := false,
    sent := [] } } s

/-- One forward move below CAPABILITY, as soon as every lane of the port meets its condition
(04_ports.md Table 4.1). -/
def advanceOnce (p : Nat) (s : State) : State :=
  let y := port s p
  let ls := portLanes s p
  if y.st = 1 ∧ ls.all (fun l => (lane s l).trn.rx = 3) then setPort p { y with st := 2 } s
  else if y.st = 2 ∧ ls.all (fun l => (lane s l).frm.lock) then setPort p { y with st := 3 } s
  else if y.st = 3 ∧ ls.all (fun l => (lane s l).bond.bonded) then
    enterCapability p (setPort p { y with cap := { y.cap with ok := true, goodAt := none } } s)
  else s

/-- The forward moves that have become possible. -/
def advancePort (p : Nat) (s : State) : State := advanceOnce p (advanceOnce p (advanceOnce p s))

/-! ### Page colour (06_pages.md R156 to R158) -/

/-- The follow record of a port. -/
def followOf (s : State) (p : Nat) : Follow := spGet (fun _ => Follow.reset) s.page.follow p

/-- Set the follow record of a port. -/
def setFollow (p : Nat) (f : Follow) (s : State) : State :=
  { s with page := { s.page with follow := spSet (fun _ => Follow.reset) p f s.page.follow } }

/-- The first condition of 06_pages.md R158 that fails at a colour change, by the codes of Table 6.4;
0 when the page controller swaps. The decision falls 16 CCLK after the header is written (R156). -/
def followMiss (s : State) (p : Nat) (x : Int) (row0 : Bool) (gen : BitVec 8) : Nat :=
  match s.page.standby, s.page.armed with
  | .armed, some a =>
    match a.work with
    | .batch _ _ (some (fp, fgen)) _ =>
      if a.swap.isSome then 1
      else if fp ≠ p then 3
      else if fgen ≠ 0 ∧ !row0 then 5
      else if fgen ≠ 0 ∧ fgen ≠ gen then 4
      else if (a.armedAt : Int) > 2048 * (x - 2) then 6
      else if s.page.lastSwap ≠ 0 ∧ x < s.page.lastSwap + 4 then 7
      else if (now s + 16 : Int) ≥ 2048 * x then 8
      else 0
    | _ => 2
  | .committed, some a =>
    match a.work with
    | .batch _ _ (some (fp, _)) _ => if fp ≠ p ∧ a.swap = some x.toNat then 3 else 1
    | _ => 1
  | _, _ => 1

/-- The follow decision for the tray being received on lane `l` of port `p` (06_pages.md R156 to
R158). -/
def followDecision (p l : Nat) (s : State) : State :=
  let f := (lane s l).frm
  let y := port s p
  let colour := bitOf f.flags.toNat 0
  let seen := followOf s p
  if !(flg s (portBase p) 2) || y.st ≠ 5 || (bondedLanes s p).head? ≠ some l || !f.lock then s
  else if !seen.valid then setFollow p { seen with valid := true, colour := colour } s
  else if seen.colour = colour then s
  else
    let x := nearTick s (f.seq + y.bind.k)
    let gen : BitVec 8 := if f.row0Ok then f.ident.gen else 0
    let m := followMiss s p x f.row0Ok f.ident.gen
    let s := setFollow p { seen with
      colour := colour, gen := gen, miss := (if m = 0 then seen.miss else BitVec.ofNat 4 m) } s
    if m = 0 then
      { s with page := { s.page with
        standby := .committed,
        armed := s.page.armed.map fun a => { a with swap := some x.toNat } } }
    else raise .followMiss p m (perfEv 0x13 0x04 0 1 (count (0x310040 + 4 * p) s))

end Sys2Proof.Machine
end

