-- ==== Sys2Proof/Machine/Framer.lean ====
section
/-! DEFINITION. The receiving framer: rows, trays, slots and row channels (02_tray_format.md). -/

namespace Sys2Proof.Machine

/-! ### Headers (R37 to R39) -/

/-- ROW of a header. -/
def hdrRow (bs : Bytes) : Nat := (bs.getD 0 0).toNat % 16

/-- SEQ_LO of a header. -/
def hdrSeqLo (bs : Bytes) : Nat := beAt bs 1 2

/-- The flags TEST, CUT_CAP, STANDBY and COLOUR of a header. -/
def hdrFlags (bs : Bytes) : BitVec 4 := BitVec.ofNat 4 (bs.getD 3 0).toNat

/-- A header fits (02_tray_format.md R38). -/
def headerFits (rate : Nat) (bs : Bytes) : Bool :=
  let b0 := (bs.getD 0 0).toNat
  let b3 := (bs.getD 3 0).toNat
  crc16 (sub bs 0 4) == beAt bs 4 2 && b0 / 64 == 0 && b3 / 16 == 0 && bitsOf b0 5 4 == rate
    && decide (b0 % 16 < rowsOf rate)

/-! ### Row alignment (R56, R57) -/

/-- What one header position gave: the new framer, whether the position was the SYNC candidate's,
whether the header fits, whether it was good there, whether the SYNC candidate was dropped, the expected
row, and whether a background candidate reached 16 rows. -/
structure HeaderStep where
  frm : Framer
  sync : Bool
  fits : Bool
  good : Bool
  dropped : Bool
  row : Nat
  mimic : Bool
  deriving DecidableEq, Repr

/-- The first candidate of count 2 becomes the SYNC candidate when none is
(02_tray_format.md R56, steps 3 and 5); of several that hold count 2 at a drop, the one longest in the table
(DESIGN CHOICE, log entry 61). -/
def promote : List Cand → List Cand
  | [] => []
  | c :: cs => if c.count = 2 then { c with sync := true, bad := 0 } :: cs else c :: promote cs

/-- A SYNC candidate is held. -/
def hasSync (cs : List Cand) : Bool := cs.any (·.sync)

/-- One header position (02_tray_format.md R56 steps 1 to 5, R57). The row at which the count reaches 2 is the first of the
16 consecutive rows of R57 (DESIGN CHOICE, log entry 79). -/
def headerStep (f : Framer) (rows pos : Nat) (fits : Bool) (row : Nat) : HeaderStep :=
  match f.cands.find? (·.pos = pos) with
  | none =>
    if fits && decide (f.cands.length < 4) then
      let c : Cand := ⟨pos + 3125, (row + 1) % rows, 0, false, 0, 0⟩
      ⟨{ f with cands := f.cands ++ [c] }, false, fits, false, false, row, false⟩
    else ⟨f, false, fits, false, false, row, false⟩
  | some c =>
    let ok := fits && decide (row = c.row)
    let others := f.cands.filter (·.pos ≠ pos)
    let step := { c with pos := pos + 3125, row := (c.row + 1) % rows }
    let put (d : Cand) := f.cands.map fun x => if x.pos = pos then d else x
    if c.sync then
      if ok then ⟨{ f with cands := put { step with bad := 0 } }, true, true, true, false, c.row, false⟩
      else if c.bad < 3 then
        ⟨{ f with cands := put { step with bad := c.bad + 1 } }, true, fits, false, false, c.row, false⟩
      else
        let next := promote others
        let took := hasSync next
        ⟨{ f with cands := next, takeover := f.lock && took, lock := f.lock && took,
                  lastRow0 := none },
         true, fits, false, true, c.row, false⟩
    else if !ok then ⟨{ f with cands := others }, false, fits, false, false, c.row, false⟩
    else
      let n := min 2 (c.count + 1)
      let m := if hasSync f.cands ∧ n = 2 then min 17 (c.mimic + 1) else 0
      let cs := put { step with count := n, mimic := m }
      if hasSync f.cands then ⟨{ f with cands := cs }, false, true, false, false, c.row, m = 16⟩
      else
        let cs := promote cs
        ⟨{ f with cands := cs }, hasSync cs, true, true, false, c.row, false⟩

/-! ### Tray lock (R58 to R60) -/

/-- The tray boundary: a row 0 position of the SYNC candidate starts the next tray. -/
def newTray (f : Framer) : Framer :=
  { f with seq := (if f.lock then f.seq + 1 else f.seq), seqErrPrev := f.seqErr, seqErr := false,
           flagsTaken := false, flagCounted := false, row0Ok := false }

/-- Lose tray lock (02_tray_format.md R59, R60). -/
def loseLock (f : Framer) : Framer :=
  { f with lock := false, takeover := false, lastRow0 := none, seq := 0, inFrame := false }

/-- A fitting header with a wrong ROW at the SYNC candidate's expected position: its SEQ_LO is held against the
prediction like any other's (02_tray_format.md R59). The framer and whether a sequence error is counted. -/
def strayHeader (f : Framer) (bs : Bytes) : Framer × Bool :=
  let err := f.lock && decide (hdrSeqLo bs ≠ f.seq.toNat % 65536)
  if err && (f.takeover || f.seqErrPrev) then (loseLock f, true)
  else ({ f with seqErr := f.seqErr || err, takeover := false }, err)

/-- The framer right after a background candidate took over at row `r` (02_tray_format.md R41, R59): the prediction
goes on with the new candidate's place in its tray, which lies within half a tray of the old one's (DEDUCED, log
entry 61). A tray of the new candidate that has begun is started. -/
def takeOver (f : Framer) (rows r : Nat) : Framer :=
  let next := ((f.cands.find? (·.sync)).map (·.row)).getD 0
  let behind := (r + 1 + rows - next) % rows
  let k : Int := if 2 * behind < rows then (r + 1 : Int) - behind else (r + 1 : Int) - behind + rows
  let q := f.seq + (if r = 0 then 1 else 0) + BitVec.ofInt 32 (k / rows)
  let cur := if next = 0 then q - 1 else q
  if !f.lock then f
  else if cur = f.seq + 1 ∨ cur = f.seq + 2 then { newTray f with seq := cur } else { f with seq := cur }

/-- A good header of the SYNC candidate (02_tray_format.md R58, R59): the framer and whether a
sequence error is counted. -/
def goodHeader (f : Framer) (bs : Bytes) (row seqHi : Nat) : Framer × Bool :=
  let lo := hdrSeqLo bs
  let full := BitVec.ofNat 32 (seqHi * 65536 + lo)
  if f.lock then
    let err := decide (lo ≠ f.seq.toNat % 65536) || (row = 0 && decide (seqHi ≠ f.seq.toNat / 65536))
    if err && (f.takeover || f.seqErrPrev) then (loseLock f, true)
    else
      ({ f with seqErr := f.seqErr || err, takeover := false,
                lastRow0 := if row = 0 then some full else f.lastRow0 }, err)
  else if row ≠ 0 then (f, false)
  else
    match f.lastRow0 with
    | some q =>
      if full = q + 1 then
        ({ f with lock := true, seq := full, lastRow0 := some full, seqErr := false,
                  seqErrPrev := false }, false)
      else ({ f with lastRow0 := some full }, false)
    | none => ({ f with lastRow0 := some full }, false)

/-! ### Slots (R42, R43) -/

/-- The payload of 48 bytes, byte 0 in the top bits. -/
def payloadOf (bs : Bytes) : BitVec 384 := BitVec.ofNat 384 (beNat bs)

/-- The 64 slots of a descrambled row (02_tray_format.md R36, R42). -/
def rowSlots (bs : Bytes) : List SlotWord :=
  (List.range 64).map fun j =>
    let b := (bs.getD (6 + j / 2) 0).toNat
    ⟨BitVec.ofNat 4 (if j % 2 = 0 then b / 16 else b % 16), payloadOf (sub bs (53 + 48 * j) 48)⟩

/-- P of a slot does not match its payload (02_tray_format.md R43). -/
def badParity (w : SlotWord) : Bool := decide (w.tag.toNat % 4 ≠ (parity w.payload).toNat)

/-- String n of a map. -/
def CMap.str (m : CMap) (n : Nat) : Str := spGet (fun _ => Str.free) m.strs n

/-- The string whose input slots name a global slot identifier: the string that reads the slot
(07_strings_abacus.md R172). -/
def stringOf (s : State) (gsid : Nat) : Option Nat :=
  (s.abacus.map.strs.find? fun e => e.2.ins.contains gsid).map (·.1)

/-- Add to a string's counts of the tick (09_monitoring.md R223, R231). -/
def strAdd (n bip2 cUp cSub : Nat) (s : State) : State :=
  let x := spGet (fun _ => StrTick.reset) s.pm.strTick n
  { s with pm := { s.pm with
      strTick := spSet (fun _ => StrTick.reset) n
        ⟨x.bip2 + bip2, x.cUp + cUp, x.cSub + cSub⟩ s.pm.strTick } }

/-- The device substitutes conditioned fill for the slots of string n that lane l now receives: the lane is out
of the bond, the port does not serve, the tick that reads the tray is conditioned (04_ports.md R98, R108), or the
read with ILAG = 1 is refused (05_core.md R119); such slots do not count as received with C = 1 (09_monitoring.md R223, R231). -/
def replaced (s : State) (l n : Nat) : Bool :=
  let y := port s (portOf l)
  let lag := (s.abacus.map.str n).legs.any (·.ilag)
  let x := nearTick s ((lane s l).frm.seq + y.bind.k) + b2n lag
  !(lane s l).bond.bonded || y.st ≠ 5 || !y.bind.bound || y.bind.cond.contains x.toNat || (lag && y.bind.mode ≠ 0)

/-- A slot of string n is filled by the device; `up` says that it had been counted as one that arrived with C = 1. -/
def strFill (n : Nat) (up : Bool) (s : State) : State :=
  let x := spGet (fun _ => StrTick.reset) s.pm.strTick n
  { s with pm := { s.pm with
      strTick := spSet (fun _ => StrTick.reset) n ⟨x.bip2, x.cUp - b2n up, x.cSub + 1⟩ s.pm.strTick } }

/-- Count one received slot: a mismatch of P for the lane and the string that reads it, and a C = 1
slot from upstream for the string (02_tray_format.md R43, 09_monitoring.md R223). -/
def countSlot (l row : Nat) (e : Nat × SlotWord) (s : State) : State :=
  let bad := badParity e.2
  let c := bitOf e.2.tag.toNat 2
  if !bad && !c then s
  else
    let x := lane s l
    let s := onlyIf bad (fun s =>
      setLane l { x with cnt := { x.cnt with bip2 := x.cnt.bip2 + 1 } } (count (laneBase l + 0x818) s)) s
    match stringOf s (l * 1024 + row * 64 + e.1) with
    | some n =>
      let g := l * 1024 + row * 64 + e.1
      let gone := replaced s l n || s.core.filled.any fun f => f.1 = g && f.2.1 = x.frm.seq
      strAdd n (b2n bad) (b2n (c && !gone)) 0 s
    | none => s

/-- Write a row received in alignment into the ingress buffer (01_architecture.md Table 1.6): page
by sequence modulo 4. PX discards its slots (04_ports.md R112). -/
def writeRow (l row : Nat) (seq : Word) (ws : List SlotWord) (s : State) : State :=
  if l < 256 then
    let key := (l * 4 + seq.toNat % 4) * 16 + row
    { s with core := { s.core with ingress := spIns key ⟨seq, ws⟩ s.core.ingress } }
  else s

/-! ### Row channels (R47 to R54) -/

/-- The row channel of a row carries switching requests (02_tray_format.md Table 2.5). -/
def srRow (row : Nat) : Bool := row == 1 || row == 2 || row == 4 || row == 5

/-- The row channel of a row carries the message channel (02_tray_format.md Table 2.5). -/
def msgRow (row : Nat) : Bool := row == 3 || decide (6 ≤ row)

/-- A switching-request row received in alignment (02_tray_format.md R51). A row whose SR_CHK fails is not received, so that
the sequence counts it as missed, and the number of rows missed is taken modulo 256, the width of SR_SEQ (DESIGN CHOICE,
log entry 79). -/
def srChannel (l : Nat) (bs : Bytes) (s : State) : State :=
  let body := sub bs 39 13
  if crc8 body ≠ (bs.getD 52 0).toNat then count (laneBase l + 0x81C) s
  else
    let q : BitVec 8 := bs.getD 51 0
    let x := lane s l
    let missed : BitVec 8 := match x.frm.srSeq with
      | some p => q - p - 1
      | none => 0
    let msgs := ([0, 4, 8].map fun o => BitVec.ofNat 32 (beAt bs (39 + o) 4)).filter (· ≠ 0xFFFFFFFF)
    let total := x.frm.srMissed + missed
    let s := setLane l { x with frm := { x.frm with
      srSeq := some q, srMissed := (if msgs.isEmpty then total else 0) } } s
    let out := ((List.range msgs.length).zip msgs).map fun e =>
      (⟨l, e.2, q, x.frm.seq, if e.1 = 0 then total else 0⟩ : SrMsg)
    perfEv 0x11 0x02 l out.length { s with prot := { s.prot with inbox := s.prot.inbox ++ out } }

/-- A frame between two flags (02_tray_format.md R53, R54): discarded with its counter, or
delivered. Journal types are refused on every port but PX. -/
def endFrame (l : Nat) (esc : Bool) (body : Bytes) (s : State) : State :=
  let n := body.length
  if n = 0 ∧ !esc then s
  else if esc ∨ n < 3 ∨ n > 243 ∨ crc16 (body.take (n - 2)) ≠ beAt body (n - 2) 2 then
    count (laneBase l + 0x820) s
  else
    let ty := (body.getD 0 0).toNat
    let known := decide (1 ≤ ty ∧ ty ≤ 0x3F) || (decide (0x40 ≤ ty ∧ ty ≤ 0x5F) && decide (256 ≤ l))
      || decide (0x60 ≤ ty ∧ ty ≤ 0x6F)
    if known then { s with frames := s.frames ++ [(l, body.getD 0 0, (body.take (n - 2)).drop 1)] }
    else count (laneBase l + 0x824) s

/-- One byte of the message channel (02_tray_format.md R52, R53). -/
def msgByte (l : Nat) (b : Byte) (s : State) : State :=
  let x := lane s l
  if b = 0x7E then
    let s := if x.frm.inFrame then endFrame l x.frm.esc x.frm.buf s else s
    let x := lane s l
    setLane l { x with frm := { x.frm with inFrame := true, esc := false, buf := [] } } s
  else if !x.frm.inFrame then s
  else if x.frm.esc then
    setLane l { x with frm := { x.frm with esc := false, buf := x.frm.buf ++ [b ^^^ 0x20] } } s
  else if b = 0x7D then setLane l { x with frm := { x.frm with esc := true } } s
  else if x.frm.buf.length > 243 then s
  else setLane l { x with frm := { x.frm with buf := x.frm.buf ++ [b] } } s

/-- A message-channel row that is lost aborts the frame in progress (02_tray_format.md R53). -/
def abortFrame (l : Nat) (s : State) : State :=
  let x := lane s l
  setLane l { x with frm := { x.frm with inFrame := false, esc := false, buf := [] } } s

/-- The identity of row 0 (02_tray_format.md R48, R49): shown, and a change of DEVICE_ID, PORT_NUM,
LANE_IDX or ROLE raises an event. -/
def takeIdentity (l : Nat) (bs : Bytes) (s : State) : State :=
  let x := lane s l
  let i : Identity := ⟨BitVec.ofNat 32 (beAt bs 43 4), bs.getD 47 0,
    BitVec.ofNat 5 (bs.getD 48 0).toNat, bs.getD 49 0, BitVec.ofNat 4 (bs.getD 42 0).toNat, bs.getD 41 0⟩
  let o := x.frm.ident
  let changed := x.frm.identSeen && decide
    (i.device ≠ o.device ∨ i.portNum ≠ o.portNum ∨ i.laneIdx ≠ o.laneIdx ∨ i.role ≠ o.role)
  let s := setLane l { x with frm := { x.frm with ident := i, identSeen := true, row0Ok := true } } s
  onlyIf changed (raise .identChange l 0) s

/-! ### The row -/

/-- Flags of a fitting header (02_tray_format.md R40, R55): taken from the first, compared in the
others; a test tray in SERVICE counts as a mismatch; one count and one event for a tray. STANDBY of the tray gives
FAR_STANDBY on the lowest bonded lane of the port, whatever the other lanes carry (04_ports.md R101; DESIGN CHOICE,
log entry 61). -/
def takeFlags (l : Nat) (bs : Bytes) (s : State) : State :=
  let x := lane s l
  let f := x.frm
  let fl := hdrFlags bs
  let first := !f.flagsTaken
  let flags := if first then fl else f.flags
  let test := bitOf flags.toNat 3 && decide ((port s (portOf l)).st = 5)
  let bad := (!first && decide (fl ≠ f.flags)) || test
  let hit := bad && !f.flagCounted
  let s := setLane l { x with frm := { f with
    flags := flags, flagsTaken := true, flagCounted := f.flagCounted || bad } } s
  let s := onlyIf hit (fun s => raise .flagMismatch l 0 (count (laneBase l + 0x830) s)) s
  let p := portOf l
  let y := port s p
  let sb := bitOf flags.toNat 1
  let s := if first && (bondedLanes s p).head? == some l && sb != y.farStandby then
      raise .farStandby p (b2n sb) (setPort p { y with farStandby := sb } s) else s
  onlyIf (first && decide (p < 8)) (followDecision p l) s

/-- Byte 0 of a tray that starts a codeword cycle must fall on data byte 0 of a codeword with
CW_INDEX 0 (03_lanes.md R87). -/
def checkCycle (l pos : Nat) (s : State) : State :=
  let x := lane s l
  match x.cw.cycleAt with
  | some c =>
    if x.trn.rx = 3 ∧ x.frm.lock ∧ x.frm.seq.toNat % cycleTrays (laneRate s l) = 0 ∧ ((pos : Int) - c) % 400000 ≠ 0 then
      raise .cwCycleErr l 0 (count (laneBase l + 0x414) s)
    else s
  | none => s

/-- BIP-8 of a row at a SYNC position (02_tray_format.md R45): held against the row before it, when that one was
received in alignment; what this row gives the next is kept when it was itself received in alignment. -/
def checkBip (l : Nat) (aligned : Bool) (raw bs : Bytes) (s : State) : State :=
  let x := lane s l
  let errs := match x.frm.bip with
    | some b => ones (b ^^^ bs.getD 38 0)
    | none => 0
  setLane l { x with
    frm := { x.frm with bip := if aligned then some (xorBytes raw) else none },
    cnt := { x.cnt with bip8 := x.cnt.bip8 + errs } } (countN (laneBase l + 0x814) errs s)

/-- The contents of a row received in alignment (02_tray_format.md R43, R47): slots and row channel; row 0 is
written with its moment and enters its group. -/
def alignedRow (l row : Nat) (fits : Bool) (bs : Bytes) (s : State) : State :=
  let ws := rowSlots bs
  let s := forAll ((List.range 64).zip ws) (countSlot l row) (writeRow l row (lane s l).frm.seq ws s)
  if row = 0 then
    let s := laneEdge l s
    let x := lane s l
    row0Written (portOf l) l x.frm.seq
      (setLane l { x with bond := { x.bond with row0 := some (x.frm.seq, now s) } } s)
  else if srRow row then (if fits then srChannel l bs s else s)
  else if fits then forAll (sub bs 39 14) (msgByte l) s
  else abortFrame l s

/-- A row that was not received in alignment loses its part of the message channel (02_tray_format.md R47). -/
def lostRow (l row : Nat) (s : State) : State := if msgRow row then abortFrame l s else s

/-- The framer at a position of the SYNC candidate (02_tray_format.md R56, R58, R59), and whether a sequence error
is counted. -/
def syncFrm (rows : Nat) (h : HeaderStep) (raw bs : Bytes) : Framer × Bool :=
  if h.dropped then
    if h.frm.lock then (takeOver h.frm rows h.row, false)
    else ((if h.row = 0 then newTray h.frm else h.frm), false)
  else
    let f := if h.row = 0 then newTray h.frm else h.frm
    if h.good then
      let (f, err) := goodHeader f raw h.row (beAt bs 39 2)
      ({ f with lastRow := BitVec.ofNat 4 h.row }, err)
    else
      let f := if h.row = 0 ∧ !f.lock then { f with lastRow0 := none } else f
      if h.fits then strayHeader f raw else (f, false)

/-- The tray being received is a test tray in SERVICE, by the flags taken or by this first fitting header
(02_tray_format.md R55). -/
def testTray (s : State) (l : Nat) (fits : Bool) (raw : Bytes) : Bool :=
  let f := (lane s l).frm
  let fl := if f.flagsTaken then f.flags else if fits then hdrFlags raw else 0
  bitOf fl.toNat 3 && decide ((port s (portOf l)).st = 5)

/-- The row at a position of the SYNC candidate (02_tray_format.md R40, R45, R49, R58 to R61): header, identity
of row 0 before its flags, BIP-8, codeword cycle, and the row's contents. The flags of a tray and the identity of row 0 are
taken under tray lock only: R40 and R49 name no lock (DESIGN CHOICE, log entry 79). -/
def syncRow (l pos : Nat) (h : HeaderStep) (raw : Bytes) (s : State) : State :=
  let bs := raw.take 6 ++ scramble h.row (raw.drop 6)
  let b := laneBase l
  let x := lane s l
  let had := x.frm.lock
  let (f, err) := syncFrm (laneRows s l) h raw bs
  let miss := b2n (!h.good) + b2n err
  let s := setLane l { x with frm := f, cnt := { x.cnt with
    hdr := x.cnt.hdr + miss, loa := x.cnt.loa || h.dropped } } (countN (b + 0x810) miss s)
  let s := onlyIf h.dropped (count (b + 0x828)) s
  let aligned := f.lock && !h.dropped && !testTray s l h.fits raw
  let s := onlyIf (aligned && h.good && h.row = 0) (takeIdentity l bs) s
  let s := onlyIf (h.fits && !h.dropped && f.lock) (takeFlags l raw) s
  let s := onlyIf (had && !f.lock) (fun s => leaveBond l 2 (loseRefs l s)) s
  let s := onlyIf (h.row = 0 && f.lock) (perfEv 0x11 0x00 l 1) s
  let s := checkBip l aligned raw bs s
  let s := onlyIf (h.row = 0 && !h.dropped) (checkCycle l pos) s
  if aligned then alignedRow l h.row h.fits bs s
  else lostRow l h.row (onlyIf f.lock (perfEv 0x11 0x01 l 1) s)

/-- ROW_RX (02_tray_format.md R56 and the rules of the row): the header position at stream byte `pos` of a lane, with
byte 0 written at cycle `cclk` of the present tick, is evaluated in the tray bytes that the codeword layer handed on
(03_lanes.md R82, R88), which the command names. Without codeword lock, or where those bytes are not there, the
command names no happening and does nothing (log entry 1). -/
def execRowRx (l pos cclk : Nat) (bytes : Bytes) (s : State) : Host.Outcome State Fault Refusal :=
  let x := lane s l
  if !laneOk l || x.trn.rx ≠ 3 then .next s
  else if rowAt s l pos ≠ some bytes then .next s
  else
    let s := closeGroup (portOf l) { s with cclk := cclk % 2048 }
    let rate := laneRate s l
    let h := headerStep x.frm (rowsOf rate) pos (headerFits rate bytes) (hdrRow bytes)
    let s := onlyIf h.mimic (fun s => raise .mimic l 0 (count (laneBase l + 0x82C) s)) s
    if h.sync then .next (advancePort (portOf l) (syncRow l pos h bytes s))
    else .next (setLane l { lane s l with frm := h.frm } s)

end Sys2Proof.Machine
end

