-- ==== Sys2Proof/Machine/CoreStages.lean ====
section
/-! DEFINITION. The slot switching core: ingress, space and egress stages (05_core.md). -/

namespace Sys2Proof.Machine

/-! ### Entries (R120 to R123) -/

/-- Page n of the connection memories. -/
def pageSet (s : State) (n : Bool) : PageSet := if n then s.page.page1 else s.page.page0

/-- The page that is active for data tick `d` (06_pages.md R145, R146): the present tick uses the
active page, and the tick before a swap tick the other one. -/
def pageFor (s : State) (d : Int) : PageSet :=
  if s.page.lastSwap ≠ 0 ∧ d < s.page.lastSwap then pageSet s (!s.page.active)
  else pageSet s s.page.active

/-- Ingress entry of lane l, step k. -/
def ingEntry (p : PageSet) (l k : Nat) : Nat := (spGet (fun _ => 0) p.ing (l * 2048 + k)).toNat

/-- Space entry of egress lane m, step k. -/
def spcEntry (p : PageSet) (m k : Nat) : Nat := (spGet (fun _ => 0) p.spc (m * 2048 + k)).toNat

/-- Egress entry of lane m, output slot q. -/
def egrEntry (p : PageSet) (m q : Nat) : Nat := (spGet (fun _ => 0) p.egr (m * 2048 + q)).toNat

/-- The idle slot (02_tray_format.md Table 2.4). -/
def idleSlot : SlotWord := ⟨0, 0⟩

/-- Conditioned fill (02_tray_format.md Table 2.4): every payload byte 0x5A, tag 0xC. -/
def fillSlot : SlotWord := ⟨0xC, BitVec.ofNat 384 ((List.range 48).foldl (fun n _ => n * 256 + 0x5A) 0)⟩

/-! ### Failed reads (R119, R127, R143) -/

/-- Record a counted failed read in ERR_INFO and raise its event (05_core.md R127, R143). -/
def readError (cause lane index : Nat) (s : State) : State :=
  raise .readFailed lane (cause * 2048 + index)
    (rcSet 0x300004 (BitVec.ofNat 32 (0x80000000 + cause * 0x10000000 + lane * 2048 + index)) s)

/-- A read replaced by conditioned fill (05_core.md R127). -/
def condRead (l : Nat) (s : State) : State := perfEv 0x10 0x00 l 1 (count64 0x300030 1 s)

/-- The injection armed for a read (05_core.md R144): 0 none, 1 one bit, 2 two bits. -/
def injected (s : State) (target lane index : Nat) : Nat :=
  let v := cfgN s 0x300008
  if bitOf v 31 ∧ bitsOf v 28 27 = target ∧ bitsOf v 18 11 = lane ∧ bitsOf v 10 0 = index
  then bitsOf v 30 29 else 0

/-- The row of a tray buffer or connection memory in which an error was met is recorded for its next test
(11_engines_banks.md R295, R297). -/
def noteRow (target lane index : Nat) (s : State) : State :=
  let m := match target with
    | 0 => 0x1000 + lane
    | 1 => 0x3000 + 256 * b2n s.page.active + lane
    | 2 => 0x4000 + 256 * b2n s.page.active + lane
    | _ => 0x5000 + 256 * b2n s.page.active + lane
  if s.mtest.marks.contains (m, index) then s
  else { s with mtest := { s.mtest with marks := s.mtest.marks ++ [(m, index)] } }

/-- One read of a target with ECC (05_core.md R123, R144): an armed injection is made once; one bit
is corrected and counted, two bits make the read uncorrectable. -/
def eccRead (target lane index : Nat) (s : State) : Bool × State :=
  let t := injected s target lane index
  let s := if t = 0 then s else noteRow target lane index s
  if t = 1 then (false, perfEv 0x10 0x05 lane 1 <| count 0x300010 (setReg 0x300008 (putBits (cfg s 0x300008) 31 31 0) s))
  else if t = 2 then
    (true, perfEv 0x10 0x06 lane 1 <| count 0x300014 (setReg 0x300008 (putBits (cfg s 0x300008) 31 31 0) s))
  else (false, s)

/-! ### Ingress stage (R117 to R120) -/

/-- E(q) of an input slot (05_core.md R117). -/
def eOf (size row j : Nat) : Nat := ((3125 * row + 101 + 48 * j) * 2048 + size - 1) / size

/-- A of the tray with sequence `q` on port p, for the read tick `t` (05_core.md R117): none while the latest bonded
lane has not yet written it. -/
def arrivalOf (s : State) (p : Nat) (q : Word) (t : Int) : Option Int :=
  ((port s p).bind.arrivals.find? (·.1 = q)).map fun e => offsetA e.2 t

/-- The outcome of an ingress read: the word, or why it is fill: cause of ERR_INFO and its counter,
or none for a slot absent at port level (04_ports.md R98, 05_core.md Table 5.6). -/
inductive InRead where
  | word (w : SlotWord)
  | absent
  | early
  | refused
  deriving DecidableEq, Repr

/-- The sequence of the tray that an ingress entry reads (05_core.md R117, R119). -/
def readSeq (s : State) (l e : Nat) : Word :=
  BitVec.ofNat 32 s.tick - (port s (portOf l)).bind.k - (if bitOf e 10 then 1 else 0)

/-- The ingress read of a valid entry (05_core.md R118, R119; 04_ports.md R98): ILAG = 1 is refused on a port not
bound in CUT; the slot is absent while the lane is FAILED on the ingress side (11_engines_banks.md R297) or the port is
not in SERVICE, beyond the lane's slots and in a conditioned
tick; an ILAG = 0 read before readiness is early; and the word is there when the lane is in the bond and the row of
the tray whose read tick is the data tick less ILAG was received in alignment. -/
def ingressRead (s : State) (l k : Nat) (e : Nat) : InRead :=
  let p := portOf l
  let y := port s p
  let slot := bitsOf e 9 0
  let lag := bitOf e 10
  let row := slot / 64
  let q := readSeq s l e
  let ready (a : Int) : Bool := decide (a + eOf (traySize s l) row (slot % 64) + 4 ≤ (k : Int))
  if lag ∧ y.bind.mode ≠ 0 then .refused
  else if s.mtest.inFailed.contains l ∨ y.st ≠ 5 ∨ !y.bind.bound ∨ slot ≥ laneSlots s l ∨ y.bind.cond.contains s.tick then .absent
  else if !lag ∧ !(arrivalOf s p q s.tick).any ready then .early
  else if !(lane s l).bond.bonded then .absent
  else match spGet (fun _ => (none : Option RowBuf))
      (s.core.ingress.map fun e => (e.1, some e.2)) ((l * 4 + q.toNat % 4) * 16 + row) with
    | some b => if b.seq = q then .word (b.slots.getD (slot % 64) idleSlot) else .absent
    | none => .absent

/-- The row buffer that holds row `row` of the tray with sequence `q` of lane l. -/
def rowBuf (s : State) (l row : Nat) (q : Word) : Option RowBuf :=
  ((s.core.ingress.find? fun e => e.1 = (l * 4 + q.toNat % 4) * 16 + row).map (·.2)).filter (·.seq = q)

/-- The device puts conditioned fill in the place of a slot of tray `q`: it is counted for its string once, as a slot
filled, and no longer as one that has arrived with C = 1 in this tick (09_monitoring.md R223, R231). -/
def noteFill (l slot : Nat) (q : Word) (here : Bool) (s : State) : State :=
  let g := l * 1024 + slot
  if s.core.filled.any (fun e => e.1 = g && e.2.1 = q) then s
  else
    let came := here && (arrivalOf s (portOf l) q s.tick).any fun a =>
      decide ((0 : Int) ≤ a + (eOf (traySize s l) (slot / 64) 63 : Int))
    let up := came && (rowBuf s l (slot / 64) q).any fun b => bitOf (b.slots.getD (slot % 64) idleSlot).tag.toNat 2
    let s := { s with core := { s.core with filled := (g, q, s.tick) :: s.core.filled } }
    match stringOf s g with
    | some n => strFill n (up && !replaced s l n) s
    | none => s

/-- Fill put in at the ingress stage, counted for the lane's string as a substituted slot
(05_core.md R127, 09_monitoring.md R231). -/
def ingressFill (l e : Nat) (s : State) : State :=
  let s := condRead l s
  if bitOf e 11 then noteFill l (bitsOf e 9 0) (readSeq s l e) (!bitOf e 10) s else s

/-- What ingress lane l produces at step k (05_core.md R120, R127, Table 5.6). When several rows of the table hold for one
read, a memory error goes before a slot refused, early or absent, and a conditioned tick before an early slot, and only
that row counts: the table gives no order (DESIGN CHOICE, log entry 79). -/
def ingressWord (pg : PageSet) (l k : Nat) (s : State) : SlotWord × State :=
  let e := ingEntry pg l k
  let (bad, s) := eccRead 1 l k s
  if bad then (fillSlot, ingressFill l e (readError 1 l k s))
  else if !bitOf e 11 then (idleSlot, s)
  else
    let (bad, s) := eccRead 0 l (bitsOf e 9 0) s
    if bad then (fillSlot, ingressFill l e (readError 0 l k s))
    else match ingressRead s l k e with
      | .word w => (w, s)
      | .absent => (fillSlot, ingressFill l e s)
      | .early => (fillSlot, ingressFill l e (readError 4 l k (perfEv 0x10 0x01 l 1 (count 0x300018 s))))
      | .refused => (fillSlot, ingressFill l e (readError 6 l k (perfEv 0x10 0x03 l 1 (count 0x300020 s))))

/-- The lanes a list of entry keys names at step k. -/
def lanesAt {α : Type} (k : Nat) (m : List (Nat × α)) : List Nat :=
  (m.filter fun e => e.1 % 2048 = k).map (·.1 / 2048)

/-- The lane whose entry of a memory at step k an armed injection is for (05_core.md R144): the stages read every
entry, a zero one too. -/
def armedLane (s : State) (target k : Nat) : List Nat :=
  if flg s 0x300008 31 && fld s 0x300008 28 27 = target && fld s 0x300008 10 0 = k then [fld s 0x300008 18 11] else []

/-- The lanes whose entry of a memory at step k does something: those with an entry, and one under injection. -/
def activeLanes {α : Type} (s : State) (target k : Nat) (m : List (Nat × α)) : List Nat :=
  let ls := lanesAt k m
  ls ++ (armedLane s target k).filter fun l => !ls.contains l

/-- The words of step k, by ingress lane, of the lanes with an entry there. -/
def ingressAll (pg : PageSet) (k : Nat) (s : State) : List (Nat × SlotWord) × State :=
  (activeLanes s 1 k pg.ing).foldl (fun (a : List (Nat × SlotWord) × State) l =>
    let (w, s) := ingressWord pg l k a.2
    (a.1 ++ [(l, w)], s)) ([], s)

/-- One egress lane at step k (05_core.md R124, R125): the word of its source lane, an idle word
where that lane's entry is not valid, fill on an uncorrectable space entry. -/
def spaceStep (pg : PageSet) (k : Nat) (ws : List (Nat × SlotWord)) (m : Nat) (s : State) : State :=
  let e := spcEntry pg m k
  let (bad, s) := eccRead 2 m k s
  if !bad && !bitOf e 9 then s
  else
    let w := if bad then fillSlot else spGet (fun _ => idleSlot) ws (bitsOf e 7 0)
    let s := onlyIf bad (fun s => readError 2 m k (condRead m s)) s
    { s with core := { s.core with
        steps := spIns ((m * 2 + s.tick % 2) * 2048 + k) w s.core.steps } }

/-- CORE_STEP (05_core.md R117 to R125): ingress read, space transfer and egress write of step k on
all lanes, under the page of the data tick. A retired step is neither read nor written (R130). -/
def execCoreStep (k : Nat) (s : State) : Host.Outcome State Fault Refusal :=
  if !s.core.running || decide (2048 ≤ k) then .next s
  else
    let s := { s with cclk := k }
    if s.core.retired.contains k then .next s
    else
      let pg := pageSet s s.page.active
      let (ws, s) := ingressAll pg k s
      .next (forAll (activeLanes s 2 k pg.spc) (spaceStep pg k ws) s)

/-! ### Egress stage (R122, R125, R126) -/

/-- What one output slot carries, and why it does not carry a word. -/
inductive OutRead where
  | word (w : SlotWord)
  | idle
  | fill
  | late (k : Nat)
  | chain (k : Nat)
  deriving DecidableEq, Repr

/-- Selector bit of a group for a data tick (05_core.md R126). -/
def selectorFor (s : State) (lag : Bool) (g : Nat) : Bool :=
  spGet (fun _ => false) (if lag then s.core.latchedPrev else s.core.latched) g

/-- A step is retired for a data tick (05_core.md R130). -/
def retiredFor (s : State) (d : Int) (k : Nat) : Bool :=
  s.core.retired.contains k && !(decide (d < s.page.lastSwap) && s.core.retiredLast.contains k)

/-- The egress read of a followed entry for the outgoing tray of the present tick
(05_core.md R118, R119, R126, Table 5.6). -/
def followEntry (s : State) (m rowRead e : Nat) : OutRead :=
  let mode := bitsOf e 41 40
  let lag := bitOf e 39
  if mode = 0 then .idle
  else if mode = 3 then .fill
  else
    let k := if mode = 2 ∧ selectorFor s lag (bitsOf e 12 0) then bitsOf e 26 16 else bitsOf e 38 28
    let d : Int := if lag then s.tick - 1 else s.tick
    if !lag ∧ k + 5 > rowRead then .late k
    else if !bitOf (spcEntry (pageFor s d) m k) 9 ∨ retiredFor s d k then .chain k
    else match s.core.steps.find? (·.1 = (m * 2 + d.toNat % 2) * 2048 + k) with
      | some (_, w) => .word w
      | none => .chain k

/-- The read of output slot q of lane m (05_core.md R129, 06_pages.md R146): a new entry with LAG = 1
follows the entry of the page of the tick before, and sends fill when that has LAG = 0. -/
def readOut (s : State) (m q rowRead : Nat) : OutRead :=
  let e := egrEntry (pageSet s s.page.active) m q
  if !bitOf e 39 then followEntry s m rowRead e
  else
    let o := egrEntry (pageFor s (s.tick - 1)) m q
    if bitOf o 39 then followEntry s m rowRead o else .fill

/-- One output slot with its counts (05_core.md R127, Table 5.6). Of a lane FAILED on the egress side every slot sends
conditioned fill, and none is a failed read (11_engines_banks.md R297). COND_READS counts the rows of Table 5.6 alone:
the conditioned fill of R129, which that table does not list, is not counted, though 00_scope.md R2 speaks of every C = 1
that the device sets (DESIGN CHOICE, log entry 79). -/
def outSlot (m q rowRead : Nat) (s : State) : SlotWord × State :=
  if s.mtest.outFailed.contains m then (fillSlot, s) else
  let (bad, s) := eccRead 3 m q s
  if bad then (fillSlot, readError 3 m q (condRead m s))
  else match readOut s m q rowRead with
    | .word w => (w, s)
    | .idle => (idleSlot, s)
    | .fill => (fillSlot, s)
    | .late k => (fillSlot, readError 5 m k (condRead m (perfEv 0x10 0x02 m 1 (count 0x30001C s))))
    | .chain k => (idleSlot, readError 7 m k (perfEv 0x10 0x04 m 1 (count 0x300024 s)))

/-- The 64 output slots of row r of lane m. -/
def outRow (m r rowRead : Nat) (s : State) : List SlotWord × State :=
  (List.range 64).foldl (fun (a : List SlotWord × State) j =>
    let (w, s) := outSlot m (64 * r + j) rowRead a.2
    (a.1 ++ [w], s)) ([], s)

/-! ### The outgoing row (02_tray_format.md) -/

/-- CUT_CAP as port p sends it: bound in CUT, or about to change to it (04_ports.md R104). -/
def cutCap (s : State) (p : Nat) : Bool :=
  let y := port s p
  p ≠ 8 && (y.bind.mode = 0 && y.bind.bound
    || (y.bind.modePending && tdMode (cfg s (portBase p + 8)) = 0))

/-- The flags of a tray of lane l that begins now (02_tray_format.md Table 2.2, R55; 04_ports.md R101, R104,
R112; 06_pages.md R148): TEST where FRM_CTRL.TX_TEST is 1 and the port is not in SERVICE. -/
def txFlags (s : State) (l : Nat) : BitVec 4 :=
  let p := portOf l
  let y := port s p
  let sb := if p = 8 then !s.ssw.actOut else decide (y.st ≠ 5)
  let test := flg s (laneBase l + 0x804) 1 && decide (y.st ≠ 5)
  BitVec.ofNat 4 (8 * b2n test + 4 * b2n (cutCap s p) + 2 * b2n sb + b2n (p ≠ 8 && s.page.colour))

/-- The flags of a lane's tray are settled at its first row and sent in all its rows (02_tray_format.md R40). -/
def latchFlags (l : Nat) (s : State) : State :=
  let x := lane s l
  setLane l { x with out := { x.out with flags := txFlags s l } } s

/-- The row header (02_tray_format.md R37, R39, R41). -/
def txHeader (s : State) (l row : Nat) : Bytes :=
  let b := [BitVec.ofNat 8 (laneRate s l * 16 + row)] ++ beBytes 2 (s.tick % 65536)
    ++ [(lane s l).out.flags.setWidth 8]
  b ++ beBytes 2 (crc16 b)

/-- GLB.NODE_ID (19_registers.md R487), the DEVICE_ID sent (02_tray_format.md R49). -/
def nodeId (s : State) : Word := s.otp.nodeId

/-- The identity row channel (02_tray_format.md R48, R49). -/
def txIdentity (s : State) (l : Nat) : Bytes :=
  let p := portOf l
  beBytes 2 (s.tick / 65536 % 65536) ++ [if p = 8 then 0 else s.page.gen]
  ++ [BitVec.ofNat 8 (qlSent s (portOf l))] ++ beBytes 4 (nodeId s).toNat
  ++ [BitVec.ofNat 8 p, BitVec.ofNat 8 (inPort l), 1, 0x10, 0, 0]

/-- The message positions of a switching-request row within the tray. -/
def srIndex (row : Nat) : Nat := if row = 1 then 0 else if row = 2 then 3 else if row = 4 then 6 else 9

/-- The row channel of an outgoing row and the transmit state after it (02_tray_format.md R47 to
R52). -/
def txChannel (s : State) (l row : Nat) : Bytes × LaneTx :=
  let o := (lane s l).out
  if row = 0 then (txIdentity s l, o)
  else if srRow row then
    let q := o.srSeq + 1
    let msgs := (List.range 3).map fun i => o.calendar.getD (srIndex row + i) 0xFFFFFFFF
    let b := msgs.flatMap (fun w => beBytes 4 w.toNat) ++ [q]
    (b ++ [BitVec.ofNat 8 (crc8 b)], { o with srSeq := q })
  else
    let b := o.msg.take 14
    (b ++ List.replicate (14 - b.length) 0x7E, { o with msg := o.msg.drop 14 })

/-- The codewords that row bytes complete (03_lanes.md R68, R80, R86): `o` is the cycle byte of the row's byte 0, and
no codeword starts before cycle byte `start`. Bytes that await the rest of their codeword are kept; a row that does
not continue them begins at the next codeword boundary. -/
def sendCodewords (laneIdx o start : Nat) (pre : Bool) (row : Bytes) (x : LaneTx) : LaneTx :=
  let kept := if x.tail.length = o % 640 then x.tail else []
  let base := o - kept.length
  let first := max start ((base + 639) / 640 * 640)
  let bs := (kept ++ row).drop (first - base)
  let n := bs.length / 640
  let levels := (List.range n).flatMap fun i =>
    (encodeCodeword ((first / 640 + i) % 625) laneIdx (sub bs (640 * i) 640)).flatMap symbolLevels
  let line := if pre then precode x.level levels else levels
  { x with tail := bs.drop (640 * n), line := line, level := line.getLastD x.level }

/-- Build and send one row (02_tray_format.md R37 to R46): header, tags, BIP-8 of the row before,
row channel and slots, scrambled from byte 6, and the codewords it completes (03_lanes.md R86). -/
def sendRow (l row start : Nat) (ws : List SlotWord) (s : State) : State :=
  let x := lane s l
  let (ch, o) := txChannel s l row
  let tags := (List.range 32).map fun i =>
    BitVec.ofNat 8 ((ws.getD (2 * i) idleSlot).tag.toNat * 16 + (ws.getD (2 * i + 1) idleSlot).tag.toNat)
  let body := tags ++ [o.bip] ++ ch ++ ws.flatMap fun w => beBytes 48 w.payload.toNat
  let out := txHeader s l row ++ scramble row body
  let at_ := s.tick % cycleTrays (laneRate s l) * traySize s l + row * 3125
  let o := sendCodewords (inPort l) at_ start x.trn.precodeTx out { o with row := out, bip := xorBytes out }
  setLane l { x with out := o } s

/-- A lane emits a row, whose codewords begin no earlier than cycle byte `start`; outside SERVICE, on PX and in
a test tray every slot is idle (04_ports.md R101, R112; 02_tray_format.md R55). -/
def emitRow (l row start : Nat) (s : State) : State :=
  if l ≥ 256 ∨ (port s (portOf l)).st ≠ 5 ∨ bitOf (lane s l).out.flags.toNat 3 then
    sendRow l row start (List.replicate 64 idleSlot) s
  else
    let (ws, s) := outRow l row (row * (16 / laneRows s l) * 128) s
    sendRow l row start ws s

/-- One lane at a row read: the flags of its tray are settled at row 0, and a lane that sends codewords emits its
row. -/
def rowReadLane (m : Nat) (l : Nat) (s : State) : State :=
  let per := 16 / laneRows s l
  let s := onlyIf (m = 0) (latchFlags l) s
  if (lane s l).trn.tx ≠ 3 ∨ m % per ≠ 0 then s else emitRow l (m / per) 0 s

/-- A lane begins to send codewords in the middle of a row, at cycle byte `start` (03_lanes.md R78 step 4): the row
read last is sent from there. The level the precoder starts from is not in the spec: it is a free value
(log entry 60). -/
def beginCodewords (l start : Nat) (s : State) : State :=
  let (v, s) := draw s
  let x := lane s l
  let s := setLane l { x with out := { x.out with level := BitVec.ofNat 2 v, tail := [], line := [] } } s
  onlyIf s.core.running (emitRow l (s.cclk / 128 / (16 / laneRows s l)) start) s

/-- TRAINING_FRAME_TX (03_lanes.md R72 to R78, R86): a training frame ends at the present CCLK, to the UI below. The
countdown advances, and after the frame with FRAMES_LEFT = 1 the pattern goes on up to the lane's next codeword
boundary, from where the side sends codewords. -/
def execTrainingFrameTx (l : Nat) (s : State) : Host.Outcome State Fault Refusal :=
  let x := lane s l
  if !laneOk l || !(x.trn.tx = 1 || x.trn.tx = 2) then .next s
  else
    let (v, s) := tapValue x.trn s
    let u := cycleUi s (laneRate s l)
    let more := (2720 - u % 2720) % 2720
    let last := x.trn.tx = 2 && x.trn.framesLeft = 1
    let t := frameSent l v (if last then more else 0) x
    let s := setLane l { x with
      trn := t
      tim := { x.tim with trainAt := (if last && x.trn.rx = 3 then none else x.tim.trainAt) } } s
    .next (onlyIf last (beginCodewords l ((u + more) / 2720 * 640)) s)

/-- EGRESS_ROW_READ (05_core.md R117, R122 to R129): at CCLK 128 m of the tick, every lane one of
whose rows is read there reads its 64 output slots with their selectors, and its framer builds the
row. -/
def execEgressRowRead (m : Nat) (s : State) : Host.Outcome State Fault Refusal :=
  if !s.core.running || decide (16 ≤ m) then .next s
  else .next (forAll (s.lanes.map (·.1)) (rowReadLane m) { s with cclk := m * 128 })

end Sys2Proof.Machine
end

