-- ==== Sys2Proof/Machine/Abacus.lean ====
section
/-! DEFINITION. The abacus: connection maps, placement, and the entries built from a map
(07_strings_abacus.md R171 to R186, 08_protection.md R196, R197, R497). -/

namespace Sys2Proof.Machine

/-! ### Maps of strings -/

/-- Set string n of a map. -/
def CMap.setStr (n : Nat) (x : Str) (m : CMap) : CMap :=
  { m with strs := spSet (fun _ => Str.free) n x m.strs }

/-- The step that stands for "not placed". -/
def noStep : Nat := 2048

/-- The step of a connection left out of the map (07_strings_abacus.md R180): it stays out until a command
places its leg again. -/
def leftOut : Nat := 2049

/-- Insert or replace a leg, keeping leg numbers ascending. -/
def putLeg (g : Leg) : List Leg → List Leg
  | [] => [g]
  | x :: xs => if g.idx < x.idx then g :: x :: xs else if g.idx = x.idx then g :: xs else x :: putLeg g xs

/-- STATE of a string that is not FREE (07_strings_abacus.md Table 7.1). -/
def strState (legs : List Leg) : Nat := if legs.isEmpty then 1 else 2

/-- A leg after a resize (07_strings_abacus.md R174, R178): the steps of string slots whose input and
output slots are unchanged stay; a DEVICE leg keeps its output slots below both sizes. -/
def resizeLeg (old new : List Nat) (outs : List Nat) (g : Leg) : Leg :=
  let o := if g.device then (g.outs.take new.length) else outs
  { g with outs := o,
           steps := (List.range new.length).map fun i =>
             if i < old.length ∧ i < o.length ∧ old.getD i 0 = new.getD i 0 ∧ g.outs.getD i 0 = o.getD i 0
             then g.steps.getD i noStep
             else noStep }

/-- HOST legs take the new lists in ascending leg order (13_host.md Table 13.9). -/
def resizeLegs (old new : List Nat) : List Leg → List (List Nat) → List Leg
  | [], _ => []
  | g :: gs, outs =>
    if g.device then resizeLeg old new [] g :: resizeLegs old new gs outs
    else resizeLeg old new (outs.headD []) g :: resizeLegs old new gs outs.tail

/-- The effect of one string command on a map (07_strings_abacus.md Table 7.3). -/
def applyCmd (m : CMap) : StrCmd → CMap
  | .create n p ins => m.setStr n ⟨1, p, ins, []⟩
  | .connect n g =>
    let x := m.str n
    let legs := putLeg g x.legs
    m.setStr n { x with legs := legs, st := 2 }
  | .disconnect n i =>
    let x := m.str n
    let legs := x.legs.filter (·.idx ≠ i)
    m.setStr n { x with legs := legs, st := strState legs }
  | .resize n ins outs =>
    let x := m.str n
    m.setStr n { x with ins := ins, legs := resizeLegs x.ins ins x.legs outs }
  | .condition n mask value =>
    let x := m.str n
    let f (g : Leg) : Leg := if mask.getLsbD g.idx then { g with cond := value.getLsbD g.idx } else g
    m.setStr n { x with legs := x.legs.map f }
  | .delete n => m.setStr n Str.free

/-- The string a command names. -/
def StrCmd.target : StrCmd → Nat
  | .create n _ _ => n
  | .connect n _ => n
  | .disconnect n _ => n
  | .resize n _ _ => n
  | .condition n _ _ => n
  | .delete n => n

/-! ### Edges (R131, R132) -/

/-- One placed connection of a map: input slot, egress lane, step, ILAG, minimum-latency class. -/
structure Edge where
  inGs : Nat
  out : Nat
  step : Nat
  ilag : Bool
  min : Bool
  str : Nat
  deriving DecidableEq, Repr

/-- A leg is placed for minimum latency (07_strings_abacus.md Table 7.4), or within its window because the output
slots it shares have LAG 0 (log entry 67). -/
def Leg.minLat (g : Leg) : Bool := !g.lag || (g.latency ≠ 0 && !g.loose)

/-- The connections of one leg that are placed. -/
def legEdges (n : Nat) (ins : List Nat) (g : Leg) : List Edge :=
  (((ins.zip g.outs).zip g.steps).filter fun e => e.2 < noStep).map fun e =>
    ⟨e.1.1, e.1.2 / 1024, e.2, g.ilag, g.minLat, n⟩

/-- Every placed connection of a map. -/
def CMap.edges (m : CMap) : List Edge :=
  m.strs.flatMap fun e => e.2.legs.flatMap fun g => legEdges e.1 e.2.ins g

/-- What placement works with: usable steps, CUT ports, CUT_EDGE and lane rates as they stand,
NATIVE_FANOUT, the group definitions, the output slots flagged as unreliable, and those that accepted
commands name. -/
structure PlaceEnv where
  usable : List Nat
  cut : Nat → Bool
  edge : Nat → Int
  slots : Nat → Nat
  native : Bool
  grp : Nat → Option GroupDef
  unreliable : Nat → Bool
  named : Nat → Bool

/-- Usable steps: neither retired nor lent, nor on the way to be (05_core.md R130, 07_strings_abacus.md
R187). -/
def usableSteps (s : State) : List Nat :=
  (List.range 2048).filter fun k => !s.core.retired.contains k && !s.abacus.lent.contains k
    && !s.core.retiring.contains k && !s.abacus.lending.any (·.1 = k)

/-- The output slots a command names. -/
def StrCmd.outs : StrCmd → List Nat
  | .connect _ g => g.outs
  | .resize _ _ outs => outs.flatten
  | _ => []

/-- The definition of a group by head number. -/
def groupDef (s : State) (g : Nat) : Option GroupDef := (s.prot.groups.find? (·.1 = g)).map (·.2.dfn)

/-- The environment of placement in a state. -/
def placeEnv (s : State) : PlaceEnv :=
  { usable := usableSteps s
    cut := fun p => (port s p).bind.bound && decide ((port s p).bind.mode = 0)
    edge := fun p => cutEdge (if (port s p).bind.bound then (port s p).bind.td else cfg s (portBase p + 8))
    slots := fun l => laneSlots s l
    native := s.abacus.buildCfg.getLsbD 2
    grp := groupDef s
    unreliable := s.mtest.outFlags.contains
    named := fun q => s.abacus.batches.any fun b => b.cmds.any fun c => c.outs.contains q }

/-- The step range of a connection (07_strings_abacus.md R179): every step, or from a + 4 to rr - 5
for minimum latency, with a reckoned at A = -CUT_EDGE. -/
def stepRange (v : PlaceEnv) (minLat : Bool) (inGs outGs : Nat) : Int × Int :=
  if !minLat then (0, 2047)
  else
    let l := inGs / 1024
    let q := inGs % 1024
    let rows := max 1 (v.slots l / 64)
    let a := -(v.edge (portOf l)) + (eOf (3125 * rows) (q / 64) (q % 64) : Int)
    let m := outGs / 1024
    let rr := outGs % 1024 / 64 * (2048 / max 1 (v.slots m / 64))
    (max 0 (a + 4), (rr : Int) - 5)

/-- The idle feed of an egress lane occupies a step there. -/
def idleAt (m : CMap) (b k : Nat) : Bool := spGet (fun _ => 0) m.idle b = k + 1

/-- Step k is free at egress lane b. -/
def freeOut (m : CMap) (es : List Edge) (b k : Nat) : Bool :=
  !(es.any fun e => e.out = b && e.step = k) && !idleAt m b k

/-- Step k is free at ingress lane a. -/
def freeIn (es : List Edge) (a k : Nat) : Bool := !(es.any fun e => e.inGs / 1024 = a && e.step = k)

/-- Native fan-out, or the same edge again, and then the direct choice (07_strings_abacus.md R181
steps 1 and 2). -/
def directStep (v : PlaceEnv) (m : CMap) (es : List Edge) (inGs b : Nat) (ilag : Bool)
    (r : Int × Int) : Option Nat :=
  let ok (k : Nat) : Bool := decide (r.1 ≤ k ∧ k ≤ r.2)
  match es.find? fun e => e.inGs = inGs && e.out = b && e.ilag = ilag && ok e.step with
  | some e => some e.step
  | none =>
    let nat := if v.native then es.find? fun e =>
        e.inGs = inGs && e.ilag = ilag && ok e.step && freeOut m es b e.step else none
    match nat with
    | some e => some e.step
    | none => v.usable.find? fun k => ok k && freeIn es (inGs / 1024) k && freeOut m es b k

/-- An edge that must stay: it shares its step with another edge of the same slot, or a minimum-latency
connection uses it. -/
def stays (es : List Edge) (e : Edge) : Bool :=
  es.any fun f => f.inGs = e.inGs && f.step = e.step && (f.out ≠ e.out || f.min)

/-- The chain of edges from egress lane b that alternates between steps α and β
(07_strings_abacus.md R181 step 3): at most 64 edges, none of them shared or of minimum latency. -/
def chainFrom (m : CMap) (es : List Edge) : Nat → Nat → Nat → Nat → Option (List (Edge × Nat))
  | 0, b, α, _ => if freeOut m es b α then some [] else none
  | fuel + 1, b, α, β =>
    if idleAt m b α then none
    else match es.find? fun e => e.out = b && e.step = α with
      | none => some []
      | some e =>
        if stays es e then none
        else match es.find? fun f => f.inGs / 1024 = e.inGs / 1024 && f.step = β with
          | none => some [(e, β)]
          | some f =>
            if stays es f then none
            else match fuel with
              | 0 => none
              | fuel' + 1 => (chainFrom m es fuel' f.out α β).map fun c => (e, β) :: (f, α) :: c

/-- Apply a change to every leg of every string, given the string's input slots. -/
def CMap.mapLegs (f : List Nat → Leg → Leg) (m : CMap) : CMap :=
  { m with strs := m.strs.map fun e => (e.1, { e.2 with legs := e.2.legs.map (f e.2.ins) }) }

/-- Move an edge of a map to another step. -/
def recolour (m : CMap) (inGs out old new : Nat) : CMap :=
  m.mapLegs fun ins g =>
    let f (i : Nat) : Nat :=
      let k := g.steps.getD i noStep
      if k = old ∧ ins.getD i 0 = inGs ∧ g.outs.getD i 0 / 1024 = out then new else k
    { g with steps := (List.range g.steps.length).map f }

/-- Move several edges at once. -/
def recolourAll (m : CMap) (moves : List (Edge × Nat)) : CMap :=
  let tmp := moves.foldl (fun m e => recolour m e.1.inGs e.1.out e.1.step (4096 + e.2)) m
  tmp.mapLegs fun _ g => { g with steps := g.steps.map fun k => if k ≥ 4096 then k - 4096 else k }

/-- The outcome of placing one connection: the map, the step, and whether a path was used. -/
def placeEdge (v : PlaceEnv) (pick : Nat) (m : CMap) (inGs outGs : Nat) (ilag minLat : Bool) :
    Option (CMap × Nat × Bool) :=
  let es := m.edges
  let b := outGs / 1024
  let r := stepRange v minLat inGs outGs
  match directStep v m es inGs b ilag r with
  | some k => some (m, k, false)
  | none =>
    if minLat then none
    else
      let as := v.usable.filter (freeIn es (inGs / 1024))
      let bs := v.usable.filter (freeOut m es b)
      if as.isEmpty ∨ bs.isEmpty then none
      else
        let α := as.getD (pick % as.length) 0
        let β := bs.getD (pick / 2048 % bs.length) 0
        match chainFrom m es 64 b α β with
        | none => none
        | some c => some (recolourAll m c, α, true)

/-! ### Placing a batch (R177, R179, R184, R186) -/

/-- Why a map could not be placed: CAUSE, string, lane and COUNT of 07_strings_abacus.md Table 7.8; the
ingress lane of the connection; and whether some window of it holds a step, so that R181 failed for it. -/
structure NoPlace where
  cause : Nat
  str : Nat
  lane : Nat
  count : Nat
  inLane : Nat
  tried : Bool
  deriving DecidableEq, Repr

/-- A placement in progress: the map, legs that fell back, connections placed, paths used. -/
structure Placing where
  map : CMap
  fallback : Nat
  placed : Nat
  paths : Nat
  deriving DecidableEq, Repr

/-- A string has the role of a protect or extra-traffic leg's string at a head (08_protection.md
R497). -/
def GroupDef.headRole (d : GroupDef) (n : Nat) : Bool :=
  decide (2 ≤ d.type) && (d.normIn.contains (some n) || d.etIn = some n)

/-- The legs of other strings joined to group g that have output slots. -/
def joinedLegs (m : CMap) (n g : Nat) : List (Nat × Leg) :=
  m.strs.flatMap fun e =>
    if e.1 = n then [] else (e.2.legs.filter fun y => y.group = some g && !y.outs.isEmpty).map fun y => (e.1, y)

/-- Two lists name a slot in common. -/
def overlap (xs ys : List Nat) : Bool := xs.any ys.contains

/-- The longest of some lists. -/
def longest (xs : List (List Nat)) : List Nat := xs.foldl (fun b x => if b.length < x.length then x else b) []

/-- The output slots, string slot i on output slot i, that a joined leg of string `n` with output slots
`cur` must share (08_protection.md R497): at the head, those of the protect path; at the tail, those of
the circuit whose other source it shares with, or, while it has none, whose other source is joined and has
no such partner yet. -/
def sharedOuts (grp : Nat → Option GroupDef) (m : CMap) (n g : Nat) (cur : List Nat) : List Nat :=
  match grp g with
  | none => []
  | some d =>
    let js := joinedLegs m n g
    let own := (m.str n).legs.filter (·.group = some g)
    let partner (ok : Nat × Leg → Bool) (taken : Nat × Leg → Bool) : List Nat :=
      let f (e : Nat × Leg) : Bool := ok e && (if cur.isEmpty then !taken e else overlap cur e.2.outs)
      ((js.find? f).map (·.2.outs)).getD []
    if d.headRole n then longest ((js.filter fun e => d.headRole e.1).map (·.2.outs))
    else if d.workIn.contains (some n) then
      partner (fun e => d.protIn = some e.1)
        (fun e => js.any fun f => d.workIn.contains (some f.1) && overlap f.2.outs e.2.outs)
    else if d.protIn = some n then
      partner (fun e => d.workIn.contains (some e.1)) (fun e => own.any fun y => overlap y.outs e.2.outs)
    else []

/-- A joined DEVICE leg with the output slots it must share. -/
def joinOuts (grp : Nat → Option GroupDef) (m : CMap) (n : Nat) (g : Leg) : Leg :=
  match g.group with
  | none => g
  | some h =>
    if !g.device then g
    else
      let k := g.outs.length
      { g with outs := g.outs ++ ((sharedOuts grp m n h g.outs).drop k).take ((m.str n).ins.length - k) }

/-- Every output slot a map feeds. -/
def usedOuts (m : CMap) : List Nat := m.strs.flatMap fun e => e.2.legs.flatMap (·.outs)

/-- Departure of an output slot from the framer (07_strings_abacus.md R184). -/
def departure (v : PlaceEnv) (gs : Nat) : Nat :=
  let rows := max 1 (v.slots (gs / 1024) / 64)
  let q := gs % 1024
  q / 64 * (2048 / rows) + 12 + ((53 + 48 * (q % 64)) * 2048 + 3125 * rows - 1) / (3125 * rows)

/-- The free output slots a DEVICE leg may take, ascending (07_strings_abacus.md R184). -/
def freeSlots (v : PlaceEnv) (m : CMap) (g : Leg) : List Nat :=
  let used := usedOuts m
  ((List.range 32).filter fun i => g.mask.getLsbD i).flatMap fun i =>
    let l := laneOf g.outPort i
    ((List.range (v.slots l)).map (l * 1024 + ·)).filter fun q =>
      !used.contains q && !v.unreliable q && !v.named q

/-- The output slot a minimum-latency string slot takes (07_strings_abacus.md R184): the earliest
departure among those whose window holds a step free at both ends; ties to the lower lane. -/
def bestSlot (v : PlaceEnv) (m : CMap) (inGs : Nat) (free : List Nat) : Option Nat :=
  let es := m.edges
  let ok := free.filter fun q => (directStep v m es inGs (q / 1024) false (stepRange v true inGs q)).isSome
  ok.foldl (fun best q => match best with
    | none => some q
    | some b => if departure v q < departure v b then some q else some b) none

/-- The lowest global lane enabled in LANE_MASK (07_strings_abacus.md Table 7.8). -/
def maskLane (g : Leg) : Nat :=
  laneOf g.outPort (((List.range 32).find? fun i => g.mask.getLsbD i).getD 0)

/-- The leg with number `i` of string n. -/
def CMap.leg (m : CMap) (n i : Nat) : Option Leg := (m.str n).legs.find? (·.idx = i)

/-- Replace a leg of a map. -/
def CMap.setLeg (n : Nat) (g : Leg) (m : CMap) : CMap :=
  let x := m.str n
  m.setStr n { x with legs := putLeg g x.legs }

/-- Fill in the output slots of a DEVICE leg (07_strings_abacus.md R184): a minimum-latency leg chooses
them slot by slot, and only needs enough of them. -/
def fillOuts (v : PlaceEnv) (n : Nat) (g : Leg) (m : CMap) : Except NoPlace CMap :=
  let need := (m.str n).ins.length - g.outs.length
  let free := freeSlots v m g
  if need = 0 then .ok m
  else if free.length < need then
    .error ⟨4, n, maskLane g, free.length, (m.str n).ins.headD 0 / 1024, false⟩
  else if g.minLat then .ok m
  else .ok (m.setLeg n { g with outs := g.outs ++ free.take need })

/-- The window of a connection holds a step (07_strings_abacus.md R179). -/
def windowOk (v : PlaceEnv) (inGs outGs : Nat) : Bool :=
  let r := stepRange v true inGs outGs
  decide (r.1 ≤ r.2)

/-- Place string slot i of leg j of string n. -/
def placeSlot (v : PlaceEnv) (pick : Nat) (n j i : Nat) (p : Placing) : Except NoPlace Placing :=
  match p.map.leg n j with
  | none => .ok p
  | some g =>
    let inGs := (p.map.str n).ins.getD i 0
    let cands := if i < g.outs.length then [g.outs.getD i 0] else freeSlots v p.map g
    let chosen := if i < g.outs.length then some (g.outs.getD i 0) else bestSlot v p.map inGs cands
    let window : NoPlace := ⟨3, n, inGs / 1024, inGs % 1024, inGs / 1024, cands.any (windowOk v inGs)⟩
    if g.steps.getD i noStep < noStep then .ok p
    else match chosen with
      | none => .error window
      | some outGs =>
        match placeEdge v pick p.map inGs outGs g.ilag g.minLat with
        | none => .error (if g.minLat then window else ⟨6, n, outGs / 1024, 0, inGs / 1024, true⟩)
        | some (m, k, path) =>
          match m.leg n j with
          | none => .ok p
          | some g' =>
            let size := (m.str n).ins.length
            let steps := (g'.steps ++ List.replicate (size - g'.steps.length) noStep).set i k
            let outs := if i < g'.outs.length then g'.outs else g'.outs ++ [outGs]
            .ok { p with map := m.setLeg n { g' with outs := outs, steps := steps },
                         placed := p.placed + 1, paths := p.paths + b2n path }

/-- LAG of the placed legs with which a leg of string n shares output slots: one egress entry has one LAG, and a
connection that a request does not touch keeps its own (05_core.md R129, 08_protection.md R497). -/
def sharedLag (m : CMap) (n : Nat) (g : Leg) : Option Bool :=
  g.group.bind fun h =>
    ((joinedLegs m n h).find? fun e => overlap g.outs e.2.outs && e.2.steps.any (· < noStep)).map (·.2.lag)

/-- The lags of leg g of string n before it is placed (07_strings_abacus.md Table 7.4). A leg that holds placed
connections keeps its lags (R173, R178). -/
def setLags (v : PlaceEnv) (m : CMap) (n : Nat) (g : Leg) : Leg :=
  if g.steps.any (· < noStep) then g
  else
    let lag := (sharedLag m n g).getD (g.latency = 0 || g.loose)
    let g := { g with lag := lag }
    { g with ilag := !g.minLat && v.cut (m.str n).inPort }

/-- Run over string slots in ascending order. -/
def placeSlots (v : PlaceEnv) (pick n j : Nat) (size : Nat) (p : Placing) : Except NoPlace Placing :=
  (List.range size).foldlM (fun p i => placeSlot v pick n j i p) p

/-- A leg with its lags, and with its output slots as far as they are chosen before its steps. -/
def prepLeg (v : PlaceEnv) (n j : Nat) (p : Placing) : Except NoPlace Placing :=
  match p.map.leg n j with
  | none => .ok p
  | some g =>
    let g := setLags v p.map n (joinOuts v.grp p.map n g)
    let m := p.map.setLeg n g
    (if g.device then fillOuts v n g m else .ok m).map fun m => { p with map := m }

/-- String slots of leg j of string n that have a step. -/
def CMap.stepped (m : CMap) (n j : Nat) : Nat :=
  ((m.leg n j).map fun g => (g.steps.filter (· < noStep)).length).getD 0

/-- A leg falls back: as it stood before the placement, `g`, with the lags of UNCONSTRAINED
(07_strings_abacus.md R179); what the placement has placed of it does not count. -/
def fallBack (v : PlaceEnv) (n j : Nat) (g : Leg) (p : Placing) : Except NoPlace Placing :=
  prepLeg v n j { p with
    map := p.map.setLeg n { g with loose := true, steps := [] }, fallback := p.fallback + 1
    placed := p.placed - (p.map.stepped n j - (g.steps.filter (· < noStep)).length) }

/-- Whether the whole leg may fall back: not while the output slots it shares have LAG 0. -/
def mayFallBack (m : CMap) (n j : Nat) : Bool :=
  match m.leg n j with
  | some g => g.latency = 2 && !g.loose && sharedLag m n g ≠ some false
  | none => false

/-- Place one string slot of a leg in its class (07_strings_abacus.md R179). `base` is the map before the
placement. -/
def placeOne (v : PlaceEnv) (pick : Nat) (base : CMap) (n j i : Nat) (p : Placing) : Except NoPlace Placing :=
  match placeSlot v pick n j i p with
  | .ok q => .ok q
  | .error e =>
    match base.leg n j with
    | none => .error e
    | some g =>
      if mayFallBack p.map n j then do
        let q ← fallBack v n j g p
        placeSlots v pick n j (q.map.str n).ins.length q
      else .error e

/-- Place the legs of string n that one command changed: in ascending string slot, and then leg
(07_strings_abacus.md R186). -/
def placeLegsOf (v : PlaceEnv) (pick : Nat) (base : CMap) (n : Nat) (js : List Nat) (p : Placing) :
    Except NoPlace Placing :=
  if js.isEmpty then .ok p else do
  let p ← js.foldlM (fun p j => prepLeg v n j p) p
  (List.range (p.map.str n).ins.length).foldlM
    (fun p i => js.foldlM (fun p j => placeOne v pick base n j i p) p) p

/-- The string and legs that a command changes. -/
def StrCmd.legs (m : CMap) : StrCmd → Nat × List Nat
  | .connect n g => (n, [g.idx])
  | .resize n _ _ => (n, (m.str n).legs.map (·.idx))
  | .condition n mask _ => (n, ((m.str n).legs.map (·.idx)).filter fun i => mask.getLsbD i)
  | c => (c.target, [])

/-- Each command's legs but those that a later command changes. -/
def lastLegs (m : CMap) : List StrCmd → List (Nat × List Nat)
  | [] => []
  | c :: cs =>
    let later := lastLegs m cs
    let e := c.legs m
    (e.1, e.2.filter fun j => !later.any fun f => f.1 = e.1 && f.2.contains j) :: later

/-- The legs a batch places, in the order of the commands that last changed them. STRING_CONDITION alone
places nothing (07_strings_abacus.md R178). -/
def touchedLegs (m : CMap) (cmds : List StrCmd) : List (Nat × List Nat) :=
  let placed (n j : Nat) : Bool := cmds.any fun c => match c with
    | .condition .. => false
    | c => (c.legs m).1 = n && (c.legs m).2.contains j
  (lastLegs m cmds).map fun e => (e.1, e.2.filter (placed e.1))

/-! ### Entries from a map (R196) -/

/-- Who feeds one output slot: string, leg and string slot. -/
structure Feed where
  str : Nat
  leg : Leg
  i : Nat
  deriving DecidableEq, Repr

/-- The placed feeds of output slot q. -/
def feedsOf (m : CMap) (q : Nat) : List Feed :=
  m.strs.flatMap fun e => e.2.legs.filterMap fun g =>
    let i := g.outs.findIdx (· = q)
    if i < g.outs.length ∧ g.steps.getD i noStep < noStep then some ⟨e.1, g, i⟩ else none

/-- The step at which a feed reaches its lane. -/
def Feed.step (f : Feed) : Nat := f.leg.steps.getD f.i noStep

/-- What one output slot reads: MODE, LAG, STEP_A and STEP_B (none for the idle feed), GROUP. -/
structure OutPlan where
  mode : Nat
  lag : Bool
  a : Option Nat
  b : Option Nat
  group : Nat
  deriving DecidableEq, Repr

/-- The step of a feed of one of the strings named, none for the idle feed. -/
def stepOfStr (fs : List Feed) (n : Option Nat) : Option Nat :=
  match n with
  | none => none
  | some n => (fs.find? (·.str = n)).map Feed.step

/-- The plan of an output slot of a group's legs (08_protection.md Table 8.3). -/
def groupPlan (m : CMap) (g : Nat) (d : GroupDef) (fs : List Feed) (lag : Bool) : OutPlan :=
  let isNorm (f : Feed) : Bool := d.normIn.contains (some f.str) || d.etIn = some f.str
  let single (k : Option Nat) : OutPlan := ⟨1, lag, k, none, 0⟩
  if fs.any isNorm then
    if d.type = 2 then ⟨2, lag, stepOfStr fs d.etIn, stepOfStr fs (d.normIn.getD 0 none), g + 1⟩
    else if d.type = 3 then
      let sig := spGet (fun _ => 0) m.bridged g
      if sig = 0 then single (stepOfStr fs d.etIn) else single (stepOfStr fs (d.normIn.getD (sig - 1) none))
    else single (fs.head?.map Feed.step)
  else
    match (List.range 14).find? fun i => fs.any fun f => d.workIn.getD i none = some f.str with
    | some i => ⟨2, lag, stepOfStr fs (d.workIn.getD i none), stepOfStr fs d.protIn, g + i⟩
    | none => if d.type ≥ 2 then ⟨2, lag, stepOfStr fs d.protIn, none, if d.type = 2 then g else g + d.n⟩
              else single (fs.head?.map Feed.step)

/-- The plan of an output slot that feeds name, CONDITIONED apart. -/
def basePlan (m : CMap) (grp : Nat → Option GroupDef) (fs : List Feed) : OutPlan :=
  match fs with
  | [] => ⟨0, false, none, none, 0⟩
  | f :: _ =>
    let lag := fs.any fun f => f.leg.lag
    match f.leg.group with
      | none => ⟨1, lag, some f.step, none, 0⟩
      | some g => match grp g with
        | none => ⟨1, lag, some f.step, none, 0⟩
        | some d => groupPlan m g d fs lag

/-- The plan of an output slot. CONDITIONED of any leg that shares it wins (07_strings_abacus.md R178). -/
def outPlan (m : CMap) (grp : Nat → Option GroupDef) (fs : List Feed) : OutPlan :=
  let p := basePlan m grp fs
  match fs with
  | [] => p
  | f :: _ => if fs.any (·.leg.cond) then ⟨3, p.lag, some f.step, none, 0⟩ else p

/-- A plan needs the idle feed of its lane. -/
def OutPlan.needsIdle (p : OutPlan) : Bool := (p.mode = 1 && p.a.isNone) || (p.mode = 2 && (p.a.isNone || p.b.isNone))

/-- The 42-bit egress entry of a plan (05_core.md Table 5.4), `idle` the idle feed of its lane as step + 1.
A plan that needs an idle feed where there is none sends idle slots. -/
def OutPlan.entry (p : OutPlan) (idle : Nat) : BitVec 42 :=
  if p.needsIdle && idle = 0 then 0
  else BitVec.ofNat 42 (p.mode * 2 ^ 40 + b2n p.lag * 2 ^ 39 + p.a.getD (idle - 1) % 2048 * 2 ^ 28
    + (if p.mode = 2 then p.b.getD (idle - 1) % 2048 * 2 ^ 16 + p.group % 8192 else 0))

/-- Every leg of a map, those of a list first. -/
def legOrder (ts : List (Nat × List Nat)) (m : CMap) : List (Nat × Nat) :=
  (ts.flatMap fun e => e.2.map fun j => (e.1, j)) ++ m.strs.flatMap fun e => e.2.legs.map fun g => (e.1, g.idx)

/-- The strings and lanes whose output slots need an idle feed and have none, in the order of some legs
(08_protection.md R196). A conditioned output slot needs it as it will when it is cleared
(07_strings_abacus.md R178). -/
def idleNeeds (order : List (Nat × Nat)) (m : CMap) (grp : Nat → Option GroupDef) : List (Nat × Nat) :=
  order.flatMap fun e => match m.leg e.1 e.2 with
    | none => []
    | some g => ((g.outs.filter fun q => (basePlan m grp (feedsOf m q)).needsIdle
        && spGet (fun _ => 0) m.idle (q / 1024) = 0).map fun q => (e.1, q / 1024)).eraseDups

/-- The idle feeds a map needs and has not. -/
def mapNeeds (m : CMap) (grp : Nat → Option GroupDef) : List (Nat × Nat) := idleNeeds (legOrder [] m) m grp

/-- Give a lane its idle feed: the lowest usable step free at the lane. It is needed first by string n. -/
def placeIdle (v : PlaceEnv) (p : Placing) (e : Nat × Nat) : Except NoPlace Placing :=
  if spGet (fun _ => 0) p.map.idle e.2 ≠ 0 then .ok p
  else match v.usable.find? fun k => freeOut p.map p.map.edges e.2 k with
    | some k => .ok { p with map := { p.map with idle := spSet (fun _ => 0) e.2 (k + 1) p.map.idle } }
    | none => .error ⟨6, e.1, e.2, 0, (p.map.str e.1).ins.headD 0 / 1024, true⟩

/-- Give lanes their idle feeds as far as they can be placed; the strings of those that cannot. -/
def tryIdles (v : PlaceEnv) (needs : List (Nat × Nat)) (r : Placing × List Nat) : Placing × List Nat :=
  needs.foldl (fun r e => match placeIdle v r.1 e with
    | .ok p => (p, r.2)
    | .error _ => (r.1, insNat e.1 r.2)) r

/-- Place every leg named, and the idle feeds the result needs (07_strings_abacus.md R177, R181): those of the legs
named, and those that the map in force, `base`, did not need (R178). -/
def placeLegs (v : PlaceEnv) (pick : Nat) (base : CMap) (ts : List (Nat × List Nat)) (m : CMap) :
    Except NoPlace Placing := do
  let p ← ts.foldlM (fun p e => placeLegsOf v pick m e.1 e.2 p) (⟨m, 0, 0, 0⟩ : Placing)
  let open_ := (mapNeeds base v.grp).map (·.2)
  let own := ts.filter fun e => !e.2.isEmpty
  let needs := (idleNeeds (legOrder ts p.map) p.map v.grp).filter fun e =>
    own.any (·.1 = e.1) || !open_.contains e.2
  needs.foldlM (placeIdle v) p

/-- The lowest ingress lane that reads nothing at step k: the source an idle feed names. -/
def idleSource (es : List Edge) (k : Nat) : Nat := ((List.range 256).find? fun a => freeIn es a k).getD 0

/-- The page set of a map (05_core.md R120 to R122, 08_protection.md R196). -/
def buildPages (m : CMap) (grp : Nat → Option GroupDef) : PageSet :=
  let es := m.edges
  { ing := es.foldl (fun p e => spIns (e.inGs / 1024 * 2048 + e.step)
      (BitVec.ofNat 12 (0x800 + b2n e.ilag * 0x400 + e.inGs % 1024)) p) []
    spc := m.idle.foldl (fun p e => spIns (e.1 * 2048 + (e.2 - 1))
        (BitVec.ofNat 10 (0x200 + idleSource es (e.2 - 1))) p)
      (es.foldl (fun p e => spIns (e.out * 2048 + e.step) (BitVec.ofNat 10 (0x200 + e.inGs / 1024)) p) [])
    egr := (usedOuts m).foldl (fun p q => spSet (fun _ => 0) (q / 1024 * 2048 + q % 1024)
      ((outPlan m grp (feedsOf m q)).entry (spGet (fun _ => 0) m.idle (q / 1024))) p) [] }

/-! ### Full repack (R134, R182, R183) -/

/-- The UNCONSTRAINED edges of a map, placed or waiting to be, each once. -/
def looseEdges (m : CMap) : List Edge :=
  (m.strs.flatMap fun e => e.2.legs.flatMap fun g =>
    if g.minLat then [] else ((List.range g.outs.length).filter fun i => g.steps.getD i noStep ≠ leftOut).map fun i =>
      (⟨e.2.ins.getD i 0, g.outs.getD i 0 / 1024, noStep, g.ilag, false, e.1⟩ : Edge)).eraseDups

/-- The key of an edge in a colouring: input slot * 256 + egress lane, and 2^26 more with ILAG 1. -/
def edgeKey (inGs out : Nat) (ilag : Bool) : Nat := inGs * 256 + out + 2 ^ 26 * b2n ilag

/-- The ingress lane of a key. -/
def keyIn (k : Nat) : Nat := k % 2 ^ 26 / 2 ^ 18

/-- The egress lane of a key. -/
def keyOut (k : Nat) : Nat := k % 256

/-- A full colouring: every UNCONSTRAINED edge, by its key, at a usable step, no two at one step on one
lane, and none at a step a minimum-latency edge or an idle feed holds (07_strings_abacus.md R182). -/
def properColouring (v : PlaceEnv) (m : CMap) (cs : List (Nat × Nat)) : Bool :=
  let mins := m.edges.filter (·.min)
  (looseEdges m).all (fun e => cs.any (·.1 = edgeKey e.inGs e.out e.ilag))
  && cs.all (fun c => v.usable.contains c.2
      && mins.all (fun e => e.step ≠ c.2 || (e.inGs / 1024 ≠ keyIn c.1 && e.out ≠ keyOut c.1))
      && !idleAt m (keyOut c.1) c.2)
  && decide (cs.Pairwise fun c d => c.2 ≠ d.2 ∨ (keyIn c.1 ≠ keyIn d.1 ∧ keyOut c.1 ≠ keyOut d.1))

/-- A map with its UNCONSTRAINED edges at the steps of a colouring; every moved edge keeps its lags. -/
def applyColouring (m : CMap) (cs : List (Nat × Nat)) : CMap :=
  m.mapLegs fun ins g =>
    let f (i : Nat) : Nat := if g.steps.getD i noStep = leftOut then leftOut
      else ((cs.find? (·.1 = edgeKey (ins.getD i 0) (g.outs.getD i 0 / 1024) g.ilag)).map (·.2)).getD noStep
    if g.minLat then g else { g with steps := (List.range g.outs.length).map f }

/-- Fan-out count of an ingress lane and in-count of an egress lane (05_core.md R132). -/
def fanOut (es : List Edge) (a : Nat) : Nat :=
  ((es.filter (·.inGs / 1024 = a)).map fun e => (e.inGs, e.out)).eraseDups.length

/-- In-count of an egress lane (05_core.md R132). -/
def inCount (es : List Edge) (b : Nat) : Nat := ((es.filter (·.out = b)).map (·.inGs)).eraseDups.length

/-- The first edge of those a test selects: by ingress lane, slot in lane and egress lane. -/
def firstEdge (f : Edge → Bool) (es : List Edge) : Option Edge :=
  (es.filter f).foldl (fun (b : Option Edge) e => match b with
    | none => some e
    | some x => if e.inGs * 256 + e.out < x.inGs * 256 + x.out then some e else b) none

/-- The egress lanes that need an idle feed once every open edge of a map has a step. -/
def feedLanes (v : PlaceEnv) (m : CMap) : List Nat :=
  (mapNeeds (m.mapLegs fun _ g => { g with steps := g.steps.map fun k => if k = noStep then 0 else k }) v.grp).map (·.2)

/-- Why a full repack failed (07_strings_abacus.md R183, R186): the first lane whose count, its idle feed with it,
exceeds S, else REPACK_FAILED for the idle feed `idle` that found no step or for the edge that the abacus could not
colour, which the spec leaves to it. -/
def repackReport (v : PlaceEnv) (m : CMap) (pick : Nat) (idle : Option NoPlace) : NoPlace :=
  let es := looseEdges m ++ m.edges.filter (·.min)
  let S := v.usable.length
  let feeds := feedLanes v m
  let ins (b : Nat) : Nat := inCount es b + b2n (feeds.contains b)
  let full (cause lane n : Nat) (e : Option Edge) : NoPlace :=
    ⟨cause, e.elim 0 (·.str), lane, n, e.elim 0 (·.inGs / 1024), true⟩
  match (List.range 256).find? fun a => fanOut es a > S with
  | some a => full 1 a (fanOut es a) (firstEdge (fun e => e.inGs / 1024 = a) es)
  | none => match (List.range 256).find? fun b => ins b > S with
    | some b => full 2 b (ins b) (firstEdge (fun e => e.out = b) es)
    | none => match idle with
      | some e => { e with cause := 5 }
      | none =>
        let e := es[pick % max 1 es.length]?
        full 5 (e.elim 0 (·.out)) 0 e

/-- RESULT0 of NO_PLACEMENT (07_strings_abacus.md Table 7.8). -/
def placeReport (s : State) (e : NoPlace) : Nat :=
  e.cause * 2 ^ 60 + e.str % 65536 * 2 ^ 44 + e.lane % 256 * 2 ^ 36 + e.count % 2 ^ 20 * 2 ^ 16
    + (usableSteps s).length % 4096 * 16 + s.abacus.lent.length % 16

end Sys2Proof.Machine
end

