-- ==== Sys2Proof/Machine/Aes.lean ====
section
/-! DEFINITION. AES and the modes of the cipher engine (14_cipher.md R354, Table 14.1): CBC, CTR,
CFB-128, OFB, GCM, CMAC and AES-KW unwrapping, after the NIST standards the table names. -/

namespace Sys2Proof.Machine

/-! ### The block cipher -/

/-- The AES S-box. -/
def sboxTable : Bytes :=
  [[0x63, 0x7C, 0x77, 0x7B, 0xF2, 0x6B, 0x6F, 0xC5, 0x30, 0x01, 0x67, 0x2B, 0xFE, 0xD7, 0xAB, 0x76],
   [0xCA, 0x82, 0xC9, 0x7D, 0xFA, 0x59, 0x47, 0xF0, 0xAD, 0xD4, 0xA2, 0xAF, 0x9C, 0xA4, 0x72, 0xC0],
   [0xB7, 0xFD, 0x93, 0x26, 0x36, 0x3F, 0xF7, 0xCC, 0x34, 0xA5, 0xE5, 0xF1, 0x71, 0xD8, 0x31, 0x15],
   [0x04, 0xC7, 0x23, 0xC3, 0x18, 0x96, 0x05, 0x9A, 0x07, 0x12, 0x80, 0xE2, 0xEB, 0x27, 0xB2, 0x75],
   [0x09, 0x83, 0x2C, 0x1A, 0x1B, 0x6E, 0x5A, 0xA0, 0x52, 0x3B, 0xD6, 0xB3, 0x29, 0xE3, 0x2F, 0x84],
   [0x53, 0xD1, 0x00, 0xED, 0x20, 0xFC, 0xB1, 0x5B, 0x6A, 0xCB, 0xBE, 0x39, 0x4A, 0x4C, 0x58, 0xCF],
   [0xD0, 0xEF, 0xAA, 0xFB, 0x43, 0x4D, 0x33, 0x85, 0x45, 0xF9, 0x02, 0x7F, 0x50, 0x3C, 0x9F, 0xA8],
   [0x51, 0xA3, 0x40, 0x8F, 0x92, 0x9D, 0x38, 0xF5, 0xBC, 0xB6, 0xDA, 0x21, 0x10, 0xFF, 0xF3, 0xD2],
   [0xCD, 0x0C, 0x13, 0xEC, 0x5F, 0x97, 0x44, 0x17, 0xC4, 0xA7, 0x7E, 0x3D, 0x64, 0x5D, 0x19, 0x73],
   [0x60, 0x81, 0x4F, 0xDC, 0x22, 0x2A, 0x90, 0x88, 0x46, 0xEE, 0xB8, 0x14, 0xDE, 0x5E, 0x0B, 0xDB],
   [0xE0, 0x32, 0x3A, 0x0A, 0x49, 0x06, 0x24, 0x5C, 0xC2, 0xD3, 0xAC, 0x62, 0x91, 0x95, 0xE4, 0x79],
   [0xE7, 0xC8, 0x37, 0x6D, 0x8D, 0xD5, 0x4E, 0xA9, 0x6C, 0x56, 0xF4, 0xEA, 0x65, 0x7A, 0xAE, 0x08],
   [0xBA, 0x78, 0x25, 0x2E, 0x1C, 0xA6, 0xB4, 0xC6, 0xE8, 0xDD, 0x74, 0x1F, 0x4B, 0xBD, 0x8B, 0x8A],
   [0x70, 0x3E, 0xB5, 0x66, 0x48, 0x03, 0xF6, 0x0E, 0x61, 0x35, 0x57, 0xB9, 0x86, 0xC1, 0x1D, 0x9E],
   [0xE1, 0xF8, 0x98, 0x11, 0x69, 0xD9, 0x8E, 0x94, 0x9B, 0x1E, 0x87, 0xE9, 0xCE, 0x55, 0x28, 0xDF],
   [0x8C, 0xA1, 0x89, 0x0D, 0xBF, 0xE6, 0x42, 0x68, 0x41, 0x99, 0x2D, 0x0F, 0xB0, 0x54, 0xBB, 0x16]].flatten

/-- SubBytes of one byte. -/
def sbox (b : Byte) : Byte := sboxTable.getD b.toNat 0

/-- The inverse of `sbox`. -/
def sboxInv (b : Byte) : Byte := BitVec.ofNat 8 (sboxTable.idxOf b)

/-- Multiplication by x in GF(2^8). -/
def xtime (b : Byte) : Byte := (b <<< 1) ^^^ (if b.msb then 0x1B else 0)

/-- Multiplication in GF(2^8), by the bits of the second factor from the top. -/
def gmul (a b : Byte) : Byte :=
  (List.range 8).foldl (fun r i => xtime r ^^^ (if b.getLsbD (7 - i) then a else 0)) 0

/-- Exclusive OR of two byte strings, as long as the shorter. -/
def xorB (a b : Bytes) : Bytes := List.zipWith (· ^^^ ·) a b

/-- ShiftRows: the state in column order. -/
def shiftRows (s : Bytes) : Bytes := (List.range 16).map fun i => s.getD ((i + 4 * (i % 4)) % 16) 0

/-- The inverse of `shiftRows`. -/
def unshiftRows (s : Bytes) : Bytes := (List.range 16).map fun i => s.getD ((i + 12 * (i % 4)) % 16) 0

/-- MixColumns with the first row of its matrix. -/
def mixWith (m : Bytes) (s : Bytes) : Bytes :=
  (List.range 16).map fun i =>
    (List.range 4).foldl (fun r j => r ^^^ gmul (s.getD (i / 4 * 4 + j) 0) (m.getD ((j + 4 - i % 4) % 4) 0)) 0

def mixColumns : Bytes → Bytes := mixWith [2, 3, 1, 1]
def unmixColumns : Bytes → Bytes := mixWith [14, 11, 13, 9]

/-- One word of the key schedule from the words so far, newest first (nk words of key). -/
def nextWord (nk i : Nat) (ws : List Bytes) (rcon : Byte) : Bytes :=
  let t := ws.headD []
  let t := if i % nk = 0 then
      xorB ((t.drop 1 ++ t.take 1).map sbox) [rcon, 0, 0, 0]
    else if nk = 8 ∧ i % nk = 4 then t.map sbox else t
  xorB (ws.getD (nk - 1) []) t

/-- The key schedule, words newest first. -/
def expandWords (nk : Nat) : Nat → Nat → Byte → List Bytes → List Bytes
  | 0, _, _, ws => ws
  | n + 1, i, rcon, ws =>
    expandWords nk n (i + 1) (if i % nk = 0 then xtime rcon else rcon) (nextWord nk i ws rcon :: ws)

/-- The round keys, 16 bytes each, of a 16- or 32-byte key. -/
def roundKeys (key : Bytes) : List Bytes :=
  let nk := key.length / 4
  let first := ((List.range nk).map fun i => sub key (4 * i) 4).reverse
  let ws := (expandWords nk (4 * (nk + 7) - nk) nk 1 first).reverse
  (List.range (nk + 7)).map fun r => (sub (ws.flatten) (16 * r) 16)

/-- The rounds after the first key addition. -/
def encRounds : List Bytes → Bytes → Bytes
  | [], s => s
  | [k], s => xorB (shiftRows (s.map sbox)) k
  | k :: ks, s => encRounds ks (xorB (mixColumns (shiftRows (s.map sbox))) k)

/-- One AES block under expanded keys. -/
def encBlock (ks : List Bytes) (b : Bytes) : Bytes := encRounds ks.tail (xorB b (ks.headD []))

/-- The inverse rounds, keys from the last to the first. -/
def decRounds : List Bytes → Bytes → Bytes
  | [], s => s
  | [k], s => xorB ((unshiftRows s).map sboxInv) k
  | k :: ks, s => decRounds ks (unmixColumns (xorB ((unshiftRows s).map sboxInv) k))

/-- One AES block decrypted under expanded keys. -/
def decBlock (ks : List Bytes) (b : Bytes) : Bytes :=
  let r := ks.reverse
  decRounds r.tail (xorB b (r.headD []))

/-! ### Modes -/

/-- The 16-byte blocks of a string, the last one short where it ends. -/
def blocksOf : Nat → Bytes → List Bytes
  | 0, _ => []
  | n + 1, bs => if bs.isEmpty then [] else bs.take 16 :: blocksOf n (bs.drop 16)

/-- The blocks of a string. -/
def blocks (bs : Bytes) : List Bytes := blocksOf (bs.length / 16 + 1) bs

/-- CBC encryption. -/
def cbcEnc (ks : List Bytes) (iv : Bytes) (bs : List Bytes) : Bytes :=
  match bs with
  | [] => []
  | b :: bs => let c := encBlock ks (xorB b iv); c ++ cbcEnc ks c bs

/-- CBC decryption. -/
def cbcDec (ks : List Bytes) (iv : Bytes) (bs : List Bytes) : Bytes :=
  match bs with
  | [] => []
  | c :: bs => xorB (decBlock ks c) iv ++ cbcDec ks c bs

/-- A counter block: a 128-bit big-endian integer. -/
def ctrBlock (n : Nat) : Bytes := beBytes 16 (n % 2 ^ 128)

/-- CTR from a counter value, by `step` to the next. -/
def ctrRun (ks : List Bytes) (next : Nat → Nat) (n : Nat) (bs : List Bytes) : Bytes :=
  match bs with
  | [] => []
  | b :: bs => xorB b (encBlock ks (ctrBlock n)) ++ ctrRun ks next (next n) bs

/-- CFB-128; the feedback is the ciphertext block. -/
def cfbRun (dec : Bool) (ks : List Bytes) (iv : Bytes) (bs : List Bytes) : Bytes :=
  match bs with
  | [] => []
  | b :: bs => let o := xorB b (encBlock ks iv); o ++ cfbRun dec ks (if dec then b else o) bs

/-- OFB. -/
def ofbRun (ks : List Bytes) (iv : Bytes) (bs : List Bytes) : Bytes :=
  match bs with
  | [] => []
  | b :: bs => let o := encBlock ks iv; xorB b o ++ ofbRun ks o bs

/-- Doubling in GF(2^128) for the CMAC subkeys. -/
def cmacDouble (b : Bytes) : Bytes :=
  let n := beNat b
  beBytes 16 (Nat.xor (n * 2 % 2 ^ 128) (if 2 ^ 127 ≤ n then 0x87 else 0))

/-- CMAC over the blocks, with the last block treated by its subkey. -/
def cmacRun (ks : List Bytes) (k1 k2 x : Bytes) (bs : List Bytes) : Bytes :=
  match bs with
  | [] => encBlock ks (xorB x (xorB (0x80 :: List.replicate 15 0) k2))
  | [b] =>
    if b.length = 16 then encBlock ks (xorB x (xorB b k1))
    else encBlock ks (xorB x (xorB (b ++ 0x80 :: List.replicate (15 - b.length) 0) k2))
  | b :: bs => cmacRun ks k1 k2 (encBlock ks (xorB x b)) bs

/-- AES-CMAC (13_host.md R343). -/
def cmac (key msg : Bytes) : Bytes :=
  let ks := roundKeys key
  let k1 := cmacDouble (encBlock ks (List.replicate 16 0))
  cmacRun ks k1 (cmacDouble k1) (List.replicate 16 0) (blocks msg)

/-- Multiplication in the field of GHASH, bit 0 the most significant. -/
def ghashMul (x y : Nat) : Nat :=
  ((List.range 128).foldl (fun (a : Nat × Nat) i =>
    (if bitOf x (127 - i) then Nat.xor a.1 a.2 else a.1,
     if bitOf a.2 0 then Nat.xor (a.2 / 2) (0xE1 * 2 ^ 120) else a.2 / 2)) (0, y)).1

/-- GHASH over zero-padded blocks. -/
def ghash (h : Nat) (bs : List Bytes) : Nat :=
  bs.foldl (fun y b => ghashMul (Nat.xor y (beNat (padTo 16 b))) h) 0

/-- The counter of GCM: the low 32 bits rise. -/
def incr32 (n : Nat) : Nat := n / 2 ^ 32 * 2 ^ 32 + (n + 1) % 2 ^ 32

/-- The GCM tag over AAD and ciphertext. -/
def gcmTag (ks : List Bytes) (nonce aad ct : Bytes) : Bytes :=
  let h := beNat (encBlock ks (List.replicate 16 0))
  let s := ghash h (blocks aad ++ blocks ct ++ [beBytes 8 (8 * aad.length) ++ beBytes 8 (8 * ct.length)])
  xorB (beBytes 16 s) (encBlock ks (nonce.take 12 ++ [0, 0, 0, 1]))

/-- The GCM keystream applied to data. -/
def gcmCrypt (ks : List Bytes) (nonce data : Bytes) : Bytes :=
  ctrRun ks incr32 (incr32 (beNat (nonce.take 12 ++ [0, 0, 0, 1]))) (blocks data)

/-- GCM seal: ciphertext and tag. -/
def gcmSeal (key nonce aad pt : Bytes) : Bytes × Bytes :=
  let ks := roundKeys key
  let ct := gcmCrypt ks nonce pt
  (ct, gcmTag ks nonce aad ct)

/-- GCM open: the plaintext, none on a tag mismatch (14_cipher.md R368). -/
def gcmOpen (key nonce aad ct tag : Bytes) : Option Bytes :=
  let ks := roundKeys key
  if gcmTag ks nonce aad ct = tag then some (gcmCrypt ks nonce ct) else none

/-- One step of AES-KW unwrapping, for block i of n and round j. -/
def kwStep (ks : List Bytes) (n : Nat) (x : Bytes × List Bytes) (t : Nat) : Bytes × List Bytes :=
  let i := (t - 1) % n
  let b := decBlock ks (xorB x.1 (beBytes 8 t) ++ x.2.getD i [])
  (b.take 8, x.2.set i (b.drop 8))

/-- AES-KW unwrapping (14_cipher.md Table 14.1): the plaintext, none when the integrity check fails. -/
def kwUnwrap (key wrapped : Bytes) : Option Bytes :=
  let ks := roundKeys key
  let n := wrapped.length / 8 - 1
  let r := (List.range n).map fun i => sub wrapped (8 * (i + 1)) 8
  let ts := ((List.range (6 * n)).map (· + 1)).reverse
  let x := ts.foldl (kwStep ks n) (wrapped.take 8, r)
  if x.1 = List.replicate 8 0xA6 then some x.2.flatten else none

end Sys2Proof.Machine
end

