-- ==== Sys2Proof/Machine/HostCmd.lean ====
section
/-! DEFINITION. Rings of the host interface: completions, errors, and the running command
(13_host.md R327 to R345). -/

namespace Sys2Proof.Machine

/-! ### Status codes (R350, Table 13.11) -/

abbrev stOk : Nat := 0x0000
abbrev stNotPersisted : Nat := 0x0001
abbrev stPeerUnacked : Nat := 0x0002
abbrev stInvalidOpcode : Nat := 0x1001
abbrev stNotPermitted : Nat := 0x1002
abbrev stInvalidArg : Nat := 0x1003
abbrev stBusy : Nat := 0x1004
abbrev stExtFault : Nat := 0x1005
abbrev stUnavailable : Nat := 0x1006
abbrev stWrongMode : Nat := 0x1007
abbrev stLifecycle : Nat := 0x1008
abbrev stAuthFail : Nat := 0x2001
abbrev stReplay : Nat := 0x2002
abbrev stCipherLocked : Nat := 0x2003
abbrev stSlotRange : Nat := 0x3001
abbrev stSlotInUse : Nat := 0x3002
abbrev stSlotUnreliable : Nat := 0x3003
abbrev stStringState : Nat := 0x3004
abbrev stStringBusy : Nat := 0x3005
abbrev stNoPlacement : Nat := 0x3006
abbrev stBatchFull : Nat := 0x3007
abbrev stPreempted : Nat := 0x4001
abbrev stSwapCommitted : Nat := 0x4002
abbrev stNotArmed : Nat := 0x4003
abbrev stScenarioStale : Nat := 0x4004
abbrev stScenarioEmpty : Nat := 0x4005
abbrev stDisarmed : Nat := 0x4006
abbrev stGroupInUse : Nat := 0x5001
abbrev stGroupUnknown : Nat := 0x5002
abbrev stGroupBusy : Nat := 0x5003
abbrev stSizeMismatch : Nat := 0x5004
abbrev stCalendarFull : Nat := 0x5005
abbrev stRequestOverridden : Nat := 0x5006
abbrev stPortInService : Nat := 0x6001
abbrev stRefused : Nat := 0x7001
abbrev stCollide : Nat := 0x7002
abbrev stEccUncorr : Nat := 0x7003
abbrev stNoBank : Nat := 0x7004
abbrev stKeyEmpty : Nat := 0x8001
abbrev stKeyGenMismatch : Nat := 0x8002
abbrev stKeyPolicy : Nat := 0x8003
abbrev stBlobInvalid : Nat := 0x8004
abbrev stTagMismatch : Nat := 0x8005
abbrev stTooLarge : Nat := 0x8006
abbrev stCipherFault : Nat := 0x8007
abbrev stImageInvalid : Nat := 0x9001
abbrev stRollbackRefused : Nat := 0x9002
abbrev stNotActive : Nat := 0xA001
abbrev stPeerDown : Nat := 0xA002
abbrev stDeviceError : Nat := 0xF001

/-- What a command answers: status, RESULT0, RESULT1, DETAIL, and the number of legs that fell
back (13_host.md Table 13.5). -/
structure Answer where
  status : Nat
  r0 : Nat
  r1 : Nat
  detail : Nat
  fallback : Nat
  deriving DecidableEq, Repr

/-- An answer with a status alone. -/
def ans (status : Nat) : Answer := ⟨status, 0, 0, 0, 0⟩

/-- INVALID_ARG with the offset of the first argument refused (13_host.md R338). -/
def badArg (offset : Nat) : Answer := ⟨stInvalidArg, 0, 0, offset, 0⟩

/-! ### Registers of a queue -/

/-- QCFG[q]. -/
def qcfg (s : State) (q : Nat) : Nat := cfgN s (0x51010 + 0x40 * q)

/-- The function of queue q. -/
def qFunction (s : State) (q : Nat) : Nat := bitsOf (qcfg s q) 30 27

/-- Entries of the command ring of queue q (13_host.md R328). -/
def sqSize (s : State) (q : Nat) : Nat := 2 ^ bitsOf (qcfg s q) 26 22

/-- Entries of the completion ring of queue q. -/
def cqSize (s : State) (q : Nat) : Nat := 2 ^ bitsOf (qcfg s q) 21 17

/-- CQ_BASE[q]. -/
def cqBase (s : State) (q : Nat) : Nat :=
  cfgN s (0x51008 + 0x40 * q) + 2 ^ 32 * cfgN s (0x5100C + 0x40 * q)

/-! ### Errors -/

/-- Fire an entry of a function's MSI-X table. -/
def fire (fn vec : Nat) (s : State) : State :=
  let h := msix s s.hif fn vec
  { s with hif := { s.hif with sent := h.sent, pba := h.pba } }

/-- A queue enters ERROR (13_host.md R333): it fetches and starts nothing more, its function's error
vector fires and an event is raised. -/
def queueError (q cause : Nat) (s : State) : State :=
  let x := queue s q
  let s := setQueue q { x with error := true, cause := cause } s
  raise .queueError q cause (fire (qFunction s q) 0 s)

/-- Discard the open batch of a queue (13_host.md R327, 07_strings_abacus.md R175), with its event. -/
def discardBatch (q : Nat) (s : State) : State :=
  if s.abacus.batches.any fun b => b.q = q && !b.committed then
    raise .batchDiscarded q 0 { s with abacus := { s.abacus with
      batches := s.abacus.batches.filter fun b => !(b.q = q && !b.committed) } }
  else s

/-- A queue whose ENABLE was cleared is disabled once its last completion has been written; ERROR
stays until ENABLE is set again (13_host.md R333). -/
def finishClosing (q : Nat) (s : State) : State :=
  let x := queue s q
  if x.closing ∧ x.running.isNone ∧ x.fetched.isEmpty then
    discardBatch q (setQueue q { x with enabled := false, closing := false } s)
  else s

/-! ### Completions (R332, R335, R338) -/

/-- The 32 bytes of a completion (13_host.md Table 13.5). -/
def cplBytes (desc : Bytes) (a : Answer) (ci : Nat) (phase : Bool) : Bytes :=
  sub desc 4 4 ++ leBytes 2 a.status ++ [desc.getD 0 0, BitVec.ofNat 8 (b2n (a.fallback ≠ 0))]
  ++ leBytes 8 a.r0 ++ leBytes 8 (a.r1 + if a.fallback ≠ 0 then 2 ^ 32 * a.fallback else 0)
  ++ leBytes 4 a.detail ++ leBytes 2 ci ++ [0, BitVec.ofNat 8 (b2n phase)]

/-- Signal a completion ring (13_host.md R334, R335): at QINT.COUNT completions since it last
signalled; COUNT = 0 signals each. -/
def signalCpl (q : Nat) (s : State) : State :=
  let x := queue s q
  let n := x.unsig + 1
  let now := decide (cfgN s (0x51020 + 0x40 * q) / 65536 ≤ n)
  let s := setQueue q { x with
    unsig := (if now then 0 else n), unsigAt := (if x.unsig = 0 then s.tick else x.unsigAt)
    time := cfgN s (0x51020 + 0x40 * q) % 65536 } s
  let vec := bitsOf (qcfg s q) 16 10
  if now && vec ≠ 0 then fire (qFunction s q) vec s else s

/-- Write the completion of a command of queue q (13_host.md R332, R338): at the producer index with
the present phase. A ring reset under the command takes none (R327); a failed write puts the queue
into ERROR (Table 13.10). -/
def writeCpl (q : Nat) (desc : Bytes) (a : Answer) (s : State) : State :=
  let x := queue s q
  let ci := (x.ci + 1) % sqSize s q
  if x.mute then setQueue q { x with ci := ci, mute := false } s
  else if !linkUp s then
    let s := setQueue q { x with ci := ci } s
    if x.error then s else queueError q 3 s
  else
    let pi := (x.cpi + 1) % cqSize s q
    let mem := memPut (cqBase s q + 32 * x.cpi) (cplBytes desc a ci x.phase) s.hif.hostMem
    let s := setQueue q { x with ci := ci, cpi := pi, phase := if pi = 0 then !x.phase else x.phase } s
    signalCpl q { s with hif := { s.hif with hostMem := mem } }

/-- The opcodes of 13_host.md Table 13.8. -/
def opcodeDefined (o : Nat) : Bool :=
  o ≤ 0x01 || (0x10 ≤ o && o ≤ 0x1E) || (0x20 ≤ o && o ≤ 0x24) || (0x30 ≤ o && o ≤ 0x35)
  || (0x40 ≤ o && o ≤ 0x42) || (0x50 ≤ o && o ≤ 0x53) || (0x60 ≤ o && o ≤ 0x63)
  || (0x70 ≤ o && o ≤ 0x76) || (0x80 ≤ o && o ≤ 0x84)

/-- OPCODE of a fetched descriptor. -/
def opcodeOf (d : Fetched) : Nat := (d.desc.getD 0 0).toNat

/-- The management firmware runs: started, and neither in a restart nor held (15_management.md R382,
R383). -/
def mgmtRuns (s : State) : Bool := s.mgmt.up ≠ 0 && s.mgmt.restartAt.isNone && !s.mgmt.halted

/-- The management firmware executes commands (17_power_startup.md R448, R454). -/
def serving (s : State) : Bool := mgmtRuns s && !s.pwr.shutting

/-- Descriptors at the head of the queue that have no row of their own: those with no defined opcode
complete with INVALID_OPCODE (13_host.md R341 step 1, R346), and those that a restart of the management
complex met unstarted with DEVICE_ERROR (15_management.md R383). -/
def skipUndefined (fuel q : Nat) (s : State) : State :=
  match fuel with
  | 0 => s
  | n + 1 =>
    let x := queue s q
    match x.fetched with
    | d :: ds =>
      if x.running.isSome ∨ x.error ∨ !serving s then s
      else if x.doomed ≠ 0 then
        skipUndefined n q (writeCpl q d.desc (ans stDeviceError)
          (setQueue q { x with fetched := ds, doomed := x.doomed - 1 } s))
      else if opcodeDefined (opcodeOf d) then s
      else skipUndefined n q (writeCpl q d.desc (ans stInvalidOpcode) (setQueue q { x with fetched := ds } s))
    | [] => s

/-- The running command of queue q completes (13_host.md R341). -/
def completeNow (q : Nat) (a : Answer) (s : State) : State :=
  let x := queue s q
  match x.running with
  | none => s
  | some d =>
    let a := if x.unkept ∧ a.status = stOk then { a with status := stNotPersisted } else a
    let s := writeCpl q d.desc a (setQueue q { x with running := none, unkept := false } s)
    let s := if (queue s q).error ∧ (queue s q).closing then
        setQueue q { queue s q with fetched := [] } s else s
    finishClosing q (skipUndefined 8 q s)

/-- The running command of queue q completes: at once, or after the restart of the management complex
that is under way, or not at all while the complex is held (15_management.md R382, R383). `kept` is the status that it
then gets. -/
def completeAs (kept q : Nat) (a : Answer) (s : State) : State :=
  if s.mgmt.restartAt.isSome || s.mgmt.halted then
    { s with mgmt := { s.mgmt with
      past := s.mgmt.past ++ [(q, [kept, a.r0, a.r1, a.detail, a.fallback])] } }
  else completeNow q a s

/-- A command completes. When that falls in a restart, the journal holds no record of it, and its status afterwards is
NOT_PERSISTED (15_management.md R383). -/
def complete (q : Nat) (a : Answer) (s : State) : State := completeAs stNotPersisted q a s

/-- Complete the command of a queue, when there is one. -/
def completeOpt (q : Option Nat) (a : Answer) (s : State) : State :=
  match q with
  | none => s
  | some q => complete q a s

/-- The descriptor of the running command of queue q. -/
def runningDesc (s : State) (q : Nat) : Bytes := ((queue s q).running.map (·.desc)).getD []

/-- The opcode of the running command of queue q, 0x100 when none runs. -/
def runningOp (s : State) (q : Nat) : Nat := ((queue s q).running.map opcodeOf).getD 0x100

end Sys2Proof.Machine
end

