-- ==== Sys2Proof/Machine/Journal.lean ====
section
/-! DEFINITION. The journal: raising records, persistence and durability of completions
(16_journal_seesaw.md R406 to R420). -/

namespace Sys2Proof.Machine

/-! ### Blocks of a region (R404, R405, R413, R415) -/

/-- Working blocks in use, and spare blocks left (Table 16.14). -/
def Region.usage (r : Region) : Nat := r.used.length
def Region.spares (r : Region) : Nat := r.pool.length

/-- The erase count of a block. -/
def Region.worn (r : Region) (b : Nat) : Nat := spGet (fun _ => 0) r.erases b

/-- Open the working block that was erased first (R415), with its header (R405). -/
def Region.openBlock (kind ckpt : Nat) (r : Region) : Region :=
  match r.free with
  | [] => r
  | b :: bs => { r with
    free := bs, bseq := r.bseq + 1, used := r.used ++ [⟨b, kind, r.bseq + 1, r.worn b, ckpt, 0, false⟩] }

/-- Close the open log block, whose last record is `seq` (R406). -/
def Region.close (seq : Nat) (r : Region) : Region :=
  if r.fill = 0 then r
  else { r with
    fill := 0
    used := r.used.map fun b => if b.kind = 1 && !b.done then { b with last := seq, done := true } else b }

/-- Erase the blocks that a test selects; they are used again in the order in which they were erased. -/
def Region.erase (sel : Block → Bool) (r : Region) : Region :=
  let gone := (r.used.filter sel).map (·.no)
  { r with
    used := r.used.filter fun b => !sel b
    free := r.free ++ gone
    erases := gone.foldl (fun m b => spSet (fun _ => 0) b (r.worn b + 1) m) r.erases }

/-- Program a record of `n` bytes: it opens the next block when it does not fit in the open one (R406).
`seq` is the last record before it. -/
def Region.append (seq : Nat) (r : Region) (n : Nat) : Region :=
  if !r.ok then r
  else if r.fill ≠ 0 ∧ r.fill + n ≤ 262144 then { r with fill := r.fill + n }
  else { (r.close seq).openBlock 1 0 with fill := 64 + n }

/-- Open `n` blocks for the segments of a checkpoint. -/
def Region.openCkpt (kind id : Nat) : Nat → Region → Region
  | 0, r => r
  | n + 1, r => openCkpt kind id n (r.openBlock kind id)

/-- The blocks opened for a checkpoint that is not committed. -/
def Region.staged (kind : Nat) (r : Region) : List Nat :=
  (r.used.filter fun b => b.kind = kind && !b.done).map (·.no)

/-- The checkpoint staged with blocks of KIND `kind` is committed, and the older blocks that a test selects
are erased. -/
def Region.commit (kind : Nat) (old : Block → Bool) (r : Region) : Region :=
  let r := r.erase fun b => b.done && old b
  { r with used := r.used.map fun b => if b.kind = kind then { b with done := true } else b }

/-- Whether a block is a working block or in the spare pool; a retired block is neither. -/
def Region.has (r : Region) (b : Nat) : Bool :=
  r.free.contains b || r.pool.contains b || r.used.any fun x => x.no = b

/-- Retire block `b`: a spare takes its place, with a header of its own, and what it held is rewritten there
(R415). -/
def Region.retire (b : Nat) (r : Region) : Region :=
  match r.pool with
  | [] => r
  | p :: ps =>
    if r.pool.contains b then { r with pool := r.pool.erase b }
    else if r.free.contains b then { r with pool := ps, free := r.free.map fun x => if x = b then p else x }
    else { r with
      pool := ps, bseq := r.bseq + 1
      used := r.used.map fun x => if x.no = b then { x with no := p, bseq := r.bseq + 1, erases := r.worn p } else x }

/-- What a region in service holds. -/
def heldNow (s : State) : Held := ⟨s.jnl.ckptId, s.jnl.ckptSeq, s.jnl.ckpt, s.jnl.log, s.jnl.lastSeq⟩

/-- A region leaves service with what it holds (R416). -/
def Region.leave (h : Held) (r : Region) : Region :=
  { r with ok := false, held := if r.held.isNone then some h else r.held }

/-- Change the regions in service. -/
def onRegions (f : Region → Region) (s : State) : State :=
  let g (r : Region) : Region := if r.ok then f r else r
  { s with jnl := { s.jnl with region0 := g s.jnl.region0, region1 := g s.jnl.region1 } }

/-- The 64 bytes that open a block in use of region `n` (Table 16.2). -/
def blockHeader (n : Nat) (b : Block) : Bytes :=
  let h := [0x54, 0x58, 0x4A, 0x42, 1, BitVec.ofNat 8 b.kind, BitVec.ofNat 8 n, 0] ++ leBytes 8 b.bseq
    ++ leBytes 4 b.erases ++ leBytes 4 b.ckpt ++ List.replicate 36 0
  h ++ leBytes 4 (crc32 h)

/-- The header that block `b` of region `n` shows: an erased block reads 0xFF throughout. -/
def headerAt (n : Nat) (r : Region) (b : Nat) : Bytes :=
  match r.used.find? fun x => x.no = b with
  | some x => blockHeader n x
  | none => List.replicate 64 0xFF

/-! ### Raising and durability -/

/-- Raise several records in order. -/
def journalAll (ps : List JPay) (s : State) : State := forAll ps journal s

/-- SEQ of the last record raised. -/
def lastRaised (s : State) : Nat := s.jnl.nextSeq - 1

/-- DURABILITY of JNL.CFG: peer-persist (16_journal_seesaw.md R431). -/
def peerPersist (s : State) : Bool := flg s 0x80004 15

/-- Bytes of a string in a checkpoint, at four bytes a number (log entry 17). -/
def strSize (x : Str) : Nat := 64 + 4 * x.ins.length + (x.legs.map fun g => 40 + 8 * g.outs.length).sum

/-- Bytes of the strings in which a scenario's map differs from the map in force. -/
def scenSize (m : CMap) (x : Scenario) : Nat :=
  100 + ((x.map.strs.filter fun e => !m.strs.contains e).map fun e => strSize e.2).sum

/-- Bytes of the next checkpoint: strings, scenarios and groups. -/
def ckptBytes (s : State) : Nat :=
  (s.abacus.map.strs.map fun e => strSize e.2).sum
  + (s.page.scens.map fun e => scenSize s.abacus.map e.2).sum + 280 * s.prot.groups.length

/-- The next checkpoint would hold more than 192 segments of 261,120 bytes (16_journal_seesaw.md R413). -/
def ckptTooLarge (s : State) : Bool := decide (192 * 261120 < ckptBytes s)

/-- A command completes once its last record is persisted as the durability mode requires
(16_journal_seesaw.md R410, R420): NOT_PERSISTED at once while the journal cannot write, or when its
effect makes the next checkpoint too large (R413); its effect stands. `shared` says that it wrote a SHARED record. -/
def completePersisted (q : Nat) (shared : Bool) (a : Answer) (s : State) : State :=
  if !jnlWrites s then
    complete q { a with status := stNotPersisted } (count 0x80038 s)
  else if shared && ckptTooLarge s then
    complete q { a with status := stNotPersisted } (raise .ckptTooLarge q 0 (count 0x80038 s))
  else
    { s with jnl := { s.jnl with
      waiters := s.jnl.waiters ++ [(q, lastRaised s, [a.r0, a.r1, a.detail, a.fallback], shared)] } }

/-- The answer a waiting command gives with a status. -/
def waiterAnswer (xs : List Nat) (status : Nat) : Answer :=
  ⟨status, xs.getD 0 0, xs.getD 1 0, xs.getD 2 0, xs.getD 3 0⟩

/-- Complete the waiting commands that a test selects, with the outcome that their journal records show; NOT_PERSISTED is counted (R416, Table 16.14). -/
def releaseWaiters (sel : Nat × Nat × List Nat × Bool → Bool) (status : Nat) (s : State) : State :=
  let go := s.jnl.waiters.filter sel
  let s := if status = stNotPersisted then countN 0x80038 go.length s
    else if status = stPeerUnacked then countN 0x8004C go.length s else s
  let s := { s with jnl := { s.jnl with waiters := s.jnl.waiters.filter fun w => !sel w } }
  forAll go (fun w s => completeAs status w.1 (waiterAnswer w.2.2.1 status) s) s

end Sys2Proof.Machine
end

