-- ==== Sys2Proof/Machine/SecOps.lean ====
section
/-! DEFINITION. Key slots, datapaths and faults of the cipher engine: the operations that the
command checks and the cipher commands share (14_cipher.md R356 to R369). -/

namespace Sys2Proof.Machine

/-- A key derived from the device-unique secret (14_cipher.md R359; log entry 13): counter-mode KDF with
AES-CMAC over a label and an empty context. -/
def deriveKey (o : Otp) (label : Bytes) : Bytes :=
  let block (i : Nat) : Bytes := cmac o.secret (Config.kdfCounter i ++ label ++ [0] ++ Config.kdfLength 256)
  block 1 ++ block 2

/-- Key slot k. -/
def keySlot (s : State) (k : Nat) : KeySlot := spGet (fun _ => KeySlot.reset) s.sec.slots k

/-- Set a key slot. -/
def setKeySlot (k : Nat) (x : KeySlot) (s : State) : State :=
  { s with sec := { s.sec with slots := spSet (fun _ => KeySlot.reset) k x s.sec.slots } }

/-- What datapath d runs. -/
def dpRun (s : State) (d : Nat) : Option DpRun := (s.sec.dps.find? (·.1 = d)).map (·.2)

/-- Quarantine window of datapath d. -/
def window (s : State) (d : Nat) : Window := spGet (fun _ => Window.free) s.sec.wins d

/-- Set a window. -/
def setWindow (d : Nat) (w : Window) (s : State) : State :=
  { s with sec := { s.sec with wins := spSet (fun _ => Window.free) d w s.sec.wins } }

/-- Datapath d takes no operation. -/
def dpFree (s : State) (d : Nat) : Bool := (dpRun s d).isNone

/-- The lowest-numbered free datapath, whose window is free too when the operation opens GCM or
unwraps (14_cipher.md R356). -/
def freeDp (s : State) (win : Bool) : Option Nat :=
  (List.range 4).find? fun d => dpFree s d && (!win || window s d = .free)

/-- A datapath ends its operation: its round keys are zeroed (14_cipher.md R365). -/
def dpEnd (d : Nat) (s : State) : State := { s with sec := { s.sec with dps := spDel d s.sec.dps } }

/-- `n` operations start with a slot, or with a key that no slot holds: USES and SEC.OPS count them (14_cipher.md
R364). -/
def opStart (k : Option Nat) (n : Nat) (s : State) : State :=
  let s := count64 0x60010 n s
  match k with
  | none => s
  | some k => setKeySlot k { keySlot s k with uses := (keySlot s k).uses + n } s

/-- An operation starts. -/
def opStarts (k : Option Nat) (s : State) : State := opStart k 1 s

/-- GCM opens of the device's own users: the operations started, and whether one failed its tag (14_cipher.md R364,
R368). -/
def countOpens (k : Option Nat) (n : Nat) (bad : Bool) (s : State) : State :=
  onlyIf bad (count 0x60020) (if n = 0 then s else opStart k n s)

/-- `n` GCM operations of USER `user` may start with slot k, sealing or opening segments and records under AES-256
(14_cipher.md R364, R370). -/
def slotServes (s : State) (k user : Nat) (dec : Bool) (n : Nat) : Bool :=
  let x := keySlot s k
  x.st = 2 && x.user = user && x.size = 1 && bitOf x.modes 4 && bitOf x.dir (b2n dec)
    && (x.maxUses = 0 || decide (x.uses + n ≤ x.maxUses))

/-! ### CIPHER_OP: what it asks and what it puts out (14_cipher.md R372, R373) -/

/-- EXT_LEN in bytes. -/
def extLen (d : Bytes) : Nat := 64 * leAt d 2 2

/-- The extension as copied (13_host.md R337). -/
def extOf (x : Fetched) : Bytes := (x.ext.getD []).take (extLen x.desc)

/-- Write the output buffer of queue q's command by DMA; a failed write fires the function's error vector
(13_host.md R334). -/
def hostWrite (q a : Nat) (bs : Bytes) (s : State) : State :=
  onlyIf (!linkUp s) (fire (qFunction s q) 0)
    { s with hif := { s.hif with hostMem := dmaWrite s.hif a bs } }

/-- What CIPHER_OP asks: slot, mode, direction, expected generation and the operation block. -/
structure CipherAsk where
  slot : Nat
  mode : Nat
  dec : Bool
  expect : Nat
  block : Bytes
  deriving DecidableEq, Repr

/-- The request of a descriptor. -/
def cipherAsk (d : Fetched) : CipherAsk :=
  ⟨leAt d.desc 16 2, (d.desc.getD 18 0).toNat, d.desc.getD 19 0 = 1, leAt d.desc 20 2, extOf d⟩

/-- The request of the command running on queue q. -/
def askOf (s : State) (q : Nat) : CipherAsk := cipherAsk ((queue s q).running.getD ⟨[], none⟩)

/-- IN_LEN and AAD_LEN. -/
def inLen (a : CipherAsk) : Nat := leAt a.block 24 4
def aadLen (a : CipherAsk) : Nat := leAt a.block 28 4

/-- The output of a mode other than GCM open and CMAC. -/
def cipherOut (x : DpRun) (iv : Bytes) (aad : Nat) : Bytes :=
  let ks := roundKeys x.key
  let bs := blocks x.input
  match x.mode with
  | 0 => if x.dec then cbcDec ks iv bs else cbcEnc ks iv bs
  | 1 => ctrRun ks (· + 1) (beNat iv) bs
  | 2 => cfbRun x.dec ks iv bs
  | 3 => ofbRun ks iv bs
  | _ => (gcmSeal x.key (iv.take 12) (x.input.take aad) (x.input.drop aad)).1

/-- The operation stops before its end (14_cipher.md R358, R373): the blocks that had passed their check stay written.
How many had is a free value below `last` more than there are blocks. A GCM open and CMAC leave none. -/
def leavePassed (x : DpRun) (last : Nat) (s : State) : State :=
  match x.job with
  | .op q =>
    let a := askOf s q
    let (n, s) := draw s
    let out := if x.mode < 4 ∨ (x.mode = 4 ∧ !x.dec) then cipherOut x (sub a.block 0 16) (aadLen a) else []
    let part := out.take (16 * (n % max 1 ((out.length + 15) / 16 + last)))
    if part.isEmpty then s else hostWrite q (leAt a.block 32 8) part s
  | _ => s

/-- The queue whose command a waiting or running operation carries out; none for the device's own work. -/
def CipherJob.q : CipherJob → Option Nat
  | .unwrap q _ => some q
  | .op q => some q
  | .work _ => none

/-- A slot in LOADING goes back to the state it had (14_cipher.md Table 14.3). -/
def unload (j : CipherJob) (s : State) : State :=
  match j with
  | .unwrap _ (some k) =>
    let x := keySlot s k
    if x.st = 1 then setKeySlot k { x with st := x.was } s else s
  | _ => s

/-- The cipher engine locks (14_cipher.md R358): every operation in progress or waiting releases nothing further and
completes with CIPHER_LOCKED, every window is written to zero, and what the journal holds unpersisted cannot be
sealed (01_architecture.md R33). The device's own work ends with it: a critical command then fails at step 4. -/
def lockCipher (s : State) : State :=
  let s := forAll s.sec.dps (fun e s => leavePassed e.2 1 s) s
  let jobs := s.sec.dps.map (·.2.job) ++ s.sec.waiting
  let s := { s with sec := { s.sec with
    locked := true, dps := [], waiting := [], won := []
    wins := (List.range 4).map fun d => (d, Window.zeroing) } }
  let s := raise .sealLost 0 0 (count 0x6001C s)
  let s := forAll jobs (fun j s => completeOpt j.q (ans stCipherLocked) (unload j s)) s
  releaseWaiters (fun _ => true) stNotPersisted s

/-- A datapath fault (14_cipher.md R358): counted for the slot and the engine, recorded in FAULT_INFO,
reported as critical; the third within 1,000,000 ticks of the first locks the engine. `dup` is KIND. A key that no slot
holds is recorded as a key-encryption key (log entry 44). -/
def secFault (d : Nat) (slot : Option Nat) (gen : Nat) (dup : Bool) (s : State) : State :=
  let s := match slot with
    | some k => setKeySlot k { keySlot s k with faults := min 255 ((keySlot s k).faults + 1) } s
    | none => s
  let info := 0x80000000 + d * 2 ^ 29 + b2n dup * 2 ^ 28 + (match slot with
    | some k => gen * 1024 + k
    | none => 2 ^ 26)
  let recent := s.tick :: s.sec.faultAt.filter fun t => decide (s.tick < t + 1000000)
  let s := rcSet 0x60034 (BitVec.ofNat 32 info) (count 0x60018 s)
  let s := raise .cipherFault d (slot.getD 0xFFFF) { s with sec := { s.sec with faultAt := recent } }
  if 3 ≤ recent.length ∧ !s.sec.locked then lockCipher s else s

/-- An injection is armed for datapath d (14_cipher.md R378). -/
def secInjected (s : State) (d : Nat) : Bool := flg s 0x60004 31 && fld s 0x60004 30 29 = d

/-- The engine clears ARM when the injection is made. -/
def secDisarm (s : State) : State := setReg 0x60004 (putBits (cfg s 0x60004) 31 31 0) s

/-! ### The device's own work (14_cipher.md R356 to R358) -/

/-- Add an operation to those that wait for a datapath. -/
def waitDp (j : CipherJob) (s : State) : State := { s with sec := { s.sec with waiting := s.sec.waiting ++ [j] } }

/-- COPY_SLOT of JNL.CFG. -/
def copySlot (s : State) : Nat := fld s 0x80004 10 0

/-- What a datapath runs for the device's own work: mode, direction and slot. -/
def workRun (s : State) (w : DpWork) : DpRun :=
  let at_ (mode : Nat) (dec : Bool) (k : Option Nat) : DpRun :=
    ⟨.work w, mode, dec, k, (k.map fun k => (keySlot s k).key).getD [], (k.map fun k => (keySlot s k).gen).getD 0, [], now s⟩
  match w with
  | .tag q => at_ 5 true (some (bitsOf (qcfg s q) 9 0))
  | .seal => at_ 4 false none
  | .copy => at_ 4 (!s.ssw.actOut) (some (copySlot s))
  | .image => at_ 4 true none

/-- The work opens GCM, so that it needs a window (14_cipher.md R368). -/
def workOpens (s : State) (w : DpWork) : Bool := (workRun s w).mode = 4 && (workRun s w).dec

/-- A shadow check fails on the device's own work (14_cipher.md R357): a GCM seal meets an inverse or a duplicate
check, a free value. -/
def workFault (d : Nat) (w : DpWork) (s : State) : State :=
  let x := workRun s w
  let (n, s) := draw s
  secFault d x.slot x.gen (x.dec || n % 2 = 1) s

/-- The device's own work needs a datapath (14_cipher.md R356): some b once it has had one, b false when a fault
suppressed its result. With one free and nothing of its class or before it waiting, that is at once, since the work
ends within the moment of its command (log entry 44); else it waits its turn. -/
def takeDp (w : DpWork) (s : State) : Option Bool × State :=
  match s.sec.won.find? (·.1 = w) with
  | some e => (some e.2, { s with sec := { s.sec with won := s.sec.won.erase e } })
  | none =>
    if s.sec.locked then (some true, s)
    else if s.sec.waiting.contains (.work w) || s.sec.dps.any (fun e => e.2.job = .work w) then (none, s)
    else match (if s.sec.waiting.any fun j => decide (j.cls ≤ w.cls) then none else freeDp s (workOpens s w)) with
      | none => (none, waitDp (.work w) s)
      | some d => if secInjected s d then (some false, workFault d w (secDisarm s)) else (some true, s)

/-- The work has a datapath and passes. -/
def dpReady (w : DpWork) (s : State) : Bool × State :=
  let r := takeDp w s
  (r.1 = some true, r.2)

/-- Queue q names slot k in QCFG (13_host.md R342). -/
def namesSlot (s : State) (k q : Nat) : Bool := bitsOf (qcfg s q) 9 0 = k

/-- A slot is named by some queue: a command key. Queues never written name slot 0, the reset value of
KEY_SLOT. -/
def cmdKey (s : State) (k : Nat) : Bool := (List.range 256).any (namesSlot s k)

/-- The counter of every queue that names a slot is reset when the slot is erased or loaded
(13_host.md R342, 14_cipher.md R366). -/
def resetCounters (k : Nat) (s : State) : State :=
  { s with hif := { s.hif with
    queues := spMap (fun _ => Queue.reset)
      (fun q x => if namesSlot s k q then { x with ctr := 0, reserved := 0 } else x) s.hif.queues } }

end Sys2Proof.Machine
end

