-- ==== Sys2Proof/Machine/Auth.lean ====
section
/-! DEFINITION. How a command runs: the checks of 13_host.md Table 13.7 in order (R341 to R345),
and the shape every command's meaning has. -/

namespace Sys2Proof.Machine

/-- The critical commands (13_host.md Table 13.8). -/
def critical (o : Nat) : Bool :=
  (0x10 ≤ o && o ≤ 0x1C) || (0x20 ≤ o && o ≤ 0x23) || (0x30 ≤ o && o ≤ 0x34)
  || o = 0x52 || o = 0x53 || o = 0x60 || o = 0x61 || (0x70 ≤ o && o ≤ 0x74) || (0x80 ≤ o && o ≤ 0x83)

/-- CLASS_MASK of a function (13_host.md Table 13.10): function 0 has every class. -/
def classOn (s : State) (f c : Nat) : Bool := f = 0 || flg s (0x50040 + 4 * f) c

/-- The opcodes recovery accepts, without tag or counter (15_management.md R393). -/
def recoveryOp (o : Nat) (d : Bytes) : Bool :=
  o = 0 || o = 0x75 || o = 0x70 || (o = 0x71 && d.getD 16 0 = 0)

/-- The outcome of the checks of steps 1 to 4. -/
inductive Admit where
  | pass (s : State)
  | fail (a : Answer) (s : State)
  | wait (s : State)

/-- A queue that fails step 4 with AUTH_FAIL 16 times within a second enters ERROR (13_host.md R345);
a failed tag check is counted and reported. -/
def authFail (q cause : Nat) (s : State) : State :=
  let x := queue s q
  let recent := s.tick :: x.authFails.filter fun t => decide (s.tick < t + 1000000)
  let s := setQueue q { x with authFails := recent } s
  let s := onlyIf (cause = 4) (fun s => raise .authFail q cause (count 0x50008 s)) s
  if 16 ≤ recent.length ∧ !x.error then queueError q 4 s else s

/-- A failed step 4. -/
def authStop (q cause : Nat) (s : State) : Admit := .fail ⟨stAuthFail, 0, 0, cause, 0⟩ (authFail q cause s)

/-- The counter of step 4 (13_host.md R342): greater than QCTR, within the reservation or after a new
reservation record has been written; accepted above it while the journal cannot write. -/
def checkCounter (q : Nat) (d : Bytes) (s : State) : Admit :=
  let x := queue s q
  let c := leAt d 40 8
  if c ≤ x.ctr then .fail (ans stReplay) (raise .replay q 0 (count 0x5000C s))
  else if c ≤ x.reserved then .pass (setQueue q { x with ctr := c } s)
  else if jnlWrites s then
    let k := bitsOf (qcfg s q) 9 0
    let s := journal (.counter q k (keySlot s k).gen (c + 2 ^ 20)) s
    .wait (setQueue q { queue s q with waitSeq := some (lastRaised s) } s)
  else .pass (setQueue q { x with ctr := c, unkept := true } s)

/-- Step 4 for a command whose counter awaits its reservation record (13_host.md R342). A lock of the cipher
engine turns it away while it waits (01_architecture.md R33). -/
def resumeCounter (q : Nat) (d : Bytes) (n : Nat) (s : State) : Admit :=
  let x := queue s q
  let c := leAt d 40 8
  if s.sec.locked then .fail (ans stCipherLocked) (setQueue q { x with waitSeq := none } s)
  else if n ≤ s.jnl.lastSeq then
    .pass (setQueue q { x with ctr := c, reserved := c + 2 ^ 20, waitSeq := none } s)
  else if jnlWrites s then .wait s
  else .pass (setQueue q { x with ctr := c, unkept := true, waitSeq := none } s)

/-- The tag check (13_host.md R343; 14_cipher.md R356 to R358, R364): it takes a datapath before all other work,
waits when none is free, and fails when a fault suppresses its result. -/
def checkTag (q : Nat) (d : Fetched) (s : State) : Admit :=
  let k := bitsOf (qcfg s q) 9 0
  match takeDp (.tag q) s with
  | (none, s) => .wait s
  | (some good, s) =>
    let s := opStarts (some k) s
    if !good ∨ cmac (keySlot s k).key (sub d.desc 0 48 ++ extOf d) ≠ sub d.desc 48 16 then authStop q 4 s
    else checkCounter q d.desc s

/-- Step 4 of Table 13.7. -/
def checkAuth (q : Nat) (d : Fetched) (s : State) : Admit :=
  match (queue s q).waitSeq with
  | some n => resumeCounter q d.desc n s
  | none =>
    let k := bitsOf (qcfg s q) 9 0
    let x := keySlot s k
    if s.sec.locked then .fail (ans stCipherLocked) s
    else if x.st ≠ 2 then authStop q 1 s
    else if x.user ≠ 0 ∨ x.fn ≠ qFunction s q ∨ x.queue ≠ q then authStop q 2 s
    else if !bitOf x.modes 5 then authStop q 3 s
    else checkTag q d s

/-- Steps 1 to 4 of Table 13.7 for the command `d` of queue q. In recovery R393 applies instead; ATTEST completes with
LIFECYCLE in RETURN there too (15_management.md R397). A CIPHER_OP tests the lock before all else of step 5 (14_cipher.md
R372). -/
def checkCmd (q : Nat) (d : Fetched) (s : State) : Admit :=
  let o := opcodeOf d
  let b1 := (d.desc.getD 1 0).toNat
  if 2 ≤ b1 ∨ (b1 = 1 ∧ !(0x10 ≤ o && o ≤ 0x15)) then .fail (badArg 1) s
  else if leAt d.desc 8 8 % 64 ≠ 0 ∨ (extLen d.desc = 0 ∧ leAt d.desc 8 8 ≠ 0) then .fail (badArg 8) s
  else if s.mgmt.recovery then
    (if q = 0 ∧ qFunction s q = 0 ∧ recoveryOp o d.desc ∧ !(s.otp.life = 3 && o = 0x75) then
      (if extLen d.desc ≠ 0 ∧ d.ext.isNone then .fail (ans stExtFault) s else .pass s)
     else .fail (ans stLifecycle) s)
  else if !classOn s (qFunction s q) (o / 16) then .fail (ans stNotPermitted) s
  else if s.otp.life = 3 ∧ (o = 0x60 ∨ o = 0x63 ∨ o = 0x75) then .fail (ans stLifecycle) s
  else if extLen d.desc ≠ 0 ∧ d.ext.isNone then .fail (ans stExtFault) s
  else if critical o then checkAuth q d s
  else if o = 0x63 ∧ s.sec.locked then .fail (ans stCipherLocked) s
  else .pass s

/-- Critical commands wait until step 7 of start-up ends (17_power_startup.md R448). -/
def startWait (s : State) (o : Nat) : Bool :=
  critical o && !s.mgmt.recovery && decide (0 < s.pwr.step ∧ s.pwr.step < 8)

/-- The command at the head of queue q, when it may start and has the opcode `o` (13_host.md R341). -/
def headCmd (o q : Nat) (s : State) : Option (Fetched × List Fetched) :=
  let x := queue s q
  match x.fetched with
  | d :: ds =>
    if x.running.isNone && !x.error && x.doomed = 0 && serving s && opcodeOf d = o && !startWait s o then some (d, ds)
    else none
  | [] => none

/-- Start the head command: it leaves the fetched list and runs. -/
def startCmd (q : Nat) (d : Fetched) (ds : List Fetched) (s : State) : State :=
  setQueue q { queue s q with fetched := ds, running := some d } s

/-! ### Reserved arguments (R336, R347; 00_scope.md R16) -/

/-- `n` whole bytes from byte `b` on, as (byte, bits named). -/
def whole (b n : Nat) : List (Nat × Nat) := (List.range' b n).map fun i => (i, 0xFF)

/-- The bits of descriptor bytes 16-39 that the argument tables name for opcode `o` (13_host.md Table 13.9,
09_monitoring.md Table 9.5, 10_timing.md Table 10.6, 14_cipher.md Table 14.5, 15_management.md R387, R397,
Tables 15.4 and 15.6, 16_journal_seesaw.md Table 16.13). -/
def argBits (o : Nat) : List (Nat × Nat) :=
  match o with
  | 0x01 => whole 20 12
  | 0x10 => whole 16 3 ++ whole 20 4
  | 0x11 => whole 16 4 ++ [(20, 0x1F)] ++ whole 22 6
  | 0x12 => whole 16 3
  | 0x13 => whole 16 2 ++ whole 20 4
  | 0x14 => whole 16 6
  | 0x15 => whole 16 2
  | 0x16 => whole 16 8 ++ [(24, 3)] ++ whole 25 2
  | 0x19 => whole 16 8
  | 0x1A => whole 16 1 ++ [(17, 3)] ++ whole 18 16
  | 0x1B => whole 16 1 ++ [(17, 1)] ++ whole 18 8
  | 0x1C => whole 16 1
  | 0x1D => whole 16 2 ++ whole 20 12
  | 0x1E => whole 16 1 ++ whole 18 1 ++ whole 20 16
  | 0x20 | 0x21 | 0x22 => whole 16 2
  | 0x23 => whole 16 4
  | 0x24 => whole 16 2 ++ whole 20 12
  | 0x30 => whole 16 2 ++ whole 20 8
  | 0x31 => whole 16 4
  | 0x32 => whole 16 4 ++ [(20, 1)]
  | 0x33 => whole 16 6 ++ whole 24 12
  | 0x34 => whole 16 8
  | 0x40 => whole 16 2 ++ whole 20 20
  | 0x41 => [(16, 3)] ++ whole 18 14
  | 0x42 => whole 16 24
  | 0x50 | 0x51 => whole 16 1
  | 0x52 => whole 16 2 ++ whole 20 8
  | 0x53 => whole 16 2
  | 0x60 | 0x61 => whole 16 2 ++ whole 20 2
  | 0x62 => whole 16 16
  | 0x63 => whole 16 3 ++ [(19, 1)] ++ whole 20 2
  | 0x70 => whole 16 12
  | 0x71 | 0x72 => whole 16 1
  | 0x75 => whole 16 12 ++ [(28, 1)]
  | 0x76 => whole 20 12
  | 0x80 => whole 16 8
  | 0x82 => whole 16 1 ++ [(17, 3)] ++ whole 18 4
  | 0x83 => [(16, 1)]
  | 0x84 => whole 16 24
  | _ => []

/-- The commands with an extension; any other uses none of its bytes (R336). -/
def takesExt (o : Nat) : Bool :=
  [0x10, 0x11, 0x13, 0x20, 0x21, 0x60, 0x63, 0x73, 0x74, 0x75].contains o

/-- The offset of the first byte of the arguments, or of an extension no byte of which is used, with a bit
set that no table names (log entry 53). -/
def argFault (o : Nat) (d : Fetched) : Option Nat :=
  let named (i : Nat) : Byte := BitVec.ofNat 8 (((argBits o).lookup i).getD 0)
  match (List.range' 16 24).find? fun i => d.desc.getD i 0 &&& ~~~ named i ≠ 0 with
  | some i => some i
  | none => if takesExt o then none else ((d.ext.getD []).findIdx? (· ≠ 0)).map (64 + ·)

/-- The datapath work of a command other than CIPHER_OP and KEY_UNWRAP (14_cipher.md R356): JNL_READ seals, and
CLUSTER_ACTIVATE and ATTEST are work of the management complex. -/
def cmdWork (o : Nat) (d : Fetched) : Option DpWork :=
  match o with
  | 0x84 => if leAt d.desc 26 2 = 0xFFFF then none else some .seal
  | 0x72 | 0x75 => some .image
  | _ => none

/-- The command has the datapath that its work needs, if it needs one. -/
def workReady (o : Nat) (d : Fetched) (s : State) : Bool × State :=
  match cmdWork o d with
  | none => (true, s)
  | some w => dpReady w s

/-- Run the command with opcode `o` at the head of queue q through the checks of Table 13.7;
`body` makes the further checks of step 5, has the effect and completes the command, at once or later. With no
such command at the head, nothing happens (log entry 1). A command that waits at step 4, or for a datapath, stays at
the head. -/
def runCmd (o q : Nat) (body : Fetched → State → State) (s0 : State) :
    Host.Outcome State Fault Refusal :=
  match headCmd o q s0 with
  | none => .next s0
  | some (d, ds) =>
    match checkCmd q d s0 with
    | .wait s => .next s
    | .fail a s => .next (complete q a (startCmd q d ds s))
    | .pass s =>
      match argFault o d with
      | some n => .next (complete q (badArg n) (startCmd q d ds s))
      | none =>
        let r := workReady o d s
        .next (if r.1 then body d (startCmd q d ds r.2) else (workReady o d s0).2)

/-! ### Common checks of step 5 -/

/-- The engines, the core and the ports are powered and running (17_power_startup.md R452). -/
def coreUp (s : State) : Bool := decide (s.pwr.st ≠ 4) && decide (s.pwr.st ≠ 5) && s.core.running

/-- Whether this twin holds SSW_ACT_OUT (16_journal_seesaw.md R423). -/
def isActive (s : State) : Bool := s.ssw.actOut

/-- An output buffer is 32-byte aligned and large enough (13_host.md R347). -/
def bufferOk (addr len need : Nat) : Bool := addr % 32 = 0 && decide (need ≤ len)

/-- Write `bs` to the buffer of a command and complete it (13_host.md R347): INVALID_ARG with the
offset of ADDR or LEN when the buffer is misaligned or too small. -/
def answerBuffer (q addr len addrOff lenOff : Nat) (bs : Bytes) (a : Answer) (s : State) : State :=
  if addr % 32 ≠ 0 then complete q (badArg addrOff) s
  else if len < bs.length then complete q (badArg lenOff) s
  else complete q a (hostWrite q addr bs s)

end Sys2Proof.Machine
end

