-- ==== Sys2Proof/Machine/Pages.lean ====
section
/-! DEFINITION. The page controller: competing requests, arming, preemption, and what is placed for a
rebinding, a vacated step and a scenario (06_pages.md R149 to R164, 07_strings_abacus.md R177 to R189). -/

namespace Sys2Proof.Machine

/-! ### Placing what has no step -/

/-- String slots of legs that have an output slot and wait for a step: string, leg, string slot. -/
def openSlots (m : CMap) : List (Nat × Nat × Nat) :=
  m.strs.flatMap fun e => e.2.legs.flatMap fun g =>
    ((List.range g.outs.length).filter fun i => g.steps.getD i noStep = noStep).map fun i => (e.1, g.idx, i)

/-- Leave string slot i of leg j of string n out of a map (07_strings_abacus.md R180). -/
def leaveOut (n j i : Nat) (m : CMap) : CMap :=
  match m.leg n j with
  | none => m
  | some g => m.setLeg n { g with
      steps := (List.range g.outs.length).map fun k => if k = i then leftOut else g.steps.getD k noStep }

/-- Place every open string slot that can be placed; the others are left out, and their strings returned. -/
def placeOpen (v : PlaceEnv) (pick : Nat) (m : CMap) : Placing × List Nat :=
  (openSlots m).foldl (fun r x =>
    match placeSlot v pick x.1 x.2.1 x.2.2 r.1 with
    | .ok p => (p, r.2)
    | .error _ => ({ r.1 with map := leaveOut x.1 x.2.1 x.2.2 r.1.map }, insNat x.1 r.2)) (⟨m, 0, 0, 0⟩, [])

/-- The steps of a leg, without those that a test selects by input slot, output slot and step. -/
def dropSteps (f : Nat → Nat → Nat → Bool) (ins : List Nat) (g : Leg) : List Nat :=
  (List.range g.steps.length).map fun i =>
    let k := g.steps.getD i noStep
    if k < noStep ∧ f (ins.getD i 0) (g.outs.getD i 0) k then noStep else k

/-- Clear the steps of the string slots that a test selects, by input slot, leg, output slot and step. -/
def clearSteps (f : Nat → Leg → Nat → Nat → Bool) (m : CMap) : CMap :=
  m.mapLegs fun ins g => { g with steps := dropSteps (fun a b k => f a g b k) ins g }

/-- A step lies outside the window of its minimum-latency connection. -/
def outside (v : PlaceEnv) (inGs outGs k : Nat) : Bool :=
  let r := stepRange v true inGs outGs
  !decide (r.1 ≤ k ∧ k ≤ r.2)

/-- A leg under another binding of its port (07_strings_abacus.md R180): the ILAG of the binding when it
is UNCONSTRAINED; without the steps that fall outside their windows when it is not. -/
def relag (v : PlaceEnv) (ins : List Nat) (g : Leg) : Leg :=
  if g.minLat then { g with steps := dropSteps (outside v) ins g }
  else { g with ilag := v.cut (ins.headD 0 / 1024 / 32) }

/-- The mode a port's rebinding brings (07_strings_abacus.md R180): CUT or not. -/
def willCut (s : State) (p : Nat) : Bool :=
  let b := (port s p).bind
  if b.modePending then decide (tdMode (cfg s (portBase p + 8)) = 0)
  else b.bound && !b.exitPending && decide (b.mode = 0)

/-- The environment of a placement that carries the rebindings of ports. -/
def rebindEnv (s : State) (ps : List Nat) : PlaceEnv :=
  let v := placeEnv s
  { v with
    cut := fun p => if ps.contains p then willCut s p else v.cut p
    edge := fun p => if ps.contains p ∧ (port s p).bind.modePending
      then cutEdge (cfg s (portBase p + 8)) else v.edge p }

/-- The ports of strings, by a test on their input port. -/
def CMap.mapPort (ps : List Nat) (f : List Nat → Leg → Leg) (m : CMap) : CMap :=
  { m with strs := m.strs.map fun e =>
    if ps.contains e.2.inPort then (e.1, { e.2 with legs := e.2.legs.map (f e.2.ins) }) else e }

/-- A map with the rebindings of ports (07_strings_abacus.md R180): UNCONSTRAINED connections take the
ILAG of the new binding with their steps unchanged, except where they shared a step with a connection
of the same slot that keeps its ILAG; minimum-latency connections whose steps fall outside their window
move. What cannot be placed is left out, and its strings are returned. The counts of `p` go on. -/
def rebindMap (v : PlaceEnv) (pick : Nat) (ps : List Nat) (p : Placing) : Placing × List Nat :=
  if ps.isEmpty then (p, [])
  else
    let m1 := p.map.mapPort ps (relag v)
    let es := m1.edges
    let clash (inGs : Nat) (g : Leg) (k : Nat) : Bool := !g.minLat &&
      es.any fun e => e.inGs = inGs && e.step = k && e.ilag ≠ g.ilag
    let r := placeOpen { v with native := false } pick (clearSteps (fun inGs g _ k => clash inGs g k) m1)
    tryIdles v (mapNeeds r.1.map v.grp)
      ({ r.1 with fallback := p.fallback, placed := p.placed + r.1.placed, paths := p.paths + r.1.paths }, r.2)

/-- A map with step k emptied (07_strings_abacus.md R187 step 1), none when an edge or an idle feed
cannot be moved. -/
def vacateMap (v : PlaceEnv) (pick k : Nat) (m : CMap) : Option Placing :=
  let v := { v with native := false, usable := v.usable.filter (· ≠ k) }
  let feeds := m.idle.filter (·.2 = k + 1)
  let m1 := { clearSteps (fun _ _ _ j => j = k) m with idle := m.idle.filter (·.2 ≠ k + 1) }
  let r := placeOpen v pick m1
  if !r.2.isEmpty then none
  else match (feeds.map fun e => (0, e.1)).foldlM (placeIdle v) r.1 with
    | .ok p => some p
    | .error _ => none

/-- A map with every edge and idle feed at an unusable step, or with the ILAG of another binding, placed
anew: what a rebuild of a scenario does (06_pages.md R164). -/
def rebuildMap (v : PlaceEnv) (pick : Nat) (m : CMap) : Option Placing :=
  let bad (k : Nat) : Bool := !v.usable.contains k
  let m1 := m.mapLegs (relag v)
  let m2 := { clearSteps (fun _ _ _ k => bad k) m1 with
    idle := m.idle.filter fun e => !bad (e.2 - 1) }
  let r := placeOpen v pick m2
  let beyond (q : Nat) : Bool := decide (v.slots (q / 1024) ≤ q % 1024)
  if !r.2.isEmpty || (usedOuts r.1.map).any beyond || r.1.map.edges.any (fun e => beyond e.inGs) then none
  else match (mapNeeds r.1.map v.grp).foldlM (placeIdle v) r.1 with
    | .ok p => some p
    | .error _ => none

/-- A map names step k in some entry (05_core.md R130). -/
def CMap.names (m : CMap) (k : Nat) : Bool :=
  m.edges.any (·.step = k) || m.idle.any (·.2 = k + 1)

/-! ### Work -/

/-- Work of a group engine. -/
def PageWork.group : PageWork → Bool
  | .groupLoad .. => true
  | .groupBridge .. => true
  | _ => false

/-- The queue of host work. -/
def PageWork.queue : PageWork → Option Nat
  | .batch q _ _ _ => some q
  | .repack q => some q
  | .hostLoad q _ _ _ => some q
  | .save q _ _ _ _ => some q
  | _ => none

/-- SOURCE of PAGE.ARM_INFO (06_pages.md Table 6.9). -/
def PageWork.source : PageWork → Nat
  | .groupLoad .. => 1
  | .rebind _ => 2
  | .hostLoad .. => 3
  | .vacate _ => 4
  | .first => 5
  | .groupBridge .. => 6
  | _ => 0

/-- JOB of ABACUS.STATUS (07_strings_abacus.md Table 7.10). -/
def PageWork.job : PageWork → BitVec 3
  | .batch _ _ _ stage => if stage then 6 else 1
  | .first => 1
  | .repack _ => 2
  | .vacate _ => 3
  | .rebind _ => 5
  | .groupBridge .. => 7
  | _ => 0

/-- Scenario slot n. -/
def scen (s : State) (n : Nat) : Scenario := spGet (fun _ => Scenario.empty) s.page.scens n

/-- Set a scenario slot. -/
def setScen (n : Nat) (x : Scenario) (s : State) : State :=
  onPage (fun p => { p with scens := spSet (fun _ => Scenario.empty) n x p.scens }) s

/-- Write the standby page. -/
def writeStandby (ps : PageSet) (s : State) : State :=
  onPage (fun p => if p.active then { p with page0 := ps } else { p with page1 := ps }) s

/-- The first committed batch of a queue. -/
def batchOf (s : State) (q : Nat) : Option Batch := s.abacus.batches.find? fun b => b.q = q && b.committed

/-- A committed batch ends. -/
def dropBatch (q : Nat) (s : State) : State :=
  match batchOf s q with
  | none => s
  | some b => onAbacus (fun a => { a with batches := a.batches.erase b }) s

/-- Work that ends without its effect lets its batch go. -/
def dropWork (w : PageWork) (s : State) : State :=
  match w with
  | .batch q _ _ _ => dropBatch q s
  | _ => s

/-- A group's scenario load fails: the group stays RESTORED (08_protection.md R214). -/
def restoreFail (g : Nat) (s : State) : State := raise .restoreFail g 0 s

/-- A 1:N head's bridge change fails (08_protection.md R197). -/
def bridgeFail (g : Nat) (s : State) : State := raise .bridgeFail g 0 (count 0x320010 s)

/-- The rebuild of scenario slot n, if it is under way, ends (06_pages.md R164). -/
def endRebuild (n : Nat) (s : State) : State :=
  if s.abacus.rebuilding = some n then
    onAbacus (fun a => { a with rebuilding := none, job := (if a.job = 4 then 0 else a.job) }) s
  else s

/-- Start work on a CLEAN standby page (06_pages.md R153, R161, R162). A load of a scenario that is no
longer VALID fails as the command would. -/
def startWork (w : PageWork) (s : State) : State :=
  let take (st : Standby) (s : State) : State :=
    onPage (fun p => { p with standby := st, holder := some w, since := now s }) s
  let load (n : Nat) (fail : Nat → State → State) : State :=
    let x := scen s n
    if x.st = 1 then take .loading (setScen n { x with st := 4 } s)
    else fail (if x.st = 0 then stScenarioEmpty else stScenarioStale) s
  match w with
  | .hostLoad q n _ _ => load n fun st s => complete q (ans st) s
  | .groupLoad g n =>
    if flg s 0x310004 0 && (scen s n).auto then load n fun _ s => restoreFail g s else restoreFail g s
  | .save _ n _ _ _ =>
    let x := scen s n
    take .saving (setScen n { x with st := 3 }
      (onPage (fun p => { p with saveWas := (if x.st = 5 then 2 else x.st) }) (endRebuild n s)))
  | _ => take .building (onAbacus (fun a => { a with
      job := w.job, first := decide (w = .first), buildCfg := cfg s 0x320004 }) s)

/-- The abacus engines run: from the migration tick of C11 until it runs again it places nothing
(11_engines_banks.md R280). -/
def abacusUp (s : State) : Bool :=
  match s.eng.active with
  | some r => !(r.cl = 11 && r.moved.isSome && r.back.isNone)
  | none => true

/-- The rank of a request among those that arrive in one cycle: group engines in engine order, then host queues in
queue order (06_pages.md R153 step 3). -/
def PageWork.rank : PageWork → Nat
  | .groupLoad g _ => g % 48
  | .groupBridge g _ => g % 48
  | w => match w.queue with
    | some q => 64 + q
    | none => 320

/-- A request joins the queue in the order of arrival, and of rank within one cycle (06_pages.md R153 step 3). -/
def joinQueue (at_ : Nat) (w : PageWork) : List (Nat × PageWork) → List (Nat × PageWork)
  | [] => [(at_, w)]
  | e :: es => if e.1 = at_ ∧ w.rank < e.2.rank then (at_, w) :: e :: es else e :: joinQueue at_ w es

/-- The first entry of a request leaves the queue. -/
def leaveQueue (w : PageWork) : List (Nat × PageWork) → List (Nat × PageWork)
  | [] => []
  | e :: es => if e.2 = w then es else e :: leaveQueue w es

/-- The request that goes next: the first page set of a start, group engines, an open rebinding, then
the others in order (06_pages.md R153); what needs placement waits for the abacus (11_engines_banks.md
R280). -/
def nextWork (s : State) : Option (PageWork × List (Nat × PageWork)) :=
  let ws := s.page.waiting.map (·.2)
  let able (w : PageWork) : Bool := abacusUp s || w.job = 0
  match ws.find? fun w => w = .first && able w with
  | some w => some (w, leaveQueue w s.page.waiting)
  | none => match ws.find? fun w => w.group && able w with
    | some w => some (w, leaveQueue w s.page.waiting)
    | none =>
      if s.page.rebinds.isEmpty || !abacusUp s then (ws.find? able).map fun w => (w, leaveQueue w s.page.waiting)
      else some (.rebind s.page.rebinds, s.page.waiting)

/-- While the standby page is CLEAN, the next request starts. -/
def kick (fuel : Nat) (s : State) : State :=
  match fuel with
  | 0 => s
  | n + 1 =>
    if s.page.standby ≠ .clean then s
    else match nextWork s with
      | none => s
      | some (w, rest) => kick n (startWork w (onPage (fun p => { p with waiting := rest }) s))

/-- Start what waits. -/
def kickAll (s : State) : State := kick (s.page.waiting.length + 1) s

/-- An abandoned save leaves its slot with its previous contents when it had not begun to write it, and
EMPTY otherwise (06_pages.md R153); when it begins is open (log entry 15). -/
def dropSave (n : Nat) (s : State) : State :=
  let (k, s) := draw s
  if k % 2 = 0 then setScen n { scen s n with st := s.page.saveWas } s else setScen n Scenario.empty s

/-- The armed page set has reached its commit point, which falls on the edge before its swap tick
(06_pages.md R151). -/
def atCommit (s : State) : Bool := (s.page.armed.bind (·.swap)).any fun x => decide (x ≤ s.tick + 1)

/-- Group-engine work abandons host work that holds the standby page and is not COMMITTED
(06_pages.md R153 step 2). -/
def preempt (s : State) : State :=
  let go (q : Option Nat) (after : State → State) : State :=
    after (completeOpt q (ans stPreempted) (perfEv 0x13 0x03 0 1 (count 0x310020 s)))
  match s.page.holder with
  | none => s
  | some w =>
    if w.queue.isNone then s
    else match s.page.standby, w with
      | .saving, .save q n _ fromBuilt _ =>
        go (some q) fun s =>
          let s := dropSave n s
          if fromBuilt then resync s
          else onPage (fun p => { p with standby := .clean, holder := none }) s
      | .loading, .hostLoad q n _ _ => go (some q) fun s => resync (setScen n { scen s n with st := 1 } s)
      | .building, w => go w.queue fun s => resync (dropWork w s)
      | .built, w => go none fun s => resync (dropWork w s)
      | .armed, w =>
        if atCommit s then s else go (s.page.armed.bind (·.waiter)) fun s => resync (dropWork w s)
      | _, _ => s

/-- A request for the standby page arrives (06_pages.md R153, R154). A save abandons the memory test of a BORROWED page as a
build or a load does (R154 does not say; DESIGN CHOICE, log entry 79). -/
def request (w : PageWork) (s : State) : State :=
  let s := abandonPageTest s
  let s := if w.group then preempt s else s
  kickAll (onPage (fun p => { p with waiting := joinQueue (now s) w p.waiting }) s)

/-! ### Arming (R150) -/

/-- The swap tick of a page set armed at the present moment with a requested tick, 0 for none. -/
def swapTick (req : Nat) (s : State) : Nat :=
  max (max req (tickAfter2 (now s))) (if s.page.lastSwap = 0 then 0 else s.page.lastSwap + 4)

/-- Arm the standby page set. A follow page has no swap tick yet. -/
def armPage (w : PageWork) (waiter : Option Nat) (fallback : Nat) (carries : List Nat) (req : Option Nat)
    (s : State) : State :=
  let x := req.map fun r => swapTick r s
  perfEv 0x13 0x01 0 1 (jobEnds (onPage (fun p => { p with
    standby := .armed, holder := some w
    armed := some ⟨w, x, now s, fallback, carries, waiter⟩ }) s))

/-! ### Retired steps (05_core.md R130, R135) -/

/-- S of R133 to R135: usable steps, lent ones not counted (07_strings_abacus.md R189). -/
def usableCount (s : State) : Nat := 2048 - s.core.retired.length - s.abacus.lent.length

/-- Report that S has fallen below the bounds of R135, from its value before. -/
def reportUsable (before : Nat) (s : State) : State :=
  let n := usableCount s
  let s := onlyIf (decide (2047 ≤ before ∧ n < 2047)) (raise .strictLost 0 n) s
  onlyIf (decide (1024 ≤ before ∧ n < 1024)) (raise .rearrLost 0 n) s

/-- Set the lent steps. -/
def setLent (ks : List Nat) (s : State) : State :=
  reportUsable (usableCount s) (onAbacus (fun a => { a with lent := ks }) s)

/-- A step is retired: its bit is set, it is no longer lent, and the journal records it. -/
def retireStep (k : Nat) (s : State) : State :=
  let n := usableCount s
  let s := { s with
    core := { s.core with retired := insNat k s.core.retired, retiring := s.core.retiring.erase k }
    abacus := { s.abacus with lent := s.abacus.lent.erase k } }
  reportUsable n (raise .stepRetired k 0 (journal (.retire k) s))

/-- Steps waiting to be retired that the map in force names nowhere are retired. -/
def retireSteps (s : State) : State :=
  forAll (s.core.retiring.filter fun k => !s.abacus.map.names k) retireStep s

/-! ### What a decision leaves (16_journal_seesaw.md R408) -/

/-- The group numbers a group occupies (08_protection.md Table 8.1). -/
def GroupDef.width (d : GroupDef) : Nat :=
  match d.type with
  | 2 => 2
  | 3 => d.n + b2n d.et
  | _ => 1

/-- SEL[i]. -/
def selBit (s : State) (i : Nat) : Bool := spGet (fun _ => false) s.prot.sel i

/-- The standing host request of a group. -/
def Group.standing (x : Group) : Option (Nat × Nat) :=
  if x.lo then some (0xA, 0) else if x.fs ≠ 0 then some (8, x.fs) else if x.ms ≠ 0 then some (5, x.ms)
  else x.exer.head?.map fun e => (3, e.1)

/-- The selector bits as one number, bit i = SEL[g + i] (13_host.md Table 13.13). -/
def selWord (s : State) (g : Nat) (d : GroupDef) : Nat :=
  ((List.range d.width).map fun i => b2n (selBit s (g + i)) * 2 ^ i).sum

/-- The DECISION record of a group (16_journal_seesaw.md Table 16.4). -/
def decisionRecord (s : State) (g : Nat) (x : Group) : JPay :=
  .decision g (selWord s g x.dfn) x.topReq x.topSig x.bridged x.standing x.restored
    (match x.wtr with
     | none => 0
     | some e => s.timing.sec - (x.dfn.wtr - (e.2 - s.tick) / 1000000))

/-! ### The swap (R151, R152) -/

/-- The strings whose definition or placement differs between two maps. -/
def changedStrs (a b : CMap) : List Nat :=
  ((a.strs.map (·.1) ++ b.strs.map (·.1)).eraseDups).filter fun n => a.str n ≠ b.str n

/-- The generation after a swap (06_pages.md R147). -/
def nextGen (g : BitVec 8) : BitVec 8 := if g = 0xFF then 1 else g + 1

/-- The scenario slot of a load, 0xFF for other work. -/
def PageWork.scenario : PageWork → Nat
  | .hostLoad _ n _ _ => n
  | .groupLoad _ n => n
  | _ => 0xFF

/-- The swap's journal records (16_journal_seesaw.md R408, R409): a STRING record for each string it
changes, except at a scenario load, and a SWAP record; the first page set has BATCH_ID 0
(17_power_startup.md R449). -/
def swapRecords (w : PageWork) (x : Nat) (old m : CMap) (s : State) : State :=
  let id := if w = .first then 0 else max 1 s.jnl.batchId
  let strs := if w.scenario = 0xFF then (changedStrs old m).map fun n => JPay.str id n (m.str n) else []
  let s := journalAll (strs ++ [.swap id x s.page.gen w.source w.scenario]) s
  { s with jnl := { s.jnl with batchId := (max 1 s.jnl.batchId + b2n (w ≠ .first)) % 2 ^ 32 } }

/-- The strings that a swap creates: those of the batch's STRING_CREATEs, and those that were FREE. -/
def createdStrs (w : PageWork) (old m : CMap) (s : State) : List Nat :=
  let cmds : List StrCmd := match w with
    | .batch q _ _ _ => ((batchOf s q).map (·.cmds)).getD []
    | _ => []
  (m.strs.map (·.1)).filter fun n => (old.str n).st = 0 || cmds.any fun c => match c with
    | .create k _ _ => k = n
    | _ => false

/-- Created strings begin with new bins once they are monitored (09_monitoring.md R236). -/
def freshHistory (ns : List Nat) (s : State) : State :=
  { s with pm := { s.pm with hist := s.pm.hist.map fun e =>
      if 1000 ≤ e.1 && ns.contains (e.1 - 1000) then (e.1, { e.2 with shape := 0 }) else e } }

/-- A 1:N head bridges what the page now in force bridges, and records the change (08_protection.md R197,
16_journal_seesaw.md R409). -/
def takeBridge (g : Nat) (s : State) : State :=
  match s.prot.groups.find? (·.1 = g) with
  | none => s
  | some (_, y) =>
    let k := spGet (fun _ => 0) s.abacus.map.bridged g
    if y.dfn.type ≠ 3 ∨ y.bridged = k then s
    else
      let z := { y with bridged := k, changed := true }
      journal (decisionRecord s g z) { s with prot := { s.prot with groups := spIns g z s.prot.groups } }

/-- What a swap means to the request that made it: a scenario load serves every group that waits for one of that
scenario (08_protection.md R214). -/
def swapEffect (w : PageWork) (x : Nat) (s : State) : State :=
  match w with
  | .batch q _ _ _ => dropBatch q s
  | .vacate k =>
    if s.core.retired.contains k then s
    else onAbacus (fun a => { a with lending := a.lending ++ [(k, x + 1)] }) s
  | .groupBridge g _ => takeBridge g s
  | .hostLoad .. | .groupLoad .. =>
    let n := w.scenario
    let s := onPage (fun p => { p with waiting := p.waiting.filter fun e => match e.2 with
      | .groupLoad _ k => k ≠ n
      | _ => true }) s
    forAll (s.prot.groups.map (·.1)) takeBridge s
  | _ => s

/-- The swap at tick x: the standby page becomes active with the next generation and the other colour,
the map built for it comes into force, rebindings it carries take place, and the records are written. -/
def doSwap (x : Nat) (a : Armed) (s : State) : State :=
  let old := s.abacus.map
  let m := s.page.next.getD old
  let s := { s with
    page := { s.page with
      active := !s.page.active, gen := nextGen s.page.gen, colour := !s.page.colour,
      lastSwap := x, next := none, holder := none }
    abacus := { s.abacus with map := m } }
  let s := freshHistory (createdStrs a.work old m s) s
  let was := s.core.retired
  let s := retireSteps (forAll a.carries (fun p s => rebindAtSwap x p s) s)
  let s := { s with core := { s.core with retiredLast := s.core.retired.filter fun k => !was.contains k } }
  let s := swapEffect a.work x (swapRecords a.work x old m s)
  let s := raise .pageSwap a.work.source x (perfEv 0x13 0x00 0 1 (count 0x31001C s))
  match a.waiter with
  | none => s
  | some q => completePersisted q true ⟨stOk, x, s.page.gen.toNat, 0, a.fallback⟩ s

/-- One tick after the swap tick the former active page goes to RESYNC (06_pages.md R152). In the tick between,
STANDBY_STATE shows COMMITTED, and ARMED_TICK and ARM_INFO the set that has swapped (Table 6.2 names no state for that
tick; DESIGN CHOICE, log entry 79). -/
def pageTick (s : State) : State :=
  match s.page.standby, s.page.armed with
  | .committed, some a =>
    if a.swap = some s.page.lastSwap ∧ s.page.lastSwap < s.tick then
      onPage (fun p => { p with standby := .resync, armed := none, holder := none, since := now s }) s
    else s
  | _, _ => s

/-! ### Scenarios (R160 to R164) -/

/-- Ports bound, with their tray delay mode. -/
def boundModes (s : State) : List (Nat × BitVec 2) :=
  ((List.range 8).filter fun p => (port s p).bind.bound).map fun p => (p, (port s p).bind.mode)

/-- Bits of a page set in a scenario slot: 2,752 KiB (06_pages.md R160). -/
def pageBits : Nat := 256 * (2048 * 12 + 2048 * 10 + 1024 * 42)

/-- What an entry of `w` bits at bit `o` of a stored page set adds to its CRC-32, before the inversion. -/
def crcTerm (w v o : Nat) : Nat :=
  crcMul ((bitsMsb w v).foldl (crcBit 32 crc32Poly) 0) (crcPow (pageBits - o - w))

/-- The CRC-32 over a page set as a slot stores it (06_pages.md R160): ingress, space and egress memory, lane
by lane, entry by entry, each most significant bit first (log entry 65). -/
def pageCrc (p : PageSet) : Word :=
  let spc := 256 * 2048 * 12
  let egr := spc + 256 * 2048 * 10
  let r := crcMul 0xFFFFFFFF (crcPow pageBits)
  let r := p.ing.foldl (fun r e => r ^^^ crcTerm 12 e.2.toNat (e.1 * 12)) r
  let r := p.spc.foldl (fun r e => r ^^^ crcTerm 10 e.2.toNat (spc + e.1 * 10)) r
  let r := p.egr.foldl (fun r e => r ^^^ crcTerm 42 e.2.toNat (egr + (e.1 / 2048 * 1024 + e.1 % 2048) * 42)) r
  BitVec.ofNat 32 (r ^^^ 0xFFFFFFFF)

/-- A page set names a retired step in some entry. -/
def PageSet.retiredStep (p : PageSet) (s : State) : Bool :=
  let retired (k : Nat) : Bool := s.core.retired.contains k
  let egrStep (e : BitVec 42) : Bool :=
    let m := bitsOf e.toNat 41 40
    (m ≠ 0 && retired (bitsOf e.toNat 38 28)) || (m = 2 && retired (bitsOf e.toNat 26 16))
  p.ing.any (fun e => retired (e.1 % 2048)) || p.spc.any (fun e => retired (e.1 % 2048))
    || p.egr.any (fun e => egrStep e.2)

/-- A page set names a slot beyond the current rate of its lane. -/
def PageSet.beyondRate (p : PageSet) (s : State) : Bool :=
  p.ing.any (fun e => decide (laneSlots s (e.1 / 2048) ≤ bitsOf e.2.toNat 9 0))
    || p.egr.any (fun e => decide (laneSlots s (e.1 / 2048) ≤ e.1 % 2048))

/-- The first cause for which a scenario cannot be loaded (06_pages.md R162, Table 6.11): CRC, a
retired step, ILAG on a port not bound in CUT, a slot beyond its lane's rate; 0 for none. -/
def loadCause (x : Scenario) (s : State) : Nat :=
  let p := x.pages
  if pageCrc p ≠ x.crc then 4
  else if p.retiredStep s then 1
  else if p.ing.any (fun e => bitOf e.2.toNat 10 &&
      !((port s (portOf (e.1 / 2048))).bind.bound && (port s (portOf (e.1 / 2048))).bind.mode = 0)) then 2
  else if p.beyondRate s then 3
  else 0

/-- The reason for which a scenario must be marked STALE (06_pages.md R164), 0 for none: a retired step, a
lane's rate, or a port bound in a mode other than the one recorded. -/
def staleCause (x : Scenario) (s : State) : Nat :=
  if x.pages.retiredStep s then 1
  else if x.pages.beyondRate s then 3
  else if x.modes.any (fun e => (port s e.1).bind.bound && (port s e.1).bind.mode ≠ e.2) then 2
  else 0

/-- The abacus takes up the first stale scenario in the background (06_pages.md R164); one that has only
its definition from the journal whatever AUTO_REBUILD says (R161). -/
def startRebuild (s : State) : State :=
  if s.abacus.rebuilding.isSome ∨ !s.core.running ∨ !abacusUp s then s
  else
    let due := s.page.scens.filter fun e => e.2.st = 2 && (e.2.fromJnl || flg s 0x310004 1)
    match (due.find? fun e => decide (s.abacus.rebuildNext ≤ e.1)).or due.head? with
    | none => s
    | some (n, x) =>
      onAbacus (fun a => { a with
          rebuilding := some n, rebuildNext := (n + 1) % 64, job := (if a.job = 0 then 4 else a.job), rebuildCfg := cfg s 0x320004 })
        (setScen n { x with st := 5 } s)

end Sys2Proof.Machine
end

