-- ==== Sys2Proof/Machine/Strings.lean ====
section
/-! DEFINITION. The string commands and their checks (07_strings_abacus.md R171 to R176,
08_protection.md R497, 13_host.md Table 13.9). -/

namespace Sys2Proof.Machine

/-! ### What holds a string or a slot -/

/-- The commands of the batches a test selects, applied in order to the map in force. -/
def viewOf (s : State) (sel : Batch → Bool) : CMap :=
  ((s.abacus.batches.filter sel).flatMap (·.cmds)).foldl applyCmd s.abacus.map

/-- The map as queue q's own batches leave it. -/
def ownView (s : State) (q : Nat) : CMap := viewOf s fun b => b.q = q

/-- The map as the batches of the other queues leave it. -/
def othersView (s : State) (q : Nat) : CMap := viewOf s fun b => b.q ≠ q

/-- A batch names a string (07_strings_abacus.md R176). -/
def Batch.names (b : Batch) (n : Nat) : Bool := b.cmds.any (·.target = n)

/-- String n is held against queue q (07_strings_abacus.md R176): by a batch of another queue, by a
committed batch of q, or, for a command that does not join it, by the open batch of q. -/
def heldAgainst (s : State) (q n : Nat) (joins : Bool) : Bool :=
  s.abacus.batches.any fun b => b.names n && (b.q ≠ q || b.committed || !joins)

/-- The map that a batch which is built or armed has been placed with. -/
def placedBatch (s : State) : CMap :=
  match s.page.holder, s.page.next with
  | some (.batch ..), some m => m
  | _, _ => CMap.empty

/-- The strings, other than n, against which a list of queue q is checked: those its own batches name
as they leave them, the others as they stand and as other queues' batches leave them; and all of them as a
batch already placed leaves them. -/
def rivals (s : State) (q n : Nat) : List (Nat × Str) :=
  let mine (k : Nat) : Bool := s.abacus.batches.any fun b => b.q = q && b.names k
  let keep (m : CMap) (own : Bool) : List (Nat × Str) := m.strs.filter fun e => e.1 ≠ n && mine e.1 = own
  keep (ownView s q) true ++ keep s.abacus.map false ++ keep (othersView s q) false
    ++ (placedBatch s).strs.filter (·.1 ≠ n)

/-! ### Slot lists -/

/-- Entry i of a list in an extension. -/
def listAt (ext : Bytes) (i : Nat) : Nat := leAt ext (4 * i) 4

/-- `n` entries from entry `o`. -/
def listFrom (ext : Bytes) (o n : Nat) : List Nat := (List.range n).map fun i => listAt ext (o + i)

/-- The first entry that is malformed, off its port, or a repetition (07_strings_abacus.md R172). -/
def badEntry (port : Nat) : List Nat → List Nat → Nat → Option Nat
  | _, [], _ => none
  | seen, x :: xs, i =>
    if 2 ^ 18 ≤ x ∨ portOf (x / 1024) ≠ port ∨ seen.contains x then some i
    else badEntry port (x :: seen) xs (i + 1)

/-- The checks of a list of slots on a port: form, SLOT_RANGE, SLOT_UNRELIABLE, then SLOT_IN_USE
(07_strings_abacus.md R172, 00_scope.md R18). `o` is the list's first entry in the extension. -/
def checkList (s : State) (port o : Nat) (xs : List Nat) (flagged : Nat → Bool) (used : Nat → Bool) :
    Option Answer :=
  match badEntry port [] xs 0 with
  | some i => some (badArg (64 + 4 * (o + i)))
  | none =>
    if xs.any fun x => decide (laneSlots s (x / 1024) ≤ x % 1024) then some (ans stSlotRange)
    else if xs.any flagged then some (ans stSlotUnreliable)
    else if xs.any used then some (ans stSlotInUse)
    else none

/-- An input slot belongs to another string. -/
def inUse (rs : List (Nat × Str)) (x : Nat) : Bool := rs.any fun e => e.2.ins.contains x

/-- The extension must hold `n` entries and zeros beyond them (13_host.md R336). -/
def checkExt (d : Fetched) (n : Nat) : Option Answer :=
  let ext := extOf d
  if extLen d.desc < 4 * n then some (badArg 2)
  else match (List.range (ext.length - 4 * n)).find? fun i => ext.getD (4 * n + i) 0 ≠ 0 with
    | some i => some (badArg (64 + 4 * n + i))
    | none => none

/-- Refuse with an answer when a condition holds. -/
def refuseIf (c : Bool) (a : Answer) : Option Answer := if c then some a else none

/-! ### Legs (R172, R497) -/

/-- How two strings whose legs join a group stand to each other (08_protection.md R497): at a head all name the same
output slots; at a tail a working and a protect path may share those of a circuit; others share none. -/
inductive Kinship where
  | head
  | pair
  | none
  deriving DecidableEq, Repr

/-- The standing of strings n and k whose legs join groups g and h. -/
def kinship (grp : Nat → Option GroupDef) (n k : Nat) (g h : Option Nat) : Kinship :=
  if g ≠ h ∨ n = k then .none
  else match g.bind grp with
    | none => .none
    | some d =>
      if d.headRole n && d.headRole k then .head
      else if (d.workIn.contains (some n) && d.protIn = some k) || (d.protIn = some n && d.workIn.contains (some k))
      then .pair
      else .none

/-- Two lists that share name the same slot for every string slot of both (08_protection.md R497). -/
def aligned (xs ys : List Nat) : Bool := (xs.zip ys).all fun e => e.1 = e.2

/-- The output slots of two legs may stand beside each other (07_strings_abacus.md R172, 08_protection.md R497). -/
def slotsAgree (r : Kinship) (xs ys : List Nat) : Bool :=
  match r with
  | .head => aligned xs ys
  | .pair => !overlap xs ys || aligned xs ys
  | .none => !overlap xs ys

/-- Whether the output slots that STRING_CONNECT names may stand beside those of another leg: SLOT_IN_USE for a slot
that may not be shared (07_strings_abacus.md R172), INVALID_ARG for a joined leg that breaks the rules of its group
(08_protection.md R497). -/
def besideLeg (grp : Nat → Option GroupDef) (n : Nat) (g : Option Nat) (outs : List Nat) (e : Nat × Leg) :
    Option Answer :=
  let r := kinship grp n e.1 g e.2.group
  if slotsAgree r outs e.2.outs then none else some (if r = .none then ans stSlotInUse else badArg 22)

/-- Whether the output slots that STRING_RESIZE names may stand beside those of another leg: with the legs it may
share with it agrees when the batch is placed, so that all of them can be resized in one batch. -/
def resizeBeside (grp : Nat → Option GroupDef) (n : Nat) (g : Option Nat) (outs : List Nat) (e : Nat × Leg) :
    Option Answer :=
  refuseIf (kinship grp n e.1 g e.2.group = .none && overlap outs e.2.outs) (ans stSlotInUse)

/-- A command still finds the string and legs it was accepted for. -/
def cmdFits (m : CMap) (c : StrCmd) : Bool :=
  let x := m.str c.target
  match c with
  | .create .. => x.st = 0
  | .connect _ g => x.st ≠ 0 && (g.device || g.outs.length = x.ins.length)
  | .disconnect _ i => x.legs.any (·.idx = i)
  | .resize _ _ outs => x.st ≠ 0 && outs.length = (x.legs.filter fun g => !g.device).length
  | .condition _ mask _ => (List.range 16).all fun i => !mask.getLsbD i || x.legs.any (·.idx = i)
  | .delete _ => x.st ≠ 0

/-- The rules of 07_strings_abacus.md R172 hold of string n of a map. -/
def slotsFit (grp : Nat → Option GroupDef) (m : CMap) (n : Nat) : Bool :=
  let x := m.str n
  let others := m.strs.filter (·.1 ≠ n)
  let beside (g : Leg) : List (Nat × Leg) := (others.flatMap fun e => e.2.legs.map fun y => (e.1, y))
    ++ (x.legs.filter (·.idx ≠ g.idx)).map fun y => (n, y)
  !(others.any fun e => overlap x.ins e.2.ins)
    && x.legs.all fun g => (beside g).all fun e =>
      slotsAgree (kinship grp n e.1 g.group e.2.group) g.outs e.2.outs

/-- Why a batch cannot take effect on a map that has changed since its commands were accepted, as a scenario
load changes it (07_strings_abacus.md R172, R174; log entry 66). -/
def batchClash (grp : Nat → Option GroupDef) (base : CMap) (cmds : List StrCmd) : Option Answer :=
  let r := cmds.foldl (fun (r : CMap × Bool) c => (applyCmd r.1 c, r.2 && cmdFits r.1 c)) (base, true)
  if !r.2 then some (ans stStringState)
  else if cmds.all fun c => slotsFit grp r.1 c.target then none
  else some (ans stSlotInUse)

/-- The role of string n in its group (08_protection.md R497): one of those the group names, and one
joined leg only at a head. -/
def checkJoin (grp : Nat → Option GroupDef) (x : Str) (n j : Nat) (g : Option Nat) : Option Answer :=
  match g with
  | none => none
  | some h => match grp h with
    | none => some (ans stGroupUnknown)
    | some d =>
      let named := d.normIn.contains (some n) || d.etIn = some n || d.workIn.contains (some n) || d.protIn = some n
      let twice := d.headRole n && x.legs.any fun y => y.idx ≠ j && y.group = g
      if !named || twice then some (badArg 22) else none

/-- The legs beside which a leg of string n is checked: those of the rivals and the string's others. -/
def otherLegs (s : State) (q n j : Nat) : List (Nat × Leg) :=
  ((rivals s q n).flatMap fun e => e.2.legs.map fun y => (e.1, y))
  ++ (((ownView s q).str n).legs.filter (·.idx ≠ j)).map fun y => (n, y)

/-- A HOST list of output slots for leg j of string n. -/
def checkOuts (s : State) (q n j o port : Nat) (g : Option Nat) (outs : List Nat) : Option Answer :=
  match checkList s port o outs s.mtest.outFlags.contains (fun _ => false) with
  | some a => some a
  | none => (otherLegs s q n j).findSome? (besideLeg (groupDef s) n g outs)

/-- The first check that fails. -/
def firstOf : List (Option Answer) → Option Answer
  | [] => none
  | some a :: _ => some a
  | none :: xs => firstOf xs

/-! ### The commands -/

/-- The command a descriptor spells, or the answer that refuses it. -/
abbrev Parsed := Except Answer StrCmd

/-- A parse with its checks. -/
def checked (cs : List (Option Answer)) (c : StrCmd) : Parsed :=
  match firstOf cs with
  | some a => .error a
  | none => .ok c

/-- STRING of a descriptor. -/
def strNum (d : Fetched) : Nat := leAt d.desc 16 2

/-- SIZE of a descriptor, as checked. -/
def checkSize (n : Nat) : Option Answer := refuseIf (n = 0 || decide (32768 < n)) (badArg 20)

/-- STRING_CREATE. -/
def parseCreate (s : State) (q : Nat) (d : Fetched) : Parsed :=
  let n := strNum d
  let p := (d.desc.getD 18 0).toNat
  let size := leAt d.desc 20 4
  let ins := if size ≤ 32768 then listFrom (extOf d) 0 size else []
  checked [refuseIf (decide (8 ≤ p)) (badArg 18), checkSize size, checkExt d size,
    refuseIf (((ownView s q).str n).st ≠ 0) (ans stStringState),
    checkList s p 0 ins s.core.unreliable.contains (inUse (rivals s q n))] (.create n p ins)

/-- STRING_CONNECT. -/
def parseConnect (s : State) (q : Nat) (d : Fetched) : Parsed :=
  let n := strNum d
  let j := (d.desc.getD 18 0).toNat
  let p := (d.desc.getD 19 0).toNat
  let b := (d.desc.getD 20 0).toNat
  let device := bitOf b 2
  let g := if bitOf b 4 then some (leAt d.desc 22 2) else none
  let x := (ownView s q).str n
  let size := if device then 0 else x.ins.length
  let outs := listFrom (extOf d) 0 size
  checked [refuseIf (decide (16 ≤ j)) (badArg 18), refuseIf (decide (8 ≤ p)) (badArg 19),
    refuseIf (b % 4 = 3) (badArg 20),
    refuseIf (decide (8192 ≤ g.getD 0)) (badArg 22),
    refuseIf (x.st = 0) (ans stStringState), checkExt d size,
    checkJoin (groupDef s) x n j g,
    checkOuts s q n j 0 p g outs]
    (.connect n ⟨j, p, device, outs, BitVec.ofNat 32 (leAt d.desc 24 4), b % 4, bitOf b 3, g, false, false,
      decide (b % 4 = 0), []⟩)

/-- STRING_DISCONNECT. -/
def parseDisconnect (s : State) (q : Nat) (d : Fetched) : Parsed :=
  let n := strNum d
  let j := (d.desc.getD 18 0).toNat
  let x := (ownView s q).str n
  checked [refuseIf (x.st = 0) (ans stStringState),
    refuseIf (!x.legs.any (·.idx = j)) (badArg 18)] (.disconnect n j)

/-- The new output lists of the HOST legs, in ascending leg order, after the input list. -/
def resizeOuts (legs : List Leg) (ext : Bytes) (size : Nat) : List (Leg × Nat × List Nat) :=
  let host := legs.filter fun g => !g.device
  (List.range host.length).zip host |>.map fun e => (e.2, size * (e.1 + 1), listFrom ext (size * (e.1 + 1)) size)

/-- STRING_RESIZE. -/
def parseResize (s : State) (q : Nat) (d : Fetched) : Parsed :=
  let n := strNum d
  let size := leAt d.desc 20 4
  let x := (ownView s q).str n
  let hosts := (x.legs.filter fun g => !g.device).length
  let k := if size ≤ 32768 then size else 0
  let ins := listFrom (extOf d) 0 k
  let outs := resizeOuts x.legs (extOf d) k
  let others (g : Leg) : List (Nat × Leg) := (otherLegs s q n g.idx).filter fun e => e.1 ≠ n
  let kept := (x.legs.filter (·.device)).map fun g => (g, 0, g.outs.take k)
  let own (g : Leg) (x : Nat) : Bool := (kept ++ outs.filter fun e => decide (e.1.idx < g.idx)).any fun e =>
    e.2.2.contains x
  checked ([checkSize size, refuseIf (x.st = 0) (ans stStringState),
    checkExt d (k * (1 + hosts)),
    checkList s x.inPort 0 ins s.core.unreliable.contains (inUse (rivals s q n))]
    ++ (outs.map fun e => firstOf [
      checkList s e.1.outPort e.2.1 e.2.2 s.mtest.outFlags.contains (own e.1),
      (others e.1).findSome? (resizeBeside (groupDef s) n e.1.group e.2.2)]))
    (.resize n ins (outs.map (·.2.2)))

/-- STRING_CONDITION. -/
def parseCondition (s : State) (q : Nat) (d : Fetched) : Parsed :=
  let n := strNum d
  let mask := leAt d.desc 18 2
  let x := (ownView s q).str n
  checked [refuseIf (x.st = 0) (ans stStringState),
    refuseIf ((List.range 16).any fun i => bitOf mask i && !x.legs.any (·.idx = i)) (badArg 18)]
    (.condition n (BitVec.ofNat 16 mask) (BitVec.ofNat 16 (leAt d.desc 20 2)))

/-- STRING_DELETE. -/
def parseDelete (s : State) (q : Nat) (d : Fetched) : Parsed :=
  let n := strNum d
  checked [refuseIf (((ownView s q).str n).st = 0) (ans stStringState)] (.delete n)

/-- What every command that changes shared state checks first: the core runs, and this twin is active
(17_power_startup.md R452, 16_journal_seesaw.md R423). -/
def sharedCheck (s : State) : Option Answer :=
  firstOf [refuseIf (!coreUp s) (ans stUnavailable), refuseIf (!isActive s) (ans stNotActive)]

/-- Join the open batch of queue q (07_strings_abacus.md R175). -/
def joinBatch (q : Nat) (c : StrCmd) (s : State) : State :=
  match s.abacus.batches.find? fun b => b.q = q && !b.committed with
  | none => complete q (ans stOk) (onAbacus (fun a => { a with batches := a.batches ++ [⟨q, false, [c]⟩] }) s)
  | some b =>
    if 1024 ≤ b.cmds.length then complete q (ans stBatchFull) s
    else complete q (ans stOk) (onAbacus (fun a => { a with
      batches := a.batches.map fun x => if x = b then { x with cmds := x.cmds ++ [c] } else x }) s)

/-- A string command (07_strings_abacus.md R174 to R176): it joins the open batch, or forms a batch of
its own that is committed at once. -/
def stringCmd (q : Nat) (parse : State → Nat → Fetched → Parsed) (d : Fetched) (s : State) : State :=
  let joins := bitOf (d.desc.getD 1 0).toNat 0
  match sharedCheck s with
  | some a => complete q a s
  | none =>
    if heldAgainst s q (strNum d) joins then complete q (ans stStringBusy) s
    else match parse s q d with
      | .error a => complete q a s
      | .ok c =>
        if joins then joinBatch q c s
        else request (.batch q 0 none false)
          (onAbacus (fun a => { a with batches := a.batches ++ [⟨q, true, [c]⟩] }) s)

def execStringCreate (q : Nat) (s : State) : Host.Outcome State Fault Refusal :=
  runCmd 0x10 q (stringCmd q parseCreate) s

def execStringConnect (q : Nat) (s : State) : Host.Outcome State Fault Refusal :=
  runCmd 0x11 q (stringCmd q parseConnect) s

def execStringDisconnect (q : Nat) (s : State) : Host.Outcome State Fault Refusal :=
  runCmd 0x12 q (stringCmd q parseDisconnect) s

def execStringResize (q : Nat) (s : State) : Host.Outcome State Fault Refusal :=
  runCmd 0x13 q (stringCmd q parseResize) s

def execStringCondition (q : Nat) (s : State) : Host.Outcome State Fault Refusal :=
  runCmd 0x14 q (stringCmd q parseCondition) s

def execStringDelete (q : Nat) (s : State) : Host.Outcome State Fault Refusal :=
  runCmd 0x15 q (stringCmd q parseDelete) s

/-- BATCH_COMMIT (07_strings_abacus.md R177): an empty batch arms nothing. -/
def execBatchCommit (q : Nat) (s : State) : Host.Outcome State Fault Refusal :=
  runCmd 0x16 q (fun d s =>
    let b := (d.desc.getD 24 0).toNat
    let p := (d.desc.getD 25 0).toNat
    let follow := if bitOf b 0 then some (p, BitVec.ofNat 8 (d.desc.getD 26 0).toNat) else none
    match firstOf [sharedCheck s, refuseIf (follow.isSome && decide (8 ≤ p)) (badArg 25)] with
    | some a => complete q a s
    | none =>
      match s.abacus.batches.find? fun x => x.q = q && !x.committed with
      | none => complete q (ans stOk) s
      | some x =>
        request (.batch q (leAt d.desc 16 8) follow (bitOf b 1))
          (onAbacus (fun a => { a with batches := a.batches.erase x ++ [{ x with committed := true }] }) s)) s

/-- REPACK (07_strings_abacus.md R182). -/
def execRepack (q : Nat) (s : State) : Host.Outcome State Fault Refusal :=
  runCmd 0x17 q (fun _ s =>
    match sharedCheck s with
    | some a => complete q a s
    | none => request (.repack q) s) s

/-- Pad to a 32-byte boundary. -/
def pad32 (bs : Bytes) : Bytes := padTo ((bs.length + 31) / 32 * 32) bs

/-- The leg record and the entries of one leg (13_host.md Table 13.9). -/
def legBytes (g : Leg) : Bytes :=
  let b20 := g.latency + 4 * b2n g.device + 8 * b2n g.cond + 16 * b2n g.group.isSome
  pad32 (padTo 32 ([BitVec.ofNat 8 g.idx, BitVec.ofNat 8 g.outPort, BitVec.ofNat 8 b20,
      BitVec.ofNat 8 (b2n g.ilag + 2 * b2n g.lag)] ++ leBytes 2 (g.group.getD 0) ++ [0, 0]
      ++ leBytes 4 g.mask.toNat)
    ++ (g.outs.zip g.steps).flatMap fun e => leBytes 8 (e.1 + 2 ^ 18 * (e.2 % 2048)))

/-- What STRING_READ writes. -/
def strBytes (x : Str) : Bytes :=
  let mask := (x.legs.map fun g => 2 ^ g.idx).sum
  pad32 (padTo 32 ([BitVec.ofNat 8 x.st, BitVec.ofNat 8 x.inPort] ++ leBytes 2 mask ++ leBytes 4 x.ins.length)
    ++ x.ins.flatMap (leBytes 4)) ++ x.legs.flatMap legBytes

/-- STRING_READ (13_host.md Table 13.9): attributes and placement in force. -/
def execStringRead (q : Nat) (s : State) : Host.Outcome State Fault Refusal :=
  runCmd 0x1D q (fun d s =>
    let bs := strBytes (s.abacus.map.str (strNum d))
    if !coreUp s then complete q (ans stUnavailable) s
    else answerBuffer q (leAt d.desc 20 8) (leAt d.desc 28 4) 20 28 bs ⟨stOk, bs.length, 0, 0, 0⟩ s) s

end Sys2Proof.Machine
end

