-- ==== Sys2Proof/Machine/PageRows.lean ====
section
/-! DEFINITION. Pages, scenarios and the abacus' results: the page commands of the host and the events
of the page controller (06_pages.md R150 to R164, 07_strings_abacus.md R177 to R189). -/

namespace Sys2Proof.Machine

/-! ### Commands -/

/-- PAGE_DISARM (13_host.md Table 13.9, 06_pages.md R151). -/
def execPageDisarm (q : Nat) (s : State) : Host.Outcome State Fault Refusal :=
  runCmd 0x18 q (fun _ s =>
    match sharedCheck s with
    | some a => complete q a s
    | none => match s.page.standby, s.page.armed, s.page.holder with
      | .committed, _, _ => complete q (ans stSwapCommitted) s
      | .armed, some a, _ =>
        if a.work.group || decide (a.work.source = 2) then complete q (ans stNotPermitted) s
        else if decide (a.swap.getD (s.tick + 2) ≤ s.tick + 1) then complete q (ans stSwapCommitted) s
        else complete q (ans stOk) (resync (dropWork a.work (completeOpt a.waiter (ans stDisarmed) s)))
      | .built, _, some w => complete q (ans stOk) (resync (dropWork w s))
      | _, _, _ => complete q (ans stNotArmed) s) s

/-- PAGE_SWAP_AT (06_pages.md R150): the armed follow page takes a swap tick. -/
def execPageSwapAt (q : Nat) (s : State) : Host.Outcome State Fault Refusal :=
  runCmd 0x19 q (fun d s =>
    match sharedCheck s with
    | some a => complete q a s
    | none => match s.page.standby, s.page.armed with
      | .armed, some a =>
        if a.swap.isSome then complete q (ans stNotArmed) s
        else onPage (fun p => { p with armed := some { a with
          swap := some (swapTick (leAt d.desc 16 8) s), waiter := some q } }) s
      | _, _ => complete q (ans stNotArmed) s) s

/-- SCEN_SAVE (06_pages.md R161). -/
def execScenSave (q : Nat) (s : State) : Host.Outcome State Fault Refusal :=
  runCmd 0x1A q (fun d s =>
    let n := (d.desc.getD 16 0).toNat
    let b := (d.desc.getD 17 0).toNat
    let w : PageWork := .save q n (bitOf b 0) (bitOf b 1) (sub d.desc 18 16)
    match firstOf [sharedCheck s, refuseIf (decide (64 ≤ n)) (badArg 16),
        refuseIf ((scen s n).st = 4) (ans stBusy),
        refuseIf (bitOf b 1 && decide (s.page.standby ≠ .built)) (ans stNotArmed)] with
    | some a => complete q a s
    | none =>
      -- the batch built for the save ends with it
      if bitOf b 1 then startWork w (match s.page.holder with | some x => dropWork x s | none => s)
      else request w s) s

/-- SCEN_LOAD (06_pages.md R162). -/
def execScenLoad (q : Nat) (s : State) : Host.Outcome State Fault Refusal :=
  runCmd 0x1B q (fun d s =>
    let n := (d.desc.getD 16 0).toNat
    let b := (d.desc.getD 17 0).toNat
    let st := (scen s n).st
    match firstOf [sharedCheck s, refuseIf (decide (64 ≤ n)) (badArg 16),
        refuseIf (st = 0) (ans stScenarioEmpty), refuseIf (st = 2 || st = 5) (ans stScenarioStale)] with
    | some a => complete q a s
    | none => request (.hostLoad q n (leAt d.desc 18 8) (bitOf b 0)) s) s

/-- The record of a scenario slot (16_journal_seesaw.md Table 16.4). -/
def scenRecord (n : Nat) (deleted : Bool) (x : Scenario) : JPay := .scenario n x.auto deleted x.name x.map

/-- SCEN_DELETE. -/
def execScenDelete (q : Nat) (s : State) : Host.Outcome State Fault Refusal :=
  runCmd 0x1C q (fun d s =>
    let n := (d.desc.getD 16 0).toNat
    let st := (scen s n).st
    match firstOf [sharedCheck s, refuseIf (decide (64 ≤ n)) (badArg 16),
        refuseIf (st = 3 || st = 4) (ans stBusy)] with
    | some a => complete q a s
    | none =>
      let s := endRebuild n s
      completePersisted q true (ans stOk) (journal (scenRecord n true (scen s n)) (setScen n Scenario.empty s))) s

/-- Entry i of a lane in a memory of the active page (05_core.md Tables 5.2 to 5.4). -/
def pageEntry (p : PageSet) (memory l i : Nat) : Nat :=
  match memory with
  | 0 => ingEntry p l i
  | 1 => spcEntry p l i
  | _ => egrEntry p l i

/-- PAGE_READ (13_host.md Table 13.9). -/
def execPageRead (q : Nat) (s : State) : Host.Outcome State Fault Refusal :=
  runCmd 0x1E q (fun d s =>
    let k := (d.desc.getD 16 0).toNat
    let first := leAt d.desc 20 2
    let n := leAt d.desc 22 2
    let size := if k = 2 then 1024 else 2048
    let pg := pageSet s s.page.active
    match firstOf [refuseIf (!coreUp s) (ans stUnavailable), refuseIf (decide (3 ≤ k)) (badArg 16),
        refuseIf (decide (size ≤ first)) (badArg 20), refuseIf (decide (size < first + n)) (badArg 22)] with
    | some a => complete q a s
    | none =>
      let bs := (List.range n).flatMap fun i => leBytes 8 (pageEntry pg k (d.desc.getD 18 0).toNat (first + i))
      answerBuffer q (leAt d.desc 24 8) (leAt d.desc 32 4) 24 32 bs (ans stOk) s) s

/-! ### Events of the page controller -/

/-- SWAP_COMMIT (06_pages.md R151): at X - 1:0000 an armed page set is committed. -/
def execSwapCommit (s : State) : Host.Outcome State Fault Refusal :=
  match s.page.standby, s.page.armed with
  | .armed, some a =>
    match a.swap with
    | some x => .next (if x ≤ s.tick + 1 then onPage (fun p => { p with standby := .committed }) s else s)
    | none => .next s
  | _, _ => .next s

/-- PAGE_SWAP (06_pages.md R146, R147, R152): at the edge of the swap tick. -/
def execPageSwap (s : State) : Host.Outcome State Fault Refusal :=
  match s.page.standby, s.page.armed with
  | .committed, some a =>
    match a.swap with
    | some x => .next (if x ≤ s.tick ∧ s.page.lastSwap ≠ x then doSwap x a s else s)
    | none => .next s
  | _, _ => .next s

/-- An error injected into a connection memory that the copy meets (06_pages.md R152, 05_core.md R144):
the copy reads every entry. -/
def resyncEcc (s : State) : State :=
  let t := fld s 0x300008 28 27
  if t = 0 then s
  else
    let lane := fld s 0x300008 18 11
    let i := fld s 0x300008 10 0
    let r := eccRead t lane i s
    if r.1 then raise .resyncEcc lane i (count 0x310024 r.2) else r.2

/-- RESYNC_DONE (06_pages.md R152): a tick after it began, the standby page equals the active one and
is CLEAN; what waits starts. -/
def execResyncDone (s : State) : Host.Outcome State Fault Refusal :=
  if s.page.standby = .resync ∧ s.page.since + 2048 ≤ now s then
    let s := resyncEcc s
    let s := writeStandby (pageSet s s.page.active) s
    .next (kickAll (perfEv 0x13 0x02 0 1 (onPage (fun p => { p with standby := .clean }) s)))
  else .next s

/-! ### The abacus' results -/

/-- LAST_BUILD in ECLK, half of CCLK (07_strings_abacus.md R190). -/
def lastBuild (s : State) : Word := BitVec.ofNat 32 (min 0xFFFFFFFF ((now s - s.page.since) / 2))

/-- A step that failed and could not be vacated is tried again at each later build
(11_engines_banks.md R297). -/
def tryVacate (s : State) (p : Placing) (k : Nat) : Placing :=
  match vacateMap (placeEnv s) (Config.free s.free) k p.map with
  | some q => { q with fallback := p.fallback, placed := p.placed + q.placed, paths := p.paths + q.paths }
  | none => p

/-- A placement succeeded: the page set is in the standby page, with its counts and the rebindings it
carries. -/
def built (p : Placing) (unplaced : List Nat) (s : State) : State :=
  let p := (s.core.retiring ++ s.core.retired.filter p.map.names).foldl (tryVacate s) p
  let s := countN 0x32000C p.placed (countN 0x320014 p.paths s)
  let s := onAbacus (fun a => { a with lastBuild := lastBuild s }) s
  let s := forAll unplaced (fun n s => raise .rebindUnplaced n 0 s) s
  writeStandby (buildPages p.map (groupDef s)) (onPage (fun x => { x with next := some p.map }) s)

/-- Take the rebindings that wait into the page set being armed. -/
def takeRebinds (s : State) : List Nat × State :=
  (s.page.rebinds, onPage (fun p => { p with rebinds := [] }) s)

/-- A placement with the rebindings that wait (06_pages.md R153 step 4): it, the strings left out, and the
ports. -/
def withRebinds (pick : Nat) (p : Placing) (s : State) : Placing × List Nat × List Nat :=
  let r := rebindMap (rebindEnv s s.page.rebinds) pick s.page.rebinds p
  (r.1, r.2, s.page.rebinds)

/-- Arm or keep a batch that has been placed (13_host.md Table 13.9). -/
def armBatch (q atTick : Nat) (follow : Option (Nat × BitVec 8)) (stage : Bool) (fallback : Nat)
    (ports : List Nat) (s : State) : State :=
  let w : PageWork := .batch q atTick follow stage
  if stage then
    complete q ⟨stOk, 0, 0, 0, fallback⟩ (jobEnds (onPage (fun p => { p with standby := .built, holder := some w }) s))
  else
    let s := onPage (fun p => { p with rebinds := p.rebinds.filter fun x => !ports.contains x }) (count 0x320008 s)
    match follow with
    | some _ => complete q ⟨stOk, 2 ^ 64 - 1, 0, 0, fallback⟩ (armPage w none fallback ports none s)
    | none => armPage w (some q) fallback ports (some atTick) s

/-- Host work fails with NO_PLACEMENT (07_strings_abacus.md R177, R186). -/
def noPlacement (q : Nat) (w : PageWork) (e : NoPlace) (s : State) : State :=
  complete q ⟨stNoPlacement, placeReport s e, 0, 0, 0⟩ (resync (dropWork w (count 0x320010 s)))

/-- Placement with lent steps usable. -/
def withLent (v : PlaceEnv) (s : State) : PlaceEnv :=
  { v with usable := (List.range 2048).filter fun k => v.usable.contains k || s.abacus.lent.contains k }

/-- Place the commands of a batch. -/
def placeCmds (v : PlaceEnv) (pick : Nat) (base : CMap) (cmds : List StrCmd) : Except NoPlace Placing :=
  let m := cmds.foldl applyCmd base
  placeLegs v pick base (touchedLegs m cmds) m

/-! ### Full repack (R182, R183) -/

/-- A leg as the repack takes it: one of minimum latency with the steps its windows still hold, one that
falls back or is UNCONSTRAINED with its output slots and lags and no step yet. -/
def softPlace (v : PlaceEnv) (pick : Nat) (base : CMap) (n j : Nat) (p : Placing) : Except NoPlace Placing := do
  let open_ (p : Placing) : Placing := match p.map.leg n j with
    | some g => if g.minLat then p
        else { p with map := p.map.setLeg n { g with steps := List.replicate g.outs.length noStep } }
    | none => p
  let size := (p.map.str n).ins.length
  let p ← prepLeg v n j p
  if ((p.map.leg n j).map Leg.minLat).getD false then
    match placeSlots v pick n j size p, base.leg n j with
    | .ok q, _ => .ok q
    | .error e, some g => if mayFallBack p.map n j then (fallBack v n j g p).map open_ else .error e
    | .error e, none => .error e
  else .ok (open_ p)

/-- The map that a repack colours: the batch's commands with their output slots and lags, minimum-latency
connections placed, every UNCONSTRAINED edge and idle feed open. -/
def repackBase (v : PlaceEnv) (pick : Nat) (base : CMap) (cmds : List StrCmd) : Except NoPlace Placing :=
  let m := cmds.foldl applyCmd base
  let open_ : CMap := { m.mapLegs fun _ g => if g.minLat then g
      else { g with steps := g.steps.map fun k => if k < noStep then noStep else k } with idle := [] }
  (touchedLegs m cmds).foldlM (fun p e => e.2.foldlM (fun p j => softPlace v pick m e.1 j p) p) ⟨open_, 0, 0, 0⟩

/-- The lanes a repack is concerned with: ingress and egress lanes of the connections it is for, every lane
for a repack on demand or of a step (07_strings_abacus.md R183). -/
def concerns (m : CMap) : Option (List StrCmd) → (Nat → Bool) × (Nat → Bool)
  | none => (fun _ => true, fun _ => true)
  | some cmds =>
    let legs := (touchedLegs m cmds).flatMap fun e => e.2.filterMap fun j =>
      (m.leg e.1 j).map fun g => ((m.str e.1).ins.map (· / 1024), g.outs.map (· / 1024))
    (fun a => legs.any fun x => x.1.contains a, fun b => legs.any fun x => x.2.contains b)

/-- A colouring must exist: no minimum-latency edge lies on a lane concerned, and no count, idle feeds among
them, exceeds S (05_core.md R134, 07_strings_abacus.md R183). -/
def mustColour (v : PlaceEnv) (cmds : Option (List StrCmd)) (m : CMap) : Bool :=
  let c := concerns m cmds
  let all := looseEdges m ++ m.edges.filter (·.min)
  let feeds := feedLanes v m
  m.edges.all (fun e => !e.min || !(c.1 (e.inGs / 1024) || c.2 e.out))
  && (List.range 256).all fun l =>
    decide (fanOut all l ≤ v.usable.length ∧ inCount all l + b2n (feeds.contains l) ≤ v.usable.length)

/-- What a colouring gives a step: an edge from an ingress lane to an egress lane, or an idle feed of an egress
lane. -/
abbrev Coloured := Option Nat × Nat

/-- Two of them may not share a step: they meet at a lane. -/
def meets (x y : Coloured) : Bool := x.2 = y.2 || (x.1.isSome && x.1 = y.1)

/-- Some steps give every item a step at which it meets none of those that have one. -/
def canStep (usable : List Nat) : List Coloured → List (Coloured × Nat) → Bool
  | [], _ => true
  | x :: xs, at_ => usable.any fun k => !(at_.any fun e => e.2 = k && meets x e.1) && canStep usable xs ((x, k) :: at_)

/-- A colouring of a map's UNCONSTRAINED edges and idle feeds exists beside its minimum-latency edges
(07_strings_abacus.md R182). -/
def canColour (v : PlaceEnv) (m : CMap) : Bool :=
  let edges := (looseEdges m).map fun e => (some (e.inGs / 1024), e.out)
  canStep v.usable (edges ++ (feedLanes v m).eraseDups.map fun b => (none, b))
    ((m.edges.filter (·.min)).map fun e => ((some (e.inGs / 1024), e.out), e.step))

/-- The report of a batch that is not placed: LENT when it would succeed with the lent steps (07_strings_abacus.md
R186, R188), by R181 or, where one is allowed, by a full repack: one that must succeed does; where minimum-latency
connections lie on its lanes and a colouring exists, a free value says whether the abacus would find it (log entry
67). -/
def failReport (v : PlaceEnv) (pick : Nat) (base : CMap) (cmds : List StrCmd) (e : NoPlace) (s : State) : NoPlace :=
  if s.abacus.lent.isEmpty then e
  else
    let v := withLent v s
    let direct := match placeCmds v pick base cmds with
      | .ok _ => true
      | .error _ => false
    let repack := match repackBase v pick base cmds with
      | .ok p => s.abacus.buildCfg.getLsbD 0 && (mustColour v (some cmds) p.map
          || (bitOf pick 0 && canColour v p.map))
      | .error _ => false
    if direct || repack then ⟨7, e.str, e.inLane, 0, e.inLane, false⟩ else e

/-- The abacus has tried a batch (07_strings_abacus.md R177 to R182). -/
def placeBatch (q atTick : Nat) (follow : Option (Nat × BitVec 8)) (stage : Bool) (s : State) : State :=
  let w : PageWork := .batch q atTick follow stage
  let cmds := ((batchOf s q).map (·.cmds)).getD []
  let ports := if stage then [] else s.page.rebinds
  let v := rebindEnv s ports
  let (pick, s) := draw s
  match batchClash (groupDef s) s.abacus.map cmds with
  | some a => complete q a (resync (dropWork w (count 0x320010 s)))
  | none => match placeCmds v pick s.abacus.map cmds with
    | .ok p =>
      let r := rebindMap v pick ports p
      armBatch q atTick follow stage p.fallback ports (built r.1 r.2 s)
    | .error e =>
      if e.tried && s.abacus.buildCfg.getLsbD 0 then onAbacus (fun a => { a with job := 2 }) s
      else noPlacement q w (failReport v pick s.abacus.map cmds e s) s

/-- The abacus has built a rebinding page (07_strings_abacus.md R180). -/
def placeRebind (s : State) : State :=
  let (ports, s) := takeRebinds s
  let (pick, s) := draw s
  let r := rebindMap (rebindEnv s ports) pick ports ⟨s.abacus.map, 0, 0, 0⟩
  armPage (.rebind ports) none 0 ports (some 0) (built r.1 r.2 s)

/-- The abacus has tried to vacate a step (07_strings_abacus.md R187): refused when something on it
cannot be moved, and the march test passes over it; for a step that failed, a full repack follows
(11_engines_banks.md R297). -/
def placeVacate (k : Nat) (s : State) : State :=
  let ports := s.page.rebinds
  let (pick, s) := draw s
  let v := rebindEnv s ports
  let r := rebindMap v pick ports ⟨s.abacus.map, 0, 0, 0⟩
  match vacateMap v pick k r.1.map with
  | some p =>
    let p := { p with placed := p.placed + r.1.placed, paths := p.paths + r.1.paths }
    let s := onPage (fun x => { x with rebinds := [] }) s
    armPage (.vacate k) none 0 ports (some 0) (built p r.2 s)
  | none =>
    if s.core.retiring.contains k then onAbacus (fun a => { a with job := 2 }) s else resync s

/-- The map with another signal bridged by the page of a 1:N head (08_protection.md R197). -/
def bridgeMap (v : PlaceEnv) (g sig : Nat) (m : CMap) : Except NoPlace Placing :=
  let m := { m with bridged := spSet (fun _ => 0) g sig m.bridged }
  (mapNeeds m v.grp).foldlM (placeIdle v) ⟨m, 0, 0, 0⟩

/-- Lent steps that a map takes are taken back from the march test (07_strings_abacus.md R188). -/
def recallLent (m : CMap) (s : State) : State :=
  let ks := s.abacus.lent.filter m.names
  if ks.isEmpty then s
  else
    let s := { s with
      abacus := { s.abacus with lent := s.abacus.lent.filter fun k => !ks.contains k }
      mtest := (if s.mtest.target = 2 ∧ ks.contains s.mtest.index then
        { s.mtest with target := 0, mode := 0, pausedAt := none } else s.mtest) }
    countN 0x51002C ks.length (countN 0x320020 ks.length s)

/-- The abacus has tried a bridge change (08_protection.md R197). -/
def placeBridge (g sig : Nat) (s : State) : State :=
  let v := placeEnv s
  let (pick, s) := draw s
  let go (p : Placing) (s : State) : State :=
    let r := withRebinds pick p s
    armPage (.groupBridge g sig) none 0 r.2.2 (some 0) (built r.1 r.2.1 (onPage (fun x => { x with rebinds := [] }) s))
  match bridgeMap v g sig s.abacus.map with
  | .ok p => go p s
  | .error _ => match bridgeMap (withLent v s) g sig s.abacus.map with
    | .ok p => go p (recallLent p.map s)
    | .error _ => bridgeFail g (resync s)

/-- The first page set of a start or takeover (16_journal_seesaw.md R429, 17_power_startup.md R449):
entries as recorded, except that connections at steps retired or lent on this twin are placed afresh;
one that cannot be placed is left out, and an event names its string. -/
def placeFirst (s : State) : State :=
  let v := placeEnv s
  let (pick, s) := draw s
  let bad (k : Nat) : Bool := !v.usable.contains k
  let m := { clearSteps (fun _ _ _ k => bad k) s.abacus.map with
    idle := s.abacus.map.idle.filter fun e => !bad (e.2 - 1) }
  let r := placeOpen v pick m
  let r := tryIdles v (mapNeeds r.1.map v.grp) r
  let s := forAll r.2 (fun n s => raise .takeoverUnplaced n 0 s) s
  let w := withRebinds pick r.1 s
  armPage .first none 0 w.2.2 (some 0) (built w.1 w.2.1 (onPage (fun x => { x with rebinds := [] }) s))

/-- PLACEMENT_DONE (07_strings_abacus.md R177, R185): the abacus ends a job other than a repack. -/
def execPlacementDone (s : State) : Host.Outcome State Fault Refusal :=
  if s.page.standby ≠ .building ∨ s.abacus.job = 2 ∨ !abacusUp s then .next s
  else match s.page.holder with
    | some (.batch q t f st) => .next (placeBatch q t f st s)
    | some (.rebind _) => .next (placeRebind s)
    | some (.vacate k) => .next (placeVacate k s)
    | some (.groupBridge g sig) => .next (placeBridge g sig s)
    | some .first => .next (placeFirst s)
    | _ => .next s

/-- The outcome of a repack whose base map is known. -/
def repacked (q : Nat) (w : PageWork) (v : PlaceEnv) (pick : Nat) (ports : List Nat) (cmds : Option (List StrCmd))
    (p : Placing) (colours : Option (List (Nat × Nat))) (lent : NoPlace → NoPlace) (s : State) : State :=
  let fail (idle : Option NoPlace) (s : State) : State := noPlacement q w (lent (repackReport v p.map pick idle)) s
  match colours with
  | none => if mustColour v cmds p.map then s else fail none s
  | some cs =>
    if !properColouring v p.map cs then s
    else
      let m := applyColouring p.map cs
      match (idleNeeds (legOrder (touchedLegs m (cmds.getD [])) m) m v.grp).foldlM (placeIdle v)
          { p with map := m, placed := p.placed + cs.length } with
      | .error e => fail (some e) s
      | .ok p =>
        let r := rebindMap v pick ports p
        let s := count 0x320018 (built r.1 r.2 s)
        match w with
        | .batch q t f st => armBatch q t f st p.fallback ports s
        | _ => armPage w (some q) 0 ports (some 0) (onPage (fun x => { x with rebinds := [] }) s)

/-- The outcome of a repack that vacates a failed step: it stays in use, with a critical event, when the
repack fails or leaves something on it (11_engines_banks.md R297). -/
def repackVacate (k : Nat) (v : PlaceEnv) (pick : Nat) (p : Placing) (colours : Option (List (Nat × Nat)))
    (s : State) : State :=
  let fail (s : State) : State := raise .stepUnvacated k 0 (resync s)
  match colours with
  | none => if mustColour v none p.map then s else fail s
  | some cs =>
    if !properColouring v p.map cs then s
    else
      let m := applyColouring p.map cs
      match (mapNeeds m v.grp).foldlM (placeIdle v) { p with map := m, placed := p.placed + cs.length } with
      | .error _ => fail s
      | .ok p =>
        let r := rebindMap v pick s.page.rebinds p
        if r.1.map.names k then fail s
        else
          let ports := s.page.rebinds
          armPage (.vacate k) none 0 ports (some 0)
            (onPage (fun x => { x with rebinds := [] }) (count 0x320018 (built r.1 r.2 s)))

/-- REPACK_DONE (07_strings_abacus.md R182, R183): `colours` is the colouring the abacus found, by the key of
each edge, or none when it found none. A colouring that is not one has no effect. -/
def execRepackDone (colours : Option (List (Nat × Nat))) (s : State) : Host.Outcome State Fault Refusal :=
  if s.page.standby ≠ .building ∨ s.abacus.job ≠ 2 ∨ !abacusUp s then .next s
  else
    let v := rebindEnv s s.page.rebinds
    let pick := Config.free s.free
    let s' := { s with free := s.free + 1 }
    let base := s.abacus.map
    match s.page.holder with
    | some (.batch q t f st) =>
      let cmds := ((batchOf s q).map (·.cmds)).getD []
      let ports := if st then [] else s.page.rebinds
      (match repackBase v pick base cmds with
      | .error e => .next (noPlacement q (.batch q t f st) (failReport v pick base cmds e s) s)
      | .ok p => .next (repacked q (.batch q t f st) v pick ports (some cmds) p colours
          (fun e => failReport v pick base cmds e s) s'))
    | some (.repack q) =>
      (match repackBase v pick base [] with
      | .error e => .next (noPlacement q (.repack q) e s)
      | .ok p => .next (repacked q (.repack q) v pick s.page.rebinds none p colours id s'))
    | some (.vacate k) =>
      (match repackBase v pick base [] with
      | .error _ => .next (raise .stepUnvacated k 0 (resync s))
      | .ok p => .next (repackVacate k v pick p colours s'))
    | _ => .next s

/-! ### Scenarios -/

/-- SCEN_SAVE_DONE (06_pages.md R161): the slot holds the page set, with its header; the definition is
recorded; the standby page is CLEAN again, or goes to RESYNC from a BUILT source. -/
def execScenSaveDone (s : State) : Host.Outcome State Fault Refusal :=
  match s.page.standby, s.page.holder with
  | .saving, some (.save q n auto fromBuilt name) =>
    let x : Scenario := {
      st := 1, auto := auto, reason := 0, loads := 0, name := name, tick := s.tick
      modes := boundModes s, pages := pageSet s (!s.page.active)
      map := (if fromBuilt then s.page.next.getD s.abacus.map else s.abacus.map)
      crc := pageCrc (pageSet s (!s.page.active)), fromJnl := false }
    let s := journal (scenRecord n false x) (perfEv 0x13 0x06 0 1 (setScen n x s))
    let s := endRebuild n s
    let s := if fromBuilt then resync s
      else onPage (fun p => { p with standby := .clean, holder := none }) s
    .next (kickAll (completePersisted q true (ans stOk) s))
  | _, _ => .next s

/-- A load fails (06_pages.md R162). -/
def loadFails (n cause : Nat) (s : State) : State :=
  resync (setScen n { scen s n with st := 2, reason := BitVec.ofNat 4 cause } s)

/-- A load passes its check. -/
def loadPasses (n : Nat) (s : State) : State :=
  let x := scen s n
  let s := setScen n { x with st := 1, loads := if x.loads = 0xFFFF then x.loads else x.loads + 1 } s
  perfEv 0x13 0x05 0 1 (writeStandby x.pages (onPage (fun p => { p with next := some x.map }) s))

/-- SCEN_LOAD_DONE (06_pages.md R162, R163). -/
def execScenLoadDone (s : State) : Host.Outcome State Fault Refusal :=
  match s.page.standby, s.page.holder with
  | .loading, some (.hostLoad q n t stage) =>
    let c := loadCause (scen s n) s
    if c ≠ 0 then .next (complete q (ans stScenarioStale) (loadFails n c s))
    else
      let s := loadPasses n s
      if stage then
        .next (complete q (ans stOk) (onPage (fun p => { p with standby := .built }) s))
      else .next (armPage (.hostLoad q n t stage) (some q) 0 [] (some t) s)
  | .loading, some (.groupLoad g n) =>
    let c := loadCause (scen s n) s
    if c ≠ 0 then .next (restoreFail g (loadFails n c s))
    else .next (armPage (.groupLoad g n) none 0 [] (some 0) (loadPasses n s))
  | _, _ => .next s

/-- SCENARIO_MARK_STALE (06_pages.md R164): a VALID scenario that a change affects becomes STALE. -/
def execScenarioMarkStale (n : Nat) (s : State) : Host.Outcome State Fault Refusal :=
  let x := scen s n
  let c := staleCause x s
  if x.st = 1 ∧ c ≠ 0 then .next (setScen n { x with st := 2, reason := BitVec.ofNat 4 c } s) else .next s

/-- SCENARIO_REBUILD_DONE (06_pages.md R164): a scenario rebuilt from its definition is VALID again; one
that cannot be placed stays STALE. -/
def execScenarioRebuildDone (n : Nat) (s : State) : Host.Outcome State Fault Refusal :=
  let x := scen s n
  if s.abacus.rebuilding ≠ some n ∨ x.st ≠ 5 ∨ !abacusUp s then .next s
  else
    let (pick, s) := draw s
    let s := endRebuild n s
    match rebuildMap { placeEnv s with native := s.abacus.rebuildCfg.getLsbD 2 } pick x.map with
    | none => .next (setScen n { x with st := 2, fromJnl := false } s)
    | some p =>
      let pages := buildPages p.map (groupDef s)
      let s := countN 0x32000C p.placed (countN 0x320014 p.paths s)
      .next (setScen n { x with
        st := 1, reason := 0, map := p.map, pages := pages, crc := pageCrc pages, fromJnl := false,
        modes := boundModes s } s)

end Sys2Proof.Machine
end

