-- ==== Sys2Proof/Machine/RegMap.lean ====
section
/-! DEFINITION. The register map: which bits of a register may be written, and how (00_scope.md R12
to R16, 19_registers.md R479 to R496 and the register tables of every chapter). -/

namespace Sys2Proof.Machine

/-- Size of BAR0 (13_host.md Table 13.2). -/
def bar0Size : Nat := 0x800000

/-- An offset lies in PORT[p]: the port and the offset in its block. -/
def portAt (o : Nat) : Option (Nat × Nat) :=
  if 0x100000 ≤ o ∧ o < 0x190000 then some ((o - 0x100000) / 0x10000, o % 0x10000) else none

/-- An offset lies in LANE[l] or PXLANE[k]: the lane and the offset in its block. -/
def laneAt (o : Nat) : Option (Nat × Nat) :=
  if 0x200000 ≤ o ∧ o < 0x300000 then some ((o - 0x200000) / 0x1000, o % 0x1000)
  else if 0x190000 ≤ o ∧ o < 0x194000 then some (256 + (o - 0x190000) / 0x1000, o % 0x1000)
  else none

/-- An offset lies in the engine window of PERF: the engine and the offset in the window. -/
def windowAt (o : Nat) : Option (Nat × Nat) :=
  if 0x601000 ≤ o ∧ o < 0x619000 then some ((o - 0x601000) / 0x200, (o - 0x601000) % 0x200) else none

/-- The queue registers of HIF: the queue and the offset in its group. -/
def queueAt (o : Nat) : Option (Nat × Nat) :=
  if 0x51000 ≤ o ∧ o < 0x55000 then some ((o - 0x51000) / 0x40, (o - 0x51000) % 0x40) else none

/-- The event ring registers of HIF. -/
def ringAt (o : Nat) : Option (Nat × Nat) :=
  if 0x56000 ≤ o ∧ o < 0x56200 then some ((o - 0x56000) / 0x20, (o - 0x56000) % 0x20) else none

/-- The bits of an LK register of TIMING (10_timing.md Tables 10.10 to 10.16). -/
def timingMask (o : Nat) : Nat :=
  if o = 4 then 0xFFFFFFF3
  else if o = 8 then 0x00FFFFE3
  else if o = 0xC ∨ o = 0x10 ∨ o = 0x14 ∨ o = 0x18 then 0xFFFFFFFF
  else if o = 0x60 ∨ o = 0x64 ∨ o = 0x68 ∨ o = 0x6C then 0xFE00FFFF
  else if o = 0x70 then 0x8000FFFF
  else if 0x100 ≤ o ∧ o < 0x1E0 ∧ o % 16 = 0 then 0xFFFFFFFC
  else if 0x100 ≤ o ∧ o < 0x1E0 ∧ o % 16 = 4 then 0xFFFFFFFF
  else 0

/-- The bits of an LK register of MTEST (11_engines_banks.md R303). -/
def mtestMask (o : Nat) : Nat :=
  if o = 4 then 0x1F else if o = 8 then 0xFFFFF else if o = 0xC then 0xFFFFFFFF
  else if o = 0x10 then 0xFF else 0

/-- The bits of an LK register (19_registers.md Table 19.3); 0 for any other offset. -/
def lkMask (o : Nat) : Nat :=
  if 0x30000 ≤ o ∧ o < 0x40000 then timingMask (o - 0x30000)
  else if 0x510000 ≤ o ∧ o < 0x520000 then mtestMask (o - 0x510000)
  else if o = 0x300008 then 0xF807FFFF
  else if o = 0x60004 then 0xF0000000
  else if o = 0x20004 then 0xFF00
  else if o = 0x70004 then 0xFFFF
  else 0

/-- Writable bits of the registers of a queue (13_host.md Table 13.10). -/
def queueMask (x : Nat) : Nat :=
  if x = 0 ∨ x = 4 ∨ x = 8 ∨ x = 0xC ∨ x = 0x10 ∨ x = 0x20 then 0xFFFFFFFF else 0

/-- Writable bits of the registers of an event ring. -/
def ringMask (x : Nat) : Nat :=
  if x = 0 ∨ x = 4 ∨ x = 0x14 then 0xFFFFFFFF else if x = 8 then 0xFFFF8000 else 0

/-- Writable bits of HIF registers. -/
def hifMask (o : Nat) : Nat :=
  match queueAt o, ringAt o with
  | some (_, x), _ => queueMask x
  | _, some (_, x) => ringMask x
  | none, none =>
    if o = 0x50004 then 0x1F
    else if 0x50044 ≤ o ∧ o < 0x50080 then 0x1DF
    else if 0x50100 ≤ o ∧ o < 0x50180 then 0x800F0003
    else 0

/-- Writable bits of the registers of a port. -/
def portMask (p x : Nat) : Nat :=
  if x = 0 then (if p = 8 then 0xFC07 else 0xFFF7)
  else if x = 8 ∧ p < 8 then 0x07FF7FF3
  else 0

/-- Writable bits of the registers of a lane. -/
def laneMask (x : Nat) : Nat :=
  if x = 0 then 0x37F else if x = 8 then 0x03FF0000 else if x = 0x804 then 2 else 0

/-- Writable bits of the selects, filters and control of PERF (12_perf_counters.md R319 to R324). -/
def perfMask (o : Nat) : Nat :=
  match windowAt o with
  | some (_, x) =>
    if 0x40 ≤ x ∧ x < 0x58 then 0xF800FFFF else if 0x60 ≤ x ∧ x < 0x78 then 0xFF03FFFF else 0
  | none =>
    if o = 0x600000 then 0x1F
    else if o = 0x600010 ∨ o = 0x600014 then 0xFFFFFFFF
    else if 0x620100 ≤ o ∧ o < 0x620180 then 0x9800FFFF
    else if 0x620180 ≤ o ∧ o < 0x620200 then 0xFFFC01FF
    else if 0x620200 ≤ o ∧ o < 0x620280 then 0xFF03FFFF
    else 0

/-- Writable bits of the MSI-X table (19_registers.md R496; log entry 6). -/
def msixMask (o : Nat) : Nat :=
  if 0x700800 ≤ o then 0
  else if o % 16 = 0 then 0xFFFFFFFC else if o % 16 = 12 then 1 else 0xFFFFFFFF

/-- Writable bits of the RW and RWS registers; 0 for every other offset. -/
def rwMask (o : Nat) : Nat :=
  if o = 0xC then 0xFFFFFFFF
  else if 0x50000 ≤ o ∧ o < 0x60000 then hifMask o
  else if 0x600000 ≤ o ∧ o < 0x700000 then perfMask o
  else if 0x700000 ≤ o ∧ o < 0x710000 then msixMask o
  else if o = 0x310004 then 3
  else if o = 0x320004 then 0xFD
  else if 0x330010 ≤ o ∧ o < 0x330030 then 0xFFFF0771
  else if o = 0x340004 then 0xFFFF000F
  else if o = 0x340008 then 0xFFFF
  else if o = 0x34000C then 0xFFFFFFFF
  else if o = 0x340010 then 0x1FFFF
  else match portAt o, laneAt o with
    | some (p, x), _ => portMask p x
    | _, some (_, x) => laneMask x
    | none, none => 0

/-- A word with the bits of a mask replaced (00_scope.md R14; 10_timing.md Table 10.6). -/
def maskIn (old v : Word) (mask : Nat) : Word :=
  let m : Word := BitVec.ofNat 32 mask
  (old &&& ~~~m) ||| (v &&& m)

/-- Write the bits of a mask of a register. -/
def putReg (o : Nat) (v : Word) (mask : Nat) (s : State) : State := setReg o (maskIn (cfg s o) v mask) s

/-- GLB.LOCK is set (19_registers.md R483). -/
def locked (s : State) : Bool := flg s 4 0

/-- 32-bit RC registers of PORT and LANE blocks by offset in the block. -/
def portRc (x : Nat) : Bool := x = 0x14 || (0x30 ≤ x && x ≤ 0x44)
def laneRc (x : Nat) : Bool := x = 0x20 || (0x408 ≤ x && x ≤ 0x418) || (0x810 ≤ x && x ≤ 0x830)

/-- An RC register of 32 bits, by BAR0 offset (the register tables of every chapter). -/
def isRc (o : Nat) : Bool :=
  o % 4 = 0 && (
    match portAt o, laneAt o with
    | some (_, x), _ => portRc x
    | _, some (_, x) => laneRc x
    | none, none =>
      [0x20, 0x24, 0x10020, 0x10024, 0x10028, 0x20020, 0x30050, 0x30054, 0x30058, 0x3005C].contains o
      || [0x40008, 0x4000C, 0x40010, 0x40014, 0x40018, 0x50008, 0x5000C, 0x50010].contains o
      || (0x60018 ≤ o && o ≤ 0x60034) || (0x70020 ≤ o && o ≤ 0x7002C) || (0x80034 ≤ o && o ≤ 0x8004C)
      || [0xA0008, 0xA000C, 0xA0010, 0xA0048, 0xA004C, 0xA0050].contains o
      || (0x56000 ≤ o && o < 0x56200 && (o - 0x56000) % 0x20 = 0x10)
      || o = 0x300004 || (0x300010 ≤ o && o ≤ 0x300024)
      || [0x31001C, 0x310020, 0x310024].contains o || (0x310040 ≤ o && o ≤ 0x31005C)
      || (0x320008 ≤ o && o ≤ 0x320020) || (0x330040 ≤ o && o ≤ 0x330060)
      || [0x340018, 0x34001C, 0x340020].contains o
      || (0x400000 ≤ o && o < 0x4C0000 && ([4, 8].contains (o % 0x10000) || (0x200 ≤ o % 0x10000 && o % 0x10000 < 0x240)
          || (0x300 ≤ o % 0x10000 && o % 0x10000 < 0x340)))
      || (0x500400 ≤ o && o ≤ 0x500420)
      || (0x510020 ≤ o && o ≤ 0x510030))

/-- The low word of a 64-bit RC register. -/
def isRc64 (o : Nat) : Bool :=
  o = 0x60010 || o = 0x300030 || (match laneAt o with | some (_, x) => x = 0x400 | none => false)

/-- A performance counter that may be written: its number (12_perf_counters.md R315, Tables 12.6 and
12.7), for the low word. -/
def perfCounterAt (o : Nat) : Option Nat :=
  match windowAt o with
  | some (e, x) => if x < 0x40 ∧ x % 8 = 0 then some (8 * e + x / 8) else none
  | none => if 0x620000 ≤ o ∧ o < 0x620100 ∧ o % 8 = 0 then some (devCounter ((o - 0x620000) / 8)) else none

/-- A shadow, by its counter's number, for the low word. -/
def perfShadowAt (o : Nat) : Option Nat :=
  match windowAt o with
  | some (e, x) => if 0x100 ≤ x ∧ x < 0x140 ∧ x % 8 = 0 then some (8 * e + (x - 0x100) / 8) else none
  | none => if 0x620400 ≤ o ∧ o < 0x620500 ∧ o % 8 = 0 then some (devCounter ((o - 0x620400) / 8)) else none

/-- A 64-bit register of the register file that may be written, low word: queue and ring bases and
PERF.HOLD_AT. -/
def isRw64 (o : Nat) : Bool :=
  o = 0x600010
  || (match queueAt o with | some (_, x) => x = 0 || x = 8 | none => false)
  || (match ringAt o with | some (_, x) => x = 0 | none => false)

/-- A 64-bit register that is read only, low word. -/
def isRo64 (o : Nat) : Bool :=
  [0x10, 0x30040, 0x40020, 0x70030, 0x70038, 0x80008, 0x80010, 0x80018, 0x80020, 0x310008, 0x310010,
    0x600008].contains o
  || (match queueAt o with | some (_, x) => x = 0x18 | none => false)
  || (perfShadowAt o).isSome

/-- The low word of a 64-bit register. TOD_SEC has its own row. -/
def isReg64 (o : Nat) : Bool := isRc64 o || isRw64 o || isRo64 o || o = 0x30030 || (perfCounterAt o).isSome

/-- The power domains a block's registers need (19_registers.md Table 19.1, R481): every one of them
is powered. Blocks of PD0 to PD5 are powered wherever BAR0 can be reached. -/
def blockOn (s : State) (o : Nat) : Bool :=
  let pd (d : Nat) : Bool := s.pwr.on.getLsbD d
  match portAt o, laneAt o with
  | some (p, _), _ => if p = 8 then pd 6 else pd (7 + p)
  | _, some (l, _) => if 256 ≤ l then pd 6 else pd (7 + l / 32)
  | none, none =>
    if 0x300000 ≤ o ∧ o < 0x320000 then pd 15 && pd 16 && pd 17
    else if 0x320000 ≤ o ∧ o < 0x330000 then pd 19
    else if 0x330000 ≤ o ∧ o < 0x340000 then pd 17
    else if 0x400000 ≤ o ∧ o < 0x4C0000 then (if (o - 0x400000) / 0x10000 < 6 then pd 18 else pd 19)
    else if 0x500000 ≤ o ∧ o < 0x700000 then pd 18 && pd 19
    else true

/-- A configuration register of PORT, LANE or PXLANE, which keeps its value and may be written while
its domain is off (17_power_startup.md R438, 19_registers.md R481). -/
def isConfig (o : Nat) : Bool :=
  match portAt o, laneAt o with
  | some (p, x), _ => decide (portMask p x ≠ 0)
  | _, some (_, x) => decide (laneMask x ≠ 0)
  | none, none => false

/-- A register at offset `o` can be reached by the host: the link carries accesses and the block is
powered (13_host.md R327, 19_registers.md R481). -/
def reach (s : State) (o : Nat) : Bool := linkUp s && blockOn s o

/-- A power domain is on (17_power_startup.md R437). -/
def pdOn (s : State) (d : Nat) : Bool := s.pwr.on.getLsbD d

end Sys2Proof.Machine
end

