-- ==== Sys2Proof/Machine/Perf.lean ====
section
/-! DEFINITION. Performance counters: filters, the engines' slots, shadows and holding, and their rows
(12_perf_counters.md). -/

namespace Sys2Proof.Machine

/-- The window of engine e. -/
def perfWindow (e : Nat) : Nat := 0x601000 + 0x200 * e

/-- Engine e. -/
def eng (s : State) (e : Nat) : Eng := spGet (fun _ => Eng.reset) s.eng.engs e

/-- Set an engine. -/
def setEng (e : Nat) (x : Eng) (s : State) : State :=
  { s with eng := { s.eng with engs := spSet (fun _ => Eng.reset) e x s.eng.engs } }

/-! ### Filters (R309, R322 to R324) -/

/-- The privilege levels that PRIV chooses. -/
def privOk (f : Nat) (kernel : Bool) : Bool := f = 0 || f = 3 || (f = 1) = kernel

/-- An address filter passes an access at a bank and row; an event with no row passes only when the
filter is off. -/
def addrOk (a : Nat) (place : Option (Nat × Nat)) : Bool :=
  !bitOf a 31 || (match place with
    | some (b, r) => b = bitsOf a 30 24 && decide (bitsOf a 8 0 ≤ r ∧ r ≤ bitsOf a 17 9)
    | none => false)

/-- Who made a bank access: an engine, a port B master by its owner code, or nobody in particular. -/
inductive Master where
  | engine (e : Nat)
  | code (c : Nat)
  | nobody
  deriving DecidableEq, Repr

/-- The master filter of a device counter (12_perf_counters.md Table 12.11). -/
def masterOk (f : Nat) (m : Master) : Bool :=
  let id := bitsOf f 25 18
  match bitsOf f 31 28, m with
  | 1, .engine e => e = id
  | 2, .engine e => e / 16 = id
  | 3, .code c => c = 2
  | 4, .code c => c = 3
  | 5, .code c => c = 4
  | 6, .code c => c = 1
  | k, _ => decide (k = 0 ∨ 6 < k)

/-! ### Counting -/

/-- Occurrences on an engine: class, event, privilege level, place and number. -/
abbrev EngOccur := Nat × Nat × Bool × Option (Nat × Nat) × Nat

/-- A counter with select `sel` and address filter `adr` counts an occurrence. -/
def occurs (sel adr : Nat) (x : EngOccur) : Bool :=
  selects sel x.1 x.2.1 && privOk (bitsOf sel 30 29) x.2.2.1 && (x.1 ≠ 2 || addrOk adr x.2.2.2.1)

/-- Count occurrences of classes 0x01 to 0x03 on engine e (R305, R307, R309): while it is RUNNING and counting is not
frozen. -/
def engineEvs (e : Nat) (xs : List EngOccur) (s : State) : State :=
  let w := perfWindow e
  let one (p : Perf) (i : Nat) : Perf :=
    let sel := perfSel s (w + 0x40 + 4 * i)
    let n := if bitOf sel 31 then
      ((xs.filter (occurs sel (perfSel s (w + 0x60 + 4 * i)))).map (·.2.2.2.2)).foldl (· + ·) 0 else 0
    if n = 0 then p else perfAdd (now s / 2) (8 * e + 2 + i) n p
  { s with perf := (if frozen s || (eng s e).st ≠ 2 then s.perf else (List.range 6).foldl one s.perf) }

/-- Count `n` occurrences of one event on engine e. -/
def engineEv (e cls ev n : Nat) (kernel : Bool) (place : Option (Nat × Nat)) (s : State) : State :=
  engineEvs e [(cls, ev, kernel, place, n)] s

/-- The privilege level of engine e in ECLK t is open (R307; log entry 11). -/
def levelAt (e t : Nat) : Bool := Config.engineSlots e t 12 % 2 = 1

/-- Count `n` occurrences of an event of class 0x12 (R308, R309). -/
def bankEvs (ev n : Nat) (m : Master) (kernel : Bool) (place : Option (Nat × Nat)) (s : State) : State :=
  let one (p : Perf) (k : Nat) : Perf :=
    let f := perfSel s (0x620180 + 4 * k)
    let level := match m with
      | .engine _ => privOk (bitsOf f 27 26) kernel
      | _ => true
    if selects (perfSel s (0x620100 + 4 * k)) 0x12 ev && level && masterOk f m
        && addrOk (perfSel s (0x620200 + 4 * k)) place
    then perfAdd (now s / 2) (devCounter k) n p else p
  { s with perf := (if frozen s || n = 0 then s.perf else (List.range 32).foldl one s.perf) }

/-- Count one event of class 0x12. -/
def bankEv (ev : Nat) (m : Master) (kernel : Bool) (place : Option (Nat × Nat)) (s : State) : State :=
  bankEvs ev 1 m kernel place s

/-- What keeps an engine's slots from issuing (R306). -/
inductive Stall where
  /-- nothing that the model knows of -/
  | none
  /-- a bank access that lost port A arbitration -/
  | bank
  /-- a bank under recall, or an access that met another at its word -/
  | collide
  deriving DecidableEq, Repr

/-- How the 2n issue slots of n ECLK fall (R306): RETIRED, WASTED, FRONT, BACK, the four causes of BACK, and the ECLK in
which both slots retired. What the firmware does is open (log entry 11); the sums hold, a slot that waits for a bank says
so, TICK_WAIT needs tick-done, and BANK a lost arbitration or a handover that waits. -/
def slotsOf (x : Nat → Nat) (n : Nat) (why : Stall) (tickDone handover : Bool) : List Nat :=
  let r := x 0 % (2 * n + 1)
  let w := x 1 % (2 * n - r + 1)
  let f := if why = .none then x 2 % (2 * n - r - w + 1) else 0
  let b := 2 * n - r - w - f
  let c0 := if why = .none && tickDone then x 3 % (b + 1) else 0
  let c1 := if why = .bank then b else if why = .none && handover then x 4 % (b - c0 + 1) else 0
  let c2 := if why = .collide then b else 0
  let low := r - n
  [r, w, f, b, c0, c1, c2, b - c0 - c1 - c2, low + x 6 % (r / 2 - low + 1)]

/-- A stretch of a run at one privilege level: why slots wait, level, ECLK and its slots. -/
structure Stretch where
  kernel : Bool
  eclk : Nat
  slots : List Nat

/-- The stretches of an engine's n ECLK from `t` on: those lost to arbitration, those held up by a recall or a meeting,
and the others, each at kernel and at task level (R306, R307). -/
def stretches (s : State) (e t n : Nat) (tickDone : Bool) : List Stretch :=
  let g := eng s e
  let lost := min n g.lost
  let held := min (n - lost) g.heldUp
  let handover := s.bank.own.any fun b => b.2.owner = 16 + e / 16 && b.2.handover.isSome
  [(Stall.none, n - lost - held, 0), (Stall.bank, lost, 2), (Stall.collide, held, 4)].flatMap fun y =>
    let k := Config.engineSlots e t (12 + y.2.2) % (y.2.1 + 1)
    let at_ (i m : Nat) : List Nat := slotsOf (fun j => Config.engineSlots e t (32 * (y.2.2 + i) + j)) m y.1 tickDone handover
    [⟨true, k, at_ 1 k⟩, ⟨false, y.2.1 - k, at_ 2 (y.2.1 - k)⟩].filter fun z => z.eclk ≠ 0

/-- A RUNNING engine's n ECLK from `t` on (R305, R306, R318): cycles, slots, kernel calls, which task-level code makes,
and interrupts other than those for faults of banks. -/
def engineRun (t n e : Nat) (s : State) : State :=
  let g := eng s e
  let tickDone := g.done || (!g.overran && Config.engineSlots e t 9 % 2 = 1)
  let zs := stretches s e t n tickDone
  let calls := ((zs.filter fun z => !z.kernel).map (·.eclk)).foldl (· + ·) 0
  let xs : List EngOccur := zs.flatMap (fun z => z.slots.zipIdx.map fun y => (1, y.2, z.kernel, none, y.1))
    ++ [(3, 4, false, none, Config.engineSlots e t 10 % (calls + 1)), (3, 5, true, none, Config.engineSlots e t 11 % (n + 1))]
  let s := setEng e { g with done := tickDone, lost := 0, heldUp := 0 } (engineEvs e xs s)
  let retired := (zs.map fun z => z.slots.headD 0).foldl (· + ·) 0
  let c := now s / 2
  if frozen s then s else { s with
    perf := perfAdd c (8 * e + 1) retired (perfAdd c (8 * e) n s.perf) }

/-- The RUNNING engines. -/
def runningEngines (s : State) : List Nat := (s.eng.engs.filter fun e => e.2.st = 2).map (·.1)

/-- What the engines have done up to ECLK c of a tick is counted. -/
def runEngines (tick c : Nat) (s : State) : State :=
  let n := c - s.perf.eclk
  let s := if n = 0 then s else forAll (runningEngines s) (engineRun (1024 * tick + s.perf.eclk) n) s
  { s with perf := { s.perf with eclk := max c s.perf.eclk } }

/-- The counters as they stand at the end of the ECLK before (R313): before a read of the block, and before an engine
stops or starts. -/
def perfCatch (s : State) : State := runEngines s.tick (s.cclk / 2) s

/-- The counters with the present ECLK counted (R315 to R317): before a write. -/
def perfThrough (s : State) : State := runEngines s.tick (s.cclk / 2 + 1) s

/-- A select, a filter or CTRL is about to be written: its setting still counts in the present ECLK (R316, R317). -/
def keepSel (off : Nat) (s : State) : State :=
  { s with perf := { s.perf with
    was := (if s.perf.was.any (fun e => e.1 = off && e.2.1 = now s / 2) then s.perf.was
      else (off, now s / 2, cfg s off) :: s.perf.was.filter (·.1 ≠ off)) } }

/-- The tick-done of an engine that did not overrun, at the level it ran at; the next tick is before it. -/
def engineTick (ended e : Nat) (s : State) : State :=
  let s := onlyIf (!(eng s e).overran) (engineEv e 3 0 1 (levelAt e (1024 * ended + 1023)) none) s
  setEng e { eng s e with done := false } s

/-- The tick that ends, for the RUNNING engines (R305): the rest of its 1,024 ECLK, and their tick-done. -/
def enginesDone (ended : Nat) (s : State) : State :=
  let s := runEngines ended 1024 s
  let s := forAll (runningEngines s) (engineTick ended) s
  { s with perf := { s.perf with eclk := 0 } }

/-! ### Shadows and HOLD (R310 to R312) -/

/-- HOLD_AT. -/
def holdAt (s : State) : Nat := cfgN s 0x600010 + 2 ^ 32 * cfgN s 0x600014

/-- TICK_CLEAR of a counter (R311). -/
def tickClears (s : State) (i : Nat) : Bool :=
  if i < 1536 then
    (if i % 8 < 2 then flg s 0x600000 3 else flg s (perfWindow (i / 8) + 0x40 + 4 * (i % 8 - 2)) 27)
  else flg s (0x620100 + 4 * (i - 1536)) 27

/-- The end of tick t: copy into the shadows unless HOLD is 1, clear, and set HOLD. -/
def shadowCopy (t : Nat) (s : State) : State :=
  let held := flg s 0x600000 2
  let copy := !held && flg s 0x600000 1
  let s := { s with perf := { s.perf with
    sh := (if copy then s.perf.cnt else s.perf.sh)
    shTick := (if copy then BitVec.ofNat 64 t else s.perf.shTick)
    cnt := s.perf.cnt.filter fun e => !tickClears s e.1
    } }
  let late := s.eng.engs.any fun e => e.2.overran
  let hold := (holdAt s ≠ 0 && holdAt s = t) || (late && flg s 0x600000 4)
  if hold then setReg 0x600000 (cfg s 0x600000 ||| 4) s else s

/-! ### Overflow (R314) -/

/-- OVF_EVT of a counter. -/
def ovfEvt (s : State) (i : Nat) : Bool :=
  if i < 1536 then decide (2 ≤ i % 8) && flg s (perfWindow (i / 8) + 0x40 + 4 * (i % 8 - 2)) 28
  else flg s (0x620100 + 4 * (i - 1536)) 28

/-- The event of a wrap: at most one per counter and tick. -/
def overflowEvent (i : Nat) (s : State) : State :=
  if ovfEvt s i && !(s.perf.evAt.contains (i, s.tick)) then
    raise .perfOverflow i 0 { s with perf := { s.perf with
      evAt := (i, s.tick) :: s.perf.evAt.filter fun e => e.1 ≠ i } }
  else s

/-- The wraps of the tick that has ended whose events are still to be raised. -/
def flushWraps (ended : Nat) (s : State) : State :=
  let s := { forAll s.perf.wrapped overflowEvent { s with tick := ended } with tick := s.tick }
  { s with perf := { s.perf with wrapped := [] } }

/-- Counter k may count: an engine counter while its engine is RUNNING, and CNT and DEV while EN is 1 (R305, R322). -/
def mayCount (s : State) (k : Nat) : Bool :=
  !frozen s && (if k < 1536 then (eng s (k / 8)).st = 2
      && (decide (k % 8 < 2) || bitOf (perfSel s (perfWindow (k / 8) + 0x40 + 4 * (k % 8 - 2))) 31)
    else bitOf (perfSel s (0x620100 + 4 * (k - 1536))) 31)

/-- PERF_COUNTER_WRAP: counter k, at its largest value, counts one more; or a counter that wrapped when
it counted raises its event. -/
def execPerfCounterWrap (k : Nat) (s : State) : Host.Outcome State Fault Refusal :=
  let fin (s : State) : State := overflowEvent k { s with perf := { s.perf with wrapped := s.perf.wrapped.erase k } }
  if s.perf.wrapped.contains k then .next (fin s)
  else if (spGet (fun _ => (0 : DWord)) s.perf.cnt k).toNat = 2 ^ cntWidth k - 1 ∧ k < 1568 ∧ mayCount s k then
    .next (fin { s with perf := perfAdd (now s / 2) k 1 s.perf })
  else .next s

end Sys2Proof.Machine
end

