-- ==== Sys2Proof/Machine/Banks.lean ====
section
/-! DEFINITION. Scratchpad banks: accesses, atomics, arbitration, handovers and recalls
(11_engines_banks.md R283 to R290, R294, R295). -/

namespace Sys2Proof.Machine

/-- Bank b. -/
def bank (s : State) (b : Nat) : Bank := spGet (fun _ => Bank.reset) s.bank.own b

/-- Set a bank. -/
def setBank (b : Nat) (x : Bank) (s : State) : State :=
  { s with bank := { s.bank with own := spSet (fun _ => Bank.reset) b x s.bank.own } }

/-! ### Contents (R283, R292) -/

/-- Word w of bank b: zero or undefined where nothing has been written (log entry 12). -/
def bankWord (s : State) (b w : Nat) : DWord :=
  let k := b * 32768 + w
  spGet (fun k => if s.bank.zeroed.contains b then 0
    else Config.bankWord (spGet (fun _ => 0) s.bank.epoch b) k) s.bank.mem k

/-- Write word w of bank b. In a bank whose unlisted words are zero, writing zero removes the entry. -/
def setBankWord (b w : Nat) (v : DWord) (s : State) : State :=
  { s with bank := { s.bank with mem :=
    (if s.bank.zeroed.contains b ∧ v = 0 then spDel (b * 32768 + w) s.bank.mem
     else spIns (b * 32768 + w) v s.bank.mem) } }

/-- The listed words of the other banks. -/
def otherWords (s : State) (b : Nat) : List (Nat × DWord) := s.bank.mem.filter fun e => e.1 / 32768 ≠ b

/-- A bank is written to zero. -/
def zeroBank (b : Nat) (s : State) : State :=
  { s with bank := { s.bank with mem := otherWords s b, zeroed := insNat b s.bank.zeroed } }

/-- A destructive test leaves a bank undefined (R292). -/
def scrambleBank (b : Nat) (s : State) : State :=
  { s with bank := { s.bank with
    mem := otherWords s b, zeroed := s.bank.zeroed.erase b
    epoch := spSet (fun _ => 0) b (spGet (fun _ => 0) s.bank.epoch b + 1) s.bank.epoch } }

/-! ### What an access does to its word (R283, R288) -/

/-- The access is 64 bits wide. -/
def opWide : BankOp → Bool
  | .read w | .write w _ | .fetchAdd w _ | .swap w _ => w

/-- The access writes. -/
def opWrites : BankOp → Bool
  | .read _ => false
  | _ => true

/-- The access needs the word's present value: all but a 64-bit write. -/
def opReads : BankOp → Bool
  | .write w _ => !w
  | _ => true

/-- The access returns data: all but a write. -/
def opReturns : BankOp → Bool
  | .write .. => false
  | _ => true

/-- Event number of the access in classes 0x02 and 0x12. -/
def opEvent : BankOp → Nat
  | .read _ => 1
  | .write .. => 2
  | _ => 3

/-- The word index of an access. -/
def reqWord (r : BankReq) : Nat := r.addr / 8

/-- Bank and row of an access. -/
def reqPlace (r : BankReq) : Option (Nat × Nat) := some (r.bank, (reqWord r) / 64)

/-- The part of a word that an access names: all of it, or the half at its address. -/
def partOf (r : BankReq) (x : DWord) : DWord :=
  if (opWide r.op) then x else if r.addr % 8 < 4 then x &&& 0xFFFFFFFF else x >>> 32

/-- A word with that part replaced. -/
def putPart (r : BankReq) (x v : DWord) : DWord :=
  if (opWide r.op) then v
  else if r.addr % 8 < 4 then (x &&& 0xFFFFFFFF00000000) ||| (v &&& 0xFFFFFFFF)
  else (x &&& 0xFFFFFFFF) ||| (v <<< 32)

/-- The word after an access. -/
def newWord (r : BankReq) (x : DWord) : DWord :=
  match r.op with
  | .read _ => x
  | .write _ v => putPart r x v
  | .fetchAdd _ v => putPart r x (partOf r x + v)
  | .swap _ v => putPart r x v

/-- The data an access returns: the value from before it; none for a write. -/
def returned (r : BankReq) (x : DWord) : DWord :=
  match r.op with
  | .write .. => 0
  | _ => partOf r x

/-- The access is naturally aligned. -/
def reqAligned (r : BankReq) : Bool := r.addr % (if (opWide r.op) then 8 else 4) = 0

/-! ### Who is served (R284, R285, R294) -/

/-- Owner code of the requester. -/
def reqCode (r : BankReq) : Nat :=
  if r.portB then (if r.supervisor then 1 else r.agent) else 16 + r.agent / 16

/-- The requester, for the counters' filters. -/
def reqMaster (r : BankReq) : Master := if r.portB then .code (reqCode r) else .engine r.agent

/-- What becomes of a request before arbitration. -/
inductive Verdict where
  | serve
  /-- refused with a cause of BANK.REFUSE_INFO -/
  | refuse (cause : Nat)
  /-- the lender recalls the bank -/
  | recall
  /-- the lender waits for a recall in progress -/
  | wait
  deriving DecidableEq, Repr

/-- The request is an owner's own access, not the supervisor's, from code `o`. -/
def fromOwner (o : Nat) (r : BankReq) : Bool := o = reqCode r && !(r.portB && r.supervisor)

/-- The verdict on a request (R284, R287, R288, R294, R297): after a handover the new owner is served from the ECLK
after it. -/
def verdict (s : State) (r : BankReq) : Verdict :=
  let x := bank s r.bank
  let owns := fromOwner x.owner r && decide (x.ownFrom ≤ now s / 2)
  if x.failed then .refuse 2
  else if x.test = 2 then .refuse 1
  else if x.test ≠ 0 then
    (if fromOwner x.lender r then (if x.test = 1 then .recall else .wait) else .refuse 1)
  else if !owns && !(r.portB && r.supervisor) then .refuse 0
  else if !(reqAligned r) then .refuse 4
  else .serve

/-- Record what became of a request. -/
def answer (r : BankReq) (e : BankEnd) (s : State) : State :=
  { s with bank := { s.bank with answers := s.bank.answers ++ [(r, e)] } }

/-- REFUSE_INFO of a refusal (Table 11.14). -/
def refuseInfo (cause b who code : Nat) (portB : Bool) : Word :=
  BitVec.ofNat 32 (2 ^ 31 + cause * 2 ^ 28 + b2n portB * 2 ^ 27 + b * 2 ^ 20
    + (if portB then 0xFF else who) * 2 ^ 12 + code)

/-- A refusal counts, is recorded and raises an event; an engine takes a bank-fault interrupt at kernel level (R285). -/
def refused (cause b who code : Nat) (portB kernel : Bool) (place : Option (Nat × Nat)) (s : State) : State :=
  let m : Master := if portB then .code code else .engine who
  let s := count 0x500400 (rcSet 0x500404 (refuseInfo cause b who code portB) s)
  let s := raise .bankRefused b cause (bankEv 6 m kernel place s)
  if portB then s else engineEvs who [(2, 5, kernel, place, 1), (3, 5, true, none, 1)] s

/-- A request waits. -/
def stall (r : BankReq) (s : State) : State :=
  { s with bank := { s.bank with stalled := s.bank.stalled ++ [(r, now s / 2)] } }

/-- A stall by a recall: counted once it is over. -/
def recallStall (r : BankReq) (s : State) : State := answer r .stalled (stall r s)

/-- The ECLK for which a recall has stalled an access are counted (12_perf_counters.md R318). -/
def stallOver (x : BankReq × Nat) (s : State) : State :=
  let (r, t) := x
  let n := now s / 2 - t
  let s := bankEvs 9 n (reqMaster r) r.kernel (reqPlace r) s
  if r.portB then s
  else setEng r.agent { eng s r.agent with heldUp := (eng s r.agent).heldUp + n }
    (engineEv r.agent 2 6 n r.kernel (reqPlace r) s)

/-- Sort one request out before arbitration: refusals and recalls take effect at once, what may be
served is kept. -/
def sortOut (acc : List BankReq × State) (r : BankReq) : List BankReq × State :=
  let (ok, s) := acc
  match verdict s r with
  | .serve => (ok ++ [r], s)
  | .refuse c => (ok, answer r .refused (refused c r.bank r.agent (reqCode r) r.portB r.kernel (reqPlace r) s))
  | .wait => (ok, recallStall r s)
  | .recall =>
    let x := bank s r.bank
    let s := setBank r.bank { x with test := 3, recalls := min 8 (x.recalls + 1) } s
    (ok, recallStall r (count 0x500418 (bankEv 8 (reqMaster r) r.kernel (reqPlace r) s)))

/-! ### Arbitration and service (R289, R290) -/

/-- Whether request `r` goes before `t` on the same port of the same bank: the lower engine, and the
owning master before the supervisor. -/
def before (r t : BankReq) : Bool :=
  if r.portB then !r.supervisor && t.supervisor else decide (r.agent < t.agent)

/-- The request granted on a port of a bank. -/
def winner : List BankReq → Option BankReq
  | [] => none
  | r :: rs => match winner rs with
    | none => some r
    | some t => if before t r then some t else some r

/-- The request granted among those of a port and a bank. -/
def granted (ok : List BankReq) (portB : Bool) (b : Nat) : Option BankReq :=
  winner (ok.filter fun r => r.portB = portB && r.bank = b)

/-- A request that lost arbitration waits one ECLK. -/
def conflictStall (r : BankReq) (s : State) : State :=
  let s := answer r .stalled (stall r (bankEv 4 (reqMaster r) r.kernel (reqPlace r) s))
  if r.portB then s
  else setEng r.agent { eng s r.agent with lost := (eng s r.agent).lost + 1 }
    (engineEv r.agent 2 4 1 r.kernel (reqPlace r) s)

/-- A targeted test of a row (R295): asked for when the bank may be lent; else reported, and the row is kept for the
test of the bank once NONE owns it. A bank's macro is its number (R297). -/
def targeted (b row : Nat) (s : State) : State :=
  if (bank s b).lendOk then
    (if s.mtest.rows.contains (b, row) then s
     else { s with mtest := { s.mtest with rows := s.mtest.rows ++ [(b, row)] } })
  else raise .rowNotLent b row (if s.mtest.marks.contains (b, row) then s
     else { s with mtest := { s.mtest with marks := s.mtest.marks ++ [(b, row)] } })

/-- What the word's ECC shows on a read (R290, R295). -/
def eccSeen (r : BankReq) (s : State) : State :=
  let row := (reqWord r) / 64
  if r.ecc = 0 ∨ !(opReads r.op) then s
  else if r.ecc = 2 then
    targeted r.bank row (raise .bankEcc r.bank ((reqWord r) + 2 ^ 16) (count 0x500420 s))
  else
    let s := count 0x50041C s
    let x := bank s r.bank
    let recent := (row, s.tick) :: x.ecc.filter fun e => decide (s.tick < e.2 + 1000000)
    if max 1 s.mtest.trig ≤ (recent.filter (·.1 = row)).length then
      targeted r.bank row (setBank r.bank { x with ecc := recent.filter (·.1 ≠ row) } s)
    else setBank r.bank { x with ecc := recent } s

/-- A read meets an uncorrectable error. -/
def reqBroken (r : BankReq) : Bool := (opReads r.op) && r.ecc = 2

/-- Count a granted access. The owner's is in flight until its data returns, 3 ECLK after the grant (R283). -/
def countGrant (r : BankReq) (s : State) : State :=
  let both (ev : Nat) (s : State) : State :=
    let s := bankEv ev (reqMaster r) r.kernel (reqPlace r) s
    if r.portB then s else engineEv r.agent 2 ev 1 r.kernel (reqPlace r) s
  let s := if fromOwner (bank s r.bank).owner r
    then setBank r.bank { bank s r.bank with idleFrom := now s / 2 + (if opReturns r.op then 4 else 1) } s else s
  both (opEvent r.op) (both 0 s)

/-- Two writes to one word leave different data, so that port B's is discarded (R289). -/
def collides (s : State) (a : Option BankReq) (b : BankReq) : Bool :=
  match a with
  | none => false
  | some a =>
    let x := bankWord s b.bank (reqWord b)
    (reqWord a) = (reqWord b) && (opWrites a.op) && (opWrites b.op) && !(reqBroken a) && !(reqBroken b)
      && decide (newWord a x ≠ newWord b x)

/-- Serve one granted access against the words as they stood at the start of the cycle. -/
def serve1 (s0 : State) (r : BankReq) (s : State) : State :=
  let x := bankWord s0 r.bank (reqWord r)
  let s := eccSeen r (countGrant r s)
  if (reqBroken r) then answer r .eccUncorr (if r.portB then s else engineEv r.agent 3 5 1 true none s)
  else answer r (.served (returned r x)) (if (opWrites r.op) then setBankWord r.bank (reqWord r) (newWord r x) s else s)

/-- A port A access that meets one of port B at its word holds its engine up for the ECLK (12_perf_counters.md R306). -/
def meetsWord (a b : Option BankReq) (s : State) : State :=
  match a, b with
  | some x, some y => if reqWord x = reqWord y then
      setEng x.agent { eng s x.agent with heldUp := (eng s x.agent).heldUp + 1 } s else s
  | _, _ => s

/-- One ECLK of a bank: port A is served, then port B, unless its write is discarded, though granted. -/
def serveBank (s0 : State) (a b : Option BankReq) (s : State) : State :=
  let s := meetsWord a b s
  let s := match a with
    | some r => serve1 s0 r s
    | none => s
  match b with
  | none => s
  | some r =>
    if collides s0 a r then
      let s := countGrant r s
      let s := rcSet 0x50040C (BitVec.ofNat 32 (2 ^ 31 + r.bank * 2 ^ 16 + (reqWord r))) (count 0x500408 s)
      answer r .collide (bankEv 5 (reqMaster r) r.kernel (reqPlace r) s)
    else serve1 s0 r s

/-- The requests of one ECLK (R284 to R290): refusals and recalls, then arbitration and service. -/
def accessStep (rs : List BankReq) (s : State) : State :=
  let r := rs.foldl sortOut ([], s)
  let ok := r.1
  let bs := (ok.map (·.bank)).eraseDups
  let wins := bs.flatMap fun b => (granted ok false b).toList ++ (granted ok true b).toList
  let s := forAll bs (fun b s => serveBank r.2 (granted ok false b) (granted ok true b) s) r.2
  forAll (wins.foldl (fun l r => l.erase r) ok) conflictStall s

/-- The stalled accesses that retry: those of banks not under a recall. -/
def retries (s : State) : List BankReq :=
  (s.bank.stalled.filter fun e => (bank s e.1.bank).test ≠ 3).map (·.1)

/-- Take the retrying accesses out of the list. -/
def takeRetries (s : State) : State :=
  { s with bank := { s.bank with stalled := s.bank.stalled.filter fun e => (bank s e.1.bank).test = 3 } }

/-- An access lies in its bank. -/
def reqInBank (r : BankReq) : Bool := decide (r.addr < 0x40000)

/-- BANK_ACCESS: the accesses of one ECLK, those that stalled before among them. -/
def execBankAccess (rs : List BankReq) (s : State) : Host.Outcome State Fault Refusal :=
  let s := { s with bank := { s.bank with answers := [] } }
  .next (accessStep (retries s ++ rs.filter reqInBank) (takeRetries s))

/-- Retry until every access that can be served has been. -/
def drain : Nat → State → State
  | 0, s => s
  | n + 1, s => if (retries s).isEmpty then s else drain n (accessStep (retries s) (takeRetries s))

/-- Accesses that a port B master makes to a run of rows of a bank, counted (12_perf_counters.md R318): reads and writes
of each row. -/
def bankRun (b code row rows reads writes : Nat) (s : State) : State :=
  if (List.range 32).all fun k => bitsOf (perfSel s (0x620100 + 4 * k)) 15 8 ≠ 0x12 then s else
  forAll (List.range' row rows) (fun r s =>
    bankEvs 0 (reads + writes) (.code code) true (some (b, r))
      (bankEvs 1 reads (.code code) true (some (b, r)) (bankEvs 2 writes (.code code) true (some (b, r)) s))) s

/-! ### Handover (R287) -/

/-- The quarantine window of a datapath follows its bank (14_cipher.md R369): held by the consumer to which CIPHER hands
it, and written to zero once it is handed back. -/
def windowOwner (b owner : Nat) (s : State) : State :=
  if b < 114 ∨ 118 ≤ b then s
  else setWindow (b - 114) (if owner = 3 then .zeroing else .held) s

/-- A handover takes effect: the new owner, served from the next ECLK on, counted. -/
def handOver (b owner : Nat) (s : State) : State :=
  windowOwner b owner <| bankEv 7 .nobody true none (count 0x500410 (setBank b { bank s b with
    owner := owner, handover := none, idleFrom := 0, ownFrom := now s / 2 + 1 } s))

/-- A BANK_RELEASE whose handover stands no more completes. -/
def endRelease (b st : Nat) (s : State) : State :=
  let x := bank s b
  completeOpt x.release (ans st) (setBank b { x with release := none } s)

/-- The bank has been quiescent for 4 consecutive ECLK (R287): no access of the current owner granted, in flight or
waiting. -/
def quiet (s : State) (b : Nat) : Bool :=
  let x := bank s b
  decide (x.idleFrom + 4 ≤ now s / 2) && !(s.bank.stalled.any fun e => e.1.bank = b && fromOwner x.owner e.1)

/-- Owner of a bank in the default allocation (11_engines_banks.md Table 11.4). -/
def homeOwner (b : Nat) : Nat :=
  if b < 16 then 16 + b / 2 else if b < 80 then 16 + (b - 16) / 8 else if b < 86 then 24 else if b < 92 then 25
  else if b < 98 then 26 else if b < 114 then 27 else if b < 118 then 3 else 0

/-- The default allocation at start-up, after the memory test (11_engines_banks.md R286). -/
def allocateBanks (s : State) : State :=
  forAll (List.range 128) (fun b s =>
    let x := bank s b
    if x.failed then s else setBank b { x with owner := homeOwner b, lendOk := decide (b < 114) } s) s

/-- Owner of a bank after takeover: its home, or the cluster that hosts the home cluster
(11_engines_banks.md R277, R286). -/
def homeNow (s : State) (b : Nat) : Nat :=
  let o := homeOwner b
  if o < 16 then o
  else match spGet (fun _ => 0) s.eng.host (o - 16) with
    | 0 => o
    | h + 1 => 16 + h

/-- The default allocation after takeover (11_engines_banks.md R286): banks elsewhere are handed home; one
lent to the march test returns home from it. -/
def reallocateBanks (s : State) : State :=
  forAll (List.range 128) (fun b s =>
    let x := bank s b
    let o := homeNow s b
    if x.failed || x.zeroing.isSome || x.owner = o then s
    else if x.owner = 4 then setBank b { x with lender := o } s
    else handOver b o (endRelease b stBusy s)) s

/-- Owner code of a writer: engine 0-191, or 192 plus the code of a port B master. -/
def writerCode (a : Nat) : Nat := if a < 192 then 16 + a / 16 else a - 192

/-- A handover that stands goes before another of the same ECLK: the supervisor's, else that of the
lower engine number. -/
def stands (old new : Nat) : Bool := old = 193 || (new ≠ 193 && decide (old ≤ new))

/-- A writer may change a bank's ownership and its LEND_OK (R274, R287): a kernel-level engine of the owning cluster,
the owning master, and MGMT as supervisor. -/
def mayWriteBank (x : Bank) (agent : Nat) (kernel : Bool) : Bool :=
  let code := writerCode agent
  (code = x.owner || code = 1) && (kernel || decide (192 ≤ agent))

/-- BANK_HANDOVER: `agent` writes a new owner code, or LEND_OK, which is never set for the quarantine windows (R286,
Table 11.4). -/
def execBankHandover (b : Nat) (agent : BankWriter) (owner : BankWrite) (s : State) :
    Host.Outcome State Fault Refusal :=
  let ⟨agent, kernel⟩ := agent
  let x := bank s b
  let code := writerCode agent
  let no (cause : Nat) : Host.Outcome State Fault Refusal :=
    .next (refused cause b agent code (decide (192 ≤ agent)) kernel none s)
  match owner with
  | .lend v =>
    if !mayWriteBank x agent kernel || (v && decide (114 ≤ b ∧ b < 118)) then no 3
    else .next (setBank b { x with lendOk := v } s)
  | .owner owner =>
  if x.failed then no 2
  else if x.test ≠ 0 then no 1
  else if !mayWriteBank x agent kernel || (owner = 4 && code ≠ 1) then no 3
  else if owner = x.owner then .next s
  else match x.handover with
    | some (_, t, w) =>
      if now s / 2 = t / 2 ∧ !stands w agent
      then .next (endRelease b stBusy (count 0x500414 (setBank b { x with handover := some (owner, now s, agent) } s)))
      else .next (count 0x500414 s)
    | none => .next (setBank b { x with handover := some (owner, now s, agent) } s)

/-- HANDOVER_EFFECT: the bank has been quiescent for 4 ECLK, no later than 64 ECLK after the write. -/
def execHandoverEffect (b : Nat) (s : State) : Host.Outcome State Fault Refusal :=
  let x := bank s b
  match x.handover with
  | none => .next s
  | some (o, t, _) =>
    if !quiet s b ∨ t / 2 + 64 < now s / 2 then .next s else .next (endRelease b stOk (handOver b o s))

/-- HANDOVER_TIMEOUT: not quiescent within 64 ECLK. -/
def execHandoverTimeout (b : Nat) (s : State) : Host.Outcome State Fault Refusal :=
  let x := bank s b
  match x.handover with
  | none => .next s
  | some (_, t, _) =>
    if now s / 2 < t / 2 + 64 ∨ (quiet s b ∧ now s / 2 = t / 2 + 64) then .next s
    else .next (endRelease b stBusy (count 0x500414 (setBank b { x with handover := none } s)))

/-! ### The host's banks (13_host.md R347) -/

/-- A bank of the pool that may be taken. -/
def inPool (s : State) (b : Nat) : Bool :=
  let x := bank s b
  x.owner = 0 && !x.failed && x.test = 0 && x.zeroing.isNone && x.handover.isNone

/-- BANK is powered and runs (13_host.md Table 13.7 step 5): the start-up test is over. -/
def banksUp (s : State) : Bool := s.pwr.on.getLsbD 18 && s.pwr.on.getLsbD 19 && decide (s.mtest.target ≠ 4)

/-- BANK_ALLOC: the bank is written to zero, and then handed over. -/
def execBankAlloc (q : Nat) (s : State) : Host.Outcome State Fault Refusal :=
  runCmd 0x50 q (fun d s =>
    let n := (d.desc.getD 16 0).toNat
    let start (b : Nat) (s : State) : State := setBank b { bank s b with zeroing := some q } s
    if !banksUp s then complete q (ans stUnavailable) s
    else if n = 0xFF then
      (match (List.range 128).find? (inPool s) with
      | some b => start b s
      | none => complete q (ans stNoBank) s)
    else if 128 ≤ n then complete q (badArg 16) s
    else if inPool s n then start n s else complete q (ans stRefused) s) s

/-- BANK_ALLOC_DONE: the first bank being zeroed is done. -/
def execBankAllocDone (s : State) : Host.Outcome State Fault Refusal :=
  match s.bank.own.find? fun e => e.2.zeroing.isSome with
  | none => .next s
  | some (b, x) =>
    let s := handOver b 2 (setBank b { x with zeroing := none } (zeroBank b s))
    .next (completeOpt x.zeroing ⟨stOk, b, 0, 0, 0⟩ s)

/-- BANK_RELEASE: HDMA writes NONE as the new owner, and the command completes with the handover (R287). -/
def execBankRelease (q : Nat) (s : State) : Host.Outcome State Fault Refusal :=
  runCmd 0x51 q (fun d s =>
    let n := (d.desc.getD 16 0).toNat
    if !banksUp s then complete q (ans stUnavailable) s
    else if 128 ≤ n then complete q (badArg 16) s
    else
      let x := bank s n
      if x.owner ≠ 2 ∨ x.failed then complete q (ans stRefused) s
      else if x.handover.isSome then complete q (ans stBusy) (count 0x500414 s)
      else setBank n { x with handover := some (0, now s, 194), release := some q } s) s

/-- BANK_WINDOW_ACCESS (13_host.md Table 13.2): a host access through BAR4, 4 or 8 bytes, naturally
aligned; served as an access of HDMA while the bank is owned by HDMA. What a read that meets an uncorrectable error
shows the host is open: a free value (log entry 77). -/
def execBankWindowAccess (off size : Nat) (data : WindowData) (s : State) :
    Host.Outcome State Fault Refusal :=
  let wide := decide (size = 8)
  let r : BankReq := ⟨true, false, 2, false, off / 0x40000, off % 0x40000,
    (match data.data with | none => .read wide | some v => .write wide v), data.ecc⟩
  if 0x2000000 ≤ off ∨ (size ≠ 4 ∧ size ≠ 8) then .next s
  else
    let s := accessStep [r] { s with bank := { s.bank with answers := [] } }
    let (x, s) : DWord × State := match s.bank.answers with
      | (_, .served v) :: _ => (v, s)
      | (_, .eccUncorr) :: _ => let (n, s) := draw s; (BitVec.ofNat 64 n, s)
      | _ => (0, s)
    .next (if data.data.isNone then { s with hif := { s.hif with readData := x } } else s)

end Sys2Proof.Machine
end

