-- ==== Sys2Proof/Machine/Groups.lean ====
section
/-! DEFINITION. Protection groups: signal conditions, requests, the decision, the calendar and the
request channel (08_protection.md). -/

namespace Sys2Proof.Machine

/-- Group g, when it is defined. -/
def group (s : State) (g : Nat) : Option Group := (s.prot.groups.find? (·.1 = g)).map (·.2)

/-- Set a group. -/
def setGroup (g : Nat) (x : Group) (s : State) : State :=
  { s with prot := { s.prot with groups := spIns g x s.prot.groups } }

/-- Change a group, when it is defined. -/
def onGroup (g : Nat) (f : Group → Group) (s : State) : State :=
  match group s g with
  | none => s
  | some x => setGroup g (f x) s

/-! ### Attributes (R193, R195) -/

/-- DIR = BI: fixed for 1+1, chosen for 1:1 and 1:N. -/
def GroupDef.isBi (d : GroupDef) : Bool := if d.type < 2 then decide (d.type = 1) else d.bi

/-- A UNI head of a selector-bridge group. -/
def GroupDef.uniHead (d : GroupDef) : Bool := decide (2 ≤ d.type) && !d.bi && !d.tail

/-- A UNI tail of a selector-bridge group. -/
def GroupDef.uniTail (d : GroupDef) : Bool := decide (2 ≤ d.type) && !d.bi && d.tail

/-- The SR lane of a group. -/
def GroupDef.srLane (d : GroupDef) : Option Nat := d.sr.map fun e => laneOf e.1 e.2

/-- The string of a path: 0 protect, s working path s. -/
def GroupDef.pathStr (d : GroupDef) (p : Nat) : Option Nat :=
  if p = 0 then d.protIn else d.workIn.getD (p - 1) none

/-- PORT_CFG[p] as in force in this tick (08_protection.md R219, Table 8.12). -/
def portCfg (s : State) (p : Nat) : Nat := spGet (fun _ => 0x00140331) s.prot.portCfg p
def srOn (s : State) (p : Nat) : Bool := bitOf (portCfg s p) 0
def persistOf (s : State) (p : Nat) : Nat := max 2 (bitsOf (portCfg s p) 6 4)
def txRepeat (s : State) (p : Nat) : Nat := max 2 (bitsOf (portCfg s p) 10 8)

/-- PORT_CFG as written comes into force (R219). -/
def latchPortCfg (s : State) : State :=
  let take (m : List (Nat × Nat)) (p : Nat) : List (Nat × Nat) :=
    spSet (fun _ => 0x00140331) p (cfg s (0x330010 + 4 * p)).toNat m
  { s with prot := { s.prot with portCfg := (List.range 8).foldl take s.prot.portCfg } }

/-! ### The message and the calendar (R199, R201) -/

/-- The message a group sends (08_protection.md Table 8.4). -/
def srMessage (g : Nat) (d : GroupDef) (req sig br : Nat) : Word :=
  BitVec.ofNat 32 (req * 2 ^ 28 + g * 2 ^ 15 + sig * 2 ^ 11 + (if d.type < 2 then 1 else br) * 2 ^ 7
    + b2n d.isBi * 64 + b2n (decide (2 ≤ d.type)) * 32 + b2n d.revert * 16 + b2n d.et * 8)

/-- The heads of the groups whose SR lane is l, ascending. -/
def headsOf (s : State) (l : Nat) : List Nat :=
  (s.prot.groups.filter fun e => e.2.dfn.srLane = some l).map (·.1)

/-- The calendar of lane l. -/
def calendar (s : State) (l : Nat) : Calendar := spGet (fun _ => (⟨0, []⟩ : Calendar)) s.prot.cals l

/-- Set a calendar. -/
def setCalendar (l : Nat) (c : Calendar) (s : State) : State :=
  { s with prot := { s.prot with cals := spSet (fun _ => (⟨0, []⟩ : Calendar)) l c s.prot.cals } }

/-- A changed message enters the lane's urgent queue, or keeps its place there with TX_REPEAT copies of
the newer message (08_protection.md R201 step 1). -/
def urgent (l g : Nat) (s : State) : State :=
  let c := calendar s l
  let n := txRepeat s (portOf l)
  let us := if c.urgent.any (·.1 = g) then c.urgent.map fun e => if e.1 = g then (g, n) else e
    else c.urgent ++ [(g, n)]
  setCalendar l { c with urgent := us } s

/-- The round robin's next head at or after `k`, cyclic. -/
def nextHead (hs : List Nat) (k : Nat) : Option Nat :=
  match hs.find? fun h => decide (k ≤ h) with
  | some h => some h
  | none => hs.head?

/-- Fill message positions (08_protection.md R201): urgent copies first, then the lane's groups in turn;
the heads chosen, and the calendar after. -/
def fillCalendar (hs : List Nat) : Nat → Calendar → List (Option Nat) × Calendar
  | 0, c => ([], c)
  | n + 1, c =>
    match c.urgent with
    | (g, k) :: us =>
      let r := fillCalendar hs n { c with urgent := (if k ≤ 1 then us else (g, k - 1) :: us) }
      (some g :: r.1, r.2)
    | [] => match nextHead hs c.next with
      | none => (List.replicate (n + 1) none, c)
      | some h =>
        let r := fillCalendar hs n { c with next := h + 1 }
        (some h :: r.1, r.2)

/-- Message positions of a tray of lane l (02_tray_format.md R50). -/
def positions (s : State) (l : Nat) : Nat := if laneRate s l = 0 then 6 else 12

/-- Lay out the messages of lane l's outgoing tray. -/
def layCalendar (l : Nat) (s : State) : State :=
  let x := lane s l
  if !srOn s (portOf l) then setLane l { x with out := { x.out with calendar := [] } } s
  else
    let r := fillCalendar (headsOf s l) (positions s l) (calendar s l)
    let ws := r.1.map fun h => match h.bind (group s) with
      | some g => g.posted
      | none => 0xFFFFFFFF
    let s := setLane l { x with out := { x.out with calendar := ws } } (setCalendar l r.2 s)
    if r.2.urgent.isEmpty then s else count 0x330058 s

/-- The messages written in time for the new tick enter the calendars; those that were late follow one tick
later (01_architecture.md R28, R30). -/
def takePosts (s : State) : State :=
  let take (e : Nat × Word) (s : State) : State :=
    match group s e.1 with
    | none => s
    | some x =>
      let s := setGroup e.1 { x with posted := e.2 } s
      match x.dfn.srLane with
      | some l => urgent l e.1 s
      | none => s
  let due := s.prot.latePosts.filter fun e => decide (e.1 ≤ s.tick)
  forAll (due.map (·.2) ++ s.prot.posts) take { s with prot := { s.prot with
    posts := [], latePosts := s.prot.latePosts.filter fun e => decide (s.tick < e.1) } }

/-- The lanes that carry switching requests. -/
def srLanes (s : State) : List Nat := (s.prot.groups.filterMap fun e => e.2.dfn.srLane).eraseDups

/-- Lay out every lane's calendar for the trays of the tick; a lane whose groups have gone sends its
positions empty (08_protection.md R201). -/
def layCalendars (s : State) : State :=
  let used := srLanes s
  let stale := (s.lanes.filter fun e => !e.2.out.calendar.isEmpty && !used.contains e.1).map (·.1)
  let clear (l : Nat) (s : State) : State :=
    setLane l { lane s l with out := { (lane s l).out with calendar := [] } } s
  forAll used layCalendar (forAll stale clear s)

/-! ### Conditions of the paths (R204, R205) -/

/-- A lane that carries a path has a defect, or is out of the bond. -/
def laneBad (s : State) (l : Nat) : Bool :=
  let x := lane s l
  !x.bond.bonded || !x.trn.signal || !x.frm.lock || x.trn.rx ≠ 3
    || x.cnt.los || x.cnt.locw || x.cnt.loa

/-- A signal fail cause other than counts stands on the path of a string. -/
def pathBad (s : State) (x : Str) : Bool :=
  decide ((port s x.inPort).st ≠ 5) || (x.ins.map (· / 1024)).eraseDups.any (laneBad s)

/-- Advance a saturating count of consecutive ticks. -/
def run16 (c : Bool) (n : Nat) : Nat := if c then min 65535 (n + 1) else 0

/-- One tick of a path's conditions (08_protection.md R204, R205). -/
def pathStep (s : State) (d : GroupDef) (n : Nat) (c : PathCond) : PathCond :=
  let x := s.abacus.map.str n
  let t := spGet (fun _ => StrTick.reset) s.pm.strTick n
  let cs := if 0 < t.cUp + t.cSub then min 16 (c.csRun + 1) else 0
  let win := (t.bip2 :: c.window).take d.sdWindow
  let sum := win.sum
  let hard := pathBad s x || decide (d.csTicks ≤ cs)
  let sfClear := run16 (!hard) c.sfClear
  let belowSf := run16 (decide (sum < d.sfThresh)) c.belowSf
  let belowSd := run16 (decide (sum < d.sdThresh)) c.belowSd
  let sf := if hard || decide (d.sfThresh ≤ sum) then true
    else c.sf && !(decide (d.csTicks ≤ sfClear) && decide (d.sdWindow ≤ belowSf))
  let sdNow := decide (d.sdThresh ≤ sum) && !sf
  let sdClear := run16 (!sdNow) c.sdClear
  let sd := !sf && (sdNow || (c.sd && !(decide (d.csTicks ≤ sdClear) && decide (d.sdWindow ≤ belowSd))))
  let at0 := decide (d.holdOff = 0)
  { sf := sf, sd := sd, csRun := cs, sfClear := sfClear, sdClear := sdClear, window := win
    belowSf := belowSf, belowSd := belowSd
    sfAt := (if sf then (if c.sf then c.sfAt else some s.tick) else none)
    sdAt := (if sd then (if c.sd then c.sdAt else some s.tick) else none)
    sfReq := sf && (at0 || (c.sf && c.sfReq))
    sdReq := sd && (at0 || (c.sd && c.sdReq)) }

/-- The owner engine of a group (08_protection.md R194). -/
def ownerOf (g : Nat) : Nat := 128 + g % 48

/-- The engine that runs the work of engine e: its host while its cluster is hosted, and for good when it
is FAILED (11_engines_banks.md R277, R282). -/
def runs (s : State) (e : Nat) : Nat :=
  let st := (spGet (fun _ => Eng.reset) s.eng.engs e).st
  let c := e / 16
  let fixed := if c < 8 then (if c % 2 = 0 then c + 1 else c - 1) else if c = 8 then 9 else if c = 9 then 10 else 8
  match spGet (fun _ => 0) s.eng.host c with
  | 0 => if st = 4 ∧ c < 11 then 16 * fixed + e % 16 else e
  | h + 1 => 16 * h + e % 16

/-- Condition of path p. -/
def Group.path (x : Group) (p : Nat) : PathCond := spGet (fun _ => PathCond.reset) x.paths p

/-- The numbers of the paths of a group. -/
def GroupDef.paths (d : GroupDef) : List Nat :=
  (List.range (d.n + 1)).filter fun p => (d.pathStr p).isSome

/-- SF on a working path and SF_P both hold (08_protection.md R214). -/
def Group.bothFail (x : Group) : Bool :=
  (x.path 0).sf && (x.dfn.paths.any fun p => p ≠ 0 && (x.path p).sf)

/-- The port engine that posts for string `n` overran in the tick that has ended: what it posts in the new one
arrives after the decide phase has begun (01_architecture.md R29, R30; log entry 63). -/
def postsLate (s : State) (n : Nat) : Bool :=
  (spGet (fun _ => Eng.reset) s.eng.engs (runs s (16 * (s.abacus.map.str n).inPort + n % 16))).overran

/-- One tick of the conditions of path `p`: what was late is taken first, and what comes late waits. -/
def pathTick (s : State) (x : Group) (p : Nat) : Group :=
  let none_ (_ : Nat) : PathCond := PathCond.reset
  let n := (x.dfn.pathStr p).getD 0
  let c := if x.latePaths.any (·.1 = p) then spGet none_ x.latePaths p else x.path p
  let c' := pathStep s x.dfn n c
  let late := spDel p x.latePaths
  if postsLate s n then { x with paths := spSet none_ p c x.paths, latePaths := spIns p c' late }
  else { x with paths := spSet none_ p c' x.paths, latePaths := late }

/-- One tick of a group's conditions. A change of a local request marks it changed. -/
def condStep (s : State) (x : Group) : Group :=
  let y := x.dfn.paths.foldl (pathTick s) x
  let req (z : Group) : List (Bool × Bool) := z.dfn.paths.map fun p => ((z.path p).sfReq, (z.path p).sdReq)
  { y with
    changed := x.changed || decide (req x ≠ req y)
    bothAt := (if y.bothFail then (if x.bothAt.isSome then x.bothAt else some s.tick) else none) }

/-! ### The request channel (R212) -/

/-- Cause LANE stands (08_protection.md Table 8.9, R219). -/
def laneCause (s : State) (d : GroupDef) : Bool :=
  match d.sr with
  | none => false
  | some (p, i) =>
    let st := (port s p).st
    !(lane s (laneOf p i)).bond.bonded || (st ≠ 5 && st ≠ 6) || !srOn s p

/-- The request channel of a group fails. -/
def chFail (g cause : Nat) (s : State) : State :=
  match group s g with
  | none => s
  | some x =>
    if x.chCause ≠ 0 then s
    else raise .chFail g cause (count 0x330044
      (setGroup g { x with chCause := cause, changed := true } s))

/-- Effective CH_TIMEOUT of a group's lane in ticks (08_protection.md R212). -/
def chTimeout (s : State) (l : Nat) : Nat :=
  let p := positions s l
  max (bitsOf (portCfg s (portOf l)) 31 16) (2 * (((headsOf s l).length + p - 1) / p) + 2)

/-! ### The decision (R207 to R211) -/

/-- Whether request (a, i) is of higher priority than (b, j) (08_protection.md R200). -/
def reqHigher (a b : Nat × Nat) : Bool := decide (b.1 < a.1 ∨ (b.1 = a.1 ∧ a.2 < b.2))

/-- The highest of some requests. -/
def highest (xs : List (Nat × Nat)) : Nat × Nat := xs.foldl (fun b a => if reqHigher a b then a else b) (0, 0)

/-- The local requests of a group (08_protection.md R208). -/
def Group.locals (x : Group) : List (Nat × Nat) :=
  let ws := x.dfn.paths.filter (· ≠ 0)
  (if x.lo then [(0xA, 0)] else [])
  ++ (if (x.path 0).sfReq then [(9, 0)] else [])
  ++ (if x.fs ≠ 0 then [(8, x.fs)] else [])
  ++ (ws.filter fun p => (x.path p).sfReq).map (fun p => (7, p))
  ++ (x.dfn.paths.filter fun p => (x.path p).sdReq).map (fun p => (6, p))
  ++ (if x.ms ≠ 0 then [(5, x.ms)] else [])
  ++ (x.wtr.toList.map fun e => (4, e.1))
  ++ (x.exer.map fun e => (3, e.1))
  ++ (if x.dnr ≠ 0 then [(1, x.dnr)] else [])

/-- The request of a message. -/
def msgReq (w : Word) : Nat × Nat := (bitsOf w.toNat 31 28, bitsOf w.toNat 14 11)

/-- The bridged signal of a message. -/
def msgBr (w : Word) : Nat := bitsOf w.toNat 10 7

/-- The far request that competes (08_protection.md R208). -/
def Group.far (x : Group) : Nat × Nat :=
  if (x.dfn.isBi || x.dfn.uniHead) && x.chCause = 0 then
    match x.accepted with
    | some w => if (msgReq w).1 = 2 then (0, 0) else msgReq w
    | none => (0, 0)
  else (0, 0)

/-- The top request and whether it is the far one. -/
def Group.top (x : Group) : (Nat × Nat) × Bool :=
  let l := highest x.locals
  if reqHigher x.far l then (x.far, true) else (l, false)

/-- The signal a top request bridges and selects; none leaves both unchanged (08_protection.md Table
8.7). -/
def topSignal (r : Nat × Nat) : Option Nat :=
  if r.1 = 3 then none
  else if r.1 = 0xA ∨ r.1 = 9 ∨ r.1 = 0 ∨ r.1 = 2 then some 0
  else some r.2

/-- The clearing of a top SF or SD of signal s enters WTR or DNR (08_protection.md R206, Table 8.8). -/
def enterWait (tick : Nat) (x : Group) : Group :=
  let cleared := !x.topFar && (x.topReq = 7 || x.topReq = 6) && x.topSig ≠ 0
    && !x.locals.contains (x.topReq, x.topSig) && decide ((highest x.locals).1 ≤ 4)
  if !cleared then x
  else if x.dfn.revert then { x with wtr := some (x.topSig, tick + x.dfn.wtr * 1000000) }
  else { x with dnr := x.topSig }

/-- A higher top request ends WTR, DNR and MS (08_protection.md R206, R207). -/
def endLower (x : Group) : Group :=
  let t := x.top.1
  { x with
    ms := (if reqHigher t (5, x.ms) then 0 else x.ms)
    wtr := x.wtr.filter fun e => !reqHigher t (4, e.1)
    dnr := (if reqHigher t (1, x.dnr) then 0 else x.dnr) }

/-- Local states after the inputs other than host requests have changed. A RESTORED group takes no
decision (08_protection.md R214). -/
def settle (tick : Nat) (x : Group) : Group := if x.restored then x else endLower (enterWait tick x)

/-- A GROUP_REQUEST is accepted or overridden in the decide phase (08_protection.md R207). -/
def takeAsk (tick : Nat) (x : Group) (req sig : Nat) : Option Group :=
  if req = 0 then
    let dnr := if !x.dfn.revert ∧ (x.fs ≠ 0 ∨ x.ms ≠ 0) then (if x.fs ≠ 0 then x.fs else x.ms) else 0
    some { x with lo := false, fs := 0, ms := 0, exer := [], wtr := none, dnr := dnr, restored := false
                  bothAt := (if x.restored then none else x.bothAt) }
  else if !reqHigher (req, sig) x.top.1 then none
  else if req = 0xA then some { x with lo := true }
  else if req = 8 then some { x with fs := sig }
  else if req = 5 then some { x with ms := sig }
  else some { x with exer := (sig, tick) :: x.exer }

/-- The selection of a group (08_protection.md R209, R213). -/
def selectOf (x : Group) (t : Nat × Nat) (far : Bool) : Nat :=
  let d := x.dfn
  let failed := x.chCause ≠ 0 && d.sr.isSome
  let toWork := !far && (t.1 = 0xA || t.1 = 9)
  let br := (x.accepted.map msgBr).getD 0
  if d.uniHead then 0
  else if failed && d.type = 1 && !d.fallback then x.carries
  else if failed && decide (2 ≤ d.type) then (if toWork then 0 else x.carries)
  else match topSignal t with
    | none => x.carries
    | some k => if d.type < 2 ∨ k = 0 ∨ br = k ∨ x.carries = k then k else 0

/-- The bridge a group wants (08_protection.md R209, R213). -/
def bridgeOf (x : Group) (t : Nat × Nat) : Nat :=
  let d := x.dfn
  if d.type < 2 then 1
  else if d.uniTail then 0
  else if x.chCause ≠ 0 then x.bridged
  else (topSignal t).getD x.bridged

/-- The selector bits of a group for its selection and bridge (08_protection.md R209). -/
def selBits (g : Nat) (d : GroupDef) (carries bridged : Nat) : List (Nat × Bool) :=
  match d.type with
  | 2 => [(g, carries = 1), (g + 1, bridged = 1)]
  | 3 => ((List.range d.n).map fun i => (g + i, decide (carries = i + 1)))
      ++ (if d.et then [(g + d.n, decide (carries ≠ 0))] else [])
  | _ => [(g, decide (carries = 1))]

/-- A written bit misses the next data tick, which takes value `v`; the first such value stands
(01_architecture.md R28). -/
def pinSel (i : Nat) (v : Bool) (s : State) : State :=
  if s.prot.late.any (·.1 = i) then s else { s with prot := { s.prot with late := (i, v) :: s.prot.late } }

/-- Selector bits change in one operation (08_protection.md R211). A write after ECLK 0895 misses the data
of the next tick (01_architecture.md R28). -/
def setSel (bs : List (Nat × Bool)) (s : State) : State :=
  let s := if s.cclk < 1792 then s
    else forAll (bs.filter fun e => e.2 ≠ selBit s e.1) (fun e s => pinSel e.1 (selBit s e.1) s) s
  { s with prot := { s.prot with
    sel := bs.foldl (fun m e => spSet (fun _ => false) e.1 e.2 m) s.prot.sel } }

/-- Engine e writes selector bits of group g: the hardware writer of a bit is the engine that runs the group's owner, and
a write from any other is refused and raises an event (11_engines_banks.md R278). -/
def writeSel (e g : Nat) (bs : List (Nat × Bool)) (s : State) : State :=
  if e = runs s (ownerOf g) then setSel bs s else raise .selRefused e g s

/-- What a DECISION record is written for (16_journal_seesaw.md R409). -/
def decisionKey (s : State) (g : Nat) (x : Group) :
    Nat × Nat × Option (Nat × Nat) × Option (Nat × Nat) × Bool :=
  (selWord s g x.dfn, x.bridged, x.standing, x.wtr, x.restored)

/-- A 1:N head asks for the page that bridges a signal (08_protection.md R197). -/
def askBridge (g want : Nat) (x : Group) (s : State) : State :=
  let pending := (s.page.waiting.map (·.2) ++ s.page.holder.toList).any fun w => match w with
    | .groupBridge h _ => h = g
    | _ => false
  if x.dfn.type ≠ 3 ∨ x.dfn.uniTail ∨ want = x.bridged ∨ pending ∨ !isActive s then s
  else request (.groupBridge g want) s

/-- Whether a group awaits BR_SIG of the far end: a local top request, EXER among them, names a signal
that the far end does not bridge (08_protection.md Table 8.9, NO_RESPONSE). -/
def awaits (x : Group) (t : Nat × Nat) (far : Bool) : Bool :=
  decide (2 ≤ x.dfn.type) && x.dfn.bi && !far && t.2 ≠ 0 && (x.accepted.map msgBr).getD 0 ≠ t.2

/-- The group after its decision over its inputs, and the bridge it wants (08_protection.md R208 to R213). -/
def decided (tick g : Nat) (y : Group) : Group × Nat :=
  if y.restored then ({ y with changed := false, deferred := 0 }, y.bridged)
  else
    let (t, far) := y.top
    let want := bridgeOf y t
    let bridged := if y.dfn.type = 3 then y.bridged else want
    let req := if far then (if t.1 = 0 then 0 else 2) else t.1
    ({ y with
      topReq := t.1, topSig := t.2, topFar := far, bridged := bridged, carries := selectOf y t far
      sent := srMessage g y.dfn req t.2 bridged
      waitBr := (if !awaits y t far then none
        else if y.waitBr.isSome && y.topSig = t.2 then y.waitBr else some tick)
      changed := decide (want ≠ bridged), deferred := 0 }, want)

/-- Complete the requests of a decide phase. -/
def answerAsks (xs : List (Nat × Nat)) (rec_ : Bool) (s : State) : State :=
  forAll xs (fun e s =>
    if e.2 = stOk ∧ rec_ then completePersisted e.1 true (ans stOk) s else complete e.1 (ans e.2) s) s

/-- Handle waiting requests of a group in order, each compared with the top request of every other input:
the group, and each queue with its status. -/
def takeAsks (tick : Nat) (x : Group) : List (Nat × Nat × Nat × Nat) → Group × List (Nat × Nat)
  | [] => (x, [])
  | (_, q, req, sig) :: as =>
    match takeAsk tick x req sig with
    | some y =>
      let r := takeAsks tick (if y.restored then y else endLower y) as
      (r.1, (q, stOk) :: r.2)
    | none => let r := takeAsks tick x as; (r.1, (q, stRequestOverridden) :: r.2)

/-- What is kept of group g outside its record goes: copies and messages waiting for calendars, and the
signal its page bridges. -/
def forgetGroup (g : Nat) (s : State) : State :=
  { s with
    prot := { s.prot with
      posts := s.prot.posts.filter (·.1 ≠ g), latePosts := s.prot.latePosts.filter (·.2.1 ≠ g)
      cals := s.prot.cals.map fun e => (e.1, { e.2 with urgent := e.2.urgent.filter (·.1 ≠ g) }) }
    abacus := { s.abacus with map := { s.abacus.map with
      bridged := spSet (fun _ => 0) g 0 s.abacus.map.bridged } } }

/-- A bridge change that group g asked for is withdrawn with the group, unless its swap has committed; the page to come
bridges nothing for the group's numbers. -/
def withdrawBridge (g : Nat) (s : State) : State :=
  let mine (w : PageWork) : Bool := match w with
    | .groupBridge h _ => h = g
    | _ => false
  let s := onPage (fun p => { p with
    waiting := p.waiting.filter fun e => !mine e.2
    next := p.next.map fun m => { m with bridged := spSet (fun _ => 0) g 0 m.bridged } }) s
  if s.page.holder.any mine && (s.page.standby = .building || (s.page.standby = .armed && !atCommit s)) then resync s
  else s

/-- A group is deleted in the decide phase of its owner engine (08_protection.md R195). -/
def deleteGroup (e g q : Nat) (x : Group) (s : State) : State :=
  let s := forgetGroup g (withdrawBridge g (writeSel e g ((List.range x.dfn.width).map fun i => (g + i, false)) s))
  completePersisted q true (ans stOk)
    (journal (.group g true none) { s with prot := { s.prot with groups := spDel g s.prot.groups } })

/-- The decision that engine e takes for one group over its inputs and some of its waiting requests (08_protection.md R207 to
R211). -/
def decideOn (e g : Nat) (asks : List (Nat × Nat × Nat × Nat)) (x : Group) (s : State) : State :=
  let r := takeAsks s.tick (settle s.tick { x with asks := [] }) asks
  let lost := (r.2.filter (·.2 ≠ stOk)).length
  let (y, want) := decided s.tick g r.1
  let bs := selBits g y.dfn y.carries y.bridged
  let moved := bs.any fun e => selBit s e.1 ≠ e.2
  let before := decisionKey s g x
  let s := setGroup g y (countN 0x33005C lost s)
  let s := if y.restored then s else onlyIf moved (count 0x330040) (writeSel e g bs s)
  let s := if y.sent = x.sent then s
    else { s with prot := { s.prot with posts := s.prot.posts ++ [(g, y.sent)] } }
  let change := decide (decisionKey s g y ≠ before)
  let s := onlyIf change (journal (decisionRecord s g y)) s
  askBridge g want y (answerAsks r.2 change s)

/-- A leg is joined to group g in a map. -/
def CMap.joined (m : CMap) (g : Nat) : Bool := m.strs.any fun e => e.2.legs.any fun y => y.group = some g

/-- A leg is joined to group g, in the map in force or by a batch (08_protection.md R195). -/
def hasLeg (s : State) (g : Nat) : Bool :=
  s.abacus.map.joined g || ((s.abacus.batches.flatMap (·.cmds)).foldl applyCmd s.abacus.map).joined g

/-- The decide phase of one group on engine e. A GROUP_DELETE is refused while a leg is joined; one that takes effect
leaves the requests behind it no group. -/
def decide_ (e g : Nat) (s : State) : State :=
  match group s g with
  | none => s
  | some x =>
    let isDel (a : Nat × Nat × Nat × Nat) : Bool := a.2.2.1 = 0x10
    let (dels, rest) := x.asks.partition isDel
    match dels with
    | [] => decideOn e g x.asks x s
    | d :: _ =>
      if hasLeg s g then answerAsks (dels.map fun a => (a.2.1, stGroupBusy)) false (decideOn e g rest x s)
      else
        let s := decideOn e g (x.asks.takeWhile fun a => !isDel a) x s
        let after := (x.asks.dropWhile fun a => !isDel a).tail
        answerAsks (after.map fun a => (a.2.1, stGroupUnknown)) false (deleteGroup e g d.2.1 ((group s g).getD x) s)

/-- Engine e itself runs group firmware (08_protection.md Table 8.11). -/
def engineRuns (s : State) (e : Nat) : Bool :=
  decide ((spGet (fun _ => Eng.reset) s.eng.engs e).st = 2)

/-- Whether group a goes before group b (08_protection.md R194): the one that changed earlier, then a FAST
one, then the lower head. -/
def goesFirst (a b : Nat × Group) : Bool :=
  decide (b.2.deferred < a.2.deferred) || (decide (a.2.deferred = b.2.deferred)
    && ((a.2.dfn.fast && !b.2.dfn.fast) || (decide (a.2.dfn.fast = b.2.dfn.fast) && decide (a.1 < b.1))))

/-- Put a group in its turn. -/
def insTurn (a : Nat × Group) : List (Nat × Group) → List (Nat × Group)
  | [] => [a]
  | b :: bs => if goesFirst a b then a :: b :: bs else b :: insTurn a bs

/-- The groups engine e evaluates in a tick, those of the engines it hosts among them, and those it defers
(08_protection.md R194; 11_engines_banks.md R282): at most 32 that changed. -/
def turns (s : State) (e : Nat) : List Nat × List Nat :=
  let cs := s.prot.groups.filter fun x => runs s (ownerOf x.1) = e && (x.2.changed || !x.2.asks.isEmpty)
  let all := (cs.foldl (fun m x => insTurn x m) []).map (·.1)
  (all.take 32, all.drop 32)

/-- The decide phase of the groups that engine e runs. An engine that does not run defers them all, so that what takes
them over begins with them (11_engines_banks.md R276). -/
def decideEngine (e : Nat) (s : State) : State :=
  let (go, wait) := if engineRuns s e then turns s e else ([], (turns s e).1 ++ (turns s e).2)
  let s := countN 0x330054 wait.length
      (forAll wait (fun g s => onGroup g (fun x => { x with deferred := x.deferred + 1 }) s) s)
  forAll go (decide_ e) s

/-- What the port engines post of the tick that has ended: the conditions of every group's paths
(08_protection.md R204, 09_monitoring.md R231). -/
def groupsPost (s : State) : State :=
  { s with prot := { s.prot with groups := s.prot.groups.map fun e => (e.1, condStep s e.2) } }

/-- The channels of every group, and the decide phase of the engines that run group work
(01_architecture.md R26 to R28, 08_protection.md R194, R208). -/
def groupsTick (s : State) : State :=
  if s.prot.groups.isEmpty then s
  else
    let bad := s.prot.groups.filter fun e => laneCause s e.2.dfn && e.2.chCause = 0
    let s := forAll bad (fun e s => chFail e.1 1 s) s
    forAll (((List.range 48).map fun i => runs s (128 + i)).eraseDups) decideEngine s

/-- The group work of engine e in a tick it overran completes in the next (01_architecture.md R30): the
bits and messages it wrote miss the data and the trays of that tick. -/
def overrunGroups (e : Nat) (s : State) : State :=
  let mine (g : Nat) : Bool := runs s (ownerOf g) = e
  let bits := (s.prot.groups.filter fun x => mine x.1).flatMap fun x =>
    (List.range x.2.dfn.width).map fun i => (x.1 + i, spGet (fun _ => false) s.prot.edgeSel (x.1 + i))
  let s := forAll (bits.filter fun b => b.2 ≠ selBit s b.1) (fun b s => pinSel b.1 b.2 s) s
  { s with prot := { s.prot with
    latePosts := s.prot.latePosts ++ (s.prot.posts.filter fun p => mine p.1).map fun p => (s.tick + 2, p)
    posts := s.prot.posts.filter fun p => !mine p.1 } }

end Sys2Proof.Machine
end

