-- ==== Sys2Proof/Machine/Timing.lean ====
section
/-! DEFINITION. The timing subsystem: modes of the DPLL, selection, qualification, holdover, phase
steps and time of day (10_timing.md). -/

namespace Sys2Proof.Machine

/-! ### Frequencies -/

/-- Signed 32-bit saturation (10_timing.md R267). -/
def sat32 (x : Int) : Int := max (-2147483648) (min 2147483647 x)

/-- SOFT_CFG.RATE in units of 0.1 ppb/s. -/
def softRate (s : State) : Nat := max 1 (min 10000 (bitsOf (tcfg s 0x18) 31 16))

/-- The frequency approached in SOFT at the present tick (10_timing.md R260): towards the last word,
by no more than RATE, in units of 0.1 ppb/s. -/
def softFreq (s : State) : Int :=
  let t := s.timing
  let rate : Int := softRate s
  let lim := rate * 65536 * ((s.tick - t.softSince : Nat) : Int) / 10000000
  if t.softFrom ≤ t.softTo then min t.softTo (t.softFrom + lim) else max t.softTo (t.softFrom - lim)

/-- The mean of at most 300 seconds of output frequency (10_timing.md R257). -/
def meanFreq (xs : List (Nat × Int)) : Int :=
  let ys := (xs.take 300).map (·.2)
  if ys.isEmpty then 0 else ys.foldl (· + ·) 0 / ys.length

/-- What the temperature and ageing models give at the present moment, in 2^-16 ppb (10_timing.md R258): a polynomial of
the third order in the oscillator sensor's temperature, and, once there is a fit, a linear and a logarithmic term in the
time since the first learning hour; the factory calibration before that. Coefficients are in units of 2^-32 (log entry
10). -/
def modelNow (s : State) : Int :=
  let t := s.timing
  let coef (i : Nat) : Int := if t.model.isEmpty then Config.oscCal i else Config.modelCoef t.model i
  let base := if t.model.isEmpty then Config.oscCal 3 else t.modelTemp
  let d : Int := (s.sens.oven.toNat : Int) - base
  let secs := ((s.tick : Int) - t.learnFrom).toNat / 1000000
  let ageing : Int := if t.model.isEmpty then 0 else coef 3 * secs + coef 4 * Config.logOf secs
  (coef 0 * d + coef 1 * d ^ 2 + coef 2 * d ^ 3 + ageing) / 2 ^ 32

/-- The held estimate (10_timing.md R257): the mean of the last 300 s of qualifying operation, or what was
taken at entry into HOLDOVER with the change predicted each second since. -/
def heldEstimate (s : State) : Int :=
  if !s.timing.estValid then 0
  else match s.timing.holdAt with
    | some _ => s.timing.held + s.timing.drift
    | none => meanFreq s.timing.freqLog

/-- The estimate at entry into HOLDOVER, without the last 2 s (10_timing.md R257). -/
def estimateAtEntry (s : State) : Int :=
  meanFreq (s.timing.freqLog.filter fun e => decide (e.1 + 2000000 ≤ s.tick))

/-- The frequency of the move to the selected reference's: 10 ppm/s from where it began (10_timing.md R254;
log entry 10). -/
def moveFreq (s : State) (t : Nat) : Int :=
  let aim := s.timing.moveTo
  let lim : Int := 65536 * ((s.tick - t : Nat) : Int) / 100
  if s.timing.moveFrom ≤ aim then min aim (s.timing.moveFrom + lim) else max aim (s.timing.moveFrom - lim)

/-- The move to the selected reference's frequency has ended, so that the pull may begin. -/
def moveDone (s : State) : Bool := s.timing.moveSince.any fun t => decide (moveFreq s t = s.timing.moveTo)

/-- A new frequency of the selected reference retargets a move in progress from the frequency of this moment
(10_timing.md R254). -/
def retarget (n : Nat) (f : Int) (s : State) : State :=
  match s.timing.moveSince with
  | none => s
  | some t =>
    if s.timing.selected ≠ some n then s
    else { s with timing := { s.timing with moveFrom := moveFreq s t, moveTo := f, moveSince := some s.tick } }

/-- SLOPE in ns/s, which is ppb and fs per tick (10_timing.md R254, R269). -/
def slope (s : State) : Int := max 1 (min 1000 (bitsOf (tcfg s 4) 31 16))

/-- The rate of the pull in progress, in ns/s. -/
def pullRate (s : State) : Int := if s.timing.fast then 50000 else slope s

/-- The frequency while a pull lasts (10_timing.md R254): that of the reference, lower by the rate of the pull while the
output moves later, and higher while it moves earlier. -/
def pullFreq (s : State) (n : Nat) : Int :=
  sat32 ((ref s n).freq - (if 0 < s.timing.pull then 1 else -1) * 65536 * pullRate s)
/-- FREQ_NOW (10_timing.md R253, R267). -/
def freqNow (s : State) : Int :=
  match s.timing.mode with
  | 0 => 0
  | 3 => heldEstimate s
  | 4 => softFreq s
  | _ => match s.timing.moveSince, s.timing.selected with
    | some t, _ => moveFreq s t
    | none, some n => if s.timing.pull = 0 then (Config.dpllFreq s.tick).toInt else pullFreq s n
    | none, none => (Config.dpllFreq s.tick).toInt

/-! ### Modes (R246, R253 to R255) -/

/-- SPEC_MET (10_timing.md R256). -/
def specMet (s : State) : Bool := decide (72 ≤ s.timing.learnHours)

/-- Holdover has lasted longer than HOLD_QL_TIME (10_timing.md R246): its time has expired, and the time in force has. -/
def holdOver (s : State) : Bool :=
  s.timing.holdOld && s.timing.holdAt.any fun t => decide (t + 1000000 * bitsOf (tcfg s 0x14) 19 0 ≤ s.tick)

/-- QL_TX by the mode (10_timing.md R246). -/
def qlOf (s : State) : Nat :=
  let c := tcfg s 0x14
  match s.timing.mode with
  | 0 => bitsOf c 27 24
  | 3 => if specMet s && !holdOver s then bitsOf c 31 28 else bitsOf c 27 24
  | 4 => bitsOf c 23 20
  | _ => match s.timing.selected with
    | some n => refQl s n
    | none => bitsOf c 27 24

/-- QL_TX follows the mode and the selection. -/
def refreshQl (s : State) : State := { s with timing := { s.timing with qlTx := qlOf s } }

/-- Change the mode (10_timing.md R253): an event, and a count into HOLDOVER. Leaving FREE, HOLDOVER or
SOFT for ACQUIRE during a phase step drops the rest of it (R261). -/
def setMode (m : Nat) (s : State) : State :=
  let t := s.timing
  if t.mode = m then s
  else
    let drop := decide (m = 1 ∨ m = 2) && decide (t.stepLeft ≠ 0)
    let f := freqNow s
    let s' := { s with timing := { t with
      mode := m
      stepLeft := (if drop then 0 else t.stepLeft)
      pull := (if m = 1 ∨ m = 2 then t.pull else 0)
      moveSince := (if m = 1 then t.moveSince else none)
      held := (if m = 3 then estimateAtEntry s else t.held)
      lockAt := (if m = 1 then t.lockAt else none)
      holdAt := (if m = 3 then some s.tick else none)
      driftFrom := (if m = 3 then modelNow s else t.driftFrom)
      drift := (if m = 3 then 0 else t.drift)
      holdOld := false
      softFrom := (if m = 4 then f else t.softFrom)
      softTo := (if m = 4 then f else t.softTo)
      softSince := (if m = 4 then s.tick else t.softSince)
      softAt := (if m = 4 then s.tick else t.softAt) } }
    let s' := onlyIf drop (raise .stepDropped 0 (BitVec.ofInt 32 t.stepLeft).toNat) s'
    let s' := onlyIf (m = 3) (count 0x30054) s'
    refreshQl (raise .dpllMode m t.mode s')

/-- The DPLL enters HOLDOVER on a valid held estimate, FREE otherwise (10_timing.md R255). -/
def enterHold (s : State) : State := setMode (if s.timing.estValid then 3 else 0) s

/-- Any port of P0-P7 is in SERVICE. -/
def anyService (s : State) : Bool := (List.range 8).any fun p => (port s p).st = 5

/-- Begin a pull to the selected reference (10_timing.md R254), in fs. -/
def startPull (s : State) : State :=
  match s.timing.selected with
  | none => s
  | some n => { s with timing := { s.timing with pull := (ref s n).phase * 1000, moveSince := none } }

/-- ACQUIRE of the selected reference (10_timing.md R253, R254): the output first moves to its frequency,
then the phase is pulled. The first pull out of FREE with FAST_ACQ and no port in SERVICE runs at 50 ps per
tick. -/
def acquire (s : State) : State :=
  let t := s.timing
  let fast := if t.mode = 0 then bitOf (tcfg s 8) 5 && !anyService s else t.fast && t.moveSince.isSome
  let s' := setMode 1 { s with timing := { t with
    lockAt := none, fast := fast, pull := 0, moveFrom := freqNow s, moveSince := some s.tick
    moveTo := (t.selected.map fun n => (ref s n).freq).getD (freqNow s) } }
  refreshQl (onlyIf (moveDone s') startPull s')

/-! ### Phase steps and the tick edge (R254, R261, R263) -/

/-- Move a signed amount towards 0 by at most `k`. -/
def towards0 (x k : Int) : Int := if 0 ≤ x then max 0 (x - k) else min 0 (x + k)

/-- Modes asked for and immediate disqualifications apply at a tick edge (10_timing.md R248, R253). -/
def modeEdge (s : State) : State :=
  let s := match s.timing.modeAsk with
    | some m => setMode m { s with timing := { s.timing with modeAsk := none } }
    | none => s
  if s.timing.urgent ∧ (s.timing.mode = 1 ∨ s.timing.mode = 2) ∧ reqMode s = 0 then
    enterHold (count 0x30050 { s with timing := { s.timing with selected := none } })
  else s

/-- The ramp and the pull advance (10_timing.md R254, R261); a pull begins once the frequency is reached. -/
def pullEdge (s : State) : State :=
  let t := s.timing
  onlyIf (moveDone s) startPull { s with timing := { t with
    stepLeft := towards0 t.stepLeft 50
    stepping := decide (t.stepLeft ≠ 0)
    pull := towards0 t.pull (pullRate s) } }

/-- Every second of HOLDOVER the change that the models predict since its estimate is taken (10_timing.md R257). -/
def driftEdge (s : State) : State :=
  if s.timing.holdAt.any fun t => decide (t < s.tick ∧ (s.tick - t) % 1000000 = 0) then
    { s with timing := { s.timing with drift := modelNow s - s.timing.driftFrom } }
  else s

/-- Operation is gathered for the held estimate, with its frequency once a second, and for learning while
the management complex runs (10_timing.md R256, R257). -/
def gatherEdge (s : State) : State :=
  let t := s.timing
  let good := t.mode = 2 || (t.mode = 4 && bitOf (tcfg s 0x18) 15)
  if !good then s
  else { s with timing := { t with
    gathered := t.gathered + 1
    freqLog := (if (t.gathered + 1) % 1000000 = 0 then ((s.tick, freqNow s) :: t.freqLog).take 302 else t.freqLog)
    learned := (if t.ovenReady && mgmtRuns s then t.learned + 1 else t.learned) } }

/-! ### Time of day (R263 to R265) -/

/-- Time of day in nanoseconds. -/
def todNs (t : Timing) : Int := (t.sec : Int) * 1000000000 + t.ns

/-- Set the time of day from nanoseconds. -/
def setTodNs (x : Int) (s : State) : State :=
  { s with timing := { s.timing with
    sec := (x / 1000000000).toNat % 2 ^ 48, ns := (x % 1000000000).toNat } }

/-- A time-of-day change, by 1 ms or more, is counted and ends the second in progress (09_monitoring.md
R234). -/
def todJump (d : Int) (s : State) : State :=
  if 1000000 ≤ d.natAbs then
    count 0x340020 { s with pm := { s.pm with todChange := s.pm.todChange || s.pm.running } }
  else s

/-- The tick for which a request waits. -/
def TodAsk.at : TodAsk → Nat
  | .set _ t _ _ => t
  | .adj _ t _ => t
  | .twin t _ => t

/-- The value an edge carries once a request applies at it, in ns (10_timing.md R263): the written value,
or the value it would carry plus the adjustment. -/
def TodAsk.value : TodAsk → Int → Int
  | .set _ _ sec ns, _ => (sec : Int) * 1000000000 + ns
  | .adj _ _ d, x => x + d
  | .twin _ x, _ => x

/-- The queue of the command whose completion the request brings. -/
def TodAsk.queue : TodAsk → Option Nat
  | .set q _ _ _ => some q
  | .adj q _ _ => some q
  | .twin _ _ => none

/-- A TOD_SET, which makes time of day valid (10_timing.md R263). -/
def TodAsk.sets : TodAsk → Bool
  | .set _ _ _ _ => true
  | _ => false

/-- The time of day that the edge of tick `t` carries, by the waiting requests (10_timing.md R263). -/
def todAt (t : Nat) (asks : List TodAsk) (prev : Int) : Int :=
  (asks.filter fun a => a.at = t).foldl (fun x a => a.value x) (prev + 1000)

/-- A second boundary at the outputs (10_timing.md R266, R273): FREQ is taken, and PPS_OUT rises while time
of day is valid. -/
def pulseOutputs (s : State) : State :=
  let f (i : Nat) : Nat := let v := bitsOf (tcfg s (0x60 + 4 * i)) 31 29; if v = 7 then 0 else v
  let outs := (List.range 4).foldl (fun m i =>
    spSet (fun _ => ClkOut.reset) i { spGet (fun _ => ClkOut.reset) m i with freq := f i } m) s.timing.outs
  let pps := s.timing.todValid && bitOf (tcfg s 0x70) 31
  { s with timing := { s.timing with
    outs := outs, secAt := s.tick, ppsAt := if pps then some s.tick else s.timing.ppsAt } }

/-- The time of day of a tick edge (10_timing.md R263): 1,000 ns more than the previous edge's, with the
requests of this edge applied in order; a difference of 1 ms or more is one time-of-day change. -/
def todEdge (s : State) : State :=
  let t := s.timing
  let due := t.todAsk.filter fun a => a.at = s.tick
  let x := todAt s.tick t.todAsk (todNs t)
  let s := setTodNs x { s with timing := { t with
    todAsk := t.todAsk.filter fun a => a.at ≠ s.tick
    todDone := t.todDone ++ due.filterMap TodAsk.queue
    todValid := t.todValid || due.any TodAsk.sets } }
  let s := todJump (x - todNs t - 1000) s
  onlyIf (!t.todValid && s.timing.todValid)
    (fun s => { s with pm := { s.pm with lastSec := s.timing.sec, todChange := false } }) s

/-- What a tick edge does to the timing subsystem. -/
def timingEdge (s : State) : State :=
  let s' := todEdge (gatherEdge (driftEdge (pullEdge (modeEdge s))))
  refreshQl (onlyIf (decide (s'.timing.sec ≠ s.timing.sec)) pulseOutputs s')

/-! ### The clock outputs (R266) -/

/-- PPS_OUT is high for WIDTH ticks from a second boundary, while time of day is valid. -/
def ppsHigh (s : State) : Bool :=
  s.timing.todValid && s.timing.ppsAt.any fun t => decide (s.tick < t + max 1 (bitsOf (tcfg s 0x70) 15 0))

/-- TICK_OUT and PEER_TICK_OUT: high for 500 ns, or 250 ns at an edge where GLB.TICK mod 32 = 0. -/
def tickOutHigh (s : State) : Bool := decide (s.cclk < if s.tick % 32 = 0 then 512 else 1024)

/-- The ticks M between aligned edges of a FREQ code, and the periods in them (Table 10.8). -/
def clkRatio (freq : Nat) : Nat × Nat :=
  match freq with
  | 2 => (125, 1)
  | 4 => (1, 10)
  | 5 => (1, 25)
  | 6 => (4, 625)
  | _ => (1, 1)

/-- The 1 Hz wave (Table 10.8), `t` the time since the last second boundary and `left` that to the next, in units of
10 ps: it rises only `delay` after a second boundary, or before it when `delay` is negative, and is high for half a
second. -/
def oneHertz (t left delay : Int) : Bool :=
  decide ((delay ≤ t ∧ (t - delay) * 2 < 100000000000) ∨ left ≤ -delay)

/-- CLKOUTi at the present moment (Table 10.8): 50 % duty, in units of 10 ps from its aligned edge less DELAY;
held low while off or squelched. -/
def clkHigh (s : State) (i : Nat) : Bool :=
  let o := spGet (fun _ => ClkOut.reset) s.timing.outs i
  let delay := (BitVec.ofNat 16 (bitsOf (tcfg s (0x60 + 4 * i)) 15 0)).toInt
  let r := clkRatio o.freq
  let part : Int := (100000 * s.cclk / 2048 : Nat)
  let wave :=
    if o.freq = 1 then oneHertz (100000 * (s.tick - s.timing.secAt : Nat) + part)
      (100000 * ((1000000999 - s.timing.ns) / 1000 : Nat) - part) delay
    else
      let t : Int := 100000 * (s.tick % r.1 : Nat) + part - delay
      decide ((t % (100000 * r.1)) * r.2 * 2 / (100000 * r.1) % 2 = 0)
  decide (o.freq ≠ 0) && !o.squelched && wave

/-- TOD_APPLY (10_timing.md R263): a TOD_SET or TOD_ADJ that its tick edge has applied completes
(log entry 73). -/
def execTodApply (s : State) : Host.Outcome State Fault Refusal :=
  match s.timing.todDone with
  | [] => .next s
  | q :: r => .next (complete q (ans stOk) { s with timing := { s.timing with todDone := r } })

/-- TOD_FRAME_SEND (10_timing.md R265): once every 1,000,000 ticks, while PX is LINKED and SSW_ACT_OUT
asserted, on the lowest bonded lane of PX. -/
def execTodFrameSend (s : State) : Host.Outcome State Fault Refusal :=
  let t := s.timing
  match [256, 257, 258, 259].find? fun l => (lane s l).bond.bonded with
  | none => .next s
  | some l =>
    if (port s 8).st ≠ 7 ∨ !s.ssw.actOut ∨ s.tick < t.todSentAt + 1000000 then .next s
    else
      let pay := beBytes 6 t.sec ++ beBytes 4 t.ns ++ beBytes 8 s.tick ++ [BitVec.ofNat 8 (b2n t.todValid)]
      .next (sendFrame l 0x02 pay { s with timing := { t with todSentAt := s.tick } })

/-- TOD_FRAME_RX (10_timing.md R265): a standby twin locked to REF12 or REF13 pairs the sender's tick
with its own through the tray sequence of the lane, and from its next tick edge (00_scope.md R8) aligned
edges carry equal values. -/
def execTodFrameRx (payload : Bytes) (s : State) : Host.Outcome State Fault Refusal :=
  match pxFrame 0x02 payload s with
  | none => .next s
  | some (l, s) =>
    let sel := s.timing.selected
    match (lane s l).bond.row0 with
    | none => .next s
    | some (seq, m) =>
      if s.ssw.actOut ∨ (sel ≠ some 12 ∧ sel ≠ some 13) ∨ s.timing.mode ≠ 2 then .next s
      else
        -- the local tick edge nearest row 0 is aligned with the sender's edge of that sequence
        let near := (m + 1024) / 2048
        let sent := BitVec.ofNat 32 (beAt payload 10 8)
        let edge : Int := near + (sent - seq).toInt
        let x : Int := (beAt payload 0 6 : Int) * 1000000000 + beAt payload 6 4
          + 1000 * ((s.tick : Int) + 1 - edge)
        .next { s with timing := { s.timing with todAsk := s.timing.todAsk ++ [.twin (s.tick + 1) x] } }

/-! ### Qualification (R248 to R250) -/

/-- REFERENCE_INPUT_EDGE (10_timing.md R244, R248): an edge on REFIN0-REFIN3 or PEER_TICK_IN, `phase`
ps after the nearest local tick edge. -/
def execReferenceInputEdge (n : Nat) (phase : Int) (s : State) : Host.Outcome State Fault Refusal :=
  if !refOn s n ∨ n < 8 ∨ n = 12 then .next s else .next (refEdge n phase s)

/-- The longest gap between edges in ticks (10_timing.md Table 10.3). -/
def refGap (s : State) (n : Nat) : Nat :=
  if n = 13 then 2
  else match refFreqCode s n with
    | 0 => 1000100
    | 1 => 500
    | _ => 1

/-- The activity of a reference fails at the present moment (10_timing.md Table 10.3). -/
def activityFails (s : State) (n : Nat) : Bool :=
  if n < 8 ∨ n = 12 then !refPortOk s n
  else decide ((ref s n).edgeAt + ticks (refGap s n) ≤ now s)

/-- REFERENCE_ACTIVITY_FAIL (10_timing.md R248). -/
def execReferenceActivityFail (n : Nat) (s : State) : Host.Outcome State Fault Refusal :=
  if refOn s n && (ref s n).active && activityFails s n then .next (disqualify n s) else .next s

/-- Limits of QUAL_CFG in 2^-16 ppb (10_timing.md R267): REJECT and ACCEPT in units of 10 ppb. -/
def qualLimits (s : State) : Nat × Nat :=
  let rej := bitsOf (tcfg s 0xC) 31 16
  (rej * 655360, min rej (bitsOf (tcfg s 0xC) 15 0) * 655360)

/-- FREQUENCY_WINDOW_END (10_timing.md R249, R250): the offset of a window of 1 s, or 10 s at 1 Hz,
in 2^-16 ppb. -/
def execFrequencyWindowEnd (n : Nat) (freq : Int) (s : State) : Host.Outcome State Fault Refusal :=
  let r := ref s n
  let len := if 8 ≤ n ∧ n < 12 ∧ refFreqCode s n = 0 then 10000000 else 1000000
  if !refOn s n ∨ !r.active ∨ s.tick < r.winAt + len then .next s
  else
    let f := sat32 freq
    let (rej, acc) := qualLimits s
    let ok := if r.qualified then decide (f.natAbs ≤ rej) else decide (f.natAbs ≤ acc)
    let s := setRef n { r with
      freq := f, freqOk := ok, winAt := s.tick, qualified := (r.qualified && ok) } (retarget n f s)
    let s := checkRef n s
    if ok && !r.qualified && refPasses s n && decide (refWtr s n = 0) then
      .next (setRef n { ref s n with qualified := true, wtrAt := none } s)
    else .next s

/-- REFERENCE_WTR_EXPIRY (10_timing.md R250); with WTR 0 a window's end qualifies. -/
def execReferenceWtrExpiry (n : Nat) (s : State) : Host.Outcome State Fault Refusal :=
  let r := ref s n
  match r.wtrAt with
  | none => .next s
  | some t =>
    if refPasses s n ∧ refWtr s n ≠ 0 ∧ t + 1000000 * refWtr s n ≤ s.tick then
      .next (setRef n { r with qualified := true, wtrAt := none } s)
    else .next s

/-- Peak-to-peak phase error over the samples after the least-squares linear trend is removed, times
the divisor returned with it (10_timing.md R249; log entry 14). -/
def wander (xs : List (Nat × Int)) : Int × Int :=
  let n : Int := xs.length
  let st := xs.foldl (fun (a : Int) x => a + x.1) 0
  let sp := xs.foldl (fun (a : Int) x => a + x.2) 0
  let stt := xs.foldl (fun (a : Int) x => a + (x.1 : Int) * x.1) 0
  let stp := xs.foldl (fun (a : Int) x => a + (x.1 : Int) * x.2) 0
  let d := n * stt - st * st
  let b := n * stp - st * sp
  let c := sp * stt - st * stp
  let rs := xs.map fun x => d * x.2 - b * x.1 - c
  match rs with
  | [] => (0, 1)
  | r :: rs => (rs.foldl max r - rs.foldl min r, d)

/-- The wander check of a reference (10_timing.md R249). -/
def wanderPasses (s : State) (n : Nat) : Bool :=
  let lim : Int := 1000 * max 1 (bitsOf (tcfg s 0x10) 31 16)
  let w := wander (ref s n).samples
  w.2 ≤ 0 || decide (w.1 ≤ lim * w.2)

/-- The wander check of one reference at a selection evaluation; a disabled reference is dropped. One that
is disqualified must pass a new frequency window (10_timing.md R249). -/
def judgeWander (n : Nat) (s : State) : State :=
  if !refOn s n then
    (if (ref s n).qualified ∨ (ref s n).active then setRef n Ref.reset (disqualify n s) else s)
  else
    let ok := wanderPasses s n
    let r := ref s n
    if r.wanderOk = ok then s
    else
      let s := setRef n { r with
        wanderOk := ok, qualified := (r.qualified && ok), freqOk := (r.freqOk && (ok || !r.qualified)) } s
      checkRef n s

/-! ### Selection (R251, R252) -/

/-- DISAGREE and HYST in 2^-16 ppb. -/
def disagreeLim (s : State) : Nat := 65536 * max 1 (bitsOf (tcfg s 8) 23 16)
def hystLim (s : State) : Nat := 65536 * max 1 (bitsOf (tcfg s 8) 15 8)

/-- The frequencies of two references differ by more than DISAGREE. -/
def disagrees (s : State) (a b : Nat) : Bool :=
  decide (disagreeLim s < ((ref s a).freq - (ref s b).freq).natAbs)

/-- Distance of a reference's frequency from the held estimate. -/
def fromHeld (s : State) (a : Nat) : Nat := ((ref s a).freq - heldEstimate s).natAbs

/-- better(a, b) of R251. -/
def better (s : State) (a b : Nat) : Bool :=
  let ra := qlRank (refQl s a)
  let rb := qlRank (refQl s b)
  if ra ≠ rb then decide (ra < rb)
  else if refPrio s a ≠ refPrio s b then decide (refPrio s a < refPrio s b)
  else if disagrees s a b then decide (fromHeld s a < fromHeld s b)
  else if s.timing.selected = some a ∨ s.timing.selected = some b then decide (s.timing.selected = some a)
  else decide (a < b)

/-- The best selectable reference (R251). -/
def bestRef (s : State) : Option Nat :=
  (List.range 14).foldl (fun best n =>
    if selectable s n then
      match best with
      | none => some n
      | some b => if better s n b then some n else best
    else best) none

/-- keep(s, b) of R251. -/
def keepRef (s : State) (a b : Nat) : Bool :=
  let same := decide (qlRank (refQl s b) = qlRank (refQl s a))
  (!bitOf (tcfg s 8) 7 && same)
    || (same && decide (refPrio s b = refPrio s a) && disagrees s a b
        && decide ((fromHeld s a : Int) - fromHeld s b < hystLim s))

/-- The pairs of selectable references of equal quality level and rank that disagree (R252). -/
def disagreements (s : State) : List (Nat × Nat) :=
  (List.range 14).flatMap fun a => ((List.range 14).filter fun b =>
    decide (a < b) && selectable s a && selectable s b && decide (refQl s a = refQl s b)
      && decide (refPrio s a = refPrio s b) && disagrees s a b).map fun b => (a, b)

/-- Report disagreements that begin and end (R252). -/
def reportDisagreements (s : State) : State :=
  let old := s.timing.disagree
  let new := disagreements s
  let s := { s with timing := { s.timing with disagree := new } }
  let s := forAll (new.filter fun p => !old.contains p)
    (fun p s => raise .refDisagree p.1 p.2 (count 0x30058 s)) s
  forAll (old.filter fun p => !new.contains p) (fun p s => raiseX .refDisagree true p.1 p.2 s) s

/-- Whether output i is squelched at the present QL_TX (10_timing.md R266). -/
def squelched (s : State) (i : Nat) : Bool :=
  let q := bitsOf (tcfg s (0x60 + 4 * i)) 28 25
  decide (q ≠ 0)
    && (s.timing.qlTx = 0xF || decide (qlRank q < qlRank (qlCode s.timing.qlTx)))

/-- The outputs' squelch is decided (10_timing.md R266). -/
def squelchOutputs (s : State) : State :=
  let put (m : List (Nat × ClkOut)) (i : Nat) : List (Nat × ClkOut) :=
    let o := spGet (fun _ => ClkOut.reset) m i
    spSet (fun _ => ClkOut.reset) i { o with squelched := squelched s i } m
  { s with timing := { s.timing with outs := (List.range 4).foldl put s.timing.outs } }

/-- Steer by the result of the selection, in AUTO (R251, R253, R255). -/
def steer (s : State) : State :=
  let sel := s.timing.selected
  let pick (n : Nat) (s : State) : State :=
    let s := if s.timing.selected = some n then s else count 0x30050 { s with timing := { s.timing with selected := some n } }
    if reqMode s = 0 ∧ !s.timing.softOut then acquire s else refreshQl s
  let drop (s : State) : State :=
    let s := if sel.isSome then count 0x30050 { s with timing := { s.timing with selected := none } } else s
    if reqMode s = 0 ∧ !s.timing.softOut ∧ (s.timing.mode = 1 ∨ s.timing.mode = 2) then enterHold s else refreshQl s
  match bestRef s, sel with
  | none, _ => drop s
  | some b, none => pick b s
  | some b, some a =>
    if b = a ∨ (selectable s a && keepRef s a b) then
      (if reqMode s = 0 ∧ !s.timing.softOut ∧ s.timing.mode ≠ 1 ∧ s.timing.mode ≠ 2 then acquire s else refreshQl s)
    else pick b s

/-- The phase error of reference n under a new REF_OFS (10_timing.md R244), which was `old`. -/
def rephase (old : Nat → Int) (n : Nat) (s : State) : State :=
  if refOfs s n = old n then s
  else
    let r := ref s n
    setRef n { r with phase := wrapPhase (refPeriod s n) (r.phase - old n + refOfs s n) } s

/-- The configuration is taken at an evaluation (R262), and a new REQ_MODE acts (R253): SOFT at once, FREE and
HOLDOVER at the next tick edge, AUTO once the references have been judged. A new REF_OFS of the selected reference
retargets the pull (R254). -/
def takeConfig (s : State) : State :=
  let old := reqMode s
  let ofs := refOfs s
  let f := softFreq s
  let rate := softRate s
  let s := forAll (List.range 14) (rephase ofs) { s with timing := { s.timing with
    inForce := s.regs.filter fun e => decide (0x30000 ≤ e.1) && decide (e.1 < 0x40000) } }
  let s := if s.timing.mode = 4 ∧ softRate s ≠ rate then { s with timing := { s.timing with
      softFrom := f, softSince := s.tick } } else s
  let moved := s.timing.selected.any fun n => decide (refOfs s n ≠ ofs n)
  let pulls := s.timing.moveSince.isNone && (s.timing.mode = 1 || s.timing.mode = 2)
  let s := if moved && pulls then startPull { s with timing := { s.timing with fast := false } } else s
  let new := reqMode s
  if !s.timing.reqNew && decide (new = old) then s
  else
    let s := { s with timing := { s.timing with reqNew := false, softOut := false } }
    match new with
    | 1 => { s with timing := { s.timing with modeAsk := some 0 } }
    | 2 => { s with timing := { s.timing with modeAsk := some 3 } }
    | 3 => setMode 4 s
    | _ => s

/-- A change of REQ_MODE to AUTO, `turned`, with no reference selectable: the DPLL holds, or runs free (R253). -/
def turnAuto (turned : Bool) (s : State) : State :=
  if turned && (bestRef s).isNone then enterHold s else s

/-- SELECTION_EVALUATION (10_timing.md R249, R251 to R255, R262, R266): every 1 ms, or after a
disqualification of the selected reference, while the management complex runs. -/
def execSelectionEvaluation (s : State) : Host.Outcome State Fault Refusal :=
  let t := s.timing
  if s.mgmt.up = 0 ∨ s.mgmt.restartAt.isSome ∨ (s.tick < t.evalAt + 1000 ∧ !t.urgent) then .next s
  else
    let old := reqMode s
    let s := takeConfig { s with timing := { t with evalAt := s.tick } }
    let s := turnAuto (decide (old ≠ 0 ∧ reqMode s = 0)) (forAll (List.range 14) judgeWander s)
    let s := { s with timing := { s.timing with urgent := false } }
    .next (squelchOutputs (reportDisagreements (steer s)))

/-! ### Expiries -/

/-- DPLL_LOCKED (10_timing.md R253): the phase error has been within LOCK_PHASE for 1 s. -/
def execDpllLocked (s : State) : Host.Outcome State Fault Refusal :=
  match s.timing.lockAt with
  | none => .next s
  | some t => if s.timing.mode = 1 ∧ t + 1000000 ≤ s.tick then .next (setMode 2 s) else .next s

/-- SOFT_WATCHDOG_EXPIRY (10_timing.md R260). -/
def execSoftWatchdogExpiry (s : State) : Host.Outcome State Fault Refusal :=
  let w := bitsOf (tcfg s 0x18) 14 0
  if s.timing.mode = 4 ∧ w ≠ 0 ∧ s.timing.softAt + ms w ≤ s.tick then
    let s := setMode 3 s
    .next (raise .softWatchdog 0 0 (count 0x3005C
      { s with timing := { s.timing with softOut := true } }))
  else .next s

/-- LEARN_HOUR (10_timing.md R256, R258): an hour of learning ends; the fitted model is the firmware's. -/
def execLearnHour (model : Bytes) (s : State) : Host.Outcome State Fault Refusal :=
  let t := s.timing
  if 3600000000 ≤ t.learned then
    let h := min 0xFFFF (t.learnHours + 1)
    .next (refreshQl (journal (.holdover model h)
      { s with timing := { t with
          learned := t.learned - 3600000000, learnHours := h, model := model, modelTemp := s.sens.oven.toNat
          learnFrom := (if t.learnHours = 0 then s.tick else t.learnFrom) } }))
  else .next s

/-- ESTIMATE_VALID (10_timing.md R257). -/
def execEstimateValid (s : State) : Host.Outcome State Fault Refusal :=
  if 300000000 ≤ s.timing.gathered then .next { s with timing := { s.timing with estValid := true } }
  else .next s

/-- HOLD_QL_TIME_EXPIRY (10_timing.md R246). -/
def execHoldQlTimeExpiry (s : State) : Host.Outcome State Fault Refusal :=
  match s.timing.holdAt with
  | none => .next s
  | some t =>
    if s.timing.mode = 3 ∧ t + 1000000 * bitsOf (tcfg s 0x14) 19 0 ≤ s.tick then
      .next (refreshQl { s with timing := { s.timing with holdOld := true } })
    else .next s

/-- OVEN_READY (10_timing.md R259): the oscillator reaches its oven temperature while PD1 is powered. -/
def execOvenReady (s : State) : Host.Outcome State Fault Refusal :=
  if s.pwr.on.getLsbD 1 then .next { s with timing := { s.timing with ovenReady := true } } else .next s

/-- TOD_SEC_READ (10_timing.md R264): a read at 0x0030 latches the value of the most recent edge; the
low word is returned and the high-word latch loaded (00_scope.md R13). -/
def execTodSecRead (s : State) : Host.Outcome State Fault Refusal :=
  if !linkUp s then .next s
  else
    let t := s.timing
    .next { s with
      timing := { t with latSec := t.sec, latNs := t.ns, latTick := s.tick }
      latch := spSet (fun _ => none) 0x30030 (some (BitVec.ofNat 32 (t.sec / 2 ^ 32))) s.latch
      hif := { s.hif with readData := BitVec.ofNat 64 (t.sec % 2 ^ 32) } }

end Sys2Proof.Machine
end

