-- ==== Sys2Proof/Machine/TimingCmd.lean ====
section
/-! DEFINITION. The timing commands of the host (10_timing.md R260 to R263, Table 10.6). -/

namespace Sys2Proof.Machine

/-- The journalled registers (16_journal_seesaw.md R409). -/
def journalled (o : Nat) : Bool :=
  match portAt o, laneAt o with
  | some (_, x), _ => x = 0 || x = 8
  | _, some (_, x) => x = 0 || x = 8
  | none, none =>
    (0x30000 ≤ o && o < 0x40000 && timingMask (o - 0x30000) ≠ 0)
    || (0x510000 ≤ o && o < 0x520000 && mtestMask (o - 0x510000) ≠ 0)
    || (0x330010 ≤ o && o < 0x330030) || (0x50040 ≤ o && o < 0x50080) || (0x50100 ≤ o && o < 0x50180)
    || [0x80004, 0x40004, 0x20004, 0x70004, 0x310004, 0x320004, 0x340004, 0x340008, 0x34000C, 0x340010].contains o

/-- The last register snapshot among some records. -/
def lastSnap (rs : List JRec) : List (Nat × Word) :=
  rs.foldl (fun (a : List (Nat × Word)) r => match r.pay with
    | .regs vals => vals
    | _ => a) []

/-- STANDBY_ONLY of a port as the journal holds it (16_journal_seesaw.md R426). -/
def keptStandbyOnly (s : State) (p : Nat) : Nat :=
  bitsOf (spGet resetOf (lastSnap (s.jnl.ckpt ++ s.jnl.log ++ s.jnl.waiting)) (portBase p)).toNat 1 1

/-- PORT[p].CFG with STANDBY_ONLY as the journal holds it. -/
def putKept (s : State) (p : Nat) (m : List (Nat × Word)) : List (Nat × Word) :=
  let v := putBits (spGet resetOf m (portBase p)) 1 1 (keptStandbyOnly s p)
  spSet resetOf (portBase p) v m

/-- A register snapshot: the journalled registers that differ from their reset values
(16_journal_seesaw.md R409). STANDBY_ONLY that the firmware holds at 1 is recorded as the journal had it
(R426; log entry 18). -/
def regSnapshot (s : State) : JPay :=
  let m := s.regs.filter fun e => journalled e.1
  .regs (if s.ssw.holdPorts then (List.range 8).foldl (fun m p => putKept s p m) m else m)

/-- Write a snapshot record and complete the command when it is persisted. -/
def completeRegs (q : Nat) (s : State) : State :=
  completePersisted q false (ans stOk) (journal (regSnapshot s) s)

/-- Write the bits of MASK of an LK register of a block (bytes 16-27 of a descriptor); INVALID_ARG for
any other offset. -/
def configCmd (q base : Nat) (mask : Nat → Nat) (after : Nat → Nat → State → State) (d : Bytes) (s : State) :
    State :=
  let o := leAt d 16 2
  if mask o = 0 then complete q (badArg 16) s
  else
    let v := BitVec.ofNat 32 (leAt d 20 4)
    let m := (BitVec.ofNat 32 (leAt d 24 4) &&& BitVec.ofNat 32 (mask o)).toNat
    completeRegs q (after o m (putReg (base + o) v m s))

/-- A write of the bits of `m` at an offset of TIMING: a new REQ_MODE acts at the next selection evaluation
(10_timing.md R253, R260). -/
def modeWritten (o m : Nat) (s : State) : State :=
  if o = 8 ∧ m % 4 ≠ 0 then { s with timing := { s.timing with reqNew := true } } else s

/-- TIMING_CONFIG. -/
def execTimingConfig (q : Nat) (s : State) : Host.Outcome State Fault Refusal :=
  runCmd 0x30 q (fun d s => configCmd q 0x30000 timingMask modeWritten d.desc s) s

/-- TIMING_FREQ: in SOFT, the new word is approached from the frequency of this moment
(10_timing.md R260). -/
def execTimingFreq (q : Nat) (s : State) : Host.Outcome State Fault Refusal :=
  runCmd 0x31 q (fun d s =>
    if s.timing.mode ≠ 4 then complete q (ans stWrongMode) s
    else
      let f := softFreq s
      complete q (ans stOk) { s with timing := { s.timing with
        softFrom := f, softTo := (BitVec.ofNat 32 (leAt d.desc 16 4)).toInt,
        softSince := s.tick, softAt := s.tick } }) s

/-- TIMING_PHASE_STEP (10_timing.md R261): in FREE, HOLDOVER or SOFT, and without FORCE only while no
port of P0-P7 is in SERVICE; a further step adds to what remains, within ±500,000 ps. -/
def execTimingPhaseStep (q : Nat) (s : State) : Host.Outcome State Fault Refusal :=
  runCmd 0x32 q (fun d s =>
    let a : Int := (BitVec.ofNat 32 (leAt d.desc 16 4)).toInt
    let b := (d.desc.getD 20 0).toNat
    let t := s.timing
    if t.mode = 1 ∨ t.mode = 2 then complete q (ans stWrongMode) s
    else if anyService s ∧ b = 0 then complete q (ans stPortInService) s
    else if 500000 < (t.stepLeft + a).natAbs ∨ 500000 < a.natAbs then complete q (badArg 16) s
    else complete q (ans stOk) { s with timing := { t with
      stepLeft := t.stepLeft + a
      stepForced := (if t.stepLeft = 0 then decide (b = 1) else t.stepForced && decide (b = 1)) } }) s

/-- The first tick edge at least two ticks after the present moment (10_timing.md Table 10.6). -/
def edgeAfter2 (s : State) : Nat := tickAfter2 (now s)

/-- TOD_SET: waits for its edge, where TOD_APPLY applies it. -/
def execTodSet (q : Nat) (s : State) : Host.Outcome State Fault Refusal :=
  runCmd 0x33 q (fun d s =>
    let t := leAt d.desc 28 8
    let edge := if t = 0 then edgeAfter2 s else t
    if 1000000000 ≤ leAt d.desc 24 4 then complete q (badArg 24) s
    else if t ≠ 0 ∧ t ≤ s.tick then complete q (badArg 28) s
    else { s with timing := { s.timing with
      todAsk := s.timing.todAsk ++ [.set q edge (leAt d.desc 16 6) (leAt d.desc 24 4)] } }) s

/-- The time of day that the edge of tick s.tick + n will carry, by the requests that wait. -/
def todAhead (s : State) : Nat → Int
  | 0 => todNs s.timing
  | n + 1 => todAt (s.tick + n + 1) s.timing.todAsk (todAhead s n)

/-- TOD_ADJ: applies at the first edge at least two ticks later, unless the result would be negative. -/
def execTodAdj (q : Nat) (s : State) : Host.Outcome State Fault Refusal :=
  runCmd 0x34 q (fun d s =>
    let a : Int := (BitVec.ofNat 64 (leAt d.desc 16 8)).toInt
    let edge := edgeAfter2 s
    if todAhead s (edge - s.tick) + a < 0 then complete q (badArg 16) s
    else { s with timing := { s.timing with todAsk := s.timing.todAsk ++ [.adj q edge a] } }) s

end Sys2Proof.Machine
end

