-- ==== Sys2Proof/Machine/Mtest.lean ====
section
/-! DEFINITION. The march test, repairs, and what happens when a memory runs out of spares
(11_engines_banks.md R291 to R297; 07_strings_abacus.md R187 to R189; 06_pages.md R154). -/

namespace Sys2Proof.Machine

/-! ### Repairs and failures (R296, R297) -/

/-- TYPE and INDEX of a macro's identifier. -/
def macroType (m : Nat) : Nat := m / 4096
def macroIndex (m : Nat) : Nat := m % 256

/-- Repairs of a macro. -/
def memBlock (s : State) (m : Nat) : MemBlock := spGet (fun _ => MemBlock.reset) s.mtest.blocks m

/-- Change the march-test engine. -/
def onMtest (f : Mtest → Mtest) (s : State) : State := { s with mtest := f s.mtest }

/-- Set the repairs of a macro. -/
def setMemBlock (m : Nat) (x : MemBlock) (s : State) : State :=
  onMtest (fun t => { t with blocks := spSet (fun _ => MemBlock.reset) m x t.blocks }) s

/-- A soft repair is applied: counted, shown in REPAIR_LAST and journalled; when the journal cannot
record it, an event says so (R296). -/
def softRepair (m kind spare index : Nat) (s : State) : State :=
  let s := count 0x510028 (onMtest (fun t => { t with
    last := BitVec.ofNat 32 (m * 65536 + kind * 32768 + spare * 4096 + index % 4096) }) s)
  if jnlWrites s then journal (.repair m kind spare index) s else raise .repairUnkept m index s

/-- A bank is FAILED (Table 11.10): a handover that waits is refused. -/
def failBank (b : Nat) (s : State) : State :=
  let s := endRelease b stRefused s
  raise .bankFailed b 0 (setBank b { bank s b with failed := true, test := 0, handover := none } s)

/-- A step fails: retired at once when it is lent or carries nothing, and at start-up, before the core runs (R293);
else the abacus vacates it first (R297, 05_core.md R130). -/
def failStep (k : Nat) (s : State) : State :=
  if s.core.retired.contains k || s.core.retiring.contains k then s
  else if s.abacus.lent.contains k || !s.abacus.map.names k || !s.core.running then retireStep k s
  else request (.vacate k) { s with core := { s.core with retiring := insNat k s.core.retiring } }

/-- A slot is flagged unreliable: kind 0 input, 1 output (R297, Table 11.16). -/
def flagSlot (kind gs : Nat) (s : State) : State :=
  let last := BitVec.ofNat 32 (2 ^ 31 + kind * 2 ^ 30 + gs)
  if kind = 0 then { s with core := { s.core with unreliable := insNat gs s.core.unreliable }
                            mtest := { s.mtest with flagLast := last } }
  else onMtest (fun t => { t with outFlags := insNat gs t.outFlags, flagLast := last }) s

/-- A lane is FAILED on the ingress side, the egress side or both. -/
def failLane (l : Nat) (inSide outSide : Bool) (s : State) : State :=
  raise .laneFailed l 0 (onMtest (fun t => { t with
    inFailed := (if inSide then insNat l t.inFailed else t.inFailed)
    outFailed := (if outSide then insNat l t.outFailed else t.outFailed) }) s)

/-- An engine is FAILED (R282). -/
def failEngine (e : Nat) (s : State) : State := setEng e { eng s e with st := 4 } s

/-- A row fault with no spare row left (Table 11.10). A row of a tray buffer or a connection memory holds
one slot or step. -/
def rowBeyond (m row : Nat) (s : State) : State :=
  let i := macroIndex m
  match macroType m with
  | 0 => failBank i s
  | 1 => flagSlot 0 (i * 1024 + row % 1024) s
  | 2 | 3 | 4 => failStep (row % 2048) s
  | 5 => flagSlot 1 (i * 1024 + row % 1024) s
  | 6 | 7 => failEngine i s
  | _ => s

/-- A second column fault beyond the spares (Table 11.10). -/
def colBeyond (m : Nat) (s : State) : State :=
  let i := macroIndex m
  match macroType m with
  | 0 => failBank i s
  | 1 => failLane i true false s
  | 2 | 5 => failLane i false true s
  | 3 | 4 => failLane i true true s
  | 6 | 7 => failEngine i s
  | _ => s

/-- A faulty column: a spare column, or the column is lost beyond spares; the second such is a
failure. -/
def colFault (m col : Nat) (x : MemBlock) (s : State) : State :=
  let cells := x.cells.filter fun c => c.2 ≠ col
  if x.cols < 2 then softRepair m 1 x.cols col (setMemBlock m { x with cols := x.cols + 1, cells := cells } s)
  else if x.lost.contains col then s
  else
    let s1 := setMemBlock m { x with cells := cells, lost := insNat col x.lost } s
    if x.lost.isEmpty then raise .columnLost m col s1 else colBeyond m s1

/-- A fault found by a march test: counted, then repaired with a spare column when the column fails in
more than one row, with a spare row otherwise, or handled as Table 11.10 gives. -/
def faultFound (f : MemFault) (s : State) : State :=
  let s := onMtest (fun t => { t with found := t.found + 1 }) (count 0x510024 s)
  let x := memBlock s f.macr
  let cells := x.cells.filter (fun c => c ≠ (f.row, f.col)) ++ [(f.row, f.col)]
  if x.lost.contains f.col then s
  else if cells.any fun c => c.2 = f.col && c.1 ≠ f.row then colFault f.macr f.col { x with cells := cells } s
  else if x.rows < 8 then
    softRepair f.macr 0 x.rows f.row (setMemBlock f.macr { x with cells := cells, rows := x.rows + 1 } s)
  else rowBeyond f.macr f.row (setMemBlock f.macr { x with cells := cells } s)

/-! ### Taking up a target -/

/-- MTEST.CFG bit i. -/
def testOn (s : State) (i : Nat) : Bool := flg s 0x510004 i

/-- RET_PAUSE in microseconds. -/
def retPause (s : State) : Nat := fld s 0x510008 19 0

/-- A field of the SCHED in force (R303); 0 acts as 1. -/
def sched (s : State) (hi lo : Nat) : Nat := max 1 (bitsOf s.mtest.sched.toNat hi lo)

/-- The words of a pass of the start-up test (R292): the buffers and memories in parallel, then 16 banks at a time. -/
def passWords (p : Nat) : Nat := if p = 0 then 24576 else 32768

/-- The words of the range under test (R292, R294, R295; log entry 74). -/
def testWords (t : Mtest) : Nat :=
  match t.target with
  | 4 => passWords t.pass
  | 1 => if t.mode = 1 then 64 else 32768
  | 2 => 12
  | 3 => 2048
  | 5 => 8192
  | 6 => 24576
  | _ => 0

/-- ECLK to read a row into the segment buffer, or to write it back (R294). -/
def testBuffer (t : Mtest) : Nat := if t.target = 1 ∧ t.mode = 1 then 64 else 0

/-- The run from M4 of a pass of the start-up test goes on into M0 of the next pass. -/
def morePasses (t : Mtest) : Bool := t.target = 4 && decide (t.pass < 8)

/-- CCLK of the present run (R291, R292, R294): all ten operations of each word, of all nine passes at start-up, or those
up to the next pause or after the last. -/
def runLength (t : Mtest) : Nat :=
  let w := testWords t
  let b := testBuffer t
  if t.pause = 0 then (if t.target = 4 then 20 * (24576 + 8 * 32768) else 2 * (2 * b + 10 * w))
  else if t.element = 0 then 2 * (b + w)
  else if t.element = 1 then 12 * w
  else 2 * (3 * w + b + (if morePasses t then passWords (t.pass + 1) else 0))

/-- A run begins with element `e` at a moment; with a retention pause, runs from M0 and M1 end in one
(R291). -/
def beginRun (e at_ : Nat) (t : Mtest) : Mtest :=
  let u := { t with element := e, runAt := at_, pausedAt := none }
  if t.pause = 0 ∨ (e = 4 ∧ !morePasses t) then u else { u with pausedAt := some (at_ + runLength u) }

/-- The last run of the target or segment is over. -/
def runOver (s : State) : Bool := s.mtest.pausedAt.isNone && decide (s.mtest.runAt + runLength s.mtest ≤ now s)

/-- A retention pause is in progress (PAUSED). -/
def testPaused (s : State) : Bool := s.mtest.pausedAt.any fun x => decide (x ≤ now s)

/-- The march element in progress (ELEMENT), by the operations done (Table 11.6). -/
def elementNow (s : State) : Nat :=
  let t := s.mtest
  if t.target = 0 then 0
  else if testPaused s then (if t.element = 1 then 3 else 0)
  else
    let e := (now s - t.runAt) / 2
    -- without pauses the passes of the start-up test follow each other
    let w := if t.target = 4 ∧ t.pause = 0 then (if e < 245760 then 24576 else 32768) else testWords t
    let d := if t.target ≠ 4 ∨ t.pause ≠ 0 ∨ e < 245760 then e else (e - 245760) % 327680
    let n := if t.element = 0 then d - testBuffer t else if t.element = 1 then w + d else 7 * w + d
    if n < w then 0 else if n < 3 * w then 1 else if n < 5 * w then 2 else if n < 7 * w then 3
    else if n < 9 * w then 4 else if n < 10 * w ∨ !morePasses t ∨ t.pause = 0 then 5 else 0

/-- Take up a target: the configuration of this moment applies to it (R303). -/
def takeTarget (target mode index segment : Nat) (s : State) : State :=
  let p := retPause s
  onMtest (fun t => beginRun 0 (now s) { t with
    target := target, mode := mode, index := index, segment := segment, pause := p, pass := 0, found := 0, single := false
    sched := cfg s 0x51000C, trig := fld s 0x510010 7 0 }) s

/-- The march-test engine takes a new target. -/
def mtIdle (s : State) : Bool := s.mtest.target = 0

/-- RETENTION_PAUSE_END (R291): the first pause of a target or segment lies after M0, the second after
M3; at start-up each pass has both. -/
def execRetentionPauseEnd (s : State) : Host.Outcome State Fault Refusal :=
  let t := s.mtest
  match t.pausedAt with
  | none => .next s
  | some x =>
    if now s < x + ticks t.pause then .next s
    else .next (onMtest (fun m => beginRun (if m.element = 1 then 4 else 1) (now s)
      { m with pass := if m.element = 4 then m.pass + 1 else m.pass }) s)

/-! ### Banks (R292, R294) -/

/-- A bank may be borrowed for a preserving test (R294, Table 11.7). -/
def lendable (s : State) (b : Nat) : Bool :=
  let x := bank s b
  x.lendOk && x.owner ≠ 4 && x.test = 0 && !x.failed && x.handover.isNone && x.zeroing.isNone && testOn s 1

/-- The round tests bank b without losing its contents: NONE owns the pool, which is tested destructively
(Table 11.7). -/
def roundPreserves (s : State) (b : Nat) : Bool := lendable s b && (bank s b).owner ≠ 0

/-- A bank of the pool is tested destructively in the round; one with rows kept for their test (R295) even when it has
had its turn. -/
def poolTest (s : State) (b : Nat) : Bool :=
  inPool s b && testOn s 0 && (!(bank s b).done || s.mtest.marks.any (·.1 = b))

/-- The banks that the round still has to test, in ascending order (R292, R294). -/
def roundLeft (s : State) : List Nat :=
  (List.range 128).filter fun b => (!(bank s b).done && roundPreserves s b) || poolTest s b

/-- A targeted test of a row waits and may be made: it goes ahead of the round (R295). -/
def rowWaits (s : State) : Bool :=
  s.mtest.rows.any fun e => lendable s e.1 && decide ((bank s e.1).resumeAt ≤ s.tick)

/-- The round takes bank b next. -/
def roundTakes (s : State) (b : Nat) : Bool :=
  (roundLeft s).head? = some b && decide ((bank s b).resumeAt ≤ s.tick ∧ s.mtest.bankAt ≤ s.tick) && !rowWaits s

/-- Why bank b is borrowed now: a targeted test of a row, a command, or the round (R294, R295). -/
inductive Borrow where
  | row (r : Nat)
  | ask (a : Ask)
  | round

/-- The borrow that may take place: MGMT hands the bank over once it is quiescent (R287), and no sooner than RESUME after
a recall (R294). -/
def borrowOf (s : State) (b : Nat) : Option Borrow :=
  if !lendable s b || !mtIdle s || !quiet s b || decide (s.tick < (bank s b).resumeAt) then none
  else match s.mtest.rows.find? (·.1 = b) with
    | some (_, r) => some (.row r)
    | none => match s.mtest.asks.find? fun a => a.bank = b && !a.destructive with
      | some a => some (.ask a)
      | none => if roundPreserves s b && roundTakes s b then some .round else none

/-- Lend bank b to the march test. -/
def lendBank (b segment : Nat) (s : State) : State :=
  let x := bank s b
  handOver b 4 (setBank b { x with lender := x.owner, test := 1 } (takeTarget 1 1 b segment s))

/-- BANK_BORROW. -/
def execBankBorrow (b : Nat) (s : State) : Host.Outcome State Fault Refusal :=
  match borrowOf s b with
  | none => .next s
  | some (.row r) =>
    .next (onMtest (fun t => { t with single := true, rows := t.rows.erase (b, r) }) (lendBank b r s))
  | some (.ask a) =>
    .next (onMtest (fun t => { t with q := some a.q, found := a.found, asks := t.asks.erase a }) (lendBank b a.segment s))
  | some .round => .next (lendBank b (bank s b).segment s)

/-- The faults of a list that lie in the memories a target covers, found in order. -/
def takeFaults (inTarget : Nat → Bool) (fs : List MemFault) (s : State) : State :=
  forAll (fs.filter fun f => inTarget f.macr) faultFound s

/-- The rows kept for a test, of the macros that one has covered, are forgotten (R295). -/
def testedRows (covers : Nat × Nat → Bool) (s : State) : State :=
  onMtest (fun t => { t with marks := t.marks.filter fun e => !covers e }) s

/-- The engine is idle again, and a test has been completed. -/
def targetDone (s : State) : State :=
  count 0x510020 (onMtest (fun t => { t with target := 0, mode := 0, pausedAt := none, q := none }) s)

/-- The bank under test goes back to its owner, unless it has FAILED: no handover of it is possible (R297). -/
def returnBank (b : Nat) (s : State) : State :=
  let x := bank s b
  let s := setBank b { x with lender := 0, test := 0, done := x.done || !s.mtest.single } s
  let s := if x.failed then s else handOver b x.lender s
  -- the round is over when every bank has had its turn
  let s := if (roundLeft s).isEmpty then { s with bank := { s.bank with
      own := spMap (fun _ => Bank.reset) (fun _ y => { y with done := false }) s.bank.own } } else s
  onMtest (fun t => { t with bankAt := s.tick + sched s 15 8 * 1000 }) s

/-- A bank's test ends: it is returned, and a command that asked for it completes with the faulty
words. -/
def bankDone (b : Nat) (s : State) : State :=
  let q := s.mtest.q
  let n := s.mtest.found
  completeOpt q ⟨stOk, n, 0, 0, 0⟩ (targetDone (returnBank b s))

/-- Reads and writes among the first `n` operations of the march over `w` words (Table 11.6). -/
def marchOps (w n : Nat) : Nat × Nat :=
  let r := if n ≤ w then 0 else if n ≤ 9 * w then (n - w + 1) / 2 else 4 * w + (n - 9 * w)
  (r, n - r)

/-- Reads and writes made of the segment under test up to the present moment, its write-back included: none while the
buffer is still being filled (R294). -/
def segmentOps (s : State) : Nat × Nat :=
  let t := s.mtest
  let d := (min (now s) (t.pausedAt.getD (now s)) - t.runAt) / 2
  let b := if t.element = 0 then min 64 d else 64
  let n := min 640 (if t.element = 0 then d - 64 else if t.element = 1 then 64 + d else 448 + d)
  let x := marchOps 64 n
  (b + x.1, x.2 + if b = 64 then 64 else 0)

/-- SEGMENT_DONE: a row is tested and written back, and the next one begins; a bank that FAILED is tested no
further. -/
def execSegmentDone (b : Nat) (faults : List MemFault) (s : State) : Host.Outcome State Fault Refusal :=
  let t := s.mtest
  if t.target ≠ 1 ∨ t.mode ≠ 1 ∨ t.index ≠ b ∨ (bank s b).test ≠ 1 ∨ 512 ≤ t.segment ∨ !runOver s then .next s
  else
    let s := takeFaults (· = b) (faults.filter fun f => f.row = t.segment) (bankRun b 4 t.segment 1 384 384 s)
    if (bank s b).failed then .next (bankDone b s) else
    let next := if t.single then 512 else t.segment + 1
    let x := bank s b
    let s := setBank b { x with recalls := 0, segment := (if t.single then x.segment else next % 512) } s
    .next (onMtest (fun t =>
      let u := { t with segment := next }
      if 512 ≤ next then { u with element := 0 } else beginRun 0 (now s) u) s)

/-- RECALL_DONE: the segment is written back, the bank is the lender's again and the stalled accesses
complete with it. After eight recalls in a row it is passed over until the next round. What was asked for is asked for
again; a command's test goes on at the recalled segment. -/
def execRecallDone (b : Nat) (s : State) : Host.Outcome State Fault Refusal :=
  let x := bank s b
  if x.test ≠ 3 then .next s
  else
    let over_ := decide (8 ≤ x.recalls)
    let t := s.mtest
    let s := forAll (s.bank.stalled.filter fun e => e.1.bank = b) stallOver
      (bankRun b 4 (t.segment % 512) 1 (segmentOps s).1 (segmentOps s).2 s)
    let s := handOver b x.lender (setBank b { x with
      lender := 0, test := 0, done := x.done || over_, recalls := (if over_ then 0 else x.recalls)
      segment := (if t.single then x.segment else t.segment % 512)
      resumeAt := s.tick + sched s 31 16 } s)
    let s := setBank b { bank s b with ownFrom := now s / 2 } s
    let s := onMtest (fun m => { m with
      target := 0, mode := 0, pausedAt := none, q := none
      rows := (if t.single then (b, t.segment) :: m.rows else m.rows)
      asks := (match t.q with | some q => ⟨q, b, false, t.segment % 512, t.found⟩ :: m.asks | none => m.asks) }) s
    let s := onlyIf over_ (count 0x510030) s
    .next (drain (s.bank.stalled.length + 1) { s with bank := { s.bank with answers := [] } })

/-- DESTRUCTIVE_TEST_START: a bank of the pool, by CFG.NONE_EN or on request, or the ingress buffers of a
port in DOWN (R292, Table 11.7). -/
def execDestructiveTestStart (target : Nat) (s : State) : Host.Outcome State Fault Refusal :=
  if !mtIdle s then .next s
  else if target < 128 then
    let ask := s.mtest.asks.find? fun a => a.bank = target && a.destructive
    if !inPool s target ∨ (ask.isNone ∧ !(testOn s 0 && roundTakes s target)) then .next s
    else
      let s := takeTarget 1 2 target 0 s
      let s := handOver target 4 (setBank target { bank s target with lender := 0, test := 2 } s)
      let s := match ask with
        | some a => onMtest (fun t => { t with q := some a.q, asks := t.asks.erase a }) s
        | none => s
      .next (scrambleBank target s)
  else
    let p := target - 128
    if !testOn s 4 ∨ (port s p).st ≠ 0 then .next s
    else .next { takeTarget 6 2 p 0 s with
      core := { s.core with ingress := s.core.ingress.filter fun e => e.1 / 64 / 32 ≠ p } }

/-- PAGE_BORROW (06_pages.md R154). -/
def execPageBorrow (s : State) : Host.Outcome State Fault Refusal :=
  if !mtIdle s ∨ !testOn s 3 ∨ s.page.standby ≠ .clean ∨ !s.page.waiting.isEmpty ∨ !s.core.running then .next s
  else .next (takeTarget 3 2 0 0 (onPage (fun p => { p with standby := .borrowed }) s))

/-! ### Steps (07_strings_abacus.md R187 to R189) -/

/-- MAX_LENT; above 8 acts as 8. -/
def maxLent (s : State) : Nat := min 8 (fld s 0x320004 7 4)

/-- Lending one more step keeps MAX_LENT and LEND_POLICY. -/
def mayLend (s : State) : Bool :=
  let coming := s.abacus.lending.length
    + ((s.page.waiting.map (·.2) ++ s.page.holder.toList).filter fun w => w.source = 4).length
  let floor := if flg s 0x320004 3 then 1024 else 2047
  decide (s.abacus.lent.length + coming < maxLent s) && decide (floor + 1 + coming ≤ usableCount s)

/-- STEP_VACATE_REQUEST: a step with nothing on it is lent at the next tick edge; one that is in use is
vacated first; a request that breaks the policy is refused. -/
def execStepVacateRequest (k : Nat) (s : State) : Host.Outcome State Fault Refusal :=
  if !testOn s 2 ∨ !mtIdle s ∨ s.tick < s.mtest.stepAt ∨ !s.core.running ∨ s.core.retired.contains k
      ∨ s.core.retiring.contains k ∨ s.abacus.lent.contains k ∨ s.abacus.lending.any (·.1 = k) then .next s
  else
    let s := onMtest (fun t => { t with
      stepNext := (k + 1) % 2048, stepAt := s.tick + sched s 7 0 * 1000 }) s
    if !mayLend s then .next s
    else if !s.abacus.map.names k ∧ !((s.page.next.map fun m => m.names k).getD false) then
      .next (onAbacus (fun a => { a with lending := a.lending ++ [(k, s.tick + 1)] }) s)
    else .next (request (.vacate k) s)

/-- The test of a lent step begins: destructive, on the 12 words of the step in every lane (R292, R295). -/
def testStep (k : Nat) (s : State) : State :=
  let s := { s with core := { s.core with steps := s.core.steps.filter fun e => e.1 % 2048 ≠ k } }
  onMtest (fun t => { t with lentWait := t.lentWait.erase k }) (takeTarget 2 2 k 0 s)

/-- A lent step whose test waits for the engine, once that is free (R295). -/
def lentTick (s : State) : State :=
  match s.mtest.lentWait.find? s.abacus.lent.contains with
  | none => s
  | some k => if mtIdle s then testStep k s else s

/-- STEP_LEND: from the tick after the swap the step is lent, and its test begins. -/
def execStepLend (k : Nat) (s : State) : Host.Outcome State Fault Refusal :=
  match s.abacus.lending.find? fun e => e.1 = k && decide (e.2 ≤ s.tick) with
  | none => .next s
  | some e =>
    let s := onAbacus (fun a => { a with lending := a.lending.erase e }) s
    if s.core.retired.contains k ∨ s.abacus.map.names k ∨ !mayLend s then .next s
    else
      let s := count 0x32001C (setLent (insNat k s.abacus.lent) s)
      .next (if mtIdle s then testStep k s
        else onMtest (fun t => { t with lentWait := t.lentWait.filter s.abacus.lent.contains ++ [k] }) s)

/-- STEP_RETURN: a step not under test is given back, and is usable again. -/
def execStepReturn (k : Nat) (s : State) : Host.Outcome State Fault Refusal :=
  if !s.abacus.lent.contains k ∨ (s.mtest.target = 2 ∧ s.mtest.index = k) then .next s
  else .next (setLent (s.abacus.lent.erase k) s)

/-! ### Commands -/

/-- MTEST_CONFIG (13_host.md R347): as TIMING_CONFIG, on the LK registers of MTEST. -/
def execMtestConfig (q : Nat) (s : State) : Host.Outcome State Fault Refusal :=
  runCmd 0x52 q (fun d s =>
    if !banksUp s then complete q (ans stUnavailable) s
    else configCmd q 0x510000 mtestMask (fun _ _ s => s) d.desc s) s

/-- MTEST_RUN: destructive only on a bank owned by NONE, preserving only on one with LEND_OK = 1; it
waits for the march-test engine. A FAILED bank, which cannot be handed over (R297), is REFUSED
(log entry 45). -/
def execMtestRun (q : Nat) (s : State) : Host.Outcome State Fault Refusal :=
  runCmd 0x53 q (fun d s =>
    let b := (d.desc.getD 16 0).toNat
    let mode := (d.desc.getD 17 0).toNat
    let x := bank s b
    let ok := if mode = 1 then x.owner = 0 else x.lendOk
    if !banksUp s then complete q (ans stUnavailable) s
    else if 128 ≤ b then complete q (badArg 16) s
    else if 2 ≤ mode then complete q (badArg 17) s
    else if x.failed ∨ !ok then complete q (ans stRefused) s
    else onMtest (fun t => { t with asks := t.asks ++ [⟨q, b, decide (mode = 1), 0, 0⟩] }) s) s

end Sys2Proof.Machine
end

