-- ==== Sys2Proof/Machine/Engines.lean ====
section
/-! DEFINITION. Engines and clusters: overruns, halts, the message fabric, and moving a cluster's work
(01_architecture.md R21, R30; 11_engines_banks.md R274 to R282). -/

namespace Sys2Proof.Machine

/-- ENG[c]. -/
def engBase (c : Nat) : Nat := 0x400000 + c * 0x10000

/-- The host cluster of a cluster, 12 for none (11_engines_banks.md Table 11.1). -/
def hostCluster (c : Nat) : Nat :=
  if c < 8 then (if c % 2 = 0 then c + 1 else c - 1)
  else if c = 8 then 9 else if c = 9 then 10 else if c = 10 then 8 else 12

/-- The engines of a cluster. -/
def engsOf (c : Nat) : List Nat := (List.range 16).map (16 * c + ·)

/-- Change the engines. -/
def onEngines (f : Engines → Engines) (s : State) : State := { s with eng := f s.eng }

/-- CL_STATUS.STATE of a cluster. -/
def clState (s : State) (c : Nat) : Nat := spGet (fun _ => 4) s.eng.cls c

/-- Set CL_STATUS.STATE. -/
def setCl (c st : Nat) (s : State) : State :=
  onEngines (fun e => { e with cls := spSet (fun _ => 4) c st e.cls }) s

/-- Change every engine of a cluster that is not FAILED. -/
def mapCluster (c : Nat) (f : Eng → Eng) (s : State) : State :=
  forAll (engsOf c) (fun e s => let x := eng s e; if x.st = 4 then s else setEng e (f x) s) s

/-- Some engine of a cluster is in a state. -/
def anyEng (s : State) (c st : Nat) : Bool := (engsOf c).any fun e => (eng s e).st = st

/-- A restart begins its turn (R280): the cluster is MIGRATING. A recovery is counted, and loads the image that the
cluster runs by then (R276; 15_management.md R395). -/
def beginRestart (r : Restart) (s : State) : State :=
  let r := if r.q.isSome then r else { r with
    version := spGet (fun _ => 0) s.eng.image r.cl, meas := spGet (fun _ => []) s.eng.meas r.cl }
  let s := setCl r.cl 1 (onEngines (fun e => { e with active := some r }) s)
  onlyIf r.q.isNone (count (engBase r.cl + 8)) s

/-- CL_STATUS.STATE of a cluster that runs its own work again. -/
def clRuns (s : State) (c : Nat) : Nat := if anyEng s c 4 then 5 else 0

/-- A restart waits, recoveries ahead of activations (15_management.md R395). -/
def queueRestart (r : Restart) (ws : List Restart) : List Restart :=
  if r.q.isNone then (ws.filter fun x => x.q.isNone) ++ [r] ++ ws.filter fun x => x.q.isSome else ws ++ [r]

/-- A restart asks for its turn: at once when nothing is under way. A recovery goes ahead of an activation that has not
come to its migration tick, which waits again (R280, 15_management.md R395; log entry 78). -/
def askRestart (r : Restart) (s : State) : State :=
  match s.eng.active with
  | none => beginRestart r s
  | some a =>
    if r.q.isNone && a.q.isSome && a.moved.isNone then
      beginRestart r (setCl a.cl (clRuns s a.cl) (onEngines (fun e => { e with waiting := a :: e.waiting }) s))
    else onEngines (fun e => { e with waiting := queueRestart r e.waiting }) s

/-- A recovery of a cluster waits or is under way and has not yet reached its migration tick. -/
def recoveryComing (s : State) (c : Nat) : Bool :=
  (s.eng.active.toList ++ s.eng.waiting).any fun r => r.cl = c && r.moved.isNone && r.q.isNone

/-- An engine halts (R276): it does nothing further, and a recovery restart of its cluster starts with
the image it was running. -/
def haltEngine (e : Nat) (s : State) : State :=
  let c := e / 16
  let s := perfCatch s
  let s := count (engBase c + 0x300 + 4 * (e % 16)) (setEng e { eng s e with st := 3 } s)
  let s := raise .engHalt e 0 s
  if recoveryComing s c then s
  else askRestart ⟨c, none, s.tick, none, false, none, none, [], spGet (fun _ => 0) s.eng.image c,
    spGet (fun _ => []) s.eng.meas c⟩ s

/-- TICK_OVERRUN (01_architecture.md R30): the engine has not signalled tick-done, and its group work is
late; 1,000 in a row halt it. -/
def execTickOverrun (e : Nat) (s : State) : Host.Outcome State Fault Refusal :=
  let x := eng s e
  if x.st ≠ 2 ∨ x.overran ∨ x.done then .next s
  else
    let n := min 1023 (x.consec + 1)
    let s := setEng e { x with consec := n, overran := true } s
    let s := overrunGroups e (engineEv e 3 1 1 true none (count (engBase (e / 16) + 0x200 + 4 * (e % 16)) s))
    .next (if 1000 ≤ n then haltEngine e s else s)

/-- ENGINE_HALT: an engine that runs meets one of the other causes of R276. -/
def execEngineHalt (e : Nat) (s : State) : Host.Outcome State Fault Refusal :=
  if (eng s e).st ≠ 2 then .next s else .next (haltEngine e s)

/-! ### The message fabric (01_architecture.md R21, 11_engines_banks.md R279) -/

/-- Put a message behind those that arrived before it; of one ECLK, the lower sender goes first. -/
def fabricInsert (m : Nat × Nat × BitVec 128) : List (Nat × Nat × BitVec 128) → List (Nat × Nat × BitVec 128)
  | [] => [m]
  | x :: xs => if x.1 = m.1 ∧ m.2.1 < x.2.1 then m :: x :: xs else x :: fabricInsert m xs

/-- FABRIC_MESSAGE: a message from a RUNNING engine is held for the engine named. -/
def execFabricMessage (src dst : Nat) (msg : BitVec 128) (s : State) : Host.Outcome State Fault Refusal :=
  if (eng s (runs s src)).st ≠ 2 then .next s
  else
    let s := engineEv (runs s src) 3 2 1 (levelAt (runs s src) (now s / 2)) none s
    let x := eng s dst
    .next (setEng dst { x with inbox := fabricInsert (now s / 2, src, msg) x.inbox } s)

/-- At a tick the engine that serves a number takes the messages held for it. -/
def takeMessages (s : State) : State :=
  let ready := s.eng.engs.filter fun e => !e.2.inbox.isEmpty && (eng s (runs s e.1)).st = 2
  forAll ready (fun e s =>
    engineEv (runs s e.1) 3 3 e.2.inbox.length (levelAt (runs s e.1) (now s / 2)) none (setEng e.1 { eng s e.1 with inbox := [] } s)) s

/-! ### Moving a cluster's work (R277 to R282) -/

/-- The present tick is not among the first four of a second (R278). -/
def secondClear (s : State) : Bool := if s.pm.running then decide (4 < s.pm.ticks) else decide (4000 ≤ s.timing.ns)

/-- Hand the banks named from one cluster to another. -/
def moveBanks (bs : List Nat) (c : Nat) (s : State) : State :=
  forAll bs (fun b s =>
    let x := bank s b
    if x.failed then s
    else if x.owner = 4 then setBank b { x with lender := 16 + c } s
    else handOver b (16 + c) s) s

/-- The banks a cluster owns, those lent to the march test among them. -/
def banksOf (s : State) (c : Nat) : List Nat :=
  (s.bank.own.filter fun e => e.2.owner = 16 + c || (e.2.owner = 4 && e.2.lender = 16 + c)).map (·.1)

/-- The host of cluster c is halted or holds a FAILED engine, so that c is not activated (R280). -/
def hostUnfit (s : State) (c : Nat) : Bool :=
  let h := hostCluster c
  h < 12 && (anyEng s h 3 || anyEng s h 4)

/-- The present tick edge may be M of a restart (R278, R280): of an activation only when every engine of the cluster but
a FAILED one signalled tick-done in the tick before. -/
def mayMigrate (s : State) (r : Restart) : Bool :=
  let done := (engsOf r.cl).all fun e => (eng s e).st = 4 || ((eng s e).st = 2 && (eng s e).consec = 0)
  let idle := r.cl ≠ 11 || (s.abacus.job = 0 && s.page.standby = .clean)
  match r.q with
  | none => decide (r.since + 2 ≤ s.tick)
  | some _ => decide (r.since + 16 ≤ s.tick) && secondClear s && done && idle && !hostUnfit s r.cl

/-- CLUSTER_MIGRATION: at M the banks go to the host, whose engines run the work from here, and the
cluster is held in reset for its test and load. C11 moves no work. -/
def execClusterMigration (c : Nat) (s : State) : Host.Outcome State Fault Refusal :=
  match s.eng.active with
  | none => .next s
  | some r =>
    if r.cl ≠ c ∨ r.moved.isSome ∨ !mayMigrate s r then .next s
    else
      let h := hostCluster c
      let bs := if h < 12 then banksOf s c else []
      let s := moveBanks bs h s
      let s := onEngines (fun e => { e with
        active := some { r with moved := some s.tick, banks := bs }
        host := (if h < 12 then spSet (fun _ => 0) c (h + 1) e.host else e.host) }) s
      let s := setCl c 2 (mapCluster c (fun x => { x with st := 1, consec := 0, imem := none, dmem := x.dmem + 1 })
        (perfCatch s))
      .next (if mtIdle s then takeTarget 5 2 c 0 s else s)

/-- CLUSTER_READY: every engine of the restarting cluster reports ready, after its memory test, with the image
loaded. -/
def execClusterReady (c : Nat) (s : State) : Host.Outcome State Fault Refusal :=
  match s.eng.active with
  | none => .next s
  | some r =>
    if r.cl ≠ c ∨ r.moved.isNone ∨ r.ready.isSome ∨ !r.tested then .next s
    else .next (onEngines (fun e => { e with active := some { r with ready := some s.tick } })
      (mapCluster c (fun x => { x with imem := some (r.version, r.meas) }) s))

/-- The banks that go back at R (R278, R281): what the host then owns of the banks that were the cluster's at M, or are
by Table 11.4. -/
def returning (s : State) (r : Restart) : List Nat :=
  let h := hostCluster r.cl
  if h < 12 then (banksOf s h).filter fun b => r.banks.contains b || homeOwner b = 16 + r.cl else []

/-- CLUSTER_RETURN: at R the banks and the work come back, but for the work of engines that FAILED. -/
def execClusterReturn (c : Nat) (s : State) : Host.Outcome State Fault Refusal :=
  match s.eng.active with
  | none => .next s
  | some r => match r.ready with
    | none => .next s
    | some t =>
      if r.cl ≠ c ∨ r.back.isSome ∨ s.tick < t + 2 then .next s
      else
        let s := moveBanks (returning s r) c s
        let s := onEngines (fun e => { e with
          active := some { r with back := some s.tick, banks := [] }
          host := spSet (fun _ => 0) c 0 e.host }) s
        .next (setCl c 3 (mapCluster c (fun x => { x with st := if x.imem.isSome then 2 else x.st }) (perfCatch s)))

/-- The next restart takes its turn; an activation whose host has become unfit meanwhile completes with
UNAVAILABLE (11_engines_banks.md R280). -/
def nextRestart : List Restart → State → State
  | [], s => onEngines (fun e => { e with waiting := [] }) s
  | x :: xs, s =>
    if x.q.isSome && hostUnfit s x.cl then nextRestart xs (completeOpt x.q (ans stUnavailable) s)
    else beginRestart x (onEngines (fun e => { e with waiting := xs }) s)

/-- An activation whose host has become unfit before M ends with UNAVAILABLE (R280; log entry 78). -/
def unfitRestart (r : Restart) (s : State) : State :=
  let s := nextRestart s.eng.waiting (setCl r.cl (clRuns s r.cl) (onEngines (fun e => { e with active := none }) s))
  completeOpt r.q (ans stUnavailable) s

/-- One tick after R a restart is complete: the cluster is RUNNING, or DEGRADED with an engine FAILED;
an activation is counted and its command completes; the next restart takes its turn. Before that, the memory
test of a cluster held in reset starts once the march-test engine is free. -/
def restartTick (s : State) : State :=
  match s.eng.active with
  | none => s
  | some r => match r.back with
    | none =>
      if r.q.isSome && r.moved.isNone && hostUnfit s r.cl then unfitRestart r s
      else if r.moved.isSome && !r.tested && mtIdle s then takeTarget 5 2 r.cl 0 s else s
    | some t =>
      if s.tick ≤ t then s
      else
        let c := r.cl
        let s := setCl c (clRuns s c) (onEngines (fun e => { e with
          active := none, image := spSet (fun _ => 0) c r.version e.image
          meas := spSet (fun _ => []) c r.meas e.meas }) s)
        let s := onlyIf r.q.isSome (count (engBase c + 4)) s
        let s := nextRestart s.eng.waiting s
        completeOpt r.q ⟨stOk, r.version.toNat, 0, 0, 0⟩ s

/-- Overruns of the tick that has ended clear, and a tick-done ends a run of them. -/
def clearOverruns (s : State) : State :=
  let f (x : Eng) : Eng := { x with overran := false, consec := (if x.overran then x.consec else 0) }
  { s with eng := { s.eng with engs := spMap (fun _ => Eng.reset) (fun _ x => f x) s.eng.engs } }

/-- The tick edge for the engines: the tick that ends is counted and copied into the shadows, and the
messages held are taken. -/
def enginesTick (ended : Nat) (s : State) : State :=
  takeMessages (clearOverruns (flushWraps ended (shadowCopy ended (enginesDone ended s))))

end Sys2Proof.Machine
end

