-- ==== Sys2Proof/Machine/Segments.lean ====
section
/-! DEFINITION. Sealed segments (14_cipher.md R370, R371). -/

namespace Sys2Proof.Machine

/-- The 32 bytes before the ciphertext of a segment (14_cipher.md Table 14.4). -/
def segHeader (id index count len : Nat) (nonce : Bytes) : Bytes :=
  leBytes 4 id ++ leBytes 4 index ++ leBytes 4 count ++ [BitVec.ofNat 8 (b2n (index + 1 = count)), 0, 0, 0]
  ++ leBytes 4 len ++ padTo 12 (nonce.take 12)

/-- Seal one segment: the header is the AAD and NONCE the nonce. -/
def sealSegment (key : Bytes) (id index count : Nat) (nonce pt : Bytes) : Bytes :=
  let h := segHeader id index count pt.length nonce
  let x := gcmSeal key (sub h 20 12) h pt
  h ++ x.1 ++ x.2

/-- A segment has the form and the place of R371 in its object, before its tag is checked. -/
def segPlaced (id index count : Nat) (x : Bytes) : Bool :=
  let n := leAt x 16 4
  x.length = 48 + n && n ≠ 0 && decide (n ≤ 262144)
    && leAt x 0 4 = id && leAt x 4 4 = index && leAt x 8 4 = count && leAt x 12 4 = b2n (index + 1 = count)

/-- Open a segment under a key: its header is the AAD. -/
def openTag (key x : Bytes) : Option Bytes :=
  let n := leAt x 16 4
  gcmOpen key (sub x 20 12) (x.take 32) (sub x 32 n) (sub x (32 + n) 16)

/-- Open segments `index` on of an object: the opens started, whether one failed its tag, and the plaintext when all
pass (14_cipher.md R368, R371). -/
def openRun (key : Bytes) (id count : Nat) : Nat → List Bytes → Nat × Bool × Option Bytes
  | _, [] => (0, false, some [])
  | index, x :: xs =>
    if !segPlaced id index count x then (0, false, none)
    else match openTag key x with
      | none => (1, true, none)
      | some pt =>
        let r := openRun key id count (index + 1) xs
        (r.1 + 1, r.2.1, r.2.2.map (pt ++ ·))

/-- Open a whole object (14_cipher.md R371): every segment in order, or nothing; with the opens started and whether one
failed its tag. -/
def openSegs (key : Bytes) (xs : List Bytes) : Nat × Bool × Option Bytes :=
  if xs.isEmpty then (0, false, none) else openRun key (leAt (xs.headD []) 0 4) xs.length 0 xs

/-- The plaintext of an object. -/
def openObject (key : Bytes) (xs : List Bytes) : Option Bytes := (openSegs key xs).2.2

/-- Cut plaintext into segments of at most `n` bytes. -/
def cutBytes (n : Nat) : Nat → Bytes → List Bytes
  | 0, _ => []
  | k + 1, bs => if bs.length ≤ n then [bs] else bs.take n :: cutBytes n k (bs.drop n)

end Sys2Proof.Machine
end

