-- ==== Sys2Proof/Machine/Sha.lean ====
section
/-! DEFINITION. SHA-256 and the RSASSA-PSS verification of 15_management.md R391 (SHA-256, MGF1 with
SHA-256, a 32-byte salt, public exponent 65,537, a 3072-bit modulus). -/

namespace Sys2Proof.Machine

/-- The round constants of SHA-256. -/
def shaK : List (BitVec 32) :=
  [[0x428A2F98, 0x71374491, 0xB5C0FBCF, 0xE9B5DBA5, 0x3956C25B, 0x59F111F1, 0x923F82A4, 0xAB1C5ED5],
   [0xD807AA98, 0x12835B01, 0x243185BE, 0x550C7DC3, 0x72BE5D74, 0x80DEB1FE, 0x9BDC06A7, 0xC19BF174],
   [0xE49B69C1, 0xEFBE4786, 0x0FC19DC6, 0x240CA1CC, 0x2DE92C6F, 0x4A7484AA, 0x5CB0A9DC, 0x76F988DA],
   [0x983E5152, 0xA831C66D, 0xB00327C8, 0xBF597FC7, 0xC6E00BF3, 0xD5A79147, 0x06CA6351, 0x14292967],
   [0x27B70A85, 0x2E1B2138, 0x4D2C6DFC, 0x53380D13, 0x650A7354, 0x766A0ABB, 0x81C2C92E, 0x92722C85],
   [0xA2BFE8A1, 0xA81A664B, 0xC24B8B70, 0xC76C51A3, 0xD192E819, 0xD6990624, 0xF40E3585, 0x106AA070],
   [0x19A4C116, 0x1E376C08, 0x2748774C, 0x34B0BCB5, 0x391C0CB3, 0x4ED8AA4A, 0x5B9CCA4F, 0x682E6FF3],
   [0x748F82EE, 0x78A5636F, 0x84C87814, 0x8CC70208, 0x90BEFFFA, 0xA4506CEB, 0xBEF9A3F7, 0xC67178F2]].flatten

/-- The initial hash value. -/
def shaInit : List (BitVec 32) :=
  [0x6A09E667, 0xBB67AE85, 0x3C6EF372, 0xA54FF53A, 0x510E527F, 0x9B05688C, 0x1F83D9AB, 0x5BE0CD19]

/-- Rotate right. -/
def rotr (x : Word) (n : Nat) : Word := (x >>> n) ||| (x <<< (32 - n))

/-- Extend the message schedule, words newest first. -/
def shaExtend : Nat → List Word → List Word
  | 0, ws => ws
  | n + 1, ws =>
    let a := ws.getD 14 0
    let b := ws.getD 1 0
    let s0 := rotr a 7 ^^^ rotr a 18 ^^^ (a >>> 3)
    let s1 := rotr b 17 ^^^ rotr b 19 ^^^ (b >>> 10)
    shaExtend n ((s1 + ws.getD 6 0 + s0 + ws.getD 15 0) :: ws)

/-- One round on the eight working words. -/
def shaRound (v : List Word) (kw : Word × Word) : List Word :=
  match v with
  | [a, b, c, d, e, f, g, h] =>
    let t1 := h + (rotr e 6 ^^^ rotr e 11 ^^^ rotr e 25) + ((e &&& f) ^^^ (~~~e &&& g)) + kw.1 + kw.2
    let t2 := (rotr a 2 ^^^ rotr a 13 ^^^ rotr a 22) + ((a &&& b) ^^^ (a &&& c) ^^^ (b &&& c))
    [t1 + t2, a, b, c, d + t1, e, f, g]
  | v => v

/-- One 64-byte block. -/
def shaBlock (h : List Word) (b : Bytes) : List Word :=
  let w16 := (List.range 16).map fun i => BitVec.ofNat 32 (beAt b (4 * i) 4)
  let ws := (shaExtend 48 w16.reverse).reverse
  List.zipWith (· + ·) h ((List.zip shaK ws).foldl shaRound h)

/-- Blocks of 64 bytes, by count. -/
def shaBlocks : Nat → List Word → Bytes → List Word
  | 0, h, _ => h
  | n + 1, h, bs => shaBlocks n (shaBlock h (bs.take 64)) (bs.drop 64)

/-- SHA-256. -/
def sha256 (bs : Bytes) : Bytes :=
  let n := (bs.length + 9 + 63) / 64
  let m := bs ++ 0x80 :: List.replicate (64 * n - 9 - bs.length) 0 ++ beBytes 8 (8 * bs.length)
  (shaBlocks n shaInit m).flatMap fun w => beBytes 4 w.toNat

/-- MGF1 with SHA-256. -/
def mgf1 (seed : Bytes) (n : Nat) : Bytes :=
  ((List.range ((n + 31) / 32)).flatMap fun i => sha256 (seed ++ beBytes 4 i)).take n

/-- x ^ (2 ^ k) mod n. -/
def sqrTimes (n : Nat) : Nat → Nat → Nat
  | 0, x => x
  | k + 1, x => sqrTimes n k (x * x % n)

/-- RSASSA-PSS verification over a message with a 384-byte modulus (15_management.md R391 step 3). -/
def pssVerify (modulus sig msg : Bytes) : Bool :=
  let n := beNat modulus
  let x := beNat sig
  if n = 0 ∨ n ≤ x then false
  else
    let em := beBytes 384 (sqrTimes n 16 x * x % n)
    let h := sub em 351 32
    let db := List.zipWith (· ^^^ ·) (em.take 351) (mgf1 h 351)
    let db := (db.headD 0 &&& 0x7F) :: db.tail
    em.getD 383 0 == 0xBC && decide ((em.headD 0).toNat < 128)
      && db.take 319 == List.replicate 318 0 ++ [1]
      && sha256 (List.replicate 8 0 ++ sha256 msg ++ db.drop 319) == h

end Sys2Proof.Machine
end

