-- ==== Sys2Proof/Machine/Images.lean ====
section
/-! DEFINITION. Umlole containers and the checks of secure boot (15_management.md R388 to R391). -/

namespace Sys2Proof.Machine

/-! ### The container (R388, Tables 15.2 and 15.3) -/

/-- IMAGE_ID, VERSION, SEC_VER, SEG_COUNT and COMP_COUNT of a container. -/
def imgId (b : Bytes) : Nat := leAt b 8 4
def imgVersion (b : Bytes) : Nat := leAt b 12 4
def imgSecVer (b : Bytes) : Nat := (b.getD 16 0).toNat
def imgSegs (b : Bytes) : Nat := leAt b 20 4

/-- Entry k of COMPONENTS. -/
def comp (b : Bytes) (k : Nat) : Bytes := sub b (128 + 32 * k) 32

/-- KIND, FIRST_SEG, SEGS, VERSION and plaintext length of a component entry. -/
def compKind (c : Bytes) : Nat := (c.getD 0 0).toNat
def compFirst (c : Bytes) : Nat := leAt c 2 2
def compSegs (c : Bytes) : Nat := leAt c 4 2
def compVersion (c : Bytes) : Nat := leAt c 8 4
def compLength (c : Bytes) : Nat := leAt c 12 4

/-- Entry i of HASH_LIST. -/
def segHash (b : Bytes) (i : Nat) : Bytes := sub b (2560 + 32 * i) 32

/-- The sealed segments from offset `o`, `n` of them, each padded to 64 bytes, with the offset after the
last; none when one runs past the end or its padding is not zero. -/
def cutSegs (b : Bytes) : Nat → Nat → Option (List Bytes × Nat)
  | 0, o => some ([], o)
  | n + 1, o =>
    let len := 48 + leAt b (o + 16) 4
    let next := o + (len + 63) / 64 * 64
    if b.length < next ∨ !((sub b (o + len) (next - (o + len))).all (· = 0)) then none
    else (cutSegs b n next).map fun r => (sub b o len :: r.1, r.2)

/-- The sealed segments of a container. -/
def segsOf (b : Bytes) : List Bytes := ((cutSegs b (imgSegs b) (2560 + 32 * imgSegs b)).map (·.1)).getD []

/-- The bytes of a range are all zero. -/
def zeroRange (b : Bytes) (o n : Nat) : Bool := (sub b o n).all (· = 0)

/-- A component entry is unused and zero, or names a kind and segments of the container. -/
def compOk (b : Bytes) (k : Nat) : Bool :=
  let c := comp b k
  if compKind c = 0 then zeroRange c 0 32
  else decide (compKind c ≤ 4) && c.getD 1 0 = 0 && zeroRange c 6 2 && zeroRange c 16 16
    && decide (1 ≤ compSegs c) && decide (compFirst c + compSegs c ≤ imgSegs b)

/-- The used component entries. -/
def usedComps (b : Bytes) : List Nat := (List.range 8).filter fun k => compKind (comp b k) ≠ 0

/-- Step 1 of R391: MAGIC, FORMAT, TOTAL_LENGTH, SEG_COUNT and COMP_COUNT are consistent, and the reserved
fields are zero. -/
def formOk (b : Bytes) : Bool :=
  leAt b 0 4 = 0x4F4C4D55 && b.getD 4 0 = 1 && decide ((b.getD 5 0).toNat < 8) && zeroRange b 6 2
  && imgId b % 8 = 0 && decide (imgSecVer b ≤ 64) && zeroRange b 18 2 && zeroRange b 104 24 && zeroRange b 384 640
  && decide (1 ≤ imgSegs b ∧ imgSegs b ≤ 256) && leAt b 24 8 = b.length && decide (b.length ≤ 67108864)
  && decide ((cutSegs b (imgSegs b) (2560 + 32 * imgSegs b)).map (·.2) = some b.length)
  && (List.range 8).all (compOk b) && (b.getD 17 0).toNat = (usedComps b).length && !(usedComps b).isEmpty

/-- Step 4 of R391: the owner's co-signature, once OWNER_HASH is programmed. -/
def ownerOk (o : Otp) (b : Bytes) : Bool :=
  match o.ownerHash with
  | none => true
  | some h => sha256 (sub b 2176 384) = h && pssVerify (sub b 2176 384) (sub b 1792 384) (b.take 1024)

/-- The content key of a container (R389). -/
def contentKey (o : Otp) (b : Bytes) : Option Bytes := kwUnwrap o.imageKey (sub b 64 40)

/-- The segments of component k. -/
def compSegList (b : Bytes) (k : Nat) : List Bytes := ((segsOf b).drop (compFirst (comp b k))).take (compSegs (comp b k))

/-- The plaintext of component k: its segments carry OBJECT_ID = IMAGE_ID OR k and NONCE = OBJECT_ID, INDEX,
0, and open under the content key (R389; 14_cipher.md R371). -/
def openComp (o : Otp) (b : Bytes) (k : Nat) : Option Bytes :=
  let xs := compSegList b k
  let id := imgId b + k
  let named := ((List.range xs.length).zip xs).all fun e =>
    leAt e.2 0 4 = id && sub e.2 20 12 = leBytes 4 id ++ leBytes 4 e.1 ++ [0, 0, 0, 0]
  if !named then none
  else match contentKey o b with
    | some key => (openObject key xs).filter fun p => p.length = compLength (comp b k)
    | none => none

/-- Step 8 of R391 for component k: every sealed segment has its hash in HASH_LIST, and the component
opens. -/
def compPasses (o : Otp) (b : Bytes) (k : Nat) : Bool :=
  let xs := compSegList b k
  ((List.range xs.length).zip xs).all (fun e => sha256 e.2 = segHash b (compFirst (comp b k) + e.1))
    && (openComp o b k).isSome

/-- The cipher operations that checking component k starts, and whether a segment fails its tag (14_cipher.md R368,
R375): the unwrap of the content key, and the opens. -/
def compOpens (o : Otp) (b : Bytes) (k : Nat) : Nat × Bool :=
  let xs := compSegList b k
  if !(((List.range xs.length).zip xs).all fun e => sha256 e.2 = segHash b (compFirst (comp b k) + e.1)) then (0, false)
  else match contentKey o b with
    | none => (1, false)
    | some key => let r := openSegs key xs; (r.1 + 1, r.2.1)

/-- The components are checked in order, until one fails. -/
def partOpens (o : Otp) (b : Bytes) : List Nat → Nat × Bool
  | [] => (0, false)
  | k :: ks =>
    let x := compOpens o b k
    if !compPasses o b k then x
    else let y := partOpens o b ks; (x.1 + y.1, x.2 || y.2)

/-- The component of a kind. -/
def compOf (b : Bytes) (kind : Nat) : Option Nat := (List.range 8).find? fun k => compKind (comp b k) = kind

/-- Step 7 of R391. -/
def hashListOk (b : Bytes) : Bool := sha256 (sub b 2560 (32 * imgSegs b)) = sub b 32 32

/-- The components that step 8 of R391 opens: the management component, or every one. -/
def stepEight (all : Bool) (b : Bytes) : List Nat := if all then usedComps b else (compOf b 1).toList

/-- The first of the checks of R391 before step 8 that a container fails, 0 when it passes them. -/
def formFault (o : Otp) (b : Bytes) : Nat :=
  if !formOk b then 1
  else if sha256 (sub b 1408 384) ≠ o.rootHash then 2
  else if !pssVerify (sub b 1408 384) (sub b 1024 384) (b.take 1024) then 3
  else if !ownerOk o b then 4
  else if !bitOf (b.getD 5 0).toNat (o.life - 1) then 5
  else if imgSecVer b < o.arb then 6
  else if !hashListOk b then 7
  else 0

/-- The first of the checks of R391 that a container fails, 0 when it passes: step 8 for the management
component, or for every component. -/
def imageFault (o : Otp) (all : Bool) (b : Bytes) : Nat :=
  if formFault o b ≠ 0 then formFault o b
  else if (compOf b 1).isNone ∨ !(stepEight all b).all (compPasses o b) then 8
  else 0

/-- The cipher operations of those checks. -/
def imageOpens (o : Otp) (all : Bool) (b : Bytes) : Nat × Bool :=
  if formFault o b ≠ 0 then (0, false) else partOpens o b (stepEight all b)

/-- KIND of the component that the role of a cluster runs (R395, Table 15.3). -/
def clusterKind (c : Nat) : Nat := if c < 8 then 2 else if c < 11 then 3 else 4

/-- SHA-256 of the HASH_LIST entries of component k (R397). -/
def compMeas (b : Bytes) (k : Nat) : Bytes :=
  sha256 (sub b (2560 + 32 * compFirst (comp b k)) (32 * compSegs (comp b k)))

/-- The cipher operations of opening and checking the component for a cluster under steps 7 and 8 (R395). -/
def clusterOpens (o : Otp) (b : Bytes) (c : Nat) : Nat × Bool :=
  match compOf b (clusterKind c) with
  | some k => if hashListOk b then compOpens o b k else (0, false)
  | none => (0, false)

/-- The component for a cluster, opened and checked: its VERSION and its measurement. -/
def clusterComp (o : Otp) (b : Bytes) (c : Nat) : Option (Word × Bytes) :=
  match compOf b (clusterKind c) with
  | some k =>
    if hashListOk b && compPasses o b k then some (BitVec.ofNat 32 (compVersion (comp b k)), compMeas b k) else none
  | none => none

/-! ### The slots and the boot record (R390, R391) -/

/-- The CRC-32 of a boot record, over its fields in the order in which R390 names them (log entry 80). -/
def bootCrc (r : BootRec) : Word :=
  BitVec.ofNat 32 (crc32 ([BitVec.ofNat 8 (b2n r.active), BitVec.ofNat 8 ((r.trial.map fun t => 1 + b2n t).getD 0),
    BitVec.ofNat 8 r.attempts] ++ leBytes 8 r.seq))

/-- The copy in use of those that the devices answering hold: a valid CRC, and the higher sequence number. -/
def bootRecord (there : Nat → Bool) (x : Image) : Option BootRec :=
  let good (n : Nat) (r : BootRec) : List BootRec := if there n ∧ r.crc = bootCrc r then [r] else []
  match good 0 x.rec0 ++ good 1 x.rec1 with
  | [a, b] => some (if a.seq < b.seq then b else a)
  | l => l.head?

/-- A start takes the boot record in use; with none, slot A is active and no trial pends (log entry 80). -/
def readBoot (there : Nat → Bool) (x : Image) : Image :=
  let r := (bootRecord there x).getD BootRec.blank
  { x with active := r.active, trial := r.trial, attempts := r.attempts }

/-- A change of the boot record goes to every device that answers, under the next sequence number. -/
def writeBoot (there : Nat → Bool) (x : Image) : Image :=
  let old := (bootRecord there x).getD BootRec.blank
  if old.active = x.active ∧ old.trial = x.trial ∧ old.attempts = x.attempts then x
  else
    let r : BootRec := ⟨x.active, x.trial, x.attempts, old.seq + 1, 0⟩
    let r := { r with crc := bootCrc r }
    { x with rec0 := (if there 0 then r else x.rec0), rec1 := (if there 1 then r else x.rec1) }

/-- A flash device answered at the last start. -/
def flashThere (s : State) (n : Nat) : Bool := s.pwr.flash.any (·.1 = n)

/-- The firmware changes the boot record. -/
def onBootRec (f : Image → Image) (s : State) : State := { s with image := writeBoot (flashThere s) (f s.image) }

/-- Image slot A or B. -/
def imageSlot (x : Image) (b : Bool) : Bytes := if b then x.slotB else x.slotA

/-- Write an image slot; what it holds has not failed a start. -/
def setSlot (b : Bool) (img : Bytes) (x : Image) : Image :=
  if b then { x with slotB := img, badB := false } else { x with slotA := img, badA := false }

/-- Mark a slot bad. -/
def markBad (b : Bool) (x : Image) : Image := if b then { x with badB := true } else { x with badA := true }

/-- The slots that a start tries, in order (R391): by BOOT_SEL, and under 0b00 the other slot after the
first. -/
def slotsToTry (x : Image) (sel : Nat) : List Bool :=
  let first := match x.trial with
    | some t => if x.attempts < 3 then t else x.active
    | none => x.active
  match sel with
  | 0 => [first, !first]
  | 1 => [false]
  | 2 => [true]
  | _ => []

/-- The slot runs. A trial slot counts an attempt, and its time begins (R394). -/
def runSlot (tick : Nat) (b : Bool) (x : Image) : Image :=
  let t := decide (x.trial = some b)
  { x with
    boot := b, running := imageSlot x b, onTrial := t
    attempts := (if t then x.attempts + 1 else x.attempts)
    trialAt := (if t then tick else x.trialAt)
    trial := (if x.attempts < 3 then x.trial else none) }

/-- The boot ROM chooses and checks a slot (R391); true when one passes. -/
def bootSlots (o : Otp) (tick : Nat) (x : Image) : List Bool → Image × Bool
  | [] => ({ x with running := [], onTrial := false, boot := x.active }, false)
  | b :: bs =>
    if imageFault o false (imageSlot x b) = 0 then (runSlot tick b x, true)
    else bootSlots o tick (markBad b (if x.trial = some b then { x with trial := none } else x)) bs

/-- Boot by BOOT_SEL: the image, and whether a slot passed; none passing is recovery (R393). -/
def boot (s : State) : State × Bool :=
  let x := readBoot (flashThere s) s.image
  let r := bootSlots s.otp s.tick { x with badA := false, badB := false }
    (slotsToTry x (s.pwr.straps.toNat % 4))
  ({ s with image := writeBoot (flashThere s) r.1 }, r.2)

/-- The image copy in LPDDR6 passes steps 7 and 8 of R391 (R383). -/
def copyVerifies (s : State) : Bool :=
  hashListOk s.image.running && (compOf s.image.running 1).isSome
    && (stepEight false s.image.running).all (compPasses s.otp s.image.running)

end Sys2Proof.Machine
end

