-- ==== Sys2Proof/Machine/GroupRows.lean ====
section
/-! DEFINITION. The group commands of the host, the switching requests received, and the timers of the
groups (08_protection.md R195 to R214, 13_host.md R348, R349). -/

namespace Sys2Proof.Machine

/-! ### The definition block (13_host.md Table 13.12) -/

/-- A string list entry (13_host.md R347). -/
def strEntry (b : Bytes) (o : Nat) : Option Nat :=
  let v := leAt b o 4
  if bitOf v 31 then some (v % 65536) else none

/-- A string list entry as its bytes. -/
def strEntryBytes (x : Option Nat) : Bytes :=
  leBytes 4 (match x with | some n => 2 ^ 31 + n | none => 0)

/-- The definition a block spells. -/
def parseGroup (b : Bytes) : GroupDef :=
  let f := (b.getD 2 0).toNat
  let u (o : Nat) : Nat := (b.getD o 0).toNat
  { type := u 0, n := u 1, bi := bitOf f 0, tail := bitOf f 1, et := bitOf f 2, revert := bitOf f 3
    fallback := bitOf f 4, fast := bitOf f 5, csTicks := u 3, holdOff := leAt b 4 4, wtr := leAt b 8 2
    sr := (if u 10 = 0xFF then none else some (u 10, u 11))
    sdWindow := leAt b 12 2, sdThresh := leAt b 16 4, sfThresh := leAt b 20 4
    restore := (if u 24 = 0xFF then none else some (u 24)), restoreHold := leAt b 26 2
    protIn := strEntry b 32, etIn := strEntry b 36
    workIn := (List.range 14).map fun i => strEntry b (40 + 4 * i)
    normIn := (List.range 14).map fun i => strEntry b (96 + 4 * i) }

/-- The block of a definition. -/
def groupBytes (d : GroupDef) : Bytes :=
  let f := b2n d.bi + 2 * b2n d.tail + 4 * b2n d.et + 8 * b2n d.revert + 16 * b2n d.fallback + 32 * b2n d.fast
  let sr := d.sr.getD (0xFF, 0)
  let b (x : Nat) : Byte := BitVec.ofNat 8 x
  padTo 192 ([b d.type, b d.n, b f, b d.csTicks] ++ leBytes 4 d.holdOff ++ leBytes 2 d.wtr ++ [b sr.1, b sr.2]
    ++ leBytes 2 d.sdWindow ++ [0, 0] ++ leBytes 4 d.sdThresh ++ leBytes 4 d.sfThresh
    ++ [b (d.restore.getD 0xFF), 0] ++ leBytes 2 d.restoreHold ++ [0, 0, 0, 0]
    ++ strEntryBytes d.protIn ++ strEntryBytes d.etIn
    ++ d.workIn.flatMap strEntryBytes ++ d.normIn.flatMap strEntryBytes)

/-- An entry that the definition may not use, or with reserved bits set: its offset in the block. -/
def badStrEntry (b : Bytes) (used : Bool) (o : Nat) : Option Nat :=
  let v := leAt b o 4
  if (!used && v ≠ 0) || bitsOf v 30 16 ≠ 0 then some o else none

/-- Reserved bytes of the block. -/
def groupReserved : List Nat := [14, 15, 25, 28, 29, 30, 31] ++ (List.range 40).map (152 + ·)

/-- The first field of a block out of its range (08_protection.md Table 8.2, R213; 13_host.md R348). -/
def badField (b : Bytes) : Option Nat :=
  let d := parseGroup b
  let f := (b.getD 2 0).toNat
  let no (c : Bool) (o : Nat) : Option Nat := if c then some o else none
  let flags := decide (64 ≤ f) || (decide (d.type < 2) && (d.bi || d.tail || d.et)) || (d.bi && d.tail)
    || (d.fallback && d.type ≠ 1)
  let th (x : Nat) : Bool := x = 0 || decide (2 ^ 24 < x)
  ([no (decide (4 ≤ d.type)) 0,
    no (if d.type = 3 then decide (d.n < 2 ∨ 14 < d.n) else d.n ≠ 1) 1,
    no flags 2, no (d.csTicks = 0 || decide (16 < d.csTicks)) 3, no (decide (1048576 < d.holdOff)) 4,
    no (d.wtr = 0 || decide (720 < d.wtr)) 8,
    no (decide (8 ≤ (b.getD 10 0).toNat) && !(d.sr.isNone && d.type = 0)) 10,
    no (decide (32 ≤ (b.getD 11 0).toNat)) 11, no (d.sdWindow = 0) 12, no (th d.sdThresh) 16,
    no (th d.sfThresh) 20, no (decide (64 ≤ d.restore.getD 0)) 24,
    badStrEntry b true 32, badStrEntry b (decide (2 ≤ d.type)) 36]
    ++ (List.range 14).map (fun i => badStrEntry b (decide (i < d.n)) (40 + 4 * i))
    ++ (List.range 14).map (fun i => badStrEntry b (decide (i < d.n)) (96 + 4 * i))
    ++ [groupReserved.find? fun o => b.getD o 0 ≠ 0]).findSome? id

/-- The strings a definition names, the ET string apart. -/
def GroupDef.named (d : GroupDef) : List Nat := d.protIn.toList ++ (d.workIn ++ d.normIn).filterMap id

/-- Every string named is of one SIZE, the ET string no larger (08_protection.md R195). -/
def sizesMatch (m : CMap) (d : GroupDef) : Bool :=
  let size (n : Nat) : Nat := (m.str n).ins.length
  match d.named with
  | [] => true
  | n :: ns => ns.all (fun k => size k = size n) && d.etIn.toList.all (fun k => decide (size k ≤ size n))

/-- The group numbers of a definition meet those of another group (08_protection.md R193). -/
def groupClash (s : State) (g : Nat) (d : GroupDef) : Bool :=
  s.prot.groups.any fun e => e.1 ≠ g && decide (e.1 < g + d.width) && decide (g < e.1 + e.2.dfn.width)

/-- The lane of a definition has 1,024 other groups (08_protection.md R201). -/
def calendarFull (s : State) (g : Nat) (d : GroupDef) : Bool :=
  match d.srLane with
  | none => false
  | some l => decide (1024 ≤ ((headsOf s l).filter (· ≠ g)).length)

/-- HEAD of a descriptor. -/
def headNum (d : Fetched) : Nat := leAt d.desc 16 2

/-- The checks of a definition for head number g. -/
def checkGroup (s : State) (g : Nat) (d : Fetched) : Option Answer :=
  let b := extOf d
  let x := parseGroup b
  firstOf [sharedCheck s, refuseIf (decide (8192 ≤ g)) (badArg 16), checkExt d 48,
    (badField b).map fun o => badArg (64 + o),
    refuseIf (decide (8192 < g + x.width)) (badArg 16),
    refuseIf ((x.named ++ x.etIn.toList).any fun n => decide ((s.abacus.map.str n).st = 0)) (ans stStringState),
    refuseIf (!sizesMatch s.abacus.map x) (ans stSizeMismatch)]

/-- A new group with head number g. -/
def newGroup (s : State) (g : Nat) (d : GroupDef) : Group :=
  { dfn := d, paths := [], latePaths := [], lo := false, fs := 0, ms := 0, exer := [], wtr := none, dnr := 0, topReq := 0,
    topSig := 0, topFar := false, bridged := 0, carries := 0, lastRx := none, rxCount := 0,
    accepted := none, heardAt := s.tick, chCause := 0, waitBr := none,
    sent := srMessage g d 0 0 0, posted := srMessage g d 0 0 0, restored := false, bothAt := none,
    deferred := 0, changed := true,
    asks := [] }

/-- A definition is taken: the GROUP record is raised and the command completes with it. -/
def takeGroup (q g : Nat) (x : Group) (s : State) : State :=
  completePersisted q true (ans stOk) (journal (.group g false (some x.dfn)) (setGroup g x s))

/-- GROUP_CREATE. -/
def execGroupCreate (q : Nat) (s : State) : Host.Outcome State Fault Refusal :=
  runCmd 0x20 q (fun d s =>
    let g := headNum d
    let x := parseGroup (extOf d)
    match firstOf [checkGroup s g d,
        refuseIf ((group s g).isSome || groupClash s g x) (ans stGroupInUse),
        refuseIf (calendarFull s g x) (ans stCalendarFull)] with
    | some a => complete q a s
    | none => takeGroup q g (newGroup s g x) s) s

/-- Group g has no copies left in any calendar: it has changed its SR lane (08_protection.md R201). -/
def dropUrgent (g : Nat) (s : State) : State :=
  { s with prot := { s.prot with
    cals := s.prot.cals.map fun e => (e.1, { e.2 with urgent := e.2.urgent.filter (·.1 ≠ g) }) } }

/-- Path p names the same string in both definitions; the conditions of another string begin anew
(08_protection.md R204). -/
def samePath (d e : GroupDef) (p : Nat) : Bool := (e.pathStr p).isSome && decide (d.pathStr p = e.pathStr p)

/-- GROUP_MODIFY: the group leaves RESTORED, and its conditions are taken anew from the next tick
(08_protection.md R195, R214). -/
def execGroupModify (q : Nat) (s : State) : Host.Outcome State Fault Refusal :=
  runCmd 0x21 q (fun d s =>
    let g := headNum d
    let x := parseGroup (extOf d)
    match group s g with
    | none => complete q ((sharedCheck s).getD (ans stGroupUnknown)) s
    | some y =>
      match firstOf [checkGroup s g d, refuseIf (x.type ≠ y.dfn.type) (badArg 64),
          refuseIf (x.n ≠ y.dfn.n) (badArg 65), refuseIf (groupClash s g x) (ans stGroupInUse),
          refuseIf (calendarFull s g x) (ans stCalendarFull)] with
      | some a => complete q a s
      | none => takeGroup q g { y with
          dfn := x, restored := false, changed := true
          paths := y.paths.filter fun e => samePath y.dfn x e.1
          latePaths := y.latePaths.filter fun e => samePath y.dfn x e.1
          bothAt := (if y.restored then none else y.bothAt) }
        (onlyIf (decide (x.sr ≠ y.dfn.sr)) (dropUrgent g) s)) s

/-- Put a request behind those that arrived before it; of one cycle, the lower queue goes first
(08_protection.md R207). -/
def insAsk (a : Nat × Nat × Nat × Nat) : List (Nat × Nat × Nat × Nat) → List (Nat × Nat × Nat × Nat)
  | [] => [a]
  | b :: bs => if b.1 = a.1 ∧ a.2.1 < b.2.1 then a :: b :: bs else b :: insAsk a bs

/-- Queue a request for the owner engine's decide phase. -/
def askGroup (g q req sig : Nat) (s : State) : State :=
  onGroup g (fun x => { x with asks := insAsk (now s, q, req, sig) x.asks }) s

/-- GROUP_DELETE: it takes effect in the decide phase of the owner engine (08_protection.md R195). -/
def execGroupDelete (q : Nat) (s : State) : Host.Outcome State Fault Refusal :=
  runCmd 0x22 q (fun d s =>
    let g := headNum d
    match firstOf [sharedCheck s, refuseIf (decide (8192 ≤ g)) (badArg 16),
        refuseIf (group s g).isNone (ans stGroupUnknown), refuseIf (hasLeg s g) (ans stGroupBusy)] with
    | some a => complete q a s
    | none => askGroup g q 0x10 0 s) s

/-- GROUP_REQUEST (08_protection.md R207): the signal is 0 for LO and CLEAR, and 1 to N for the others. -/
def execGroupRequest (q : Nat) (s : State) : Host.Outcome State Fault Refusal :=
  runCmd 0x23 q (fun d s =>
    let g := headNum d
    let req := (d.desc.getD 18 0).toNat
    let sig := (d.desc.getD 19 0).toNat
    let n := ((group s g).map (·.dfn.n)).getD 0
    let badSig := if req = 8 ∨ req = 5 ∨ req = 3 then decide (sig = 0 ∨ n < sig) else decide (sig ≠ 0)
    match firstOf [sharedCheck s, refuseIf (decide (8192 ≤ g)) (badArg 16),
        refuseIf (!([0, 3, 5, 8, 0xA] : List Nat).contains req) (badArg 18), refuseIf (group s g).isNone (ans stGroupUnknown),
        refuseIf badSig (badArg 19)] with
    | some a => complete q a s
    | none => askGroup g q req sig s) s

/-- K_P - K_W of normal signal i (08_protection.md R198). -/
def kDiff (s : State) (d : GroupDef) (i : Nat) : Nat :=
  let k (n : Option Nat) : Option Nat := n.bind fun n =>
    let p := (s.abacus.map.str n).inPort
    if (s.abacus.map.str n).st ≠ 0 ∧ (port s p).bind.bound then some p else none
  match k d.protIn, k (d.workIn.getD i none) with
  | some p, some w =>
    let x : Int := ((port s p).bind.k - (port s w).bind.k).toInt
    (BitVec.ofInt 16 (max (-32767) (min 32767 x))).toNat
  | _, _ => 0x8000

/-- Ticks of hold-off remaining: the least of the conditions held off, 0 when none is
(13_host.md Table 13.13). -/
def holdLeft (s : State) (x : Group) : Nat :=
  let one (at_ : Option Nat) (req : Bool) : List Nat := match at_ with
    | some t => if req then [] else [t + x.dfn.holdOff - s.tick]
    | none => []
  match x.paths.flatMap fun e => one e.2.sfAt e.2.sfReq ++ one e.2.sdAt e.2.sdReq with
  | [] => 0
  | n :: ns => ns.foldl min n

/-- The state record of a group (13_host.md Table 13.13). -/
def groupState (s : State) (g : Nat) (x : Group) : Bytes :=
  let b (n : Nat) : Byte := BitVec.ofNat 8 n
  let w (m : Option Word) : Bytes := leBytes 4 (m.map (·.toNat) |>.getD 0)
  let left := match x.wtr with | some e => (e.2 - s.tick) / 1000 | none => 0
  padTo 64 ([b (16 * x.topReq + x.topSig), b x.bridged,
      b (16 * x.chCause + 2 * b2n x.restored + b2n (x.chCause ≠ 0)), 0]
    ++ leBytes 4 x.sent.toNat ++ w x.accepted ++ w x.lastRx ++ [b x.rxCount, b (runs s (ownerOf g)), 0, 0]
    ++ leBytes 4 left ++ leBytes 4 (holdLeft s x) ++ leBytes 2 (selWord s g x.dfn) ++ [0, 0]
    ++ (List.range 14).flatMap fun i => leBytes 2 (if i < x.dfn.n then kDiff s x.dfn i else 0x8000))

/-- GROUP_READ. -/
def execGroupRead (q : Nat) (s : State) : Host.Outcome State Fault Refusal :=
  runCmd 0x24 q (fun d s =>
    let g := headNum d
    match firstOf [refuseIf (!coreUp s) (ans stUnavailable), refuseIf (decide (8192 ≤ g)) (badArg 16)] with
    | some a => complete q a s
    | none => match group s g with
      | none => complete q (ans stGroupUnknown) s
      | some x => answerBuffer q (leAt d.desc 20 8) (leAt d.desc 28 4) 20 28
          (groupBytes x.dfn ++ groupState s g x) (ans stOk) s) s

/-! ### Switching requests received (R200, R202, R212) -/

/-- DIR, BRIDGE and ET of a message are the group's own. -/
def sameArch (d : GroupDef) (w : Word) : Bool :=
  bitOf w.toNat 6 = d.isBi && bitOf w.toNat 5 = decide (2 ≤ d.type) && bitOf w.toNat 3 = d.et

/-- The cause of a failed channel has cleared, before the message now received. -/
def causeGone (s : State) (x : Group) : Bool :=
  match x.chCause with
  | 1 => !laneCause s x.dfn
  | 4 => !awaits x (x.topReq, x.topSig) x.topFar
  | _ => true

/-- A message enters a group's persistence filter (08_protection.md Table 8.6), with PERSIST `n`: the
group, and whether the message replaced one received fewer than PERSIST times. -/
def filterMsg (n : Nat) (w : Word) (x : Group) : Group × Bool :=
  let same := x.lastRx = some w
  let k := if same then min 7 (x.rxCount + 1) else 1
  let take := decide (n ≤ k) && decide (x.accepted ≠ some w)
  ({ x with
      lastRx := some w, rxCount := k
      accepted := (if take then some w else x.accepted)
      changed := x.changed || take
      exer := (if take && decide ((msgReq w).1 = 2) then x.exer.filter (·.1 ≠ (msgReq w).2) else x.exer) },
    !same && x.lastRx.isSome && decide (x.rxCount < n))

/-- A message passes the checks and enters the filter of group g; the channel fails for ARCH or stands
again (08_protection.md R212). -/
def heardMsg (g n : Nat) (w : Word) (x : Group) (s : State) : State :=
  let (y, unstable) := filterMsg n w x
  let arch := sameArch x.dfn w
  let reached := decide (n ≤ y.rxCount)
  let back := x.chCause ≠ 0 && causeGone s x && (x.chCause ≠ 3 || (reached && arch))
  let z := { y with
    heardAt := s.tick
    chCause := (if back then 0 else y.chCause)
    changed := y.changed || back }
  let s := onlyIf unstable (count 0x330048) (setGroup g z s)
  let s := forAll (x.exer.filter fun e => !y.exer.contains e) (fun _ => raise .exerEnd g 0) s
  onlyIf (reached && !arch) (chFail g 3) s

/-- SRM_RX: the first message delivered from lane l with these bits goes through the checks of
08_protection.md R200; while SR_ENABLE is 0 it is discarded (R219). -/
def execSrmRx (l : Nat) (w : Word) (s : State) : Host.Outcome State Fault Refusal :=
  match s.prot.inbox.find? fun m => m.lane = l && m.msg = w with
  | none => .next s
  | some m =>
    let s := { s with prot := { s.prot with inbox := s.prot.inbox.erase m } }
    let p := portOf l
    let g := bitsOf w.toNat 27 15
    if !srOn s p then .next s
    else if 0xA < (msgReq w).1 ∨ bitsOf w.toNat 2 0 ≠ 0 then .next (count 0x330050 s)
    else match group s g with
      | none => .next (count 0x330050 s)
      | some x =>
        if x.dfn.sr.map (·.1) ≠ some p then .next (count 0x330050 s)
        else if x.dfn.srLane ≠ some l then .next (count 0x33004C s)
        else if x.dfn.n < (msgReq w).2 ∨ x.dfn.n < msgBr w then .next (count 0x330050 s)
        else .next (heardMsg g (persistOf s p) w x s)

/-! ### Timers -/

/-- A path's conditions that have been held off long enough become requests. -/
def PathCond.due (c : PathCond) (holdOff tick : Nat) : PathCond :=
  let go (at_ : Option Nat) : Bool := match at_ with
    | some t => decide (t + holdOff ≤ tick)
    | none => false
  { c with sfReq := c.sfReq || (c.sf && go c.sfAt), sdReq := c.sdReq || (c.sd && go c.sdAt) }

/-- HOLD_OFF_EXPIRY (08_protection.md R205). -/
def execHoldOffExpiry (g : Nat) (s : State) : Host.Outcome State Fault Refusal :=
  match group s g with
  | none => .next s
  | some x =>
    let ps := spMap (fun _ => PathCond.reset) (fun _ c => c.due x.dfn.holdOff s.tick) x.paths
    let late := x.latePaths.map fun e => (e.1, e.2.due x.dfn.holdOff s.tick)
    if ps = x.paths then .next s else .next (setGroup g { x with paths := ps, latePaths := late, changed := true } s)

/-- WTR_EXPIRY (08_protection.md R206). -/
def execWtrExpiry (g : Nat) (s : State) : Host.Outcome State Fault Refusal :=
  match group s g with
  | none => .next s
  | some x => match x.wtr with
    | none => .next s
    | some e => if e.2 ≤ s.tick then .next (setGroup g { x with wtr := none, changed := true } s) else .next s

/-- EXER_TIMEOUT (08_protection.md R207): its event reports the end without RR. -/
def execExerTimeout (g : Nat) (s : State) : Host.Outcome State Fault Refusal :=
  match group s g with
  | none => .next s
  | some x =>
    let (ended, on) := x.exer.partition fun e => decide (e.2 + ms 100 ≤ s.tick)
    if ended.isEmpty then .next s
    else .next (forAll ended (fun _ => raise .exerEnd g 1) (setGroup g { x with exer := on, changed := true } s))

/-- CHANNEL_TIMEOUT (08_protection.md R212). -/
def execChannelTimeout (g : Nat) (s : State) : Host.Outcome State Fault Refusal :=
  match group s g with
  | none => .next s
  | some x => match x.dfn.srLane with
    | none => .next s
    | some l => if x.heardAt + chTimeout s l ≤ s.tick then .next (chFail g 2 s) else .next s

/-- NO_RESPONSE_TIMEOUT (08_protection.md R212). -/
def execNoResponseTimeout (g : Nat) (s : State) : Host.Outcome State Fault Refusal :=
  match group s g with
  | none => .next s
  | some x => match x.waitBr with
    | none => .next s
    | some t => if t + ms 50 ≤ s.tick then .next (chFail g 4 s) else .next s

/-- A load of scenario n by a group engine waits, runs or is armed (08_protection.md R214). -/
def loadPending (s : State) (n : Nat) : Bool :=
  (s.page.waiting.map (·.2) ++ s.page.holder.toList).any fun w => match w with
    | .groupLoad _ k => k = n
    | _ => false

/-- A group asks for its scenario's load (06_pages.md R163): one load for all groups that ask before
the swap. -/
def askLoad (g n : Nat) (s : State) : State :=
  if loadPending s n then s
  else
    let s := count 0x330060 s
    if (scen s n).auto && flg s 0x310004 0 && isActive s then request (.groupLoad g n) s else restoreFail g s

/-- RESTORE_HOLD_EXPIRY (08_protection.md R214). -/
def execRestoreHoldExpiry (g : Nat) (s : State) : Host.Outcome State Fault Refusal :=
  match group s g with
  | none => .next s
  | some x => match x.bothAt, x.dfn.restore with
    | some t, some n =>
      if x.restored ∨ s.tick < t + x.dfn.restoreHold then .next s
      else
        let y := { x with restored := true }
        let s := setGroup g y s
        .next (askLoad g n (journal (decisionRecord s g y) s))
    | _, _ => .next s

end Sys2Proof.Machine
end

