-- ==== Sys2Proof/Machine/Monitor.lean ====
section
/-! DEFINITION. Defects, tallies, seconds and performance history (09_monitoring.md). -/

namespace Sys2Proof.Machine

/-! ### Objects: lanes 0-259, ports 300-308, strings from 1000 -/

/-- History and defects of an object. -/
def hist (s : State) (o : Nat) : Hist := spGet (fun _ => Hist.reset) s.pm.hist o

/-- Set them. -/
def setHist (o : Nat) (h : Hist) (s : State) : State :=
  { s with pm := { s.pm with hist := spSet (fun _ => Hist.reset) o h s.pm.hist } }

/-- Change every object's. -/
def mapHist (f : Nat → Hist → Hist) (s : State) : State :=
  { s with pm := { s.pm with hist := spMap (fun _ => Hist.reset) f s.pm.hist } }

/-- Class of an object: 1 lane, 2 port, 3 string (Table 9.5). -/
def objClass (o : Nat) : Nat := if o < 300 then 1 else if o < 1000 then 2 else 3

/-- The object of a class and number. -/
def objOf (cls n : Nat) : Nat := if cls = 1 then n else if cls = 2 then 300 + n else 1000 + n

/-- The port whose tally banks hold an object's tallies; 8 is PX. Those of a string that has been deleted stay where
they were added. -/
def objPort (s : State) (o : Nat) : Nat :=
  match objClass o with
  | 1 => portOf o
  | 2 => o - 300
  | _ =>
    let x := s.abacus.map.str (o - 1000)
    if x.st = 0 then (hist s o).port else x.inPort

/-- The port engine that tallies an object (01_architecture.md R20, 09_monitoring.md R228). -/
def objEngine (s : State) (o : Nat) : Nat :=
  match objClass o with
  | 1 => 16 * portOf o + inPort o / 2
  | 2 => 16 * (o - 300)
  | _ => 16 * objPort s o + (o - 1000) % 16

/-- The tallies of an object are kept: its port engine has not halted, or its work is hosted
(11_engines_banks.md R276). -/
def tallied (s : State) (o : Nat) : Bool :=
  decide (objPort s o = 8) || decide ((eng s (runs s (objEngine s o))).st ≠ 3)

/-! ### Configuration in force (R239) -/

def pmClr (s : State) : Nat := max 1 (bitsOf s.pm.cfg.toNat 31 16)
def pmCsd (s : State) : Nat := max 1 (bitsOf s.pm.cfg.toNat 3 0)
def pmWindow (s : State) : Nat := max 1 (bitsOf s.pm.degCfg.toNat 15 0)
def pmSd (s : State) : Nat := max 1 (bitsOf s.pm.degThresh.toNat 15 0)
def pmSf (s : State) : Nat := max 1 (bitsOf s.pm.degThresh.toNat 31 16)

/-- DAY_OFFSET; 86,400 and above act as 0. -/
def dayOff (s : State) : Nat :=
  let d := bitsOf s.pm.dayOffset.toNat 16 0
  if d < 86400 then d else 0

/-- Take the registers into force; DAY_OFFSET only with bins. -/
def latchPm (day : Bool) (s : State) : State :=
  { s with pm := { s.pm with
    cfg := cfg s 0x340004, degCfg := cfg s 0x340008, degThresh := cfg s 0x34000C
    dayOffset := (if day then cfg s 0x340010 else s.pm.dayOffset) } }

/-! ### Conditions of defects (R220) -/

/-- A lane is in codeword lock. -/
def cwLocked (s : State) (l : Nat) : Bool := decide ((lane s l).trn.rx = 3)

/-- The conditions of a lane in the tick that has ended, by bit of Table 9.12: those that hold, and those
that arose in it (01_architecture.md Table 1.7). -/
def laneConds (s : State) (l : Nat) (h : Hist) : List Bool :=
  let x := lane s l
  let sum := h.window.sum
  let sf := decide (pmSf s ≤ sum)
  [!x.trn.signal || x.cnt.los, !(x.trn.signal && x.trn.cdr) || x.cnt.los || x.cnt.lol,
    !cwLocked s l || x.cnt.locw,
    x.cnt.loa || !(x.frm.cands.any (·.sync)), !x.frm.lock, sf,
    decide (pmSd s ≤ sum) && !sf && !h.defects.getLsbD 5]

/-- The conditions of a port: PDN, PBD, PCAP. -/
def portConds (s : State) (p : Nat) : List Bool :=
  let st := (port s p).st.toNat
  [decide (1 ≤ st ∧ st ≤ 4),
    (st = 5 || st = 6) && decide ((bondedLanes s p).length < cfgLanes s p),
    (port s p).cap.mute]

/-- A lane carries an input slot of a string and fails it (SLF). -/
def laneFails (s : State) (l : Nat) : Bool :=
  decide ((hist s l).defects.toNat % 32 ≠ 0) || !(lane s l).bond.bonded

/-- SLF of a string, and SCS by its run of conditioned ticks. -/
def strConds (s : State) (n : Nat) (h : Hist) : List Bool :=
  let x := s.abacus.map.str n
  [decide ((port s x.inPort).st ≠ 5) || (x.ins.map (· / 1024)).eraseDups.any (laneFails s),
    if h.defects.getLsbD 1 then true else decide (pmCsd s ≤ h.csRun)]

/-- Defect bits that cause SES (Table 9.1). -/
def sesMask (cls : Nat) : BitVec 8 := if cls = 1 then 0x3F else if cls = 2 then 1 else 3

/-- The event of a defect, none for SLF. -/
def defectEv (cls d : Nat) : Option Ev :=
  if cls = 1 then [Ev.los, .lol, .locw, .loa, .lot, .lsf, .lsd][d]?
  else if cls = 2 then [Ev.pdn, .pbd, .pcap][d]?
  else if d = 1 then some .scs else none

/-- A higher defect of the same lane than d is among some (R222). -/
def higherHeld (cls : Nat) (ds : BitVec 8) (d : Nat) : Bool := cls = 1 && decide (ds.toNat % 2 ^ d ≠ 0)

/-! ### One tick of an object -/

/-- The bits of a list. -/
def bitsWord (bs : List Bool) : BitVec 8 :=
  BitVec.ofNat 8 ((List.range bs.length).map fun i => b2n (bs.getD i false) * 2 ^ i).sum

/-- Defects after a tick's conditions: those that hold are declared; the counts of absence advance. -/
def declare (cs : List Bool) (h : Hist) : Hist :=
  let now := h.defects ||| bitsWord cs
  let absent := (List.range cs.length).filterMap fun d =>
    if h.defects.getLsbD d && !cs.getD d false
    then some (d, spGet (fun _ => 0) h.absent d + 1) else none
  { h with before := h.defects, defects := now, absent := absent }

/-- The defects whose declaration is now reported (R222). -/
def toReport (cls : Nat) (h : Hist) : List Nat :=
  (List.range 8).filter fun d =>
    h.defects.getLsbD d && !h.reported.getLsbD d
    && !higherHeld cls h.defects d
    && (h.before.getLsbD d || !higherHeld cls h.before d)

/-- Set a bit. -/
def setBit (x : BitVec 8) (d : Nat) : BitVec 8 := x ||| BitVec.ofNat 8 (2 ^ d)
def clrBit (x : BitVec 8) (d : Nat) : BitVec 8 := x &&& ~~~(BitVec.ofNat 8 (2 ^ d))

/-- Number of an object within its class. -/
def objNum (o : Nat) : Nat := if o < 300 then o else if o < 1000 then o - 300 else o - 1000

/-- Raise the declarations of an object that are due. -/
def reportDefects (o : Nat) (s : State) : State :=
  let cls := objClass o
  forAll (toReport cls (hist s o)) (fun d s =>
    match defectEv cls d with
    | none => s
    | some e =>
      let h := hist s o
      raise e (objNum o) 0 (setHist o { h with reported := setBit h.reported d } s)) s

/-- Monitoring of an object ends (R221): its defects end, and those reported raise their clearing events
with the end of monitoring as cause. -/
def endMonitor (o : Nat) (s : State) : State :=
  let h := hist s o
  let cls := objClass o
  let s := setHist o { h with
    mon := false, defects := 0, before := 0, reported := 0, absent := [], csRun := 0, window := []
    belowSf := 0, belowSd := 0
    cur15 := { h.cur15 with flags := setBit h.cur15.flags 0 }
    cur24 := { h.cur24 with flags := setBit h.cur24.flags 0 } } s
  forAll ((List.range 8).filter (h.reported.getLsbD ·)) (fun d s =>
    match defectEv cls d with
    | none => s
    | some e => raiseX e true (objNum o) 1 s) s

/-- Add lists of counts, the shorter as if it went on with zeros. -/
def addRaw : List Nat → List Nat → List Nat
  | [], ys => ys
  | xs, [] => xs
  | x :: xs, y :: ys => (x + y) :: addRaw xs ys

/-- Raw counts of a port: the skew is the largest, not a sum. -/
def addPortRaw (xs ys : List Nat) : List Nat :=
  addRaw (xs.take 5) (ys.take 5) ++ [max (xs.getD 5 0) (ys.getD 5 0)]

/-- The raw counts of a tick and whether the tick is errored (Table 9.2). -/
def tickCounts (s : State) (o : Nat) : List Nat × Bool :=
  match objClass o with
  | 1 =>
    let c := (lane s o).cnt
    ([c.corr, c.uncorr, c.hdr, c.bip8, c.bip2], decide (0 < c.uncorr + c.hdr + c.bip8))
  | 2 =>
    let x := port s (o - 300)
    let c := x.cnt
    ([c.late, c.early, c.exit, c.drop, c.cond, x.bind.skew], decide (0 < c.late + c.early + c.exit + c.drop + c.cond))
  | _ =>
    let c := spGet (fun _ => StrTick.reset) s.pm.strTick (o - 1000)
    ([c.bip2, c.cUp], decide (0 < c.bip2))

/-- The 32-bit cells of an object's record in the second in progress, by bank and byte address (09_monitoring.md
R228): string records of 12 bytes by number in the first three banks of the half, the others in the fourth; PX has
none. -/
def recordCells (s : State) (o : Nat) : List (Nat × Nat) :=
  let p := objPort s o
  let b := 16 + 8 * p + 4 * (s.pm.second % 2)
  if 8 ≤ p then []
  else if objClass o = 3 then (List.range 3).map fun i =>
    let a := 12 * (o - 1000) + 4 * i
    (b + a / 262144, a % 262144)
  else (Config.tallyCells o).map fun k => (b + 3, 4 * k % 262144)

/-- The atomic fetch-and-adds of a tick's counts to an object's record (09_monitoring.md R229). A bank under
preserving test is recalled, and the add stalls until it is back (R230, 11_engines_banks.md R294). -/
def tallyAdd (o : Nat) (counts : List Nat) (s : State) : State :=
  let add (e : (Nat × Nat) × Nat) (s : State) : State := accessStep [{
    portB := false, supervisor := false, agent := runs s (objEngine s o), kernel := false, bank := e.1.1, addr := e.1.2
    op := .fetchAdd false (Config.tallyAdd (objClass o) counts e.2), ecc := 0 }] s
  let t := forAll (recordCells s o).zipIdx add s
  { t with bank := { t.bank with answers := s.bank.answers } }

/-- A tally bank of the half that holds second n of port p is FAILED (R230). -/
def halfFailed (s : State) (p n : Nat) : Bool :=
  p < 8 && (List.range 4).any fun i => (bank s (16 + 8 * p + 4 * (n % 2) + i)).failed

/-- The half of the second in progress is lost for port p: nothing is added to it. -/
def secondLost (s : State) (p : Nat) : Bool :=
  (spGet (fun _ => Halves.reset) s.pm.halves p).lost || halfFailed s p s.pm.second

/-- Add the tick to the tally of a monitored object (R225, R229): dropped when the second is lost for its
port, when its engine has halted, or when the event window was full. -/
def tally (o : Nat) (dropped : Bool) (s : State) : State :=
  let h := hist s o
  let cls := objClass o
  let t := h.now
  let (raw, err) := tickCounts s o
  let lostSec := secondLost s (objPort s o)
  let ses := h.defects &&& sesMask cls ≠ 0
  let keep := !dropped && tallied s o && !lostSec && !(cls = 3 && h.defects.getLsbD 0)
  let loss := dropped || !tallied s o
  let flag (b : Bin) : Bin := if loss then { b with flags := setBit b.flags 2 } else b
  if !h.mon ∨ !s.pm.running then s
  else onlyIf (keep && (err || raw.any (0 < ·))) (tallyAdd o (b2n err :: raw)) (setHist o { h with
    cur15 := flag h.cur15, cur24 := flag h.cur24
    now := { t with
      ticks := t.ticks + 1
      err := t.err + b2n (keep && err)
      ses := t.ses || ses
      raw := (if !keep then t.raw else if cls = 2 then addPortRaw t.raw raw else addRaw t.raw raw)
      lost := t.lost || loss } } s)

/-- Widths of ES, SES and UAS, of BBE, and of the raw counts, by class and duration (Table 9.7). -/
def widths (cls : Nat) (day : Bool) : Nat × Nat × List Nat :=
  if cls = 3 then (if day then (17, 32, [32, 32]) else (10, 30, [30, 30]))
  else if cls = 1 then (17, 32, [64, 32, 32, 32, 32]) else (17, 32, [32, 32, 32, 32, 22, 10])

/-- Add to a count that saturates; whether it did. -/
def satAdd (w x n : Nat) : Nat × Bool := if 2 ^ w ≤ x + n then (2 ^ w - 1, true) else (x + n, false)

/-- Count a decided second in a bin (R225, R226). -/
def countSec (cls : Nat) (day avail : Bool) (p : Pending) (b : Bin) : Bin :=
  let (w, wb, _) := widths cls day
  let es := satAdd w b.es (b2n (avail && p.es))
  let ses := satAdd w b.ses (b2n (avail && p.ses))
  let uas := satAdd w b.uas (b2n !avail)
  let bbe := satAdd wb b.bbe (if avail && !p.ses then p.bbe else 0)
  { b with
    es := es.1, ses := ses.1, uas := uas.1, bbe := bbe.1
    flags := (if es.2 || ses.2 || uas.2 || bbe.2 then setBit b.flags 3 else b.flags) }

/-- Count a second's raw counts in a bin. -/
def countRaw (cls : Nat) (day : Bool) (xs : List Nat) (b : Bin) : Bin :=
  let ws := (widths cls day).2.2
  let one (i : Nat) : Nat × Bool :=
    if cls = 2 ∧ i = 5 then satAdd 10 (max (b.raw.getD 5 0) (xs.getD 5 0)) 0
    else satAdd (ws.getD i 0) (b.raw.getD i 0) (xs.getD i 0)
  let rs := (List.range ws.length).map one
  { b with raw := rs.map (·.1), flags := (if rs.any (·.2) then setBit b.flags 3 else b.flags) }

/-- Change bin k of an interval: 0 the current one, then the previous ones. -/
def onBin (k : Nat) (f : Bin → Bin) (cur : Bin) (prev : List Bin) : Bin × List Bin :=
  match k with
  | 0 => (f cur, prev)
  | k + 1 => (cur, prev.modify k f)

/-- Sequence numbers of the current bins. -/
def seq15 (s : State) : Nat := (s.pm.info15.head?.map (·.seq)).getD 0
def seq24 (s : State) : Nat := (s.pm.info24.head?.map (·.seq)).getD 0

/-- Change the bins that hold a second, by their sequence numbers. -/
def onBins (s : State) (p : Pending) (f : Bool → Bin → Bin) (h : Hist) : Hist :=
  let at_ (q : Option Nat) (cur : Nat) (day : Bool) (b : Bin) (bs : List Bin) : Bin × List Bin :=
    match q with
    | none => (b, bs)
    | some n => onBin (cur - n) (f day) b bs
  let a := at_ p.seq15 (seq15 s) false h.cur15 h.prev15
  let b := at_ p.seq24 (seq24 s) true h.cur24 h.prev24
  { h with cur15 := a.1, prev15 := a.2, cur24 := b.1, prev24 := b.2 }

/-- Decide seconds as available or not. -/
def decideSecs (s : State) (cls : Nat) (avail : Bool) (ps : List Pending) (h : Hist) : Hist :=
  ps.foldl (fun h p => onBins s p (fun day b => countSec cls day avail p b) h) h

/-! ### Seconds (R225 to R227) -/

/-- A counted second goes through the availability rule (R227). -/
def availSec (s : State) (cls : Nat) (p : Pending) (h : Hist) : Hist :=
  let ps := h.pending ++ [p]
  if p.ses = h.avail then
    (if h.run < 9 then { h with pending := ps, run := h.run + 1 }
     else { decideSecs s cls (!h.avail) ps h with avail := !h.avail, pending := [], run := 0 })
  else { decideSecs s cls h.avail ps h with pending := [], run := 0 }

/-- At the end of second n, the seconds that have been pending for nine more are decided as their run stands; the run
itself goes on (R227; log entry 69). -/
def expirePending (s : State) (cls n : Nat) (h : Hist) : Hist :=
  let due := h.pending.filter fun p => decide (p.sec + 9 ≤ n)
  { decideSecs s cls h.avail due h with pending := h.pending.filter fun p => decide (n < p.sec + 9) }

/-- Fold one second of an object into its bins (R225, R230). -/
def foldSec (s : State) (cls : Nat) (x : PastSec) (h : Hist) : Hist :=
  let flags (b : Bin) : Bin := { b with
    flags := (let f := if x.counted then b.flags else setBit b.flags 0
              if x.lost then setBit f 2 else f) }
  let h := onBins s x.cls (fun _ b => flags b) h
  -- a new period of monitoring begins available; what an earlier one left pending stays as it was
  let h := if x.start then { decideSecs s cls h.avail h.pending h with avail := true, pending := [], run := 0 } else h
  expirePending s cls x.cls.sec
    (if x.counted then availSec s cls x.cls (onBins s x.cls (fun day b => countRaw cls day x.raw b) h) else h)

/-- SIZE, rate or LANES of an object. -/
def shapeOf (s : State) (o : Nat) : Nat :=
  match objClass o with
  | 1 => laneRate s o + 1
  | 2 => (port s (o - 300)).lanes
  | _ => (s.abacus.map.str (o - 1000)).ins.length

/-- Object changes show in the current bins (R235, R236): a string created anew starts with empty bins. -/
def noteShape (o : Nat) (s : State) : State :=
  let h := hist s o
  let n := shapeOf s o
  if h.shape = n then s
  else if objClass o = 3 ∧ h.shape = 0 then
    -- the seconds of an earlier string that are not yet folded or decided count in its previous bins only
    let prior (p : Pending) : Pending :=
      { p with seq15 := p.seq15.filter (· ≠ seq15 s), seq24 := p.seq24.filter (· ≠ seq24 s) }
    let old := h.past.foldl (fun h x => foldSec s 3 { x with cls := prior x.cls } h)
      { h with pending := h.pending.map prior }
    let old := decideSecs s 3 old.avail old.pending old
    setHist o { old with
      shape := n, cur15 := { Bin.empty with flags := 1 }, cur24 := { Bin.empty with flags := 1 }, port := objPort s o
      avail := true, pending := [], run := 0, past := [], now := { Tally.empty with start := true } } s
  else
    let flag (b : Bin) : Bin := if h.shape ≠ 0 then { b with flags := setBit b.flags 4 } else b
    setHist o { h with shape := n, cur15 := flag h.cur15, cur24 := flag h.cur24 } s

/-- Monitoring of an object begins, with no defects (R221); from this second it is available (R227). -/
def beginMonitor (o : Nat) (s : State) : State :=
  let h := hist s o
  let seen (b : Bin) : Bin := { b with flags := setBit (clrBit b.flags 6) 0 }
  setHist o { h with mon := true, port := objPort s o, now := { h.now with start := true }, cur15 := seen h.cur15, cur24 := seen h.cur24 } s

/-- The BIP-8 window of a lane (R220). -/
def slideWindow (s : State) (l : Nat) (h : Hist) : Hist :=
  let w := ((lane s l).cnt.bip8 :: h.window).take (pmWindow s)
  let sum := w.sum
  { h with window := w
           belowSf := (if sum < pmSf s then h.belowSf + 1 else 0)
           belowSd := (if sum < pmSd s then h.belowSd + 1 else 0) }

/-- The run of ticks with an upstream C = 1 slot, or, while SCS is declared, without one. -/
def countCs (s : State) (n : Nat) (h : Hist) : Hist :=
  let c := decide (0 < (spGet (fun _ => StrTick.reset) s.pm.strTick n).cUp)
  { h with csRun := (if c = !h.defects.getLsbD 1 then min 15 (h.csRun + 1) else 0) }

/-- The run of ticks without one begins when SCS is declared. -/
def startRun (h : Hist) : Hist :=
  if h.defects.getLsbD 1 && !h.before.getLsbD 1 then { h with csRun := 0 } else h

/-- One tick of an object that should be monitored as `on_` says. -/
def monitorObj (o : Nat) (on_ : Bool) (dropped : Bool) (s : State) : State :=
  let h := hist s o
  if !on_ then (if h.mon then endMonitor o s else s)
  else
    let s := noteShape o (if h.mon then s else beginMonitor o s)
    let h := hist s o
    let h := match objClass o with
      | 1 => let x := slideWindow s o h; declare (laneConds s o x) x
      | 2 => declare (portConds s (o - 300)) h
      | _ => let x := countCs s (o - 1000) h; startRun (declare (strConds s (o - 1000) x) x)
    tally o dropped (reportDefects o (setHist o h s))

/-- The lanes to be looked at: those that have state. -/
def knownLanes (s : State) : List Nat :=
  ((s.lanes.map (·.1)) ++ (s.pm.hist.map (·.1)).filter (· < 300)).eraseDups

/-- A lane is monitored from its first codeword lock until ENABLE is cleared. -/
def laneMon (s : State) (l : Nat) : Bool :=
  flg s (laneBase l) 9 && (((hist s l).mon && !(lane s l).cnt.off) || cwLocked s l || (lane s l).cnt.locked)

/-- One tick of an object whose ENABLE, when `off`, was cleared in it: set again within the tick, it has ended the
monitoring all the same. -/
def monitorCut (o : Nat) (off on_ dropped : Bool) (s : State) : State :=
  monitorObj o on_ dropped (onlyIf (off && (hist s o).mon) (endMonitor o) s)

/-- One tick of a lane. -/
def monitorLane (l : Nat) (s : State) : State := monitorCut l (lane s l).cnt.off (laneMon s l) false s

/-- A port is monitored while CFG.ENABLE is 1. -/
def portMon (s : State) (p : Nat) : Bool := flg s (portBase p) 0

/-- The strings looked at: those that are not FREE, and those that have history. -/
def knownStrs (s : State) : List Nat :=
  let hs : List Nat := s.pm.hist.map fun x => x.1
  let ss : List Nat := s.abacus.map.strs.map fun x => x.1
  (ss ++ (hs.filter fun k => decide (1000 ≤ k)).map fun k => k - 1000).eraseDups

/-- A string is monitored while it is DEFINED or CONNECTED and its port is; on a standby twin the strings are the
other's (R221, R233). -/
def strMon (s : State) (n : Nat) : Bool :=
  let x := s.abacus.map.str n
  x.st ≠ 0 && portMon s x.inPort && isActive s

/-- The engine that fills the event window of an object and tallies it: its port engine, or that engine's host
(11_engines_banks.md R278). -/
def tallyEngine (s : State) (o : Nat) : Nat := runs s (objEngine s o)

/-- The strings of an engine with an entry in this tick (R231), ascending. -/
def windowStrs (s : State) (e : Nat) : List Nat :=
  (s.pm.strTick.filter fun x =>
    (x.2.bip2 ≠ 0 || x.2.cUp ≠ 0) && strMon s x.1 && tallyEngine s (1000 + x.1) = e
    && !((hist s (1000 + x.1)).defects.getLsbD 0)
    && !((strConds s x.1 (hist s (1000 + x.1))).headD false)).map (·.1)

/-- Entries beyond the first 256 of an engine are dropped for the tick (R231): counted, and the current
bins of every string of that engine are flagged. -/
def windowOverflow (s : State) : List Nat × State :=
  let es := ((s.pm.strTick.map fun x => tallyEngine s (1000 + x.1)).eraseDups).filter fun e =>
    decide (256 < (windowStrs s e).length)
  let lost := es.flatMap fun e => (windowStrs s e).drop 256
  let flag (b : Bin) : Bin := { b with flags := setBit b.flags 2 }
  (lost, onlyIf (!es.isEmpty) (count 0x340018) (mapHist (fun o h =>
    if 1000 ≤ o ∧ es.contains (tallyEngine s o) then { h with cur15 := flag h.cur15, cur24 := flag h.cur24 } else h) s))

/-- Do something as of another tick: what it reports carries that tick. -/
def asOf (t : Nat) (f : State → State) (s : State) : State := { f { s with tick := t } with tick := s.tick }

/-- One tick of every monitored object: defects declared, events, and tallies (R220 to R231). -/
def monitorAll (s : State) : State :=
  let s := if s.pm.running then s else latchPm false s
  let s := forAll (knownLanes s) monitorLane s
  let s := forAll (List.range 9) (fun p s =>
    if portMon s p || (hist s (300 + p)).mon then monitorCut (300 + p) (port s p).cnt.off (portMon s p) false s
    else s) s
  let (lost, s) := windowOverflow s
  forAll (knownStrs s) (fun n s =>
    monitorCut (1000 + n) (port s (s.abacus.map.str n).inPort).cnt.off (strMon s n) (lost.contains n) s) s

/-- The tick that has ended, whose number the declarations carry (R220). -/
def monitorTick (s : State) : State := asOf (s.tick - 1) monitorAll s

/-- Clear what the tick brought on lanes, ports and strings. -/
def clearTickCounts (s : State) : State :=
  { s with
    lanes := spMap (fun _ => Lane.reset) (fun _ x => { x with cnt := LaneTick.reset }) s.lanes
    ports := spMap (fun _ => Port.reset) (fun _ x => { x with cnt := PortTick.reset }) s.ports
    core := { s.core with filled := s.core.filled.filter fun e => decide (s.tick < e.2.2 + 2) }
    pm := { s.pm with strTick := [] } }

/-! ### Clearing (R220, R222) -/

/-- A declared defect has met its rule of clearing (Table 9.1). -/
def clears (s : State) (cls n d : Nat) (h : Hist) : Bool :=
  if cls = 1 ∧ d = 5 then decide (pmWindow s ≤ h.belowSf)
  else if cls = 1 ∧ d = 6 then decide (pmWindow s ≤ h.belowSd)
  else if cls = 2 ∧ d = 2 then !(port s n).cap.mute
  else if cls = 3 ∧ d = 1 then decide (pmCsd s ≤ h.csRun)
  else decide (pmClr s ≤ spGet (fun _ => 0) h.absent d)

/-- DEFECT_CLEAR: the clearing event is raised when the declaration was reported and no higher defect of
the lane is held before or after the tick's update. -/
def execDefectClear (cls n d : Nat) (s : State) : Host.Outcome State Fault Refusal :=
  let o := objOf cls n
  let h := hist s o
  if !(1 ≤ cls ∧ cls ≤ 3) ∨ !h.defects.getLsbD d ∨ !clears s cls n d h then .next s
  else
    let ds := clrBit h.defects d
    let told := h.reported.getLsbD d && !higherHeld cls h.before d && !higherHeld cls ds d
    let s := setHist o { h with
      defects := ds, reported := clrBit h.reported d, absent := spDel d h.absent
      csRun := (if cls = 3 ∧ d = 1 then 0 else h.csRun) } s
    .next (match defectEv cls d with
      | some e => if told then raiseX e true n 0 s else s
      | none => s)

/-! ### The end of a second (R224 to R234) -/

/-- Close the second of one object: `n` ticks. -/
def closeSec (s : State) (n o : Nat) (h : Hist) : Hist :=
  let t := h.now
  let lost := secondLost s (objPort s o)
  let counted := decide (t.ticks = n) && !lost
  let ses := t.ses || decide (15 * n ≤ 100 * t.err ∧ 0 < n)
  let x : PastSec := ⟨counted, lost || t.lost, t.start,
    ⟨s.pm.second, some (seq15 s), some (seq24 s), t.ses || decide (0 < t.err), ses, if ses then 0 else t.err⟩, t.raw⟩
  { h with now := Tally.empty, past := h.past ++ [x] }

/-- Close one kind of bin: every object's current bin becomes previous bin 1. -/
def closeBins (day : Bool) (flag : BitVec 8) (newFlag : BitVec 8) (s : State) : State :=
  let fresh (h : Hist) : Bin := { Bin.empty with flags := newFlag ||| (if h.mon then 0 else 0x40) }
  let old (b : Bin) : Bin := { b with flags := b.flags ||| flag }
  let s := mapHist (fun _ h =>
    if day then { h with cur24 := fresh h, prev24 := (old h.cur24 :: h.prev24).take 7 }
    else { h with cur15 := fresh h, prev15 := (old h.cur15 :: h.prev15).take 96 }) s
  let next (xs : List BinInfo) (k : Nat) : List BinInfo :=
    (⟨s.timing.sec, (xs.head?.map (·.seq)).getD 0 + 1, 0⟩ :: xs).take (k + 1)
  { s with pm := { s.pm with
    info15 := (if day then s.pm.info15 else next s.pm.info15 96)
    info24 := (if day then next s.pm.info24 7 else s.pm.info24) } }

/-- Flag the current bins of one kind. -/
def flagBins (day : Bool) (flag : BitVec 8) (s : State) : State :=
  mapHist (fun _ h => if day then { h with cur24 := { h.cur24 with flags := h.cur24.flags ||| flag } }
    else { h with cur15 := { h.cur15 with flags := h.cur15.flags ||| flag } }) s

/-- The interval of a bin: quarter hour, or day from DAY_OFFSET. -/
def interval (day : Bool) (off sec : Nat) : Int :=
  if day then ((sec : Int) - off) / 86400 else (sec : Int) / 900

/-- Close, continue or flag the bins of one kind at a boundary (R232, R234). -/
def turnBins (day change : Bool) (s : State) : State :=
  let sec := s.timing.sec
  let off := dayOff s
  let start := ((if day then s.pm.info24 else s.pm.info15).head?.map (·.tod)).getD 0
  if change then
    (if interval day off sec = interval day off start then flagBins day 2 s else closeBins day 3 3 s)
  else if (if day then ((sec : Int) - off) % 86400 = 0 else sec % 900 = 0) then closeBins day 0 0 s
  else s

/-- The 24-hour bins at a boundary: a change of DAY_OFFSET closes them (R239), once. -/
def turnDay (change : Bool) (s : State) : State :=
  if cfg s 0x340010 ≠ s.pm.dayOffset then closeBins true 3 (if change then 3 else 1) s else turnBins true change s

/-- One more second counted in the current bins. -/
def countInfo (s : State) : State :=
  let f (xs : List BinInfo) : List BinInfo := match xs with
    | x :: xs => { x with secs := x.secs + 1 } :: xs
    | [] => []
  { s with pm := { s.pm with info15 := f s.pm.info15, info24 := f s.pm.info24 } }

/-- The next second begins. -/
def nextSecond (s : State) : State :=
  { s with pm := { s.pm with ticks := 1, lastSec := s.timing.sec, todChange := false } }

/-- Monitoring starts (R224, R233): every first bin is PARTIAL. -/
def startMonitor (s : State) : State :=
  let info : List BinInfo := [⟨s.timing.sec, 0, 0⟩]
  let first (h : Hist) : Bin := { Bin.empty with flags := if h.mon then 1 else 0x41 }
  nextSecond (latchPm true { mapHist (fun _ h => { h with cur15 := first h, cur24 := first h }) s with
    pm := { s.pm with
      running := true, second := 0, info15 := info, info24 := info
      hist := spMap (fun _ => Hist.reset) (fun _ h => { h with
        cur15 := first h, cur24 := first h, now := Tally.empty, past := [], avail := true, pending := [], run := 0 }) s.pm.hist } })

/-- A second ends (R225 to R232). -/
def endSecond (s : State) : State :=
  let n := s.pm.ticks - 1
  let change := s.pm.todChange
  let bad := (List.range 8).filter fun p =>
    halfFailed s p s.pm.second && !(spGet (fun _ => Halves.reset) s.pm.halves p).lost
  let s := countN 0x34001C bad.length s
  let s := mapHist (fun o h => closeSec s n o h) s
  let s := countInfo s
  let s := latchPm true (turnDay change (turnBins false change s))
  nextSecond { s with pm := { s.pm with
    second := s.pm.second + 1
    halves := spMap (fun _ => Halves.reset) (fun _ h => { h with lost := false }) s.pm.halves } }

/-- SECOND_BOUNDARY (R224, R234): a tick edge whose seconds value differs from that of the second in
progress, or at which time of day has changed. -/
def execSecondBoundary (s : State) : Host.Outcome State Fault Refusal :=
  let turned := decide (s.timing.sec ≠ s.pm.lastSec)
  if !s.timing.todValid ∨ !(turned || s.pm.todChange) then .next s
  else if s.pm.running then .next (endSecond s)
  else if turned then .next (startMonitor s)
  else .next { s with pm := { s.pm with todChange := false } }

/-! ### Tally halves (R229, R230) -/

/-- The halves of port p. -/
def halves (s : State) (p : Nat) : Halves := spGet (fun _ => Halves.reset) s.pm.halves p

/-- Set them. -/
def setHalves (p : Nat) (h : Halves) (s : State) : State :=
  { s with pm := { s.pm with halves := spSet (fun _ => Halves.reset) p h s.pm.halves } }

/-- The banks of the half of second n of port p (Table 9.3); PX has none. -/
def halfBanks (p n : Nat) : List Nat := if p < 8 then (List.range 4).map (16 + 8 * p + 4 * (n % 2) + ·) else []

/-- Hand the banks of a half to an owner; one lent to the march test changes its lender. -/
def giveHalf (p n owner : Nat) (s : State) : State :=
  forAll (halfBanks p n) (fun b s =>
    let x := bank s b
    if x.failed then s
    else if x.owner = 4 then setBank b { x with lender := owner } s
    else handOver b owner s) s

/-- TALLY_HANDOFF: from the third tick of a second, the half of the one before goes to MGMT. -/
def execTallyHandoff (p : Nat) (s : State) : Host.Outcome State Fault Refusal :=
  let h := halves s p
  let n := h.given
  if !s.pm.running ∨ s.pm.second ≤ n ∨ s.pm.ticks < 3 ∧ s.pm.second = n + 1 then .next s
  else .next (setHalves p { h with out := h.out ++ [n], given := n + 1 } (giveHalf p n 1 s))

/-- Fold second n of every object of port p. -/
def foldPort (p n : Nat) (s : State) : State :=
  mapHist (fun o h => if objPort s o ≠ p then h
    else match h.past with
      | x :: xs => if x.cls.sec ≤ n then { foldSec s (objClass o) x h with past := xs } else h
      | [] => h) s

/-- The management complex writes the records of the half of second n of port p to zero (R230). -/
def clearRecords (p n : Nat) (s : State) : State :=
  let bs := (halfBanks p n).filter fun b => !(bank s b).failed
  let s := forAll (bs.filter fun b => b % 4 ≠ 3) zeroBank s
  let cells := ((List.range 32).map (32 * p + ·) ++ [300 + p]).flatMap Config.tallyCells
  { s with bank := { s.bank with
    mem := ((bs.filter (· % 4 = 3)).foldl (fun s b =>
      cells.foldl (fun s k =>
        let w := 4 * k % 262144 / 8
        let x := bankWord s b w
        setBankWord b w (if k % 2 = 0 then x &&& 0xFFFFFFFF00000000 else x &&& 0xFFFFFFFF) s) s) s).bank.mem } }

/-- FOLD_DONE: the oldest half with MGMT is folded into history, its records are written to zero, and it is handed
back to the cluster that serves the port. -/
def execFoldDone (p : Nat) (s : State) : Host.Outcome State Fault Refusal :=
  let h := halves s p
  match h.out with
  | [] => .next s
  | n :: ns =>
    let c := match spGet (fun _ => 0) s.eng.host p with
      | 0 => p
      | k + 1 => k
    if !mgmtRuns s then .next s
    else .next (setHalves p { h with out := ns } (giveHalf p n (16 + c) (clearRecords p n (foldPort p n s))))

/-- TALLY_HANDBACK_MISSED: the half that the second in progress needs is still with MGMT, or was not yet
handed over, and the second is lost for the port. -/
def execTallyHandbackMissed (p : Nat) (s : State) : Host.Outcome State Fault Refusal :=
  let h := halves s p
  let n := s.pm.second
  if !s.pm.running ∨ h.lost ∨ n < 2 ∨ !(h.out.contains (n - 2) || decide (h.given + 1 < n)) then .next s
  else .next (count 0x34001C (setHalves p { h with lost := true } s))

/-! ### PM_FETCH (R237, R238) -/

/-- Bin k of an object: its flags with PENDING, and the object missing from it when it has none. -/
def binOf (s : State) (day : Bool) (k : Nat) (h : Hist) : Bin :=
  let cur := if day then seq24 s else seq15 s
  let pend := h.pending.any fun p => (if day then p.seq24 else p.seq15).any (· + k = cur)
  let b := match k with
    | 0 => some (if day then h.cur24 else h.cur15)
    | k + 1 => (if day then h.prev24 else h.prev15)[k]?
  match b with
  | none => Bin.absent
  | some b => { b with flags := if pend then setBit b.flags 5 else b.flags }

/-- The record of a bin (Table 9.7), as one number and its size in bytes. -/
def binRecord (cls : Nat) (day : Bool) (b : Bin) : Bytes :=
  let r (i : Nat) : Nat := b.raw.getD i 0
  let f := b.flags.toNat
  if cls = 1 then leBytes 40 (f * 2 ^ 312 + b.es * 2 ^ 288 + b.ses * 2 ^ 256 + b.uas * 2 ^ 224 + b.bbe * 2 ^ 192
    + r 0 * 2 ^ 128 + r 1 * 2 ^ 96 + r 2 * 2 ^ 64 + r 3 * 2 ^ 32 + r 4)
  else if cls = 2 then leBytes 32 (f * 2 ^ 248 + b.es * 2 ^ 224 + b.ses * 2 ^ 192 + b.uas * 2 ^ 160 + r 0 * 2 ^ 128
    + r 1 * 2 ^ 96 + r 2 * 2 ^ 64 + r 3 * 2 ^ 32 + r 4 * 2 ^ 10 + r 5)
  else if day then leBytes 24 (f * 2 ^ 184 + b.es * 2 ^ 160 + b.ses * 2 ^ 128 + b.uas * 2 ^ 96 + b.bbe * 2 ^ 64
    + r 0 * 2 ^ 32 + r 1)
  else leBytes 16 (f * 2 ^ 120 + b.es * 2 ^ 110 + b.ses * 2 ^ 100 + b.uas * 2 ^ 90 + b.bbe * 2 ^ 60
    + r 0 * 2 ^ 30 + r 1)

/-- Present defects of an object, as PM.LANE_DEF, PM.PORT_DEF and Table 9.6 lay them out. -/
def defectWord (s : State) (o : Nat) : Nat :=
  let h := hist s o
  b2n h.mon * 2 ^ 31 + h.defects.toNat

/-- The fetch header (Table 9.6). -/
def fetchHeader (tod secs seq size flags : Nat) : Bytes :=
  padTo 32 (leBytes 8 tod ++ leBytes 4 secs ++ leBytes 4 seq ++ leBytes 4 size ++ [BitVec.ofNat 8 flags])

/-- Objects of a class. -/
def classSize (c : Nat) : Nat := if c % 3 = 1 then 260 else if c % 3 = 2 then 9 else 65536

/-- BIN of a bin class: whether a day's, and its number. -/
def binNumber (b : Nat) : Option (Bool × Nat) :=
  if b ≤ 0x60 then some (false, b) else if 0x80 ≤ b ∧ b ≤ 0x87 then some (true, b - 0x80) else none

/-- What a fetch of bins writes. -/
def fetchBins (s : State) (cls first n : Nat) (day : Bool) (k : Nat) : Bytes :=
  let info := ((if day then s.pm.info24 else s.pm.info15)[k]?).getD ⟨0, 0, 0⟩
  let bins := (List.range n).map fun i => binOf s day k (hist s (objOf cls (first + i)))
  let flags := (bins.foldl (fun (m : BitVec 8) b => m ||| b.flags) 0).toNat
  let size := if cls = 1 then 40 else if cls = 2 then 32 else if day then 24 else 16
  fetchHeader info.tod info.secs info.seq size flags ++ bins.flatMap (binRecord cls day)

/-- What a fetch of defects writes. -/
def fetchDefects (s : State) (cls first n : Nat) : Bytes :=
  fetchHeader 0 s.pm.second 0 4 0
    ++ (List.range n).flatMap fun i => leBytes 4 (defectWord s (objOf cls (first + i)))

/-- PM_FETCH. -/
def execPmFetch (q : Nat) (s : State) : Host.Outcome State Fault Refusal :=
  runCmd 0x40 q (fun d s =>
    let c := (d.desc.getD 16 0).toNat
    let bin := binNumber (d.desc.getD 17 0).toNat
    let first := leAt d.desc 20 4
    let n := leAt d.desc 24 4
    let cls := if c ≤ 3 then c else c - 3
    match firstOf [refuseIf (c = 0 || decide (6 < c)) (badArg 16),
        refuseIf (decide (c ≤ 3) && bin.isNone) (badArg 17),
        refuseIf (decide (classSize c ≤ first)) (badArg 20),
        refuseIf (n = 0 || decide (classSize c < first + n)) (badArg 24)] with
    | some a => complete q a s
    | none =>
      let bs := match bin with
        | some (day, k) => if c ≤ 3 then fetchBins s cls first n day k else fetchDefects s cls first n
        | none => fetchDefects s cls first n
      answerBuffer q (leAt d.desc 28 8) (leAt d.desc 36 4) 28 36 bs (ans stOk) s) s

end Sys2Proof.Machine
end

