-- ==== Sys2Proof/Machine/Cipher.lean ====
section
/-! DEFINITION. Key slots, key blobs, CIPHER_OP and the datapaths (14_cipher.md R354 to R378). -/

namespace Sys2Proof.Machine

/-! ### Key blobs (R361, R362) -/

/-- Checks 1 to 3 of R362, on the 32 bytes of a blob's header. -/
def blobHeaderOk (owner : Bool) (b : Bytes) : Bool :=
  let at_ (i : Nat) : Nat := (b.getD i 0).toNat
  let size := at_ 16
  let modes := leAt b 18 2
  leAt b 0 4 = 0x424B5854 && at_ 4 = 1 && at_ 7 = 0 && leAt b 10 2 = 0 && decide (size < 2)
  && leAt b 8 2 = (if size = 0 then 88 else 104) && decide (at_ 17 < 4) && decide (modes < 64)
  && (if at_ 5 = 1 then at_ 6 = 2 && owner && at_ 17 ≠ 0 && modes ≠ 0 && decide (at_ 20 < 4)
        && (at_ 20 = 0 || (at_ 21 = 0 && leAt b 22 2 = 0)) && (!bitOf modes 5 || modes = 32)
      else at_ 5 = 2 && at_ 6 = 1 && size = 1 && (sub b 17 15).all (· = 0))

/-- Checks 4 and 5: the wrapped bytes unwrap under the key-encryption key and repeat the header. -/
def unwrapBlob (kek b : Bytes) : Option Bytes :=
  match kwUnwrap kek (sub b 32 (leAt b 8 2 - 32)) with
  | some p => if p.take 32 = b.take 32 then some (p.drop 32) else none
  | none => none

/-- A slot loaded with a blob's key and policy (R363): the next generation, and no uses. -/
def loadSlot (x : KeySlot) (key b : Bytes) : KeySlot :=
  { x with
    st := 2, was := 0, key := key, size := (b.getD 16 0).toNat, dir := (b.getD 17 0).toNat
    modes := leAt b 18 2, user := (b.getD 20 0).toNat, fn := (b.getD 21 0).toNat, queue := leAt b 22 2
    maxUses := leAt b 24 8, blobId := leAt b 12 4
    gen := (if x.gen = 0xFFFF then 1 else x.gen + 1), uses := 0 }

/-- GEN of a slot differs from the one expected: counted. -/
def genMismatch (q : Nat) (s : State) : State := complete q (ans stKeyGenMismatch) (count 0x60030 s)

/-- A blob is refused (R362). -/
def blobFails (q : Nat) (s : State) : State := complete q (ans stBlobInvalid) (count 0x6002C s)

/-- A VF may name only its own host slots (R367). -/
def vfMay (f : Nat) (x : KeySlot) : Bool := f = 0 || (x.st = 2 && x.user = 0 && x.fn = f)

/-- The bytes of the extension after the blob must be 0 (R361; 13_host.md R336; log entry 53). -/
def blobPadding (b : Bytes) : Option Answer :=
  let n := if (b.getD 16 0).getLsbD 0 then 104 else 88
  ((b.drop n).findIdx? (· ≠ 0)).map fun i => badArg (64 + n + i)

/-- Checks of KEY_UNWRAP into slot k at its commit point (R362, R367). -/
def startUnwrap (q k expect : Nat) (b : Bytes) (s : State) : State :=
  let x := keySlot s k
  let f := qFunction s q
  if x.st = 1 ∨ x.st = 3 then complete q (ans stBusy) s
  else if expect ≠ 0 ∧ expect ≠ x.gen then genMismatch q s
  else if !vfMay f x ∨ (f ≠ 0 ∧ ((b.getD 20 0).toNat ≠ 0 ∨ (b.getD 21 0).toNat ≠ f)) then
    complete q (ans stNotPermitted) s
  else if !blobHeaderOk s.sec.owner.isSome b then blobFails q s
  else waitDp (.unwrap q (some k)) (setKeySlot k { x with st := 1, was := x.st } s)

/-- KEY_UNWRAP: the slot goes to LOADING and the unwrap waits for a datapath. -/
def execKeyUnwrap (q : Nat) (s : State) : Host.Outcome State Fault Refusal :=
  runCmd 0x60 q (fun d s =>
    let b := extOf d
    let k := leAt d.desc 16 2
    match firstOf [refuseIf (extLen d.desc ≠ 128) (badArg 2), blobPadding b] with
    | some a => complete q a s
    | none =>
      if b.getD 5 0 = 2 then
        (if qFunction s q ≠ 0 then complete q (ans stNotPermitted) s
        else if !blobHeaderOk s.sec.owner.isSome b then blobFails q s
        else waitDp (.unwrap q none) s)
      else if 1024 ≤ k then complete q (badArg 16) s
      else startUnwrap q k (leAt d.desc 20 2) b s) s

/-- KEY_ERASE (R366, R367). -/
def execKeyErase (q : Nat) (s : State) : Host.Outcome State Fault Refusal :=
  runCmd 0x61 q (fun d s =>
    let k := leAt d.desc 16 2
    let expect := leAt d.desc 20 2
    let x := keySlot s k
    match firstOf [refuseIf (decide (1024 ≤ k)) (badArg 16)] with
    | some a => complete q a s
    | none =>
      if x.st = 1 ∨ x.st = 3 then complete q (ans stBusy) s
      else if expect ≠ 0 ∧ expect ≠ x.gen then genMismatch q s
      else if !vfMay (qFunction s q) x then complete q (ans stNotPermitted) s
      else if x.st = 0 then complete q (ans stOk) s
      else
        let s := setKeySlot k { x with st := 3 } s
        { s with sec := { s.sec with erasing := s.sec.erasing ++ [(q, k)] } }) s

/-- No datapath holds slot k's key. -/
def keyUnheld (s : State) (k : Nat) : Bool := !(s.sec.dps.any fun e => e.2.slot = some k)

/-- KEY_SLOT_ERASED (R363, R366): the key and policy are written to zero, GEN and FAULTS are kept; the slot is EMPTY,
and the erase that asked for it completes when its record is persisted. -/
def execKeySlotErased (k : Nat) (s : State) : Host.Outcome State Fault Refusal :=
  let x := keySlot s k
  if x.st ≠ 3 ∨ !keyUnheld s k then .next s
  else
    let s := count 0x60028 (resetCounters k (setKeySlot k { KeySlot.reset with gen := x.gen, faults := x.faults } s))
    match s.sec.erasing.find? fun e => e.2 = k with
    | none => .next s
    | some (q, _) =>
      let s := { s with sec := { s.sec with erasing := s.sec.erasing.filter fun e => e.2 ≠ k } }
      .next (completePersisted q false (ans stOk) (journal (.keyRef k x.gen true []) s))

/-- The record of a slot (Table 14.6). -/
def keyRecord (s : State) (k : Nat) : Bytes :=
  let x := keySlot s k
  let b (n : Nat) : Byte := BitVec.ofNat 8 n
  if x.st = 0 then b (b2n (cmdKey s k) * 4) :: (List.replicate 9 0 ++ leBytes 2 x.gen ++ List.replicate 20 0)
  else [b (b2n (cmdKey s k) * 4 + x.st), b x.size, b x.dir] ++ leBytes 2 x.modes ++ [b x.user, b x.fn, b x.faults]
    ++ leBytes 2 x.queue ++ leBytes 2 x.gen ++ leBytes 4 x.blobId ++ leBytes 8 x.uses ++ leBytes 8 x.maxUses

/-- KEY_READ (R374). -/
def execKeyRead (q : Nat) (s : State) : Host.Outcome State Fault Refusal :=
  runCmd 0x62 q (fun d s =>
    let first := leAt d.desc 16 2
    let n := leAt d.desc 18 2
    match firstOf [refuseIf (decide (1024 ≤ first)) (badArg 16),
        refuseIf (n = 0 || decide (1024 < first + n)) (badArg 18)] with
    | some a => complete q a s
    | none => answerBuffer q (leAt d.desc 20 8) (leAt d.desc 28 4) 20 28
        ((List.range n).flatMap fun i => keyRecord s (first + i)) ⟨stOk, 32 * n, 0, 0, 0⟩ s) s

/-! ### CIPHER_OP (R364, R372, R373) -/

/-- The checks of R364 for CIPHER_OP, in order: the status of the first that fails. -/
def mayStart (s : State) (q : Nat) (a : CipherAsk) : Option Nat :=
  let x := keySlot s a.slot
  if x.st ≠ 2 then some stKeyEmpty
  else if a.expect ≠ 0 ∧ a.expect ≠ x.gen then some stKeyGenMismatch
  else if x.user ≠ 0 ∨ x.fn ≠ qFunction s q ∨ (x.queue ≠ q ∧ x.queue ≠ 0xFFFF) then some stKeyPolicy
  else if !bitOf x.modes a.mode ∨ !bitOf x.dir (b2n a.dec) then some stKeyPolicy
  else if x.maxUses ≠ 0 ∧ x.maxUses ≤ x.uses then some stKeyPolicy
  else if cmdKey s a.slot then some stKeyPolicy
  else none

/-- A byte of the operation block that must be 0. -/
def blockZero (b : Bytes) (offs : List Nat) : Option Answer :=
  (offs.find? fun o => b.getD o 0 ≠ 0).map fun o => badArg (64 + o)

/-- The lengths of Tables 14.1 and 14.7, then the window. -/
def checkLengths (a : CipherAsk) : Option Answer :=
  let n := inLen a
  let b := a.block
  firstOf [
    (if a.mode = 5 then blockZero b (List.range 16) else if a.mode = 4 then blockZero b (List.range' 12 4) else none),
    refuseIf (decide (2 ^ 24 < n) || (a.mode = 0 && n % 16 ≠ 0)) (badArg 88),
    refuseIf (if a.mode = 4 then decide (n < aadLen a) else aadLen a ≠ 0) (badArg 92),
    refuseIf (a.mode ≠ 5 && decide (leAt b 40 4 < n - aadLen a)) (badArg 104),
    blockZero b (List.range' 44 4),
    (if a.dec ∧ 4 ≤ a.mode then none else blockZero b (List.range' 48 16)),
    refuseIf (a.mode = 4 && a.dec && decide (2 ^ 18 < n - aadLen a)) (ans stTooLarge)]

/-- Answer a CIPHER_OP that may not start. -/
def refuseOp (q : Nat) (r : Answer) (s : State) : State :=
  if r.status = stKeyGenMismatch then genMismatch q s else complete q r s

/-- What turns a CIPHER_OP away at its start: R364, then the lengths and the window (R372). -/
def opStop (s : State) (q : Nat) : Option Answer :=
  match mayStart s q (askOf s q) with
  | some st => some (ans st)
  | none => checkLengths (askOf s q)

/-- CIPHER_OP: the checks of step 5, then the operation waits for a datapath. An operation that finds
its slot LOADING waits before its checks (R364). -/
def execCipherOp (q : Nat) (s : State) : Host.Outcome State Fault Refusal :=
  runCmd 0x63 q (fun d s =>
    let a := cipherAsk d
    match firstOf [refuseIf (extLen d.desc ≠ 64) (badArg 2), refuseIf (decide (1024 ≤ a.slot)) (badArg 16),
        refuseIf (decide (5 < a.mode)) (badArg 18)] with
    | some r => complete q r s
    | none =>
      match (if (keySlot s a.slot).st = 1 then none else opStop s q) with
      | some r => refuseOp q r s
      | none => waitDp (.op q) s) s

/-! ### Datapaths (R355 to R358, R365, R368, R369) -/

/-- A CIPHER_OP that opens GCM, every unwrap, and the device's own opens take a datapath whose window is free
(R356). -/
def needsWindow (s : State) (j : CipherJob) : Bool :=
  match j with
  | .work w => workOpens s w
  | .unwrap .. => true
  | .op q => let a := askOf s q; a.mode = 4 && a.dec

/-- A waiting operation whose slot is LOADING waits on (R364). -/
def jobReady (s : State) (j : CipherJob) : Bool :=
  match j with
  | .op q => (keySlot s (askOf s q).slot).st ≠ 1
  | _ => true

/-- The next operation to take a datapath and the datapath it takes (R356): the classes in their order, in each
the oldest first, passing over those that must wait for a window or a slot. A locked engine takes none (R358). -/
def nextJob (s : State) : Option (CipherJob × Nat) :=
  let xs := [1, 2, 3, 4].flatMap fun c => s.sec.waiting.filter fun j => j.cls = c
  if s.sec.locked then none
  else (xs.filterMap fun j => if jobReady s j then (freeDp s (needsWindow s j)).map fun d => (j, d) else none).head?

/-- What a datapath runs for a job: the key is latched with its generation (R365). The unwrap of a slot
key uses the owner key, that of the owner key the root key. -/
def jobRun (s : State) (j : CipherJob) (input : Bytes) : DpRun :=
  match j with
  | .work w => workRun s w
  | .unwrap _ none => ⟨j, 6, true, none, s.sec.root.getD [], 0, [], now s⟩
  | .unwrap _ (some _) => ⟨j, 6, true, none, (s.sec.owner.map (·.1)).getD [], 0, [], now s⟩
  | .op q =>
    let a := askOf s q
    let x := keySlot s a.slot
    ⟨j, a.mode, a.dec, some a.slot, x.key, x.gen, sub input 0 (inLen a), now s⟩

/-- An operation starts on datapath d. The device's own work counts in USES and OPS where it goes on. -/
def startDp (d : Nat) (x : DpRun) (s : State) : State :=
  let s := { s with sec := { s.sec with dps := spIns d x s.sec.dps } }
  match x.job with
  | .work _ => s
  | _ => opStarts x.slot s

/-- DATAPATH_GRANT: the operation next in order takes datapath d, with its input as DMA reads it; a
CIPHER_OP makes the checks of R364 again as it starts (R365), and one whose input cannot be read ends
with EXT_FAULT, started, and fires the function's error vector (13_host.md R334; log entry 16). -/
def execDatapathGrant (d : Nat) (input : Option Bytes) (s : State) : Host.Outcome State Fault Refusal :=
  match nextJob s with
  | none => .next s
  | some (j, d') =>
    if d ≠ d' then .next s
    else
      let s := { s with sec := { s.sec with waiting := s.sec.waiting.erase j } }
      match j with
      | .op q =>
        match opStop s q, input with
        | some r, _ => .next (refuseOp q r s)
        | none, none => .next (complete q (ans stExtFault) (fire (qFunction s q) 0 (opStarts (some (askOf s q).slot) s)))
        | none, some bs => .next (startDp d (jobRun s j bs) s)
      | _ => .next (startDp d (jobRun s j []) s)

/-- CIPHER's accesses to `n` bytes of window d, from its first word on, are counted (12_perf_counters.md R318). -/
def windowRun (d n reads writes : Nat) (s : State) : State :=
  let w := (n + 7) / 8
  bankRun (114 + d) 3 (w / 64) 1 (w % 64 * reads) (w % 64 * writes)
    (bankRun (114 + d) 3 0 (w / 64) (64 * reads) (64 * writes) s)

/-- Plaintext is written into window d, bank B(114 + d) (R368). -/
def fillWindow (d : Nat) (pt : Bytes) (s : State) : State :=
  forAll (List.range ((pt.length + 7) / 8)) (fun i => setBankWord (114 + d) i (BitVec.ofNat 64 (leAt pt (8 * i) 8)))
    (windowRun d pt.length 0 1 s)

/-- What an operation that opens GCM or unwraps leaves in its window when it stops half way is open (R368). -/
def stirWindow (d : Nat) (s : State) : State := scrambleBank (114 + d) s

/-- After its use a window is written to zero (R369). -/
def dropWindow (d : Nat) (s : State) : State := setWindow d .zeroing s

/-- The tag of a GCM seal or a CMAC. -/
def cipherTag (x : DpRun) (iv : Bytes) (aad : Nat) : Bytes :=
  if x.mode = 4 then (gcmSeal x.key (iv.take 12) (x.input.take aad) (x.input.drop aad)).2 else cmac x.key x.input

/-- An answer that returns a tag (R372). -/
def tagAnswer (t : Bytes) : Answer := ⟨stOk, leAt t 0 8, leAt t 8 8, 0, 0⟩

/-- A failed open or verify (R368). -/
def tagFails (q : Nat) (s : State) : State := complete q (ans stTagMismatch) (count 0x60020 s)

/-- A CIPHER_OP ends well or with TAG_MISMATCH. The plaintext of a GCM open enters the window of the datapath, and goes
on to the host from there when the tag passes (R368, R369). -/
def finishOp (d q : Nat) (x : DpRun) (s : State) : State :=
  let a := askOf s q
  let iv := sub a.block 0 16
  let out := leAt a.block 32 8
  let s := dpEnd d s
  if x.mode = 5 then
    (if x.dec then (if cipherTag x iv 0 = sub a.block 48 16 then complete q (ans stOk) s else tagFails q s)
     else complete q (tagAnswer (cipherTag x iv 0)) s)
  else if x.mode = 4 ∧ x.dec then
    let s := fillWindow d (gcmSeal x.key (iv.take 12) (x.input.take (aadLen a)) (x.input.drop (aadLen a))).1 s
    (match gcmOpen x.key (iv.take 12) (x.input.take (aadLen a)) (x.input.drop (aadLen a)) (sub a.block 48 16) with
    | some pt => complete q (ans stOk) (dropWindow d (hostWrite q out pt (windowRun d pt.length 1 0 s)))
    | none => tagFails q (dropWindow d s))
  else
    complete q (if x.mode = 4 then tagAnswer (cipherTag x iv (aadLen a)) else ans stOk)
      (hostWrite q out (cipherOut x iv (aadLen a)) s)

/-- The waiting CIPHER_OPs of a slot that has left LOADING make their check (R364). -/
def recheck (k : Nat) (s : State) : State :=
  forAll s.sec.waiting (fun j s =>
    match j with
    | .op q =>
      (match (if (askOf s q).slot = k then opStop s q else none) with
      | some r => refuseOp q r { s with sec := { s.sec with waiting := s.sec.waiting.erase j } }
      | none => s)
    | _ => s) s

/-- An unwrap ends (R362 checks 4 and 5, R363, R366, R372). In RETURN it installs no key: every slot and
both key-encryption keys stay empty, and the command completes with LIFECYCLE (DEDUCED, log entry 53). -/
def finishUnwrap (d q : Nat) (slot : Option Nat) (x : DpRun) (s : State) : State :=
  let b := extOf ((queue s q).running.getD ⟨[], none⟩)
  let id := leAt b 12 4
  let s := dropWindow d (match unwrapBlob x.key b with
    | some key => fillWindow d (b.take 32 ++ key) (dpEnd d s)
    | none => stirWindow d (dpEnd d s))
  if s.otp.life = 3 then complete q (ans stLifecycle) s else
  match unwrapBlob x.key b, slot with
  | none, _ =>
    let s := blobFails q (unload x.job s)
    (match slot with | some k => recheck k s | none => s)
  | some key, none =>
    let s := count 0x60024 { s with sec := { s.sec with owner := some (key, id) } }
    completePersisted q false ⟨stOk, 0xFFFF0000 + id * 2 ^ 32, 0, 0, 0⟩ (journal (.keyRef 0xFFFF 0 false b) s)
  | some key, some k =>
    let y := loadSlot (keySlot s k) key b
    let s := recheck k (count 0x60024 (resetCounters k (setKeySlot k y s)))
    completePersisted q false ⟨stOk, y.gen + k * 2 ^ 16 + id * 2 ^ 32, 0, 0, 0⟩ (journal (.keyRef k y.gen false b) s)

/-- A fault's KIND (R357): duplicated for the decrypting direction, CMAC and AES-KW, inverse for the
rest; a GCM seal meets either, since its multiplications are computed twice. -/
def dupCheck (x : DpRun) (n : Nat) : Bool := x.dec || decide (5 ≤ x.mode) || (x.mode = 4 && n % 2 = 1)

/-- The operation of datapath d meets a fault (R358): its slot is put back, its window emptied, the
output of the blocks before the faulty one stays as written (which block it is, is a free value; a GCM seal computes
its tag after the last), and it completes with CIPHER_FAULT. The result of a tag check is suppressed; other work of
the device asks again. -/
def faultDp (d : Nat) (x : DpRun) (s : State) : State :=
  let win := needsWindow s x.job
  let s := leavePassed x (b2n (x.mode = 4)) s
  let (n, s) := draw s
  let s := onlyIf win (fun s => dropWindow d (stirWindow d s)) (dpEnd d s)
  let s := unload x.job (secFault d x.slot x.gen (dupCheck x n) s)
  match x.job with
  | .work (.tag q) => { s with sec := { s.sec with won := s.sec.won ++ [(.tag q, false)] } }
  | .work _ => s
  | .unwrap q k => complete q (ans stCipherFault) (match k with
    | some k => recheck k s
    | none => s)
  | .op q => complete q (ans stCipherFault) s

/-- CIPHER_OPERATION_DONE: the operation of datapath d ends; an injection armed for d is made in it
(R378). -/
def execCipherOperationDone (d : Nat) (s : State) : Host.Outcome State Fault Refusal :=
  match dpRun s d with
  | none => .next s
  | some x =>
    if secInjected s d then .next (faultDp d x (secDisarm s))
    else match x.job with
      | .op q => .next (finishOp d q x s)
      | .unwrap q slot => .next (finishUnwrap d q slot x s)
      | .work w => .next (dpEnd d { s with sec := { s.sec with won := s.sec.won ++ [(w, true)] } })

/-- The queue whose tag check an idle datapath d runs: the command at its head is critical and its tag has still to pass
(R356; 13_host.md R343). -/
def checking (s : State) (d : Nat) : Option Nat :=
  if s.sec.locked ∨ s.mgmt.recovery ∨ freeDp s false ≠ some d then none
  else (s.hif.queues.find? fun e =>
    e.2.running.isNone && e.2.waitSeq.isNone && (match e.2.fetched with
      | x :: _ => critical (opcodeOf x) && (headCmd (opcodeOf x) e.1 s).isSome
      | [] => false)
    && (keySlot s (bitsOf (qcfg s e.1) 9 0)).st = 2
    && !(s.sec.won.any fun w => w.1 = .tag e.1)).map (·.1)

/-- DATAPATH_FAULT: the shadow check of datapath d mismatches, in the operation it runs, or in the tag check that it
makes within the moment of a critical command (log entry 44). -/
def execDatapathFault (d : Nat) (s : State) : Host.Outcome State Fault Refusal :=
  match dpRun s d with
  | some x => .next (faultDp d x s)
  | none => match checking s d with
    | some q => .next (faultDp d (workRun s (.tag q)) s)
    | none => .next s

/-- WINDOW_ZEROED (R369): bank B(114 + w) has been written to zero, one word in each ECLK. -/
def execWindowZeroed (w : Nat) (s : State) : Host.Outcome State Fault Refusal :=
  if window s w = .zeroing then .next (setWindow w .free (zeroBank (114 + w) (windowRun w 0x40000 0 1 s))) else .next s

/-- SEC_INJECT_ARM (R378): a write of SEC.INJECT, an LK register. -/
def execSecInjectArm (v : Word) (s : State) : Host.Outcome State Fault Refusal :=
  if !linkUp s || flg s 4 0 || !s.pwr.on.getLsbD 5 then .next s
  else .next (setReg 0x60004 (v &&& 0xF0000000) s)

end Sys2Proof.Machine
end

