-- ==== Sys2Proof/Machine/Records.lean ====
section
/-! DEFINITION. The bytes of a journal record: payloads, header and seal, and their reading
(16_journal_seesaw.md R406 to R409). -/

namespace Sys2Proof.Machine

/-! ### Strings as numbers: the spec does not lay out their attributes (log entry 17) -/

/-- A leg as numbers. -/
def legNats (g : Leg) : List Nat :=
  [g.idx, g.outPort, b2n g.device, g.mask.toNat, g.latency, b2n g.cond, (g.group.map (· + 1)).getD 0, b2n g.loose,
    b2n g.ilag, b2n g.lag, g.outs.length] ++ g.outs ++ (List.range g.outs.length).map fun i => g.steps.getD i noStep

/-- A string as numbers. -/
def strNats (x : Str) : List Nat := [x.st, x.inPort, x.ins.length] ++ x.ins ++ [x.legs.length] ++ x.legs.flatMap legNats

/-- A leg from numbers, from place `i` on, and the place after it. -/
def readLeg (f : Nat → Nat) (i : Nat) : Leg × Nat :=
  let n := f (i + 10) % 32769
  ({ idx := f i % 16, outPort := f (i + 1) % 8, device := f (i + 2) % 2 = 1, mask := BitVec.ofNat 32 (f (i + 3))
     outs := (List.range n).map fun k => f (i + 11 + k) % 2 ^ 18, latency := f (i + 4) % 3, cond := f (i + 5) % 2 = 1
     group := (if f (i + 6) % 8193 = 0 then none else some (f (i + 6) % 8193 - 1)), loose := f (i + 7) % 2 = 1
     ilag := f (i + 8) % 2 = 1, lag := f (i + 9) % 2 = 1
     steps := (List.range n).map fun k => f (i + 11 + n + k) % 2050 }, i + 11 + 2 * n)

/-- A string from numbers, from place `i` on, and the place after it. -/
def readStr (f : Nat → Nat) (i : Nat) : Str × Nat :=
  let n := f (i + 2) % 32769
  let ls := (List.range (f (i + 3 + n) % 17)).foldl (fun (r : List Leg × Nat) _ =>
    let x := readLeg f r.2
    (r.1 ++ [x.1], x.2)) ([], i + 4 + n)
  (⟨f i % 3, f (i + 1) % 8, (List.range n).map fun k => f (i + 3 + k) % 2 ^ 18, ls.1⟩, ls.2)

/-- A map as numbers. -/
def mapNats (m : CMap) : List Nat :=
  m.strs.length :: (m.strs.flatMap (fun e => e.1 :: strNats e.2) ++ m.idle.flatMap fun e => [e.1, e.2])

/-- A map from numbers. -/
def readMap (f : Nat → Nat) : CMap :=
  let r := (List.range (f 0 % 65537)).foldl (fun (r : CMap × Nat) _ =>
    let x := readStr f (r.2 + 1)
    ({ r.1 with strs := spSet (fun _ => Str.free) (f r.2 % 65536) x.1 r.1.strs }, x.2)) (CMap.empty, 1)
  r.1

/-! ### Payloads (Table 16.4) -/

/-- The journalled registers, by offset (R409). -/
def journalledOffsets : List Nat :=
  [0x20004, 0x30004, 0x30008, 0x3000C, 0x30010, 0x30014, 0x30018, 0x30060, 0x30064, 0x30068, 0x3006C, 0x30070]
  ++ ((List.range 14).flatMap fun n => [0x30100 + 16 * n, 0x30104 + 16 * n]) ++ [0x40004]
  ++ ((List.range 16).map fun f => 0x50040 + 4 * f) ++ ((List.range 32).map fun n => 0x50100 + 4 * n)
  ++ [0x70004, 0x80004] ++ ((List.range 9).flatMap fun p => [portBase p, portBase p + 8])
  ++ ((List.range 4).flatMap fun k => [laneBase (256 + k), laneBase (256 + k) + 8])
  ++ ((List.range 256).flatMap fun l => [laneBase l, laneBase l + 8])
  ++ [0x310004, 0x320004] ++ ((List.range 8).map fun p => 0x330010 + 4 * p)
  ++ [0x340004, 0x340008, 0x34000C, 0x340010, 0x510004, 0x510008, 0x51000C, 0x510010]

/-- Cut bytes into payloads of at most 4,032. -/
def cutPayload : Nat → Bytes → List Bytes
  | 0, _ => []
  | n + 1, bs => if bs.length ≤ 4032 then [bs] else bs.take 4032 :: cutPayload n (bs.drop 4032)

/-- REQ and signal of a standing host request, 0xFF for none. -/
def askByte (a : Option (Nat × Nat)) : Byte := BitVec.ofNat 8 ((a.map fun e => e.1 * 16 + e.2).getD 0xFF)

/-- An open layout in `n` parts, the first opening with known bytes. -/
def openParts (n : Nat) (known : Bytes) (nums : List Nat) : List Bytes :=
  (List.range n).map fun i => (if i = 0 then known else []) ++ (Config.recordLayout nums i).take (4032 - known.length)

/-- The payload of each record of a logical record. -/
def payloads (r : JRec) : List Bytes :=
  let b (n : Nat) : Byte := BitVec.ofNat 8 n
  match r.pay with
  | .epoch salt v c => [leBytes 4 salt ++ leBytes 4 v ++ [b c]]
  | .regs vals => cutPayload 8 (journalledOffsets.flatMap fun o => leBytes 4 o ++ leBytes 4 (spGet resetOf vals o).toNat)
  | .counter q k g v => [leBytes 2 q ++ leBytes 2 k ++ leBytes 4 g ++ leBytes 8 v]
  | .keyRef k g e blob => [leBytes 2 k ++ leBytes 2 g ++ leBytes 4 (b2n e) ++ padTo 104 (blob.take 104)]
  | .repair m k sp i => [leBytes 2 m ++ [b k, b sp] ++ leBytes 2 i]
  | .retire k => [leBytes 2 k]
  | .holdover m h => openParts r.parts [] (h :: m.map (·.toNat))
  | .critical e => [evBytes e 0 false]
  | .commit id n seq t o sha bs => [leBytes 4 id ++ leBytes 4 n ++ leBytes 8 seq ++ leBytes 8 t ++ leBytes 8 o
      ++ (List.range 32).map (sha.getD · 0) ++ bs.flatMap (leBytes 2)]
  | .term t node side => [leBytes 8 t ++ leBytes 4 node.toNat ++ [b (b2n side)]]
  | .str batch n x => openParts r.parts (leBytes 4 batch ++ leBytes 2 n) (strNats x)
  | .swap batch x gen src sc => [leBytes 4 batch ++ leBytes 8 x ++ [gen, b src, b (if sc = 0xFF then 0 else sc)]]
  | .group g del d => [leBytes 2 g ++ leBytes 6 (b2n del) ++ (match d with
      | some d => groupBytes d
      | none => List.replicate 192 0)]
  | .decision g sel tr ts br ask rest w =>
      [leBytes 2 g ++ leBytes 2 sel ++ [b (tr * 16 + ts), b br, askByte ask, b (b2n rest)] ++ leBytes 8 w]
  | .scenario n au del name m => openParts r.parts ([b n, b (b2n au + 2 * b2n del)] ++ padTo 16 (name.take 16)) (mapNats m)

/-! ### Header and seal (Table 16.3, R407) -/

/-- The 48 header bytes of part `i` of a logical record. -/
def recHeader (r : JRec) (i len : Nat) : Bytes :=
  let back := r.parts - 1 - i
  [0x4A, 0x52, BitVec.ofNat 8 r.pay.type,
    BitVec.ofNat 8 (4 * b2n (i + 1 < r.parts) + 2 * b2n r.peer + b2n r.pay.shared)]
  ++ leBytes 4 len ++ leBytes 8 (r.seq - back) ++ leBytes 8 r.tick ++ leBytes 8 r.salt
  ++ leBytes 8 (r.origin - back) ++ leBytes 8 0

/-- Pad to a multiple of 16 bytes. -/
def pad16 (bs : Bytes) : Bytes := padTo ((bs.length + 15) / 16 * 16) bs

/-- A record sealed under a key. -/
def sealPart (key : Bytes) (r : JRec) (i : Nat) (p : Bytes) : Bytes :=
  let h := recHeader r i p.length
  let x := gcmSeal key (sub h 8 8 ++ sub h 24 4) h p
  h ++ pad16 x.1 ++ x.2

/-- The header of a record with payload and tag written as zero. -/
def blankPart (r : JRec) (i : Nat) (p : Bytes) : Bytes :=
  recHeader r i p.length ++ List.replicate ((p.length + 15) / 16 * 16 + 16) 0

/-- The parts of a logical record with their SEQ. -/
def recParts (r : JRec) : List (Nat × Nat × Bytes) :=
  let ps := payloads r
  (List.range ps.length).map fun i => (r.seq - (ps.length - 1 - i), i, ps.getD i [])

/-- Sizes of the records of a logical record. -/
def partSizes (r : JRec) : List Nat := (payloads r).map fun p => 64 + (p.length + 15) / 16 * 16

/-- Bytes a logical record takes in a log block. -/
def recBytes (r : JRec) : Nat := (partSizes r).sum

/-- Program a logical record into a region. -/
def Region.program (seq : Nat) (x : JRec) (r : Region) : Region :=
  if !r.ok then r else (partSizes x).foldl (Region.append seq) r

/-- The bytes are those of a sealed record, whose tag is still to be checked. -/
def partWhole (bs : Bytes) : Bool :=
  leAt bs 0 2 = 0x524A && decide (64 + (leAt bs 4 2 + 15) / 16 * 16 ≤ bs.length)

/-- Open a sealed record: its header and payload. -/
def openPart (key bs : Bytes) : Option (Bytes × Bytes) :=
  let h := bs.take 48
  let n := leAt h 4 2
  let ct := sub bs 48 n
  let tag := sub bs (48 + (n + 15) / 16 * 16) 16
  if !partWhole bs then none
  else (gcmOpen key (sub h 8 8 ++ sub h 24 4) h ct tag).map fun p => (h, p)

/-! ### Reading SHARED payloads -/

/-- A SHARED payload of a TYPE. -/
def readPay (type : Nat) (p : Bytes) : Option JPay :=
  let at_ (i : Nat) : Nat := (p.getD i 0).toNat
  match type with
  | 0x10 => some (.term (leAt p 0 8) (BitVec.ofNat 32 (leAt p 8 4)) (bitOf (at_ 12) 0))
  | 0x11 => some (.str (leAt p 0 4) (leAt p 4 2) (readStr (Config.recordRead (p.drop 6)) 0).1)
  | 0x12 => some (.swap (leAt p 0 4) (leAt p 4 8) (p.getD 12 0) (at_ 13)
      (if at_ 13 = 1 ∨ at_ 13 = 3 then at_ 14 else 0xFF))
  | 0x13 => some (.group (leAt p 0 2) (bitOf (at_ 2) 0)
      (if bitOf (at_ 2) 0 then none else some (parseGroup (p.drop 8))))
  | 0x14 => some (.decision (leAt p 0 2) (leAt p 2 2) (at_ 4 / 16) (at_ 4 % 16) (at_ 5)
      (if at_ 6 = 0xFF then none else some (at_ 6 / 16, at_ 6 % 16)) (bitOf (at_ 7) 0) (leAt p 8 8))
  | 0x15 => some (.scenario (at_ 0) (bitOf (at_ 1) 0) (bitOf (at_ 1) 1) (sub p 2 16)
      (readMap (Config.recordRead (p.drop 18))))
  | _ => none

end Sys2Proof.Machine
end

