-- ==== Sys2Proof/Machine/Replay.lean ====
section
/-! DEFINITION. Replay of the journal: the model of the shared state, and what start-up restores
(16_journal_seesaw.md R411, R423; 17_power_startup.md R447). -/

namespace Sys2Proof.Machine

/-! ### The model of the shared state -/

/-- The shared state that the records describe: the map, STRING records whose SWAP has not come, groups
with their decisions, and scenarios. -/
structure Model where
  map : CMap
  pend : List (Nat × Nat × Str)
  groups : List (Nat × GroupDef × Option JPay)
  scens : List (Nat × Scenario)
  deriving DecidableEq, Repr

/-- A string takes a definition; one of SIZE 0 is deleted. -/
def putStr (n : Nat) (x : Str) (m : CMap) : CMap :=
  { m with strs := spSet (fun _ => Str.free) n (if x.ins.isEmpty then Str.free else x) m.strs }

/-- A SWAP record: the batch's strings, or the scenario's map (16_journal_seesaw.md R408, R409, R411). -/
def applySwap (batch sc : Nat) (m : Model) : Model :=
  let mine := m.pend.filter (·.1 = batch)
  let map := if sc = 0xFF then mine.foldl (fun c e => putStr e.2.1 e.2.2 c) m.map
    else (spGet (fun _ => Scenario.empty) m.scens sc).map
  { m with map := map, pend := m.pend.filter (·.1 ≠ batch) }

/-- A record takes effect in the model. -/
def applyRec (m : Model) (r : JRec) : Model :=
  match r.pay with
  | .str b n x => { m with pend := m.pend ++ [(b, n, x)] }
  | .swap b _ _ _ sc => applySwap b sc m
  | .group g true _ => { m with
      groups := m.groups.filter (·.1 ≠ g)
      map := { m.map with bridged := spSet (fun _ => 0) g 0 m.map.bridged } }
  | .group g false (some d) =>
    let old := (m.groups.find? (·.1 = g)).bind (·.2.2)
    { m with groups := spIns g (d, old) m.groups }
  | .decision g _ _ _ br _ _ _ =>
    let by_ := m.groups.any fun e => e.1 = g && e.2.1.type = 3
    { m with
      groups := m.groups.map fun e => if e.1 = g then (e.1, e.2.1, some r.pay) else e
      map := (if by_ then { m.map with bridged := spSet (fun _ => 0) g br m.map.bridged } else m.map) }
  | .scenario n au del name c =>
    { m with scens := (if del then spDel n m.scens
        else spIns n { Scenario.empty with st := 2, fromJnl := true, auto := au, name := name, map := c } m.scens) }
  | _ => m

/-- Every record the journal holds, in SEQ order. -/
def heldRecords (s : State) : List JRec := s.jnl.ckpt ++ s.jnl.log

/-- The model of some records. -/
def modelOf (rs : List JRec) : Model := rs.foldl applyRec ⟨CMap.empty, [], [], []⟩

/-- Selector bits of a decision as the signal selected and the signal bridged (Table 13.13). -/
def selSignal (d : GroupDef) (sel : Nat) : Nat × Nat :=
  match d.type with
  | 2 => (b2n (bitOf sel 0), b2n (bitOf sel 1))
  | 3 => ((((List.range d.n).find? fun i => bitOf sel i).map (· + 1)).getD 0, 0)
  | _ => (b2n (bitOf sel 0), 1)

/-- A standing host request put back on a group. -/
def standAsk (s : State) (x : Group) (ask : Option (Nat × Nat)) : Group :=
  match ask with
  | some (0xA, _) => { x with lo := true }
  | some (8, g) => { x with fs := g }
  | some (5, g) => { x with ms := g }
  | some (3, g) => { x with exer := [(g, s.tick)] }
  | _ => x

/-- WTR resumes with the time remaining by time of day, or in full while that is not valid (R411). -/
def wtrFrom (s : State) (d : GroupDef) (sig wtr : Nat) : Option (Nat × Nat) :=
  if wtr = 0 then none
  else
    let gone := if s.timing.todValid then s.timing.sec - wtr else 0
    some (sig, s.tick + (d.wtr - gone) * 1000000)

/-- A group of the model as its engine takes it (R411, 17_power_startup.md Table 17.3 step 7). -/
def restoreGroup (s : State) (g : Nat) (d : GroupDef) (dec : Option JPay) : Group :=
  let x := newGroup s g d
  match dec with
  | some (.decision _ sel tr ts br ask rest wtr) =>
    let y := { standAsk s x ask with
      topReq := tr, topSig := ts, carries := (selSignal d sel).1, bridged := br, restored := rest
      dnr := (if tr = 1 then ts else 0) }
    { y with wtr := wtrFrom s d (if tr = 4 then ts else y.carries) wtr }
  | _ => x

/-- The twin holds the model as its map, groups and scenarios. A scenario whose definition has not
changed keeps what is stored of it when `keep` holds. -/
def takeModel (keep : Bool) (m : Model) (s : State) : State :=
  let same (a b : Scenario) : Bool := keep && a.map = b.map && a.name = b.name && a.auto = b.auto && a.st ≠ 0
  { s with
    abacus := { s.abacus with map := m.map }
    prot := { s.prot with groups := m.groups.map fun e => (e.1, restoreGroup s e.1 e.2.1 e.2.2) }
    page := { s.page with scens := m.scens.map fun e =>
      let old := spGet (fun _ => Scenario.empty) s.page.scens e.1
      (e.1, if same old e.2 then old else e.2) } }

/-- The model after every record, persisted or waiting. -/
def refreshModel (s : State) : State := takeModel true (modelOf (heldRecords s ++ s.jnl.waiting)) s

/-! ### Local records -/

/-- Registers return to the last snapshot (R411): those it does not list are at their reset values. -/
def restoreRegs (s : State) : State :=
  let snap := (lastSnap (heldRecords s)).filter fun e => journalled e.1
  forAll snap (fun e s => setReg e.1 e.2 s) { s with regs := s.regs.filter fun e => !journalled e.1 }

/-- A soft repair is applied again (11_engines_banks.md R296). -/
def reapplyRepair (m kind spare : Nat) (s : State) : State :=
  let x := memBlock s m
  setMemBlock m (if kind = 0 then { x with rows := max x.rows (spare + 1) }
    else { x with cols := max x.cols (spare + 1) }) s

/-- A LOCAL record takes effect (R411). -/
def applyLocal (s : State) (r : JRec) : State :=
  match r.pay with
  | .repair m kind spare _ => reapplyRepair m kind spare s
  | .retire k => { s with core := { s.core with retired := insNat k s.core.retired } }
  | .holdover m h => { s with timing := { s.timing with
      model := m, learnHours := h, modelTemp := Config.modelCoef m 5, learnFrom := Config.modelCoef m 6 } }
  | .term t _ _ => { s with jnl := { s.jnl with term := max t s.jnl.term } }
  | _ => s

/-! ### Keys and counters (17_power_startup.md R447) -/

/-- The last KEY_REF of a slot. -/
def lastKeyRef (rs : List JRec) (k : Nat) : Option (Nat × Bool × Bytes) :=
  rs.foldl (fun a r => match r.pay with
    | .keyRef k' g e b => if k' = k then some (g, e, b) else a
    | _ => a) none

/-- A blob passes R362 under a key-encryption key. -/
def blobKey (kek : Option Bytes) (b : Bytes) : Option Bytes :=
  if blobHeaderOk true b then kek.bind fun k => unwrapBlob k b else none

/-- The owner key is unwrapped first. -/
def restoreOwner (rs : List JRec) (s : State) : State :=
  match lastKeyRef rs 0xFFFF with
  | some (_, _, b) =>
    let s := onlyIf (blobHeaderOk true b && s.sec.root.isSome) (opStart none 1) s
    match blobKey s.sec.root b with
    | some k => count 0x60024 { s with sec := { s.sec with owner := some (k, leAt b 12 4) } }
    | none => raise .blobLost 0xFFFF 0 s
  | none => s

/-- A slot is restored with the generation recorded, or left EMPTY with an event. -/
def restoreSlot (rs : List JRec) (k : Nat) (s : State) : State :=
  match lastKeyRef rs k with
  | none => s
  | some (g, true, _) => setKeySlot k { KeySlot.reset with gen := g } s
  | some (g, false, b) =>
    let s := onlyIf (blobHeaderOk true b && s.sec.owner.isSome) (opStart none 1) s
    match blobKey (s.sec.owner.map (·.1)) b with
    | some key => count 0x60024 (setKeySlot k { loadSlot KeySlot.reset key b with gen := g } s)
    | none => raise .blobLost k 0 (setKeySlot k { KeySlot.reset with gen := g } s)

/-- The slots that have a record, ascending. -/
def refSlots (rs : List JRec) : List Nat :=
  (rs.foldl (fun (a : List Nat) r => match r.pay with
    | .keyRef k _ _ _ => if k < 1024 then insNat k a else a
    | _ => a) [])

/-- The latest counter reservation of each queue. -/
def lastResv (rs : List JRec) : List (Nat × Nat × Nat × Nat) :=
  rs.foldl (fun a r => match r.pay with
    | .counter q k g v => spIns q (k, g, v) a
    | _ => a) []

/-- A queue takes its KEY_SLOT and counter back when the slot holds the generation recorded. -/
def restoreCounter (e : Nat × Nat × Nat × Nat) (s : State) : State :=
  let (q, k, g, v) := e
  if (keySlot s k).st = 2 ∧ (keySlot s k).gen = g then
    let o := 0x51010 + 0x40 * q
    setQueue q { queue s q with ctr := v, reserved := v } (setReg o (putBits (cfg s o) 9 0 k) s)
  else s

/-- Keys and counters of every slot and queue; none in the life-cycle state RETURN. -/
def restoreKeys (s : State) : State :=
  if s.otp.life = 3 then s
  else
    let rs := heldRecords s
    forAll (lastResv rs) restoreCounter (forAll (refSlots rs) (restoreSlot rs) (restoreOwner rs s))

/-! ### The replay -/

/-- Bytes from the device's random source. -/
def randomBytes (n : Nat) (s : State) : Bytes × State :=
  ((List.range n).map fun i => Config.random (s.free + i), { s with free := s.free + n })

/-- Segments of a checkpoint: at most 261,120 bytes each of records without tags (R413). -/
def segCount (rs : List JRec) : Nat :=
  max 1 (((rs.map fun r => ((partSizes r).map (· - 16)).sum).sum + 261119) / 261120)

/-- A state of the journal, with its events (R416). -/
def setJnlState (st : Nat) (s : State) : State :=
  if st = s.jnl.st then s
  else
    let s := raise .jnlState st s.jnl.st { s with jnl := { s.jnl with st := st } }
    if st = 1 then raise .jnlDegraded 0 0 s else if st = 2 then raise .jnlFrozen 0 0 s else s

/-- The journal's next start: a fresh SALT and its EPOCH record (R407, R411 step 5), both open log blocks
closed. -/
def newEpoch (cause : Nat) (s : State) : State :=
  let (bs, s) := randomBytes 4 s
  let s := onRegions (Region.close s.jnl.lastSeq) { s with jnl := { s.jnl with salt := leNat bs } }
  journal (.epoch (leNat bs) (leAt s.image.running 12 4) cause) s

/-- A flash device that answered can hold a region (R404). -/
def flashUsable (x : Option (BitVec 24 × Nat)) : Bool := match x with
  | some (_, mib) => decide (256 ≤ mib)
  | none => false

/-- The journal as the usable regions hold it (R411 steps 2 and 3): as a region that had not left service
holds it, else as the one with the later commit and records does. -/
def usableHeld (a b : Bool) (s : State) : Held :=
  let r := s.jnl.region0
  let x := r.held.getD (heldNow s)
  let y := s.jnl.region1.held.getD (heldNow s)
  if a && b then (if r.held.isNone then x else if s.jnl.region1.held.isNone then y
    else if decide (x.ckptId < y.ckptId ∨ (x.ckptId = y.ckptId ∧ x.last < y.last)) then y else x)
  else if a then x else if b then y else heldNow s

/-- A usable region is brought level with `h`, the best that any holds (R411 step 5): uncommitted
checkpoints are erased, and what it lacks is written in fresh blocks. -/
def Region.mirror (now h : Held) (r : Region) : Region :=
  let mine := r.held.getD now
  let r := ({ r with ok := true, held := none }.close mine.last).erase fun b => b.kind ≠ 1 && !b.done
  let r := if mine.ckptId = h.ckptId ∧ mine.ckptSeq = h.ckptSeq then r
    else (r.openCkpt 2 h.ckptId (segCount h.ckpt)).commit 2 fun b => b.kind ≠ 1 || decide (b.last ≤ h.ckptSeq)
  (h.log.filter fun x => decide (mine.last < x.seq)).foldl (fun r x => r.program (x.seq - x.parts) x) r

/-- The regions at a start (R411, R416): usable when their device answers with at least 256 MiB. A region
that is not stays as it last was. -/
def startRegions (a b : Bool) (s : State) : State :=
  let was := heldNow s
  let h := usableHeld a b s
  let f (ok : Bool) (r : Region) : Region := if ok then r.mirror was h else r.leave was
  let s := { s with jnl := { s.jnl with
    ckptId := h.ckptId, ckptSeq := h.ckptSeq, ckpt := h.ckpt, log := h.log, lastSeq := h.last
    region0 := f a s.jnl.region0, region1 := f b s.jnl.region1, compacting := none } }
  setJnlState (if a && b then 0 else if a || b then 1 else 2) s

/-- Records that replay discards (R411 step 4): those of a STRING record no later SWAP names, and of a
DECISION record of a group that no longer exists. -/
def replayDiscards (rs : List JRec) : Nat :=
  let m := modelOf rs
  (rs.map fun r => match r.pay with
    | .str b .. => if m.pend.any (·.1 = b) then r.parts else 0
    | .decision g .. => if m.groups.any (·.1 = g) then 0 else r.parts
    | _ => 0).sum

/-- Sequence numbers after the last record held; records never persisted are gone, and the next batch has
a fresh number. -/
def resumeSeq (s : State) : State :=
  let id := (heldRecords s).foldl (fun a r => match r.pay with
    | .swap b _ _ _ _ => max a b
    | .str b _ _ => max a b
    | _ => a) 0
  { s with jnl := { s.jnl with
    nextSeq := s.jnl.lastSeq + 1, waiting := [], waiters := [], persistedAt := [], batchId := id + 1 } }

/-- What was learned since the last HOLDOVER record is lost at a start (10_timing.md R256). -/
def forgetLearning (s : State) : State :=
  { s with timing := { s.timing with
    model := [], learnHours := 0, learned := 0, modelTemp := 0, learnFrom := 0 } }

/-- The records and the checkpoint segments that replay opens (14_cipher.md R375). -/
def replayOpens (s : State) : Nat :=
  (s.jnl.log.map (·.parts)).sum + if s.jnl.ckptId = 0 then 0 else segCount s.jnl.ckpt

/-- Replay at start-up (R411): records into state, keys, then the EPOCH record. JNL_LOST when no commit
is usable. With no region in service there is nothing to replay. -/
def replay (cause : Nat) (a b : Bool) (s : State) : State :=
  let s := startRegions a b (forgetLearning s)
  if s.jnl.st = 2 then raise .jnlLost 0 0 s
  else
    let s := onlyIf (s.jnl.ckptId = 0 && s.jnl.ckpt.isEmpty) (raise .jnlLost 0 0) (resumeSeq s)
    let s := countN 0x80044 (replayDiscards (heldRecords s)) (countOpens none (replayOpens s) false s)
    let s := (heldRecords s).foldl applyLocal (restoreRegs s)
    let s := restoreKeys (takeModel false (modelOf (heldRecords s)) s)
    newEpoch cause s

end Sys2Proof.Machine
end

