-- ==== Sys2Proof/Machine/JnlRows.lean ====
section
/-! DEFINITION. The journal at work: persistence, compaction, wear, and the journal commands
(16_journal_seesaw.md R404 to R416, R420, R430). -/

namespace Sys2Proof.Machine

/-! ### Regions (R404 to R406, R415) -/

/-- Region d, 0 or 1. -/
def region (s : State) (d : Nat) : Region := if d = 0 then s.jnl.region0 else s.jnl.region1

/-- Set a region. -/
def setRegion (d : Nat) (r : Region) (s : State) : State :=
  { s with jnl := (if d = 0 then { s.jnl with region0 := r } else { s.jnl with region1 := r }) }

/-! ### Checkpoints (R413) -/

/-- What a LOCAL record says last holds, by this key; records that replay does not rebuild state from have
none. -/
def JPay.key : JPay → Option (Nat × Nat)
  | .regs _ => some (2, 0)
  | .counter q _ _ _ => some (3, q)
  | .keyRef k _ _ _ => some (4, k)
  | .repair m k sp _ => some (5, m * 64 + k * 32 + sp)
  | .retire k => some (6, k)
  | .holdover _ _ => some (7, 0)
  | .term _ _ _ => some (16, 0)
  | _ => none

/-- The last record of each key. -/
def lastOfKey : List JRec → List JRec
  | [] => []
  | r :: rs => if r.pay.key.isSome && !(rs.any fun x => x.pay.key = r.pay.key) then r :: lastOfKey rs
      else lastOfKey rs

/-- The shared state of a model as records. -/
def modelPays (s : State) (m : Model) : List JPay :=
  (m.map.strs.map fun e => .str 0 e.1 e.2)
  ++ (if m.map.strs.isEmpty then [] else [.swap 0 s.page.lastSwap s.page.gen 0 0xFF])
  ++ (m.groups.flatMap fun e => .group e.1 false (some e.2.1) :: e.2.2.toList)
  ++ (m.scens.map fun e => .scenario e.1 e.2.auto false e.2.name e.2.map)
  ++ (m.pend.map fun e => .str e.1 e.2.1 e.2.2)

/-- ORIGIN_SEQ of the last SHARED record up to `cs` (16_journal_seesaw.md R413, R418). -/
def lastOrigin (s : State) (cs : Nat) : Nat :=
  (heldRecords s).foldl (fun a r => if r.pay.shared ∧ r.seq ≤ cs then r.origin else a) 0

/-- The state as of `cs`, as a sequence of records with SEQ = CKPT_SEQ. -/
def ckptRecs (s : State) (cs : Nat) : List JRec :=
  let rs := (heldRecords s).filter fun r => decide (r.seq ≤ cs)
  ((lastOfKey rs).map (·.pay) ++ modelPays s (modelOf rs)).map fun p =>
    ⟨cs, s.tick, s.jnl.salt, false, (if p.shared then lastOrigin s cs else cs), p.parts cs, p⟩

/-- The plaintext of a checkpoint: its records without tags (R413). -/
def ckptPlain (rs : List JRec) : Bytes :=
  rs.flatMap fun r =>
    let ps := payloads r
    (List.range ps.length).flatMap fun i =>
      let p := ps.getD i []
      recHeader r i p.length ++ pad16 p

/-- NONCE of a checkpoint segment (R413). -/
def ckptNonce (s : State) (id i : Nat) : Bytes :=
  leBytes 4 id ++ leBytes 4 (i + 2 ^ 31) ++ leBytes 4 s.jnl.salt

/-- The segments of a checkpoint, sealed under a key (R413). -/
def sealCkpt (key : Bytes) (id : Nat) (rs : List JRec) (s : State) : List Bytes :=
  let xs := cutBytes 261120 192 (ckptPlain rs)
  (List.range xs.length).map fun i => sealSegment key id i xs.length (ckptNonce s id i) (xs.getD i [])

/-- The journal key (R407; 14_cipher.md R359). -/
def jnlKey (o : Otp) : Bytes :=
  deriveKey o [0x54, 0x58, 0x32, 0x35, 0x36, 0x20, 0x4A, 0x4E, 0x4C, 0x20, 0x4B, 0x45, 0x59]

/-- The block numbers of a staged checkpoint, for region 0 and then for region 1 (R413). -/
def stagedBlocks (kind : Nat) (s : State) : List Nat := s.jnl.region0.staged kind ++ s.jnl.region1.staged kind

/-- A COMMIT record has been written: its checkpoint is in force, and the blocks it replaces are erased
(R413 step 4). -/
def takeCommit (id cs : Nat) (rs : List JRec) (s : State) : State :=
  onRegions (Region.commit 2 fun b => b.kind ≠ 1 || decide (b.last ≤ cs)) { s with jnl := { s.jnl with
    ckptId := id, ckptSeq := cs, ckpt := rs
    log := s.jnl.log.filter fun r => decide (cs < r.seq) } }

/-! ### Persistence (R410, R420) -/

/-- Commands whose last record has been persisted complete as the durability mode requires
(16_journal_seesaw.md Table 16.8). -/
def settleWaiters (s : State) : State :=
  let there (w : Nat × Nat × List Nat × Bool) : Bool := decide (w.2.1 ≤ s.jnl.lastSeq)
  let peer (w : Nat × Nat × List Nat × Bool) : Bool := w.2.2.2 && peerPersist s
  let acked (w : Nat × Nat × List Nat × Bool) : Bool := decide (w.2.1 ≤ s.copy.ackSeq)
  let s := releaseWaiters (fun w => there w && (!peer w || acked w)) stOk s
  let s := if s.copy.st = 3 then s else releaseWaiters there stPeerUnacked s
  { s with jnl := { s.jnl with
    persistedAt := s.jnl.waiters.foldl (fun m w =>
      if there w && (m.find? (·.1 = w.2.1)).isNone then spIns w.2.1 s.tick m else m)
      (s.jnl.persistedAt.filter fun e => s.jnl.waiters.any fun w => w.2.1 = e.1) } }

/-- The oldest record waiting is sealed and programmed into every region in service; each of its parts is an operation of
the cipher engine (14_cipher.md R375). -/
def persistOne (s : State) : State :=
  match s.jnl.waiting with
  | [] => s
  | r :: rest =>
    countN 0x80034 r.parts <| opStart none r.parts { s with jnl := { s.jnl with
      waiting := rest, log := s.jnl.log ++ [r], lastSeq := r.seq
      region0 := s.jnl.region0.program s.jnl.lastSeq r, region1 := s.jnl.region1.program s.jnl.lastSeq r } }

/-- Every record waiting is programmed, in order. -/
def persistAll : Nat → State → State
  | 0, s => s
  | n + 1, s => persistAll n (persistOne s)

/-- Compaction starts when a region in service passes 360 blocks (R413). -/
def autoCompact (s : State) : State :=
  let full (r : Region) : Bool := r.ok && decide (360 < r.usage)
  if s.jnl.compacting.isNone && (full s.jnl.region0 || full s.jnl.region1) then
    { s with jnl := { s.jnl with compacting := some (s.jnl.lastSeq, none) } }
  else s

/-- RECORD_PERSISTED (16_journal_seesaw.md R410): the oldest record waiting has been programmed into every
region in service, once it has had a datapath to be sealed on (14_cipher.md R356). -/
def execRecordPersisted (s : State) : Host.Outcome State Fault Refusal :=
  if s.jnl.waiting.isEmpty || !jnlWrites s || !mgmtRuns s then .next s
  else
    let r := dpReady .seal s
    .next (if r.1 then settleWaiters (autoCompact (persistOne r.2)) else r.2)

/-! ### Compaction (R413, R414) -/

/-- A compaction that cannot go on ends; its command answers `st`. -/
def abandonCompaction (st : Nat) (s : State) : State :=
  match s.jnl.compacting with
  | none => s
  | some (_, q) => completeOpt q (ans st) { s with jnl := { s.jnl with compacting := none } }

/-- The checkpoint is written into free blocks, and the COMMIT record after every record raised before
it. -/
def commitCompaction (cs : Nat) (s : State) : State :=
  let rs := ckptRecs s cs
  let id := s.jnl.ckptId + 1
  let s := onRegions (Region.openCkpt 2 id (segCount rs)) s
  let s := journal (.commit id (segCount rs) cs s.jnl.term (lastOrigin s cs)
    (sha256 (sealCkpt (jnlKey s.otp) id rs s).flatten) (stagedBlocks 2 s)) s
  let s := persistAll s.jnl.waiting.length (opStart none (segCount rs) s)
  count 0x8003C (takeCommit id cs rs { s with jnl := { s.jnl with compacting := none } })

/-- COMPACTION_DONE (16_journal_seesaw.md R413): the COMMIT record of the compaction in progress is
written and the old blocks are erased. With the cipher engine locked nothing can be sealed, and the
compaction is given up. -/
def execCompactionDone (s : State) : Host.Outcome State Fault Refusal :=
  match s.jnl.compacting with
  | none => .next s
  | some (cs, q) =>
    if !mgmtRuns s then .next s
    else if !jnlWrites s then .next (abandonCompaction stNotPersisted s)
    else
      let r := dpReady .seal s
      let s := commitCompaction cs r.2
      .next (if r.1 then settleWaiters (completeOpt q ⟨stOk, s.jnl.ckptId, 0, 0, 0⟩ s) else r.2)

/-! ### Wear (R415, R416) -/

/-- A region leaves service (R416). The last one leaves the journal FROZEN: the commands that wait
complete with NOT_PERSISTED, and a compaction is abandoned (R414). -/
def regionLeaves (d : Nat) (s : State) : State :=
  let s := setRegion d ((region s d).leave (heldNow s)) s
  if (region s (1 - d)).ok then setJnlState 1 s
  else
    let s := abandonCompaction stUnavailable (setJnlState 2 s)
    releaseWaiters (fun w => decide (s.jnl.lastSeq < w.2.1)) stNotPersisted s

/-- FLASH_BLOCK_FAIL (16_journal_seesaw.md R415, R416): a block of a region in service fails an erase or a
program, which the device counts (19_registers.md Table 19.13): it is replaced from the spare pool, and with
the pool empty the region leaves service. A block that has been retired is used no more. -/
def execFlashBlockFail (dev blk : Nat) (erase : Bool) (s : State) : Host.Outcome State Fault Refusal :=
  let r := region s dev
  if 2 ≤ dev || !r.has blk || !r.ok then .next s
  else
    let s := count (0xA0008 + 0x40 * dev + if erase then 4 else 0) (count 0x80040 s)
    if r.spares = 0 then .next (regionLeaves dev s)
    else .next (setRegion dev (r.retire blk) s)

/-- FLASH_DEVICE_LOST (16_journal_seesaw.md R415): a flash device stops answering, which a read that returns
no data shows (19_registers.md Table 19.13; log entry 24), and its region leaves service at once. -/
def execFlashDeviceLost (dev : Nat) (s : State) : Host.Outcome State Fault Refusal :=
  if 2 ≤ dev || !(region s dev).ok then .next s
  else .next (regionLeaves dev (count (0xA0010 + 0x40 * dev) s))

/-- COPY_TIMEOUT of JNL.CFG in ticks. -/
def copyTimeout (s : State) : Nat := ms (min 1000 (max 1 (fld s 0x80004 25 16)))

/-- COPY_TIMEOUT (16_journal_seesaw.md R420, Table 16.8): commands that have waited COPY_TIMEOUT after
local persistence for the standby's acknowledgement complete with PEER_UNACKED. -/
def execCopyTimeout (s : State) : Host.Outcome State Fault Refusal :=
  let late (n : Nat) : Bool := s.jnl.persistedAt.any fun e => e.1 = n && decide (e.2 + copyTimeout s ≤ s.tick)
  .next (settleWaiters (releaseWaiters (fun w => late w.2.1) stPeerUnacked s))

/-! ### Commands (R430) -/

/-- The value of JNL.CFG that a JNL_CONFIG writes. -/
def jnlCfg (s : State) (d : Bytes) : Word :=
  let c := cfg s 0x80004
  match (d.getD 16 0).toNat with
  | 0 => putBits (putBits c 15 15 (d.getD 17 0).toNat) 25 16 (leAt d 20 4)
  | 1 => putBits c 10 0 (if leAt d 18 2 = 0xFFFF then 0x7FF else leAt d 18 2)
  | _ => c

/-- The checks of JNL_CONFIG. A copy key is an AES-256 key, since it seals segments (14_cipher.md R370). -/
def jnlConfigCheck (s : State) (d : Bytes) : Option Answer :=
  let slot := leAt d 18 2
  match (d.getD 16 0).toNat with
  | 0 => firstOf [refuseIf (decide (1 < (d.getD 17 0).toNat)) (badArg 17),
      refuseIf (decide (leAt d 20 4 < 1 ∨ 1000 < leAt d 20 4)) (badArg 20)]
  | 1 => firstOf [refuseIf (slot ≠ 0xFFFF && ((keySlot s slot).st ≠ 2 || (keySlot s slot).user ≠ 3 || (keySlot s slot).size ≠ 1)) (ans stKeyPolicy)]
  | 2 => none
  | _ => some (badArg 16)

/-- JNL_CONFIG (0x80): every OP writes a register snapshot (R409). -/
def execJnlConfig (q : Nat) (s : State) : Host.Outcome State Fault Refusal :=
  runCmd 0x80 q (fun d s =>
    match jnlConfigCheck s d.desc with
    | some a => complete q a s
    | none => completeRegs q (setReg 0x80004 (jnlCfg s d.desc) s)) s

/-- JNL_COMPACT (0x81): BUSY while a compaction runs, UNAVAILABLE while FROZEN; it completes when the
COMMIT record is written. -/
def execJnlCompact (q : Nat) (s : State) : Host.Outcome State Fault Refusal :=
  runCmd 0x81 q (fun _ s =>
    match firstOf [refuseIf (decide (2 ≤ s.jnl.st)) (ans stUnavailable),
        refuseIf s.jnl.compacting.isSome (ans stBusy)] with
    | some a => complete q a s
    | none => { s with jnl := { s.jnl with compacting := some (s.jnl.lastSeq, some q) } }) s

/-- The records of the log from a SEQ on, at most `n`, as JNL_READ writes them. -/
def readRecords (s : State) (slot start n : Nat) : List Bytes :=
  let parts := s.jnl.log.flatMap fun r => (recParts r).map fun p => (r, p)
  ((parts.filter fun e => decide (start ≤ e.2.1)).take n).map fun e =>
    if slot = 0xFFFF then blankPart e.1 e.2.2.1 e.2.2.2
    else sealPart (keySlot s slot).key e.1 e.2.2.1 e.2.2.2

/-- The lowest SEQ still held in the log. -/
def lowestSeq (s : State) : Nat := match s.jnl.log with
  | r :: _ => r.seq + 1 - r.parts
  | [] => s.jnl.lastSeq + 1

/-- JNL_READ (0x84). The key in SLOT seals each record read, as an operation of its own (14_cipher.md R364, R370). -/
def execJnlRead (q : Nat) (s : State) : Host.Outcome State Fault Refusal :=
  runCmd 0x84 q (fun d s =>
    let n := leAt d.desc 24 2
    let slot := leAt d.desc 26 2
    let rs := readRecords s slot (leAt d.desc 16 8) n
    match firstOf [refuseIf (decide (n < 1 ∨ 4096 < n)) (badArg 24),
        refuseIf (slot ≠ 0xFFFF && s.sec.locked) (ans stCipherLocked),
        refuseIf (slot ≠ 0xFFFF && !slotServes s slot 1 false rs.length) (ans stKeyPolicy)] with
    | some a => complete q a s
    | none =>
      let s := onlyIf (slot ≠ 0xFFFF) (opStart (some slot) rs.length) s
      answerBuffer q (leAt d.desc 32 8) (leAt d.desc 28 4) 32 28 rs.flatten
        ⟨stOk, rs.length, lowestSeq s, 0, 0⟩ s) s

end Sys2Proof.Machine
end

