-- ==== Sys2Proof/Machine/PortRows.lean ====
section
/-! DEFINITION. Port states at the tick edge, the capability exchange, and the register rows of ports
and lanes (03_lanes.md R79 to R92, 04_ports.md R95 to R116, 17_power_startup.md R438). -/

namespace Sys2Proof.Machine

/-! ### State changes (R99 to R101, R105) -/

/-- The port leaves SERVICE if it is in it: its binding ends (04_ports.md R105). -/
def leaveService (p : Nat) (s : State) : State := if (port s p).st = 5 then unbindPort p s else s

/-- A port falls to DOWN, TRAINING or ALIGNING (04_ports.md R100). -/
def fallTo (p : Nat) (st : BitVec 3) (s : State) : State :=
  let s := leaveService p s
  let y := port s p
  advancePort p (setPort p { y with st := st, cap := { y.cap with
    agreed := false, agreeNow := false, since := none, heardAt := none, silent := false } } s)

/-- The port enters SERVICE (04_ports.md R105; 06_pages.md R157; 07_strings_abacus.md R180;
10_timing.md R261): it binds, asks for the rebinding page when it is bound in CUT, starts to follow, and
a phase step in progress is reported. -/
def enterService (p : Nat) (s : State) : State :=
  let s := setPort p { port s p with st := 5 } s
  let s := onlyIf (flg s (portBase p) 2) (fun s => setFollow p { followOf s p with valid := false } s) (bindPort p s)
  let s := onlyIf ((s.timing.stepping || decide (s.timing.stepLeft ≠ 0)) && !s.timing.stepForced) (raise .stepInService p 0) s
  onlyIf ((port s p).bind.bound && (port s p).bind.mode = 0) (askRebind p) s

/-- CFG.STANDBY_ONLY of a port. -/
def standbyOnly (s : State) (p : Nat) : Bool := flg s (portBase p) 1

/-- The port may be in SERVICE (04_ports.md Table 4.1, 01_architecture.md R34). -/
def mayServe (s : State) (p : Nat) : Bool := s.ssw.actOut && !standbyOnly s p

/-- The state that agreement leads to: LINKED on PX (04_ports.md R112), else SERVICE or STANDBY. -/
def enterAgreed (p : Nat) (s : State) : State :=
  let y := port s p
  let s := setPort p { y with
    st := (if p = 8 then 7 else 6)
    cap := { y.cap with agreed := true, agreeNow := false, since := none, heardAt := some (now s) } } s
  if p < 8 ∧ mayServe s p then enterService p s else s

/-- The moves back of 04_ports.md R100: the first whose condition holds at the end of the tick. A condition that has
ended again within its tick moves nothing (DESIGN CHOICE, log entry 62). -/
def portBack (p : Nat) (s : State) : State :=
  let y := port s p
  let up := decide (5 ≤ y.st.toNat)
  if y.st = 0 then s
  else if !flg s (portBase p) 0 then fallTo p 0 s
  else if (lockedLanes s p).length < y.minLanes then (if y.st = 1 then s else fallTo p 1 s)
  else if (bondedLanes s p).length < y.minLanes ∧ 4 ≤ y.st.toNat then fallTo p 2 s
  else if up && !y.cap.ok then enterCapability p (leaveService p s)
  else if y.st = 5 ∧ !mayServe s p then setPort p { port (leaveService p s) p with st := 6 } (leaveService p s)
  else s

/-- The moves forward at a tick edge (04_ports.md R101, R102). -/
def portForward (p : Nat) (s : State) : State :=
  let y := port s p
  if y.st = 4 ∧ y.cap.agreeNow then enterAgreed p s
  else if p < 8 ∧ y.st = 6 ∧ mayServe s p then enterService p s
  else s

/-- A slip whose tick has come rebinds (04_ports.md R110), by `d`. -/
def portSlip (p : Nat) (s : State) : State :=
  match (port s p).bind.slip with
  | some (x, d) => if x ≤ s.tick then rebindTo p x ((port s p).bind.k + BitVec.ofInt 32 d) s else s
  | none => s

/-- The tick that has ended is counted if it was a conditioned tick of a rebinding (04_ports.md R108). -/
def portCond (p : Nat) (s : State) : State :=
  let y := port s p
  if y.bind.cond.contains (s.tick - 1) then
    perfEv 0x11 0x07 p 1 (count (portBase p + 0x44) (setPort p { y with
      bind := { y.bind with cond := y.bind.cond.filter (s.tick ≤ ·) }
      cnt := { y.cnt with cond := y.cnt.cond + 1 } } s))
  else s

/-- One port at the tick edge. -/
def portTick (p : Nat) (s : State) : State :=
  portSlip p (portForward p (portBack p (closeGroup p s)))

/-- The conditioned ticks of rebindings among the ticks that have ended. -/
def condsTick (s : State) : State := forAll (List.range 9) portCond s

/-- Every port at the tick edge. -/
def portsTick (s : State) : State := forAll (List.range 9) portTick s

/-! ### Capability frames (R102 to R104) -/

/-- SEEN: an acceptable frame within the last 16 ticks in CAPABILITY, within 16 ms above it
(04_ports.md Table 4.2). -/
def capSeen (s : State) (p : Nat) : Bool :=
  let y := port s p
  let span := ticks (if y.st = 4 then 16 else ms 16)
  y.cap.ok && (match y.cap.goodAt with
    | some t => decide (now s ≤ t + span)
    | none => false)

/-- The payload of a capability frame (04_ports.md Table 4.2). -/
def capPayload (s : State) (p : Nat) : Bytes :=
  let y := port s p
  let sb := if p = 8 then !s.ssw.actOut else decide (y.st ≠ 5)
  let follow := decide (p < 8) && flg s (portBase p) 2
  [0x10, BitVec.ofNat 8 (16 * laneRate s (laneOf p 0)), BitVec.ofNat 8 y.lanes,
    BitVec.ofNat 8 (8 * b2n sb + 4 * b2n follow + 2 * b2n (cutCap s p) + b2n (capSeen s p)),
    BitVec.ofNat 8 (qlSent s p), 1]
  ++ beBytes 4 (nodeId s).toNat
  ++ [BitVec.ofNat 8 p, BitVec.ofNat 8 (if y.cap.ok then 0 else y.cap.reason.toNat), 0, 0, 0, 0]

/-- REASON for which a frame on a port is refused, 0 when it is acceptable (04_ports.md R103). -/
def capReason (s : State) (p : Nat) (b : Bytes) : Nat :=
  let byte (i : Nat) : Nat := (b.getD i 0).toNat
  let same (l : Nat) : Bool :=
    let i := (lane s l).frm.ident
    byte 4 % 16 = i.ql.toNat && byte 5 = i.role.toNat && beAt b 6 4 = i.device.toNat
      && byte 10 = i.portNum.toNat
  if b.length < 16 then 4
  else if byte 0 / 16 ≠ 1 then 1
  else if bitsOf (byte 1) 5 4 ≠ laneRate s (laneOf p 0) ∨ byte 2 % 64 ≠ (port s p).lanes then 2
  else if (bondedLanes s p).all same then 0 else 3

/-- FAR_CAP of an acceptable frame (04_ports.md Table 4.4). -/
def capFar (b : Bytes) : Word :=
  let byte (i : Nat) : Nat := (b.getD i 0).toNat
  BitVec.ofNat 32 (byte 0 * 2 ^ 24 + bitsOf (byte 1) 5 4 * 2 ^ 22 + byte 2 % 64 * 2 ^ 16
    + byte 3 % 16 * 2 ^ 12 + byte 4 % 16 * 2 ^ 8 + byte 5)

/-- A capability frame taken by a port in CAPABILITY or above (04_ports.md R102 to R104). -/
def capTake (p : Nat) (b : Bytes) (s : State) : State :=
  let y := port s p
  let r := capReason s p b
  let c := { y.cap with heardAt := some (now s), silent := false }
  if r ≠ 0 then setPort p { y with cap := { c with ok := false, reason := BitVec.ofNat 4 r } } s
  else
    let far := capFar b
    let id := BitVec.ofNat 32 (beAt b 6 4)
    let rest : BitVec 16 := BitVec.ofNat 16 (beAt b 10 2)
    let changed := c.farSeen && decide (5 ≤ y.st.toNat)
      && decide (far ≠ c.farCap ∨ id ≠ c.farId ∨ rest ≠ c.farRest)
    let seen := bitOf (b.getD 3 0).toNat 0
    let agree := y.st = 4 && seen && bitOf (c.sent.getD 3 0).toNat 0
    let s := setPort p { y with cap := { c with
      ok := true, goodAt := some (now s), mute := false, farCap := far, farId := id, farSeen := true, farRest := rest
      seenAt := (if seen then some s.tick else none), agreeNow := c.agreeNow || agree } } s
    onlyIf changed (raise .capChange p far.toNat) s

/-- CAPABILITY_FRAME_RX (04_ports.md R102 to R104): the framer of lane `l` has delivered a TYPE 0x01
frame with this payload; it is accepted from any bonded lane of a port in CAPABILITY, SERVICE, STANDBY or
LINKED. -/
def execCapabilityFrameRx (l : Nat) (payload : Bytes) (s : State) : Host.Outcome State Fault Refusal :=
  match takeFrame l 0x01 payload s with
  | none => .next s
  | some s =>
    let p := portOf l
    if (bondedLanes s p).contains l && decide (4 ≤ (port s p).st.toNat) then .next (capTake p payload s)
    else .next s

/-- CAPABILITY_SEND (04_ports.md R102): a frame on the lowest bonded lane, as soon as the previous one
has ended in CAPABILITY; above it every 1,000 ticks, and at once when a field changes. A frame with SEEN = 1 sent in
the tick of an acceptable one received with SEEN = 1 declares agreement. -/
def execCapabilitySend (p : Nat) (s : State) : Host.Outcome State Fault Refusal :=
  match (bondedLanes s p).head? with
  | none => .next s
  | some l =>
    let y := port s p
    let b := capPayload s p
    let due := if y.st = 4 then (lane s l).out.msg.isEmpty
      else decide (y.cap.sentAt + 1000 ≤ s.tick) || decide (b ≠ y.cap.sent)
    if 9 ≤ p ∨ y.st.toNat < 4 ∨ !due then .next s
    else
      let agree := y.st = 4 && bitOf (b.getD 3 0).toNat 0 && y.cap.seenAt = some s.tick
      .next (setPort p { y with cap := { y.cap with
        sent := b, sentAt := s.tick, agreeNow := y.cap.agreeNow || agree } } (sendFrame l 0x01 b s))

/-- CAPABILITY_TIMEOUT (04_ports.md R104): CAPABILITY has lasted 10 ms without agreement: one failure,
and the count starts again. -/
def execCapabilityTimeout (p : Nat) (s : State) : Host.Outcome State Fault Refusal :=
  let y := port s p
  if p < 9 && y.st = 4 && !y.cap.agreeNow && due s y.cap.since (ticks (ms 10)) then
    .next (raise .capFail p y.cap.reason.toNat (count (portBase p + 0x40)
      (setPort p { y with cap := { y.cap with since := some (now s) } } s)))
  else .next s

/-- CAPABILITY_SILENCE (04_ports.md R104): 16 ms without a frame in SERVICE, STANDBY or LINKED; the port
stays in its state, and monitoring declares PCAP at the tick edge (09_monitoring.md R220). -/
def execCapabilitySilence (p : Nat) (s : State) : Host.Outcome State Fault Refusal :=
  let y := port s p
  if p < 9 && 5 ≤ y.st.toNat && !y.cap.silent && due s y.cap.heardAt (ticks (ms 16)) then
    .next (setPort p { y with cap := { y.cap with silent := true, mute := true } } s)
  else .next s

/-! ### Enabling ports and lanes -/

/-- Lanes of a port, at `n` lanes, whose configured rate differs from that of lane 0 (04_ports.md R95). -/
def mismatched (s : State) (p n : Nat) : List Nat :=
  ((List.range n).map (laneOf p)).filter fun l => cfgRate s l ≠ cfgRate s (laneOf p 0)

/-- The events that name lanes of another rate. -/
def nameMismatched (p : Nat) (ls : List Nat) (s : State) : State :=
  forAll ls (fun l s => raise .rateMismatch p (inPort l) s) s

/-- A port whose ENABLE is set and whose domain is up leaves DOWN (04_ports.md R95, R99, R114): lanes beyond LANES
belong to no port. -/
def startPort (p : Nat) (s : State) : State :=
  let y := port s p
  if y.st = 0 ∧ flg s (portBase p) 0 ∧ pdOn s (laneDomain (laneOf p 0)) then
    let n := cfgLanes s p
    let td := cfg s (portBase p + 8)
    let b := if p = 8 then y.bind else { y.bind with td := td, mode := BitVec.ofNat 2 (tdMode td) }
    let s := forAll ((List.range 32).filter (n ≤ ·)) (fun i s =>
      let x := lane s (laneOf p i)
      setLane (laneOf p i) { x with bond := { x.bond with bonded := false, good := 0 } } s) s
    let s := setPort p { y with
      st := 1, lanes := n, minLanes := cfgMinLanes s p, bind := b, group := [], judged := true } s
    advancePort p (nameMismatched p (mismatched s p n) s)
  else s

/-- A write of PORT[p].CFG (04_ports.md R114): FOLLOW that becomes 1 starts to follow (06_pages.md R157);
the firmware holds STANDBY_ONLY at 1 on a twin that is not active (16_journal_seesaw.md R426). -/
def writePortCfg (p : Nat) (v : Word) (s : State) : State :=
  let o := portBase p
  let v := if s.ssw.holdPorts ∧ p < 8 then putBits v 1 1 1 else v
  let begins := !flg s o 2 && bitOf v.toNat 2 && (port s p).st = 5
  let s := onlyIf (begins && decide (p < 8)) (fun s => setFollow p { followOf s p with valid := false } s) s
  let s := onlyIf (flg s o 0 && !bitOf v.toNat 0) (fun s =>
    setPort p { port s p with cnt := { (port s p).cnt with off := true } } s) s
  startPort p (putReg o v (portMask p 0) s)

/-- PORT_ENABLE (04_ports.md R99, R114): a write of PORT[p].CFG with ENABLE = 1 takes a port from DOWN to
TRAINING, once its domain is up (17_power_startup.md R438). -/
def execPortEnable (p : Nat) (v : Word) (s : State) : Host.Outcome State Fault Refusal :=
  if p < 9 && linkUp s then .next (writePortCfg p v s) else .next s

/-- PORT_DISABLE (04_ports.md R100): a write of PORT[p].CFG with ENABLE = 0; the port goes to DOWN at the
end of the tick. -/
def execPortDisable (p : Nat) (v : Word) (s : State) : Host.Outcome State Fault Refusal :=
  if p < 9 && linkUp s then .next (writePortCfg p v s) else .next s

/-- A write of LN_CFG (03_lanes.md R92, 04_ports.md R95): ENABLE that is set starts training once the
domain is up, ENABLE cleared returns the lane to OFF, lanes whose rate then differs from that of lane 0 leave the
bond (R97), and a mismatch of rate the write creates is reported. -/
def writeLnCfg (l : Nat) (v : Word) (s : State) : State :=
  let p := portOf l
  let n := (port s p).lanes
  let before := mismatched s p n
  let s := putReg (laneBase l) v 0x37F s
  let s := if !pdOn s (laneDomain l) then s
    else if flg s (laneBase l) 9 then (if (lane s l).trn.rx = 0 then startTraining l s else s)
    else if (lane s l).trn.rx = 0 then s
    else laneOff l s
  let s := forAll (mismatched s p n) (fun l s => leaveBond l 1 s) s
  if (port s p).st = 0 then s
  else nameMismatched p ((mismatched s p n).filter fun l => !before.contains l) s

/-- LANE_ENABLE (03_lanes.md R92): a write of LN_CFG with ENABLE = 1 starts training of the lane. -/
def execLaneEnable (l : Nat) (v : Word) (s : State) : Host.Outcome State Fault Refusal :=
  if laneOk l && linkUp s then .next (writeLnCfg l v s) else .next s

/-- LANE_DISABLE (03_lanes.md R92): a write of LN_CFG with ENABLE = 0: electrical idle at once, and the
lane returns to OFF. -/
def execLaneDisable (l : Nat) (v : Word) (s : State) : Host.Outcome State Fault Refusal :=
  if laneOk l && linkUp s then .next (writeLnCfg l v s) else .next s

/-- A write of PORT[p].TD_CFG (04_ports.md R111, R116): in SERVICE it waits for the next page swap and
asks for one (06_pages.md R153); otherwise it takes effect at once. PX has no such register (R113). -/
def writeTdCfg (p : Nat) (v : Word) (s : State) : State :=
  let s := putReg (portBase p + 8) v (portMask p 8) s
  let td := cfg s (portBase p + 8)
  let y := port s p
  if p = 8 then s
  else if y.st = 5 then askRebind p (setPort p { y with bind := { y.bind with modePending := true } } s)
  else setPort p { y with bind := { y.bind with
    td := td, mode := BitVec.ofNat 2 (tdMode td), modePending := false } } s

/-- TD_CFG_WRITE (04_ports.md R111). -/
def execTdCfgWrite (p : Nat) (v : Word) (s : State) : Host.Outcome State Fault Refusal :=
  if p < 9 && linkUp s then .next (writeTdCfg p v s) else .next s

/-! ### Power domains of ports (R438) -/

/-- The port of a domain PD6 to PD14. -/
def domainPort (d : Nat) : Nat := if d = 6 then 8 else d - 7

/-- The lanes of a port's power domain: all 32, or the four of PX. -/
def domainLanes (d : Nat) : List Nat :=
  if d = 6 then [256, 257, 258, 259] else (List.range 32).map (laneOf (d - 7))

/-- Every ENABLE of a domain is 0. -/
def domainIdle (s : State) (d : Nat) : Bool :=
  !flg s (portBase (domainPort d)) 0 && (domainLanes d).all fun l => !flg s (laneBase l) 9

/-- The domains that have become idle, with the tick, are recorded at the tick edge. -/
def idleTick (s : State) : State :=
  forAll ((List.range 9).map (6 + ·)) (fun d s =>
    let idle := s.pwr.idle
    let idle := if pdOn s d && domainIdle s d then
        (if (idle.find? (·.1 = d)).isSome then idle else spIns d s.tick idle)
      else spDel d idle
    { s with pwr := { s.pwr with idle := idle } }) s

/-- Switch a domain off: what it holds but its configuration and counters is lost. -/
def domainOff (d : Nat) (s : State) : State :=
  let s := forAll (domainLanes d) (fun l s => setLane l Lane.reset (loseAlignment l s)) s
  setPort (domainPort d) Port.reset { s with pwr := { s.pwr with
    on := s.pwr.on &&& ~~~(BitVec.ofNat 20 (2 ^ d)), idle := spDel d s.pwr.idle } }

/-- PORT_DOMAIN_POWER_DOWN (17_power_startup.md R438): PD6 to PD14 is powered down once its ENABLEs have
been 0 for 10 ms without a break. -/
def execPortDomainPowerDown (d : Nat) (s : State) : Host.Outcome State Fault Refusal :=
  let idle := match s.pwr.idle.find? (·.1 = d) with
    | some (_, t) => decide (t + ms 10 ≤ s.tick)
    | none => false
  if 6 ≤ d && d ≤ 14 && pdOn s d && domainIdle s d && idle then .next (domainOff d (count 0x10028 s)) else .next s

/-- A port's domain may be powered: PD6 from the end of step 5 and PD7 to PD14 from step 9 of start-up on
(17_power_startup.md Table 17.1). -/
def domainAllowed (s : State) (d : Nat) : Bool :=
  s.pwr.st = 2 || s.pwr.st = 3 || (s.pwr.st = 1 && decide ((if d = 6 then 6 else 9) ≤ s.pwr.step))

/-- Switch a domain of a port on: every ENABLE that is set takes effect. -/
def domainOn (d : Nat) (s : State) : State :=
  let s := { s with pwr := { s.pwr with on := s.pwr.on ||| BitVec.ofNat 20 (2 ^ d) } }
  let s := forAll ((domainLanes d).filter fun l => flg s (laneBase l) 9) startTraining s
  startPort (domainPort d) s

/-- PORT_DOMAIN_POWERED (17_power_startup.md R438): a port's domain is up again after an ENABLE has
become 1. -/
def execPortDomainPowered (d : Nat) (s : State) : Host.Outcome State Fault Refusal :=
  if 6 ≤ d && d ≤ 14 && !pdOn s d && !domainIdle s d && domainAllowed s d then
    .next (domainOn d (count 0x10028 s))
  else .next s

/-! ### Codewords and restarts -/

/-- CODEWORD_RX (03_lanes.md R82 to R89): a codeword is decoded on a lane that hunts or holds
codeword lock. Errors of more than 15 symbols are uncorrectable (R80). Under lock the codewords follow one another
without gaps (R86), and what is met elsewhere is no codeword; only codewords under lock are counted (DESIGN CHOICE,
log entry 60). -/
def execCodewordRx (l : Nat) (c : CodewordIn) (s : State) : Host.Outcome State Fault Refusal :=
  let byp := bypassActive s l
  let c := decodeCodeword byp c
  if !laneOk l then .next s
  else if (lane s l).trn.rx = 3 then
    (if c.ui = (lane s l).cw.ui then .next (lockedStep l c (countCodeword l c s)) else .next s)
  else if (lane s l).trn.rx = 2 then .next (advancePort (portOf l) (huntStep l c s))
  else .next s

/-- TRAIN_RESTART (03_lanes.md R79, R94): a write of TRAIN_CFG; RESTART = 1 restarts training at
once on a lane that is enabled, and MAX_TIME takes the value written. -/
def execTrainRestart (l : Nat) (v : Word) (s : State) : Host.Outcome State Fault Refusal :=
  if !laneOk l || !linkUp s then .next s
  else
    let s := setReg (laneBase l + 8) (v &&& 0x03FF0000) s
    if bitOf v.toNat 31 && decide ((lane s l).trn.rx ≠ 0) then .next (restartTraining l s) else .next s

/-- HUNT_RESTART (02_tray_format.md R56 step 6, R64): a write of FRM_CTRL. TX_TEST takes the bit
written; HUNT_RESTART = 1 drops every candidate and tray lock. -/
def execHuntRestart (l : Nat) (v : Word) (s : State) : Host.Outcome State Fault Refusal :=
  if !laneOk l || !linkUp s then .next s
  else
    let s := setReg (laneBase l + 0x804) (v &&& 2) s
    .next (if bitOf v.toNat 0 then loseAlignment l s else s)

/-- CORE_INJECT_ARM (05_core.md R144): a write of CORE.INJECT; after GLB.LOCK it is discarded. ARM
with TYPE other than 1 and 2 arms nothing. -/
def execCoreInjectArm (v : Word) (s : State) : Host.Outcome State Fault Refusal :=
  if locked s || !reach s 0x300008 then .next s
  else
    let t := bitsOf v.toNat 30 29
    let w := v &&& 0xF807FFFF
    .next (setReg 0x300008 (if t = 1 ∨ t = 2 then w else putBits w 31 31 0) s)

end Sys2Proof.Machine
end

