-- ==== Sys2Proof/Machine/Reads.lean ====
section
/-! DEFINITION. What a read of a register returns (the register tables of every chapter; 00_scope.md R12
to R16, 19_registers.md R481). Registers that hold what was written are in the register file; the status
words are put together here from the state of their block. -/

namespace Sys2Proof.Machine

/-- A word of fields: value and lowest bit of each. -/
def fieldsOf (fs : List (Nat × Nat)) : Nat := (fs.map fun f => f.1 * 2 ^ f.2).sum

/-- The word of flags `f 0` to `f 31`. -/
def bits32 (f : Nat → Bool) : Nat := ((List.range 32).map fun i => b2n (f i) * 2 ^ i).sum

/-- A signed number in `w` bits of two's complement. -/
def twos (w : Nat) (x : Int) : Nat := (x % (2 ^ w : Nat)).toNat

/-- Seconds left of a span of seconds begun at a tick, a second begun counting whole (log entry 21). -/
def secsLeft (s : State) (since span : Nat) : Nat := (since + span * 1000000 - s.tick + 999999) / 1000000

/-! ### Lanes and ports -/

/-- LANE[l].FRM_STATUS (02_tray_format.md Table 2.11). -/
def frmStatus (f : Framer) : Nat :=
  fieldsOf [(f.flags.toNat, 12), (f.lastRow.toNat, 8), (b2n (f.cands.any fun c => !c.sync && c.count = 2), 6),
    (f.cands.length, 3), (b2n f.lock, 2),
    ((if hasSync f.cands then 2 else if f.cands.isEmpty then 0 else 1), 0)]

/-- LANE[l].LN_STATUS (03_lanes.md Table 3.16). -/
def lnStatus (s : State) (l : Nat) : Nat :=
  let x := lane s l
  let t := x.trn
  fieldsOf [(x.cw.lane.toNat, 16), (b2n (bypassActive s l), 14), (b2n t.precodeRx, 13), (b2n t.precodeTx, 12),
    (b2n t.partner, 11), (b2n t.readySent, 10), (b2n t.frameLock, 9), (b2n t.signal, 8),
    (b2n (t.signal && t.cdr), 7), (t.tx.toNat, 4), (t.rx.toNat, 0)]

/-- A status word of LANE[l] at offset `x` of its block (Tables 2.10 and 3.14). -/
def laneWord (s : State) (l x : Nat) : Nat :=
  let y := lane s l
  let t := y.trn.taps
  let f := y.frm
  if x = 4 then lnStatus s l
  else if x = 0x10 then fieldsOf [(code8 t.m1, 24), (code8 t.m2, 16), (code8 t.m3, 8), (code8 t.m4, 0)]
  else if x = 0x14 then fieldsOf [(code8 t.p2, 16), (code8 t.p1, 8), (code8 t.c0, 0)]
  else if x = 0x800 then frmStatus f
  else if x = 0x834 then (if f.lock then f.seq.toNat else 0)
  else if x = 0x838 then f.ident.device.toNat
  else if x = 0x83C then fieldsOf [(f.ident.ql.toNat, 24), (f.ident.laneIdx.toNat, 16),
    (f.ident.portNum.toNat, 8), (f.ident.role.toNat, 0)]
  else 0

/-- PORT[p].STATUS (04_ports.md Table 4.6). -/
def portStatus (s : State) (p : Nat) : Nat :=
  let y := port s p
  fieldsOf [((bondedLanes s p).length, 16), (y.cap.reason.toNat, 8), (b2n y.cap.agreed, 7),
    (b2n (bitOf y.cap.farCap.toNat 13), 6), (b2n (bitOf y.cap.farCap.toNat 14), 5), (b2n y.farStandby, 4),
    (b2n s.ssw.actOut, 3), (y.st.toNat, 0)]

/-- A status word of PORT[p] at offset `x` of its block (04_ports.md Table 4.4); PX has no binding. -/
def portWord (s : State) (p x : Nat) : Nat :=
  let y := port s p
  let b := y.bind
  if x = 4 then portStatus s p
  else if x = 0x1C then
    ((List.range 32).map fun i => b2n (decide (i < y.lanes) && (lane s (laneOf p i)).bond.bonded) * 2 ^ i).sum
  else if x = 0x24 then y.cap.farCap.toNat
  else if x = 0x28 then y.cap.farId.toNat
  else if x = 0x18 then fieldsOf [(b.late, 16), (b.skew, 0)]
  else if p = 8 then 0
  else if x = 0xC then fieldsOf [(b2n b.modePending, 5), (b2n b.exitPending, 4),
    (b2n (within (bandOf 0 b.td) b.arrival), 3), (b2n b.bound, 2), (b.mode.toNat, 0)]
  else if x = 0x10 then twos 14 b.arrival
  else if x = 0x14 then (match b.range with
    | some (lo, hi) => fieldsOf [(twos 14 hi, 16), (twos 14 lo, 0)]
    | none => 0)
  else if x = 0x20 then (if b.bound then b.k.toNat else 0)
  else 0

/-! ### Core, pages, abacus, protection, monitoring -/

/-- A status word of CORE (05_core.md Tables 5.10 and 5.11). -/
def coreWord (s : State) (o : Nat) : Nat :=
  let n := usableCount s
  if o = 0 then fieldsOf [(2048 - s.core.retired.length, 16), (b2n (decide (2047 ≤ n)), 2),
    (b2n (decide (1024 ≤ n)), 1), (b2n s.core.running, 0)]
  else if 0x100 ≤ o ∧ o < 0x200 then bits32 fun i => s.core.retired.contains (8 * (o - 0x100) + i)
  else 0

/-- Code of a standby state (06_pages.md Table 6.2). -/
def standbyCode : Standby → Nat
  | .clean => 0 | .building => 1 | .built => 2 | .armed => 3 | .committed => 4 | .resync => 5
  | .loading => 6 | .saving => 7 | .borrowed => 8

/-- REQUESTER of an armed page set (06_pages.md Table 6.9): queue, engine or port. -/
def requesterOf : PageWork → Nat
  | .batch q _ _ _ | .repack q | .hostLoad q _ _ _ | .save q _ _ _ _ => q
  | .groupLoad g _ | .groupBridge g _ => ownerOf g
  | .rebind ps => ps.headD 0
  | .vacate _ | .first => 0

/-- The follow port and generation of an armed page set. -/
def followOfWork : PageWork → Option (Nat × BitVec 8)
  | .batch _ _ f _ => f
  | _ => none

/-- PAGE.ARM_INFO (06_pages.md Table 6.9). -/
def armInfo (s : State) : Nat :=
  match s.page.armed with
  | none => 0
  | some a =>
    let f := followOfWork a.work
    let sc := match a.work with
      | .hostLoad _ n _ _ | .groupLoad _ n => n
      | _ => 0
    fieldsOf [(a.work.source, 29), (b2n f.isSome, 28), ((f.map (·.1)).getD 0, 24),
      ((f.map (·.2.toNat)).getD 0, 16), (sc, 8), (requesterOf a.work, 0)]

/-- PAGE.FOLLOW_SEEN[p] (06_pages.md Table 6.10). -/
def followSeen (f : Follow) : Nat :=
  fieldsOf [(b2n f.valid, 31), (b2n f.colour, 16), (f.gen.toNat, 8), (f.miss.toNat, 0)]

/-- PAGE.SCEN_STATUS[n] (06_pages.md Table 6.11). -/
def scenStatus (x : Scenario) : Nat :=
  fieldsOf [(x.st.toNat, 29), (b2n x.auto, 28), (x.reason.toNat, 24), (x.loads.toNat, 0)]

/-- A status word of PAGE. -/
def pageWord (s : State) (o : Nat) : Nat :=
  let p := s.page
  if o = 0 then fieldsOf [(standbyCode p.standby, 24), (p.gen.toNat, 16), (b2n p.colour, 1), (b2n p.active, 0)]
  else if o = 0x18 then armInfo s
  else if 0x60 ≤ o ∧ o < 0x80 then followSeen (followOf s ((o - 0x60) / 4))
  else if 0x100 ≤ o ∧ o < 0x200 then scenStatus (scen s ((o - 0x100) / 4))
  else 0

/-- A status word of ABACUS (07_strings_abacus.md Tables 7.9 and 7.10). -/
def abacusWord (s : State) (o : Nat) : Nat :=
  let a := s.abacus
  if o = 0 then fieldsOf [(b2n (s.page.standby = .building), 31), (a.job.toNat, 28), (b2n a.first, 27),
    (a.lent.length, 20), (bits32 (fun e => decide (e < 16) && engineRuns s (176 + e)), 0)]
  else if o = 0x24 then a.lastBuild.toNat
  else if o = 0x28 then a.map.strs.length
  else if 0x100 ≤ o ∧ o < 0x200 then bits32 fun i => a.lent.contains (8 * (o - 0x100) + i)
  else 0

/-- A status word of PROT (08_protection.md Table 8.11). -/
def protWord (s : State) (o : Nat) : Nat :=
  let p := s.prot
  if o = 0 then p.groups.length
  else if o = 4 then bits32 fun e => engineRuns s (128 + e)
  else if o = 8 then bits32 fun e => decide (e < 16) && engineRuns s (160 + e)
  else if 0x1000 ≤ o ∧ o < 0x1400 then bits32 fun i => spGet (fun _ => false) p.sel (8 * (o - 0x1000) + i)
  else if 0x1400 ≤ o ∧ o < 0x1800 then bits32 fun i =>
    match group s (8 * (o - 0x1400) + i) with
    | some g => decide (g.chCause ≠ 0)
    | none => false
  else 0

/-- A status word of PM (09_monitoring.md Tables 9.9, 9.10 and 9.12). -/
def pmWord (s : State) (o : Nat) : Nat :=
  if o = 0 then fieldsOf [(b2n s.pm.running, 31), (b2n (s.pm.halves.any fun h => !h.2.out.isEmpty), 30),
    (((s.pm.info15.head?.map (·.secs)).getD 0) % 1024, 0)]
  else if o = 0x14 then s.pm.second
  else if 0x100 ≤ o ∧ o < 0x500 then defectWord s ((o - 0x100) / 4)
  else if 0x500 ≤ o ∧ o < 0x524 then defectWord s (300 + (o - 0x500) / 4)
  else if 0x540 ≤ o ∧ o < 0x550 then defectWord s (256 + (o - 0x540) / 4)
  else 0

/-! ### Timing -/

/-- TIMING.STATUS (10_timing.md Table 10.11). -/
def timingStatus (s : State) : Nat :=
  let t := s.timing
  fieldsOf [(t.mode, 29), (b2n t.todValid, 28), (b2n t.ovenReady, 27), (b2n (t.stepping || decide (t.stepLeft ≠ 0)), 26),
    (b2n (!t.disagree.isEmpty), 25), (t.qlTx, 20), ((t.selected.map (refQl s)).getD 0, 16),
    (t.selected.getD 0x1F, 0)]

/-- TIMING.REF_STATUS[n] (10_timing.md Table 10.15). -/
def refStatus (s : State) (n : Nat) : Nat :=
  let r := ref s n
  fieldsOf [(b2n r.qualified, 31), (b2n r.wtrAt.isSome, 30), (b2n r.active, 29), (b2n r.freqOk, 28),
    (b2n r.wanderOk, 27), (b2n (selectable s n), 26), ((if refOn s n then refQl s n else 0), 20),
    ((match r.wtrAt with | some t => secsLeft s t (refWtr s n) | none => 0), 0)]

/-- A status word of TIMING (10_timing.md Table 10.10). -/
def timingWord (s : State) (o : Nat) : Nat :=
  let t := s.timing
  if o = 0 then timingStatus s
  else if o = 0x1C then fieldsOf [(b2n (specMet s), 31), (b2n t.estValid, 30), (min 65535 t.learnHours, 0)]
  else if o = 0x20 then twos 32 (sat32 (freqNow s))
  else if o = 0x24 then twos 32 (sat32 (heldEstimate s))
  else if o = 0x28 then twos 32 t.stepLeft
  else if o = 0x38 then t.latNs
  else if 0x100 ≤ o ∧ o < 0x1E0 ∧ o % 16 = 8 then refStatus s ((o - 0x100) / 16)
  else if 0x100 ≤ o ∧ o < 0x1E0 ∧ o % 16 = 12 then twos 32 (ref s ((o - 0x100) / 16)).freq
  else if 0x200 ≤ o ∧ o < 0x238 then twos 32 (ref s ((o - 0x200) / 4)).phase
  else 0

/-! ### Engines, banks, march test, performance counters -/

/-- Role of an engine's firmware (01_architecture.md R21). -/
def engRole (e : Nat) : Nat := if e < 128 then 1 else if e < 176 then 2 else 3

/-- The engine whose work engine `e` runs beside its own. -/
def hostedBy (s : State) (e : Nat) : Option Nat := (List.range 192).find? fun f => f ≠ e && runs s f = e

/-- ENG[c].ENG_STATUS[j] of engine e (11_engines_banks.md Table 11.13). -/
def engStatus (s : State) (e : Nat) : Nat :=
  let x := eng s e
  let guest := hostedBy s e
  let away := decide (runs s e ≠ e)
  fieldsOf [(x.st, 29), (b2n guest.isSome, 28), (b2n away, 27),
    ((match guest with | some f => f | none => if away then runs s e else 0), 16),
    ((if x.st = 0 then 0 else engRole e), 12), (x.consec, 0)]

/-- The cluster whose work cluster c runs, 0xF for none. -/
def hostedCluster (s : State) (c : Nat) : Nat :=
  ((List.range 12).find? fun d => spGet (fun _ => 0) s.eng.host d = c + 1).getD 0xF

/-- ENG[c].CL_STATUS (11_engines_banks.md Table 11.12). -/
def clStatus (s : State) (c : Nat) : Nat :=
  let h := spGet (fun _ => 0) s.eng.host c
  fieldsOf [(clState s c, 29), ((if h = 0 then 0xF else h - 1), 20), (hostedCluster s c, 16),
    (bits32 (fun j => decide (j < 16) && decide (runs s (16 * c + j) = 16 * c + j)
      && decide ((eng s (16 * c + j)).st = 2)), 0)]

/-- A status word of ENG[c]. -/
def engWord (s : State) (c x : Nat) : Nat :=
  if x = 0 then clStatus s c
  else if 0x100 ≤ x ∧ x < 0x140 then engStatus s (16 * c + (x - 0x100) / 4) else 0

/-- BANK.OWNER[b] (11_engines_banks.md Table 11.15). -/
def bankOwner (x : Bank) : Nat :=
  fieldsOf [(b2n x.failed, 31), (x.test, 29), (b2n x.lendOk, 16), (x.lender, 8), (x.owner, 0)]

/-- A status word of MTEST (11_engines_banks.md Tables 11.16 and 11.17). -/
def mtestWord (s : State) (o : Nat) : Nat :=
  let t := s.mtest
  if o = 0 then fieldsOf [(t.target, 28), (t.mode, 26), (b2n (testPaused s), 25),
    (min 511 t.segment, 16), (elementNow s, 11), (t.index, 0)]
  else if o = 0x34 then t.last.toNat
  else if o = 0x38 then fieldsOf [((t.blocks.filter fun b => decide (8 ≤ b.2.rows)).length, 16),
    ((t.blocks.filter fun b => decide (2 ≤ b.2.cols)).length, 0)]
  else if o = 0x3C then s.core.unreliable.length + t.outFlags.length
  else if o = 0x40 then t.flagLast.toNat
  else if 0x80 ≤ o ∧ o < 0xA0 then bits32 fun i =>
    t.inFailed.contains (8 * (o - 0x80) + i) || t.outFailed.contains (8 * (o - 0x80) + i)
  else if 0xA0 ≤ o ∧ o < 0xB8 then bits32 fun i => decide ((eng s (8 * (o - 0xA0) + i)).st = 4)
  else 0

/-- Place of a counter in the overflow word of its engine (12_perf_counters.md Table 12.7). -/
def ovfPlace (k : Nat) : Nat := if k = 0 then 6 else if k = 1 then 7 else k - 2

/-- OVF of engine e. -/
def ovfWord (s : State) (e : Nat) : Nat :=
  ((List.range 8).map fun k => b2n (s.perf.ovf.contains (8 * e + k)) * 2 ^ ovfPlace k).sum

/-- A status word of PERF (12_perf_counters.md Tables 12.6 and 12.7). -/
def perfWord (s : State) (o : Nat) : Nat :=
  match windowAt o with
  | some (e, x) => if x = 0x80 then ovfWord s e else 0
  | none =>
    if 0x600020 ≤ o ∧ o < 0x600038 then bits32 fun b => decide (ovfWord s (8 * (o - 0x600020) + b) ≠ 0)
    else if o = 0x620280 then bits32 fun k => s.perf.ovf.contains (devCounter k)
    else 0

/-! ### Host interface, cipher engine, management -/

/-- A status word of HIF (13_host.md Table 13.10). -/
def hifWord (s : State) (o : Nat) : Nat :=
  let h := s.hif
  match queueAt o, ringAt o with
  | some (q, x), _ =>
    let y := queue s q
    if x = 0x14 then fieldsOf [(b2n y.enabled, 31), (b2n y.error, 30), (y.cause, 24), (y.ci, 0)] else 0
  | _, some (r, x) =>
    let y := ring s r
    if x = 0xC then fieldsOf [(b2n y.enabled, 31), (b2n y.error, 30), (y.cause, 24), (y.pi, 0)] else 0
  | none, none =>
    if o = 0x50000 then fieldsOf [(b2n h.link, 31), (h.speed, 28), (h.width, 26), (b2n h.flit, 25), (h.vfs, 0)]
    else if o = 0x50040 then 0x1FF
    else 0

/-- SEC.STATUS (14_cipher.md Table 14.10). -/
def secStatus (s : State) : Nat :=
  let x := s.sec
  fieldsOf [(b2n x.locked, 31),
    (min 3 (x.faultAt.filter fun t => decide (s.tick < t + 1000000)).length, 29),
    (b2n x.root.isSome, 28), (b2n x.owner.isSome, 27),
    (bits32 (fun d => decide (d < 4) && (dpRun s d).isSome), 20),
    (bits32 (fun d => decide (d < 4) && decide (window s d ≠ .free)), 16),
    ((x.slots.filter fun e => e.2.st = 2).length, 0)]

/-- The AES blocks of an operation (14_cipher.md R354, R355): those of its data, one more for the tag mask of GCM and
for the subkey of CMAC, and six for every 64 bits that AES-KW unwraps. -/
def dpBlocks (s : State) (r : DpRun) : Nat × Nat :=
  match r.job with
  | .work _ => (0, 1)
  | .unwrap q _ => (6 * (leAt (extOf ((queue s q).running.getD ⟨[], none⟩)) 8 2 / 8 - 5), 0)
  | .op q =>
    let n := (r.input.length - (if r.mode = 4 then aadLen (askOf s q) else 0) + 15) / 16
    (n, if 4 ≤ r.mode then 1 else 0)

/-- The phase of an operation by the ECLK since its start (R355, R357; log entry 22): 1 key expansion, 2 running over its
data, 3 checking a tag or an integrity value, 4 releasing what passed. -/
def dpPhase (s : State) (r : DpRun) : Nat :=
  let one := if r.key.length = 32 then 28 else 20
  let b := dpBlocks s r
  let lag := if r.dec ∨ 5 ≤ r.mode then 4 else one
  let t := now s - r.since
  if t < one then 1
  else if t < one * (1 + b.1) then 2
  else if t < one * (1 + b.1 + b.2) + lag ∨ (r.mode = 5 ∧ r.dec) then (if r.dec && decide (4 ≤ r.mode) then 3 else 2)
  else 4

/-- SEC.DP_STATUS[d] (14_cipher.md Table 14.11). -/
def dpStatus (s : State) (d : Nat) : Nat :=
  match dpRun s d with
  | some r =>
    let wide := decide (r.key.length = 32)
    let st := dpPhase s r
    fieldsOf [(st, 29), (r.mode, 26), (b2n r.dec, 25), (b2n wide, 24), (r.job.cls, 20),
      (b2n r.slot.isNone, 10), (r.slot.getD 0, 0)]
  | none => fieldsOf [((if s.sec.locked then 6 else if window s d = .zeroing then 5 else 0), 29)]

/-- A status word of SEC (14_cipher.md Table 14.9). -/
def secWord (s : State) (o : Nat) : Nat :=
  if o = 0 then secStatus s
  else if o = 8 then (s.sec.owner.map (·.2)).getD 0
  else if 0x40 ≤ o ∧ o < 0x50 then dpStatus s ((o - 0x40) / 4)
  else if 0x100 ≤ o ∧ o < 0x200 then
    ((List.range 16).map fun j => (keySlot s (4 * (o - 0x100) + j)).st * 4 ^ j).sum
  else 0

/-- VERSION of an image slot; 0 when it is empty or bad (15_management.md Table 15.10). -/
def slotVersion (img : Bytes) (bad : Bool) : Nat := if bad then 0 else leAt img 12 4

/-- TRIAL_TIME in force: 60 s at least (15_management.md Table 15.10). -/
def trialTime (s : State) : Nat := max 60 (fld s 0x70004 15 0)

/-- The debug ports open (13_host.md Table 13.15). -/
def debugOpen (s : State) : Bool := decide (s.otp.life = 1 ∨ s.otp.life = 3) || s.mgmt.unlocked

/-- MGMT.STATUS (15_management.md Table 15.11). -/
def mgmtStatus (s : State) : Nat :=
  fieldsOf [(s.otp.life, 30), (b2n (debugOpen s), 29), (b2n s.mgmt.recovery, 28), (b2n s.image.onTrial, 27),
    (b2n s.image.boot, 26), (b2n s.otp.ownerHash.isSome, 25), (b2n s.mgmt.halted, 24), (s.mgmt.up.toNat, 20),
    (b2n s.image.badA, 9), (b2n s.image.badB, 8)]

/-- A status word of MGMT (15_management.md Table 15.10). -/
def mgmtWord (s : State) (o : Nat) : Nat :=
  let i := s.image
  if o = 0 then mgmtStatus s
  else if o = 8 then leAt i.running 8 4
  else if o = 0xC then leAt i.running 12 4
  else if o = 0x10 then slotVersion i.slotA i.badA
  else if o = 0x14 then slotVersion i.slotB i.badB
  else if o = 0x18 then (if i.onTrial then secsLeft s i.trialAt (trialTime s) else 0)
  else if o = 0x1C then s.otp.arb
  else if 0x40 ≤ o ∧ o < 0x60 then leAt s.mgmt.challenge (o - 0x40) 4
  else if 0x60 ≤ o ∧ o < 0x90 then (spGet (fun _ => (0 : Word)) s.eng.image ((o - 0x60) / 4)).toNat
  else 0

/-- SENS.TEMP[i]. -/
def tempWord (s : State) (i : Nat) : Nat := (spGet (fun _ => (0 : Word)) s.sens.temp i).toNat

/-- A status word of SENS (15_management.md Table 15.5). -/
def sensWord (s : State) (o : Nat) : Nat :=
  let x := s.sens
  if o = 0 then fieldsOf [(b2n x.tripped, 31), (b2n x.warn, 30), (x.valid, 0)]
  else if o = 8 then x.max.toNat
  else if o = 0xC then x.vin.toNat
  else if o = 0x10 then x.iin.toNat
  else if o = 0x14 then x.pin.toNat
  else if o = 0x18 then x.oven.toNat
  else if 0x100 ≤ o ∧ o < 0x200 then tempWord s ((o - 0x100) / 4)
  else if 0x200 ≤ o ∧ o < 0x250 then (spGet (fun _ => (0 : Word)) x.dom ((o - 0x200) / 4)).toNat
  else 0

/-! ### Journal, seesaw, power, fuses, flash -/

/-- JNL.STATUS (16_journal_seesaw.md Table 16.15). -/
def jnlStatus (s : State) : Nat :=
  let j := s.jnl
  fieldsOf [(j.st, 29), (b2n j.compacting.isSome, 28), (b2n j.region1.ok, 27), (b2n j.region0.ok, 26),
    (s.copy.st, 23)]

/-- A status word of JNL (16_journal_seesaw.md Table 16.14). -/
def jnlWord (s : State) (o : Nat) : Nat :=
  let j := s.jnl
  if o = 0 then jnlStatus s
  else if o = 0x28 then fieldsOf [(j.region1.usage, 16), (j.region0.usage, 0)]
  else if o = 0x2C then fieldsOf [(j.region1.spares, 16), (j.region0.spares, 0)]
  else if o = 0x30 then j.ckptId
  else 0

/-- SEESAW.STATUS (16_journal_seesaw.md Table 16.17). -/
def sswStatus (s : State) : Nat :=
  let x := s.ssw
  fieldsOf [(b2n x.actOut, 31), (b2n x.actIn, 30), (b2n x.side, 29), (b2n x.claimEn, 28), (b2n x.wireOk, 27),
    (b2n x.pxOk, 26), (b2n x.peerRst, 25), (x.role, 21), (x.lastRelease, 16)]

/-- GLB.START (19_registers.md Table 19.7). -/
def startWord (s : State) : Nat := fieldsOf [(s.pwr.cause, 28), (s.pwr.warm, 0)]

/-- PWR.STATUS (19_registers.md Table 19.10). -/
def pwrStatus (s : State) : Nat :=
  let p := s.pwr
  fieldsOf [(p.st, 16), ((if p.step = 10 then 0 else p.step), 8), (b2n p.late, 1), (b2n p.resuming, 0)]

/-- A status word of PWR (19_registers.md Table 19.9). -/
def pwrWord (s : State) (o : Nat) : Nat :=
  let p := s.pwr
  if o = 0 then pwrStatus s
  else if o = 4 then p.on.toNat
  else if o = 8 then p.straps.toNat % 4 + p.straps.toNat / 8 * 8
  else if 0x40 ≤ o ∧ o < 0x68 then (spGet (fun _ => (0 : Word)) p.times ((o - 0x40) / 4)).toNat
  else 0

/-- The vendor ID of every function, and the PF's device ID (00_scope.md R4; 13_host.md Table 13.1). -/
def pciVendor : Nat := 0x1F3D
def pciDevice : Nat := 0x0256

/-- Subsystem ID and subsystem vendor ID: from OTP, else the device's own (13_host.md Table 13.1). -/
def subsysWord (s : State) : Nat := (s.otp.subsys.map (·.toNat)).getD (pciDevice * 2 ^ 16 + pciVendor)

/-- The identity a function shows in its PCIe configuration space (00_scope.md R4; 13_host.md R325,
Table 13.1), at the offsets of the PCI header (PRESUMED, log entry 6): device and vendor ID at 0x00, class
code and revision ID at 0x08, subsystem at 0x2C. Function 0 is the PF, functions 1-15 the VFs. No command
row reads the configuration space; the rest of it is PCIe's. -/
def pciIdentity (s : State) (f o : Nat) : Nat :=
  if o = 0x00 then (if f = 0 then pciDevice else 0x0257) * 2 ^ 16 + pciVendor
  else if o = 0x08 then 0x028000 * 2 ^ 8 + 0xB1
  else if o = 0x2C then subsysWord s
  else 0

/-- The capabilities, payload and read request sizes and outstanding reads of the functions (13_host.md Table 13.1). -/
def pciCapabilities : List String :=
  ["PCI Express", "power management", "MSI-X", "AER", "SR-IOV", "ARI", "14-bit tags"]
def maxPayloads : List Nat := [128, 256, 512]
def maxReadRequest : Nat := 4096
def maxOutstanding : Nat := 512

/-- TotalVFs, First VF Offset and VF Stride of the PF's SR-IOV capability (13_host.md Table 13.1): VF n is
function First VF Offset + (n - 1) * VF Stride. -/
def totalVfs : Nat := 15
def vfFunction (n : Nat) : Nat := 1 + (n - 1) * 1

/-- A word of OTP (19_registers.md Table 19.12). -/
def otpWord (s : State) (o : Nat) : Nat :=
  let x := s.otp
  if o = 0 then subsysWord s
  else if o = 4 then fieldsOf [(b2n s.pwr.otpOk, 31), (b2n x.ownerHash.isSome, 1),
    (b2n (x.rootHash.any (· ≠ 0)), 0)]
  else if 0x20 ≤ o ∧ o < 0x40 then leAt x.rootHash (o - 0x20) 4
  else if 0x40 ≤ o ∧ o < 0x60 then leAt (x.ownerHash.getD []) (o - 0x40) 4
  else if 0x60 ≤ o ∧ o < 0x80 then leAt (sha256 x.cert) (o - 0x60) 4
  else 0

/-- A word of FLASH (19_registers.md Table 19.13). -/
def flashWord (s : State) (o : Nat) : Nat :=
  let n := o / 0x40
  let dev : Option (BitVec 24 × Nat) := if n < 2 then (s.pwr.flash.find? (·.1 = n)).map (·.2) else none
  let ok := if n = 0 then s.jnl.region0.ok else s.jnl.region1.ok
  if o % 0x40 = 0 then (match dev with
    | some d => fieldsOf [(1, 31), (b2n ok, 30), (d.1.toNat, 0)]
    | none => 0)
  else if o % 0x40 = 4 then ((dev.map (·.2)).getD 0)
  else 0

/-! ### The whole map -/

/-- A status word of the blocks PWR to FLASH, by offset. -/
def lowWord (s : State) (o : Nat) : Nat :=
  let x := o % 0x10000
  match o / 0x10000 with
  | 0 => if x = 0 then 0x0256B101 else if x = 8 then s.otp.nodeId.toNat else if x = 0x18 then startWord s else 0
  | 1 => pwrWord s x
  | 2 => sensWord s x
  | 3 => timingWord s x
  | 4 => if x = 0 then sswStatus s else 0
  | 5 => hifWord s o
  | 6 => secWord s x
  | 7 => mgmtWord s x
  | 8 => jnlWord s x
  | 9 => otpWord s x
  | 0xA => flashWord s x
  | _ => 0

/-- A status word of the blocks CORE to MSIX, by offset. -/
def highWord (s : State) (o : Nat) : Nat :=
  let x := o % 0x10000
  match o / 0x10000 with
  | 0x30 => coreWord s x
  | 0x31 => pageWord s x
  | 0x32 => abacusWord s x
  | 0x33 => protWord s x
  | 0x34 => pmWord s x
  | 0x50 => if x < 0x200 then bankOwner (bank s (x / 4)) else 0
  | 0x51 => mtestWord s x
  | 0x70 => if 0x1000 ≤ x ∧ x < 0x1010 then
      bits32 fun b => spGet (fun _ => false) s.hif.pba (8 * (x - 0x1000) + b) else 0
  | n => if 0x40 ≤ n ∧ n < 0x4C then engWord s (n - 0x40) x else if 0x60 ≤ n ∧ n < 0x70 then perfWord s o else 0

/-- A register that is read only and put together from the state of its block. -/
def statusWord (s : State) (o : Nat) : Nat :=
  match portAt o, laneAt o with
  | some (p, x), _ => portWord s p x
  | _, some (l, x) => laneWord s l x
  | none, none => if o < 0x100000 then lowWord s o else highWord s o

/-! ### 64-bit registers (00_scope.md R13) -/

/-- A read-only 64-bit register of the low blocks. The words of the time of day show what the last read that latches
them took, and 0 before the first (00_scope.md R13; DESIGN CHOICE, log entry 79). -/
def ro64Low (s : State) (o : Nat) : Nat :=
  if o = 0x10 then s.tick
  else if o = 0x30030 then s.timing.latSec
  else if o = 0x30040 then s.timing.latTick
  else if o = 0x40020 then s.ssw.lastChange
  else if o = 0x70030 then s.mgmt.logNext
  else if o = 0x70038 then s.mgmt.logNext - s.log.length
  else if o = 0x80008 then s.jnl.lastSeq
  else if o = 0x80010 then s.jnl.ckptSeq
  else if o = 0x80018 then s.copy.ackSeq
  else if o = 0x80020 then s.jnl.term
  else match queueAt o with
    | some (q, x) => if x = 0x18 then (queue s q).ctr else 0
    | none => 0

/-- PAGE.ARMED_TICK (06_pages.md Table 6.6). -/
def armedTick (s : State) : Nat :=
  match s.page.armed with
  | some a => a.swap.getD (2 ^ 64 - 1)
  | none => 2 ^ 64 - 1

/-- The value of the 64-bit register with low word `o`. -/
def value64 (s : State) (o : Nat) : Nat :=
  if !blockOn s o then 0
  else if isRc64 o then (spGet (fun _ => (0 : DWord)) s.rc64 o).toNat
  else if isRw64 o then cfgN s o + 2 ^ 32 * cfgN s (o + 4)
  else match perfCounterAt o, perfShadowAt o with
    | some i, _ => (spGet (fun _ => (0 : DWord)) s.perf.cnt i).toNat
    | _, some i => (spGet (fun _ => (0 : DWord)) s.perf.sh i).toNat
    | none, none =>
      if o = 0x310008 then s.page.lastSwap
      else if o = 0x310010 then armedTick s
      else if o = 0x600008 then s.perf.shTick.toNat
      else ro64Low s o % 2 ^ 64

/-- The 32-bit word that a read at offset `o` returns, with no side effect counted: the latch of a 64-bit
register's high word once its low word has been read, counters, configuration and status. While its power
domain is off a block reads 0 but for configuration that R438 keeps (19_registers.md R481). -/
def readWord (s : State) (o : Nat) : Word :=
  if isReg64 o then BitVec.ofNat 32 (value64 s o)
  else if decide (4 ≤ o) && isReg64 (o - 4) then
    match spGet (fun _ => none) s.latch (o - 4) with
    | some w => w
    | none => BitVec.ofNat 32 (value64 s (o - 4) / 2 ^ 32)
  else if !blockOn s o then (if isConfig o then cfg s o else 0)
  else if isRc o then
    (match portAt o with
     | some (p, 0x14) => BitVec.ofNat 32 (portWord s p 0x14)
     | _ => rcGet s o)
  else if o = 4 || lkMask o ≠ 0 || rwMask o ≠ 0 || o = 0x80004 || o = 0x40004 then cfg s o
  else BitVec.ofNat 32 (statusWord s o)

end Sys2Proof.Machine
end

