-- ==== Sys2Proof/WellFormed.lean ====
section
/-! DEFINITION. The commands whose operands name things the device has. -/

namespace Sys2Proof

/-- A queue number (13_host.md R328). -/
def okQueue (q : Nat) : Bool := decide (q < 256)

/-- An event ring number (13_host.md R328). -/
def okRing (r : Nat) : Bool := decide (r < 16)

/-- A PCIe function: the PF, or VF 1-15 (13_host.md R325). -/
def okFunction (f : Nat) : Bool := decide (f < 16)

/-- A lane: 0-255 global, 256-259 of PX (02_tray_format.md R38, 04_ports.md R112). -/
def okLane (l : Nat) : Bool := decide (l < 260)

/-- A port: P0-P7, and 8 for PX (04_ports.md R113). -/
def okPort (p : Nat) : Bool := decide (p < 9)

/-- A group, by its head number (08_protection.md R193). -/
def okGroup (g : Nat) : Bool := decide (g < 8192)

/-- A scratchpad bank (11_engines_banks.md R283). -/
def okBank (b : Nat) : Bool := decide (b < 128)

/-- An owner code of a bank (11_engines_banks.md Table 11.3). -/
def okOwner (o : Nat) : Bool := decide (o ≤ 4) || (decide (16 ≤ o) && decide (o ≤ 27))

/-- A data-tick step (05_core.md R117). -/
def okStep (k : Nat) : Bool := decide (k < 2048)

/-- A reference (10_timing.md R243). -/
def okRef (n : Nat) : Bool := decide (n < 14)

/-- A register offset in the 8 MiB of BAR0, of a 4-byte word (00_scope.md R12, 13_host.md Table 13.2). -/
def okOffset (o : Nat) : Bool := decide (o < 0x800000) && o % 4 == 0

/-- An access lies in its window (13_host.md Table 13.2, 19_registers.md R496). -/
def okWindow (w : HostWindow) (o : Nat) : Bool :=
  match w with
  | .bar0 => okOffset o
  | .vf f => decide (0 < f) && decide (f < 16) && decide (o < 4096) && o % 4 == 0
  | .config f => decide (f < 16) && decide (o < 4096) && o % 4 == 0
  | .bar2 f => decide (f < 16) && decide (o < 0x8000) && o % 4 == 0
  | .vfMsix f => decide (0 < f) && decide (f < 16) && decide (o < 0x1010) && o % 4 == 0

/-- What a PCIe link can be (13_host.md R325, Table 13.10): six speeds, four widths, at most 15 VFs, payloads of 128 to
512 and read requests of 128 to 4,096 bytes. -/
def okLink (speed width vfs mps mrrs : Nat) : Bool :=
  decide (1 ≤ speed ∧ speed ≤ 6 ∧ width ≤ 3 ∧ vfs ≤ 15 ∧ mps ≤ 2 ∧ mrrs ≤ 5)

/-- A command whose operands lie in the ranges of the chapters that name them. -/
def Instr.wf : Instr → Bool
  | .nop q | .eventCatalog q | .stringCreate q | .stringConnect q | .stringDisconnect q
  | .stringResize q | .stringCondition q | .stringDelete q | .batchCommit q | .repack q
  | .pageDisarm q | .pageSwapAt q | .scenSave q | .scenLoad q | .scenDelete q | .stringRead q
  | .pageRead q | .groupCreate q | .groupModify q | .groupDelete q | .groupRequest q
  | .groupRead q | .timingConfig q | .timingFreq q | .timingPhaseStep q | .todSet q | .todAdj q
  | .timingRead q | .pmFetch q | .perfRead q | .eventLogRead q | .bankAlloc q | .bankRelease q
  | .mtestConfig q | .mtestRun q | .keyUnwrap q | .keyErase q | .keyRead q | .cipherOp q
  | .imageActivate q | .clusterActivate q | .lifecycleSet q | .debugUnlock q | .attest q
  | .sensorRead q | .jnlConfig q | .jnlCompact q | .seesawConfig q | .seesawRelease q
  | .jnlRead q => okQueue q
  | .imageStage q _ => okQueue q
  | .sqPiDoorbell f q _ | .cqCiDoorbell f q _ => okFunction f && okQueue q
  | .eqCiDoorbell f r _ => okFunction f && okRing r
  | .queueEnable q _ | .queueDisable q _ => okQueue q
  | .eqEnable r _ | .eqDisable r _ => okRing r
  | .descriptorFetch q ds => okQueue q && decide (ds.length ≤ 8)
      && ds.all fun d => d.elim true fun x => x.desc.length == 64
  | .interruptTimerExpiry e r => if e then okRing r else okQueue r
  | .functionLevelReset f => okFunction f
  | .huntRestart l _ | .trainRestart l _ | .laneEnable l _ | .laneDisable l _ => okLane l
  | .portEnable p _ | .portDisable p _ => okPort p
  | .tdCfgWrite p _ => decide (p < 8)
  | .regReadClear a | .registerWrite a _ => okWindow a.win a.off
  | .pcieLinkChange _ sp w x => okLink sp w x.vfs x.mps x.mrrs
  | .perfCounterWrite o _ | .perfSelectWrite o _ | .reg64LowRead o
  | .reg64HighWrite o _ => okOffset o
  | .bar0AccessRefused _ _ n | .bankWindowAccess _ n _ => decide (0 < n)
  | .tickOverrun e | .engineHalt e => decide (e < 192)
  | .clusterMigration c | .clusterReady c | .clusterReturn c => decide (c < 12)
  | .fabricMessage a b _ => decide (a < 192) && decide (b < 192)
  | .coreStep k | .stepLend k | .stepVacateRequest k | .stepReturn k => okStep k
  | .egressRowRead m => decide (m < 16)
  | .trainingFrameRx l fr => okLane l && fr.levels.length == 8480
  | .trainingFrameTx l | .electricalIdleEnd l
  | .codewordHuntTimeout l | .laneSignalChange l _ _ | .srmRx l _ | .capabilityFrameRx l _ => okLane l
  | .trainingTimeout l t => okLane l && decide (t < 4)
  | .codewordRx l c => okLane l && c.symbols.length == 544
  | .rowRx l _ c bs => okLane l && decide (c < 2048) && bs.length == 3125
  | .capabilitySend p | .capabilityTimeout p | .capabilitySilence p => okPort p
  | .scenarioMarkStale n | .scenarioRebuildDone n => decide (n < 64)
  | .holdOffExpiry g | .wtrExpiry g | .exerTimeout g | .channelTimeout g | .noResponseTimeout g
  | .restoreHoldExpiry g => okGroup g
  | .tallyHandoff p | .foldDone p | .tallyHandbackMissed p => okPort p
  | .referenceActivityFail n | .frequencyWindowEnd n _ | .referenceWtrExpiry n
  | .referenceInputEdge n _ => okRef n
  | .watchdogExpiry c => decide (c < 4)
  | .flashBlockFail d b _ => decide (d < 2) && decide (b < 512)
  | .flashDeviceLost d => decide (d < 2)
  | .datapathGrant d _ | .datapathFault d | .cipherOperationDone d | .windowZeroed d => decide (d < 4)
  | .keySlotErased k => decide (k < 1024)
  | .bankAccess rs => rs.all fun r => okBank r.bank
  | .bankHandover b a o => okBank b && decide (a.agent < 197) && (match o with
    | .owner o => okOwner o
    | .lend _ => true)
  | .recallDone b | .handoverEffect b | .handoverTimeout b | .bankBorrow b
  | .segmentDone b _ => okBank b
  | .portDomainPowerDown d | .portDomainPowered d => decide (6 ≤ d) && decide (d ≤ 14)
  | .perfCounterWrap i => decide (i < 1568)
  | .destructiveTestStart t => decide (t < 136)
  | .defectClear _ _ d => decide (d < 8)
  | .startupStepLate k => decide (k ≤ 10)
  | .wireHeartbeatRx | .perstNAssert | .perstNDeassert | .warmReset _ _ | .resume _ _ | .shutdown _
  | .lockSet _ | .coreInjectArm _ | .secInjectArm _ | .perfHoldClear _ | .perfFreezeWrite _
  | .todSecRead | .smbIdent | .smbPowerState | .smbSeesaw | .smbTempMax | .smbTempAll | .smbVin
  | .smbIin | .smbPin | .smbDomains | .smbOven | .smbEventSummary | .smbEventAck _
  | .smbAlertResponse | .jtagBypass | .jtagIdcode | .jtagSamplePreload _ | .jtagExtest | .jtagClamp
  | .jtagHighz | .dbgAccess | .vinGood _ | .vinLost | .vinOvervoltage | .inputOvercurrent | .porNAssert
  | .porNDeassert _ | .seesawDecisionTimeout | .tickEdge | .todFrameRx _ | .todFrameSend
  | .heartbeatRx _ | .heartbeatSend | .heartbeatPathFail _ | .peerReset | .copyDataRx _ | .copyAckRx _
  | .copyResendRx _ | .copyGapTimeout | .copyAckSend | .sswActInFall | .sswActInRise | .claim
  | .claimEnHoldExpiry | .trafficStateRelease | .swapCommit | .pageSwap | .resyncDone | .placementDone
  | .repackDone _ | .scenSaveDone | .scenLoadDone | .secondBoundary | .todApply | .selectionEvaluation
  | .dpllLocked | .softWatchdogExpiry | .learnHour _ | .estimateValid | .holdQlTimeExpiry | .ovenReady
  | .sensorSample _ | .mgmtRestartDone _ | .lpddrEccUncorr _ | .trialTimeout | .recordPersisted
  | .compactionDone | .retentionPauseEnd | .pageBorrow | .memoryTestDone _
  | .copyTimeout | .imageStageDone _ | .bankAllocDone | .peerRstOutEnd => true

end Sys2Proof
end

