-- ==== Sys2Proof/Machine/Rings.lean ====
section
/-! DEFINITION. The rings of the host interface: doorbells, enabling and disabling, descriptor fetch,
interrupt timers and the resets of functions (13_host.md R327 to R337, 17_power_startup.md R441). -/

namespace Sys2Proof.Machine

/-- NOP (13_host.md R346): completes OK with no effect. -/
def execNop (q : Nat) (s : State) : Host.Outcome State Fault Refusal :=
  runCmd 0x00 q (fun _ s => complete q (ans stOk) s) s

/-! ### Event rings -/

/-- EQCFG[r]. -/
def eqcfg (s : State) (r : Nat) : Nat := cfgN s (0x56008 + 0x20 * r)

/-- The function of event ring r. -/
def rFunction (s : State) (r : Nat) : Nat := bitsOf (eqcfg s r) 30 27

/-- Set an event ring. -/
def setRing (r : Nat) (x : EvRing) (s : State) : State :=
  { s with hif := { s.hif with rings := spSet (fun _ => EvRing.reset) r x s.hif.rings } }

/-- An event ring enters ERROR (13_host.md R333): its function's error vector fires and an event is
raised. -/
def ringError (r cause : Nat) (s : State) : State :=
  let s := setRing r { ring s r with error := true, cause := cause } s
  raise .ringError r cause (fire (rFunction s r) 0 s)

/-! ### Doorbells (R330) -/

/-- What a doorbell write meets: the ring's state, size, function and present index. -/
structure Bell where
  enabled : Bool
  fn : Nat
  size : Nat
  index : Nat
  deriving DecidableEq, Repr

/-- A doorbell write by function `f` (13_host.md R330): `move` when it takes effect, `range` when the
index puts the ring into ERROR. -/
def doorbell (b : Bell) (f : Nat) (v : Word) (move : Nat → State → State) (range : State → State)
    (s : State) : State :=
  let i := v.toNat % 65536
  if !b.enabled ∨ b.fn ≠ f then count 0x50010 s
  else if b.size ≤ i then range (count 0x50010 s)
  else if i = b.index then s
  else move i s

/-- A queue meets a doorbell index out of range: ERROR, unless it is in ERROR already. A queue that is closing drops the
commands it has not started, and is disabled once none executes (R333). -/
def queueRange (q : Nat) (s : State) : State :=
  if (queue s q).error then s
  else
    let s := queueError q 1 s
    let x := queue s q
    if x.closing && x.running.isNone then
      finishClosing q (setQueue q { x with fetched := [], doomed := 0, waitSeq := none } s)
    else s

/-- SQ_PI_DOORBELL (13_host.md R330). -/
def execSqPiDoorbell (f q : Nat) (v : Word) (s : State) : Host.Outcome State Fault Refusal :=
  if !(linkUp s && okQueue q) then .next s
  else
    let x := queue s q
    .next (doorbell ⟨x.enabled, qFunction s q, sqSize s q, x.pi⟩ f v
      (fun i s => setQueue q { queue s q with pi := i } s) (queueRange q) s)

/-- CQ_CI_DOORBELL (13_host.md R330). -/
def execCqCiDoorbell (f q : Nat) (v : Word) (s : State) : Host.Outcome State Fault Refusal :=
  if !(linkUp s && okQueue q) then .next s
  else
    let x := queue s q
    .next (doorbell ⟨x.enabled, qFunction s q, cqSize s q, x.cci⟩ f v
      (fun i s => setQueue q { queue s q with cci := i } s) (queueRange q) s)

/-- EQ_CI_DOORBELL (13_host.md R330, R340): a full ring has room again, and a record of what was
dropped comes first. -/
def execEqCiDoorbell (f r : Nat) (v : Word) (s : State) : Host.Outcome State Fault Refusal :=
  if !(linkUp s && okRing r) then .next s
  else
    let x := ring s r
    .next (doorbell ⟨x.enabled, rFunction s r, ringSize s r, x.ci⟩ f v
      (fun i s => flushDrops r (setRing r { ring s r with ci := i } s))
      (fun s => if (ring s r).error then s else ringError r 1 s) s)

/-! ### Enabling and disabling (R328, R333) -/

/-- A LOG2 field names a ring of 16 to 65,536 entries. -/
def logOk (n : Nat) : Bool := decide (4 ≤ n) && decide (n ≤ 16)

/-- Set QCFG[q]: QCTR falls to 0 when KEY_SLOT changes (13_host.md R342). -/
def setQcfg (q : Nat) (v : Word) (s : State) : State :=
  let x := queue s q
  let changed := bitsOf (qcfg s q) 9 0 ≠ bitsOf v.toNat 9 0
  let s := setReg (0x51010 + 0x40 * q) v s
  if changed then setQueue q { x with ctr := 0, reserved := 0 } s else s

/-- A queue starts with its rings empty, its phase 1 and no ERROR (13_host.md R328, R333); QCTR is
kept. -/
def openQueue (q : Nat) (s : State) : State :=
  let x := queue s q
  setQueue q { x with
    enabled := true, closing := false, error := false, cause := 0, pi := 0, fi := 0, ci := 0, cpi := 0,
    cci := 0, phase := true, fetched := [], running := none, unsig := 0, unsigAt := 0, time := 0, mute := false,
    waitSeq := none, doomed := 0 } s

/-- ENABLE falls on a queue (13_host.md R333): it fetches nothing more and finishes what it has
fetched; in ERROR, what has not started is discarded. -/
def closeQueue (q : Nat) (s : State) : State :=
  let x := queue s q
  let s := setReg (0x51010 + 0x40 * q) (cfg s (0x51010 + 0x40 * q) &&& 0x7FFFFFFF) s
  finishClosing q (setQueue q { x with
    closing := x.enabled
    fetched := (if x.error then [] else x.fetched)
    doomed := (if x.error then 0 else x.doomed)
    waitSeq := (if x.error then none else x.waitSeq) } s)

/-- A write of QCFG[q] (13_host.md R328): while ENABLE is 1 only ENABLE changes; a write that sets
ENABLE with a LOG2 outside 4 to 16, or while the queue still finishes its commands, is discarded
whole. -/
def writeQcfg (q : Nat) (v : Word) (s : State) : State :=
  if bitOf (qcfg s q) 31 then (if v.getLsbD 31 then s else closeQueue q s)
  else if !v.getLsbD 31 then setQcfg q v s
  else if (queue s q).enabled || !logOk (bitsOf v.toNat 26 22) || !logOk (bitsOf v.toNat 21 17) then s
  else openQueue q (setQcfg q v s)

/-- QUEUE_ENABLE (13_host.md R328): a write of QCFG[q] with ENABLE = 1. -/
def execQueueEnable (q : Nat) (v : Word) (s : State) : Host.Outcome State Fault Refusal :=
  if okQueue q && linkUp s && v.getLsbD 31 then .next (writeQcfg q v s) else .next s

/-- QUEUE_DISABLE (13_host.md R333): a write of QCFG[q] with ENABLE = 0. -/
def execQueueDisable (q : Nat) (v : Word) (s : State) : Host.Outcome State Fault Refusal :=
  if okQueue q && linkUp s && !v.getLsbD 31 then .next (writeQcfg q v s) else .next s

/-- A write of EQCFG[r] (13_host.md R328, R333). -/
def writeEqcfg (r : Nat) (v : Word) (s : State) : State :=
  let v := v &&& 0xFFFF8000
  let o := 0x56008 + 0x20 * r
  if bitOf (eqcfg s r) 31 then
    (if v.getLsbD 31 then s
     else setRing r { ring s r with enabled := false }
       (setReg o (cfg s o &&& 0x7FFFFFFF) s))
  else if !v.getLsbD 31 then setReg o v s
  else if (ring s r).enabled || !logOk (bitsOf v.toNat 26 22) then s
  else
    let x := ring s r
    flushDrops r (setRing r { x with
      enabled := true, error := false, cause := 0, pi := 0, ci := 0, phase := true, unsig := 0,
      unsigAt := 0, time := 0 } (setReg o v s))

/-- EQ_ENABLE (13_host.md R328): a write of EQCFG[r] with ENABLE = 1. -/
def execEqEnable (r : Nat) (v : Word) (s : State) : Host.Outcome State Fault Refusal :=
  if okRing r && linkUp s && v.getLsbD 31 then .next (writeEqcfg r v s) else .next s

/-- EQ_DISABLE (13_host.md R333): a write of EQCFG[r] with ENABLE = 0. -/
def execEqDisable (r : Nat) (v : Word) (s : State) : Host.Outcome State Fault Refusal :=
  if okRing r && linkUp s && !v.getLsbD 31 then .next (writeEqcfg r v s) else .next s

/-! ### Descriptor fetch (R331, R337) -/

/-- Entries in use of a ring of `size` entries between two indices (13_host.md R329). -/
def ringUsed (size writer reader : Nat) : Nat := (writer + size - reader % size) % size

/-- How many descriptors queue q may fetch (13_host.md R331): those the host has written, while the
completion ring has room for the completions of all commands fetched, up to 8 at a time. -/
def fetchable (s : State) (q : Nat) : Nat :=
  let x := queue s q
  let room := cqSize s q - 1 - ringUsed (cqSize s q) x.cpi x.cci
  let have_ := x.fetched.length + b2n x.running.isSome
  if x.enabled ∧ !x.closing ∧ !x.error then
    min (min (ringUsed (sqSize s q) x.pi x.fi) (room - have_)) (8 - x.fetched.length)
  else 0

/-- Fetch descriptors one by one (13_host.md R331, R337): a failed descriptor read puts the queue into
ERROR with cause DMA_READ; a failed extension read fires the error vector (R334) and fails the command
later. -/
def fetchEach (q : Nat) (ds : List (Option Fetched)) (s : State) : State :=
  match ds with
  | [] => s
  | none :: _ => queueError q 2 s
  | some d :: rest =>
    let x := queue s q
    let s := setQueue q { x with fi := (x.fi + 1) % sqSize s q, fetched := x.fetched ++ [d] } s
    let s := if extLen d.desc ≠ 0 ∧ d.ext.isNone then fire (qFunction s q) 0 s else s
    fetchEach q rest s

/-- The queue whose turn it is: of those with fetchable descriptors the first after the one served last, in round robin
(13_host.md R331). -/
def nextQueue (s : State) : Option Nat :=
  let qs := (s.hif.queues.map (·.1)).filter fun q => fetchable s q ≠ 0
  match qs.find? fun q => decide (s.hif.turn < q) with
  | some q => some q
  | none => qs.head?

/-- DESCRIPTOR_FETCH (13_host.md R331, R337): a queue in its turn. The descriptors and extensions that DMA reads. While the
link is down every read fails. While the management complex restarts nothing is fetched
(15_management.md R383). -/
def execDescriptorFetch (q : Nat) (ds : List (Option Fetched)) (s : State) :
    Host.Outcome State Fault Refusal :=
  let got := (if linkUp s then ds else ds.map fun _ => none).take (fetchable s q)
  if got.isEmpty || !serving s || nextQueue s ≠ some q then .next s
  else .next (skipUndefined 8 q (fetchEach q got { s with hif := { s.hif with turn := q } }))

/-! ### Interrupt timers (R335) -/

/-- INTERRUPT_TIMER_EXPIRY (13_host.md R335): TIME ticks have passed since the first unsignalled entry
of a completion ring or, with `event`, of an event ring. -/
def execInterruptTimerExpiry (event : Bool) (n : Nat) (s : State) : Host.Outcome State Fault Refusal :=
  if event then
    let x := ring s n
    let vec := bitsOf (eqcfg s n) 21 15
    if x.unsig = 0 ∨ x.time = 0 ∨ s.tick < x.unsigAt + x.time then .next s
    else .next (onlyIf (vec ≠ 0) (fire (rFunction s n) vec) (setRing n { x with unsig := 0 } s))
  else
    let x := queue s n
    let vec := bitsOf (qcfg s n) 16 10
    if x.unsig = 0 ∨ x.time = 0 ∨ s.tick < x.unsigAt + x.time then .next s
    else .next (onlyIf (vec ≠ 0) (fire (qFunction s n) vec) (setQueue n { x with unsig := 0 } s))

/-! ### Resets of functions (R327) and of the host interface (17_power_startup.md R441) -/

/-- A queue is disabled by a reset (13_host.md R327): a command executing completes inside the device
with no completion written, what has not started is discarded, and the open batch with it. -/
def resetQueue (q : Nat) (s : State) : State :=
  let x := queue s q
  if !x.enabled then
    setReg (0x51010 + 0x40 * q) (cfg s (0x51010 + 0x40 * q) &&& 0x7FFFFFFF) s
  else
    let s := onlyIf (!x.error) (queueError q 5) s
    let y := queue s q
    let s := setQueue q { y with mute := y.running.isSome } s
    closeQueue q s

/-- An event ring is disabled by a reset. -/
def resetRing (r : Nat) (s : State) : State :=
  let o := 0x56008 + 0x20 * r
  setRing r { ring s r with enabled := false } (setReg o (cfg s o &&& 0x7FFFFFFF) s)

/-- The queues and event rings of function f are disabled; those of every function for the PF. -/
def resetFunction (f : Nat) (s : State) : State :=
  let s := forAll ((List.range 16).filter fun r => f = 0 || rFunction s r = f) resetRing s
  forAll ((List.range 256).filter fun q => f = 0 || qFunction s q = f) resetQueue s

/-- What a function-level reset clears of configuration space (PRESUMED, log entries 6 and 7): the PF's ends SR-IOV; a
VF's masks its MSI-X entries and drops their pending bits. -/
def resetConfig (f : Nat) (s : State) : State :=
  let mine (k n : Nat) : Bool := f = 0 || k / n = f
  { s with hif := { s.hif with
    vfs := (if f = 0 then 0 else s.hif.vfs)
    vfTable := s.hif.vfTable.filter fun e => !mine e.1 512
    pba := s.hif.pba.filter fun e => !mine e.1 128 } }

/-- FUNCTION_LEVEL_RESET (13_host.md R327, R334): the function's error vector fires when it is done. -/
def execFunctionLevelReset (f : Nat) (s : State) : Host.Outcome State Fault Refusal :=
  if linkUp s then .next (fire f 0 (resetFunction f (resetConfig f s))) else .next s

/-- What PERST_N resets (17_power_startup.md R441): the link, the queues and event rings, the MSI-X
tables and the configuration space; ring bases, QCTR, the other fields of QCFG and EQCFG, QINT, EQINT,
FN_CFG and EV_ROUTE are kept. -/
def hostReset (s : State) : State :=
  let s := resetFunction 0 { s with hif := { s.hif with
    link := false, ready := false, speed := 0, width := 0, flit := false, vfs := 0, mps := 0, mrrs := 2, turn := 0, vfTable := [] } }
  { s with
    hif := { s.hif with pba := [] }
    regs := (s.regs.filter fun x => !(decide (0x700000 ≤ x.1) && decide (x.1 < 0x710000)) && x.1 ≠ 0x50004)
    rc := s.rc.filter fun x => x.1 ≠ 0x50008 ∧ x.1 ≠ 0x5000C ∧ x.1 ≠ 0x50010 }

/-- PERST_N_ASSERT (17_power_startup.md R441). -/
def execPerstNAssert (s : State) : Host.Outcome State Fault Refusal :=
  if s.pwr.perst then .next s
  else .next (hostReset { s with pwr := { s.pwr with perst := true } })

/-- The function can be ready (17_power_startup.md R442): POR_N and PERST_N are high, and start-up has
passed step 3, or the recovery handler runs. -/
def canReady (s : State) : Bool :=
  !s.pwr.perst && !s.pwr.por && s.pwr.st ≠ 0 && (s.pwr.step = 0 || decide (3 < s.pwr.step))

/-- PERST_N_DEASSERT (17_power_startup.md R442). -/
def execPerstNDeassert (s : State) : Host.Outcome State Fault Refusal :=
  if !s.pwr.perst then .next s
  else
    let s := { s with pwr := { s.pwr with perst := false } }
    .next { s with hif := { s.hif with ready := canReady s } }

/-- PCIE_LINK_CHANGE (13_host.md R325, R327, R351; log entry 7): a link of a speed and width that there is, with what
configuration has set. The link comes up, retrains or is lost, and
HIF.STATUS shows it. While PERST_N is low, or the device is not past VIN good and POR_N, the link stays
down. -/
def execPcieLinkChange (up : Bool) (speed width : Nat) (flit : LinkSetup) (s : State) :
    Host.Outcome State Fault Refusal :=
  if s.pwr.perst || s.pwr.por || s.pwr.st = 0 || (up && !okLink speed width flit.vfs flit.mps flit.mrrs) then .next s
  else if up then
    .next { s with hif := { s.hif with
      link := true, speed := speed, width := width, flit := flit.flit || speed = 6
      vfs := flit.vfs, mps := flit.mps, mrrs := flit.mrrs } }
  else .next { s with hif := { s.hif with link := false, speed := 0, width := 0, flit := false } }

end Sys2Proof.Machine
end

