-- ==== Sys2Proof/Machine/Copy.lean ====
section
/-! DEFINITION. State copy over PX (16_journal_seesaw.md R417 to R423). -/

namespace Sys2Proof.Machine

/-- Change the copy state. -/
def onCopy (f : Copy → Copy) (s : State) : State := { s with copy := f s.copy }

/-! ### CLAIM_EN (R426) -/

/-- MODE of SEESAW.CFG: 0 AUTO, 1 STANDBY_ONLY, 2 FORCE_CLAIM. -/
def sswMode (s : State) : Nat := fld s 0x40004 31 30

/-- Set CLAIM_EN; the guard time is counted from the later of SSW_ACT_IN falling and CLAIM_EN becoming 1
(16_journal_seesaw.md Table 16.9). -/
def setClaimEn (b : Bool) (s : State) : State :=
  let x := s.ssw
  if x.claimEn = b then s
  else { s with ssw := { x with claimEn := b, guardAt := if b && !x.actIn then some (now s) else none } }

/-- COPY_STATE changes, with its event; in AUTO mode a standby that becomes SYNCED sets CLAIM_EN, and one
that is RECEIVING clears it (R417, R426). The 1 s hold after a release keeps it 0 (R425). -/
def setCopySt (st : Nat) (s : State) : State :=
  if s.copy.st = st then s
  else
    let s := raise .copyState st s.copy.st (onCopy (fun c => { c with st := st }) s)
    if s.ssw.actOut || sswMode s ≠ 0 then s
    else if st = 5 && s.ssw.holdAt.isNone then setClaimEn true s
    else if st = 4 then setClaimEn false s
    else s

/-! ### Frames -/

/-- PX is LINKED (04_ports.md R112). -/
def pxLinked (s : State) : Bool := decide ((port s 8).st = 7)

/-- Send a frame on the lowest bonded PX lane. -/
def sendPx (type : Byte) (payload : Bytes) (s : State) : State :=
  match (bondedLanes s 8).head? with
  | some l => sendFrame l type payload s
  | none => s

/-- COPY_SLOT names a VALID slot with USER 0x03 whose policy lets the active seal and the standby open segments, and the
cipher engine works (R417; 14_cipher.md R364, R370). -/
def copyKeyOk (s : State) : Bool :=
  copySlot s ≠ 0x7FF && slotServes s (copySlot s) 3 (!s.ssw.actOut) 1 && !s.sec.locked

/-- Operations with the copy key are counted (14_cipher.md R364, R368). -/
def copyOps (n : Nat) (bad : Bool) (s : State) : State := countOpens (some (copySlot s)) n bad s

/-- The copy key. -/
def copyKey (s : State) : Bytes := (keySlot s (copySlot s)).key

/-- Received segments not yet committed are discarded, and their staged blocks with them (R421, R422). -/
def dropItems (s : State) : State :=
  onRegions (Region.erase fun b => b.kind = 3 && !b.done) (onCopy (fun c => { c with items := [] }) s)

/-- Copying stops (R417, R422): the standby discards the partial item, everything after a gap and staged
segments; what it has taken stays. -/
def stopCopy (st : Nat) (s : State) : State :=
  setCopySt st (dropItems (onCopy (fun c => { c with
    out := [], pos := 0, ackPos := 0, sendFrom := 0, next := 0, held := [], gapAt := none, item := []
    marks := [], persistPos := 0 }) s))

/-! ### The active twin (R419 to R421) -/

/-- An item of the stream; the fields of its header are in the order of the line (00_scope.md R10; log entry
72). -/
def copyItem (kind : Nat) (b : Bytes) : Bytes := BitVec.ofNat 8 kind :: (0 :: 0 :: 0 :: beBytes 4 b.length) ++ b

/-- Append bytes to the stream. -/
def streamPut (b : Bytes) (s : State) : State :=
  onCopy (fun c => { c with out := c.out ++ b, pos := c.pos + b.length }) s

/-- A record as it is copied: under the active twin's own sequence (log entry 19). -/
def copyRecord (r : JRec) : JRec := { r with peer := false, origin := r.seq }

/-- A SHARED record as RECORD items, one for each of its parts. -/
def putRecord (r : JRec) (s : State) : State :=
  let x := copyRecord r
  let ps := payloads x
  let bs := (List.range ps.length).flatMap fun i => copyItem 1 (sealPart (copyKey s) x i (ps.getD i []))
  onCopy (fun c => { c with outSeq := r.seq }) (streamPut bs (copyOps ps.length false s))

/-- The latest committed checkpoint as CKPT_SEGMENT items and a CKPT_COMMIT (R421). -/
def putCkpt (s : State) : State :=
  let id := s.jnl.ckptId
  let xs := sealCkpt (copyKey s) id s.jnl.ckpt s
  let c : JRec := ⟨s.jnl.ckptSeq, s.tick, s.jnl.salt, false, s.jnl.ckptSeq, 1,
    .commit id xs.length s.jnl.ckptSeq s.jnl.term s.jnl.ckptSeq (sha256 xs.flatten) []⟩
  let commit := copyItem 3 (sealPart (copyKey s) c 0 ((payloads c).getD 0 []))
  streamPut (xs.flatMap (copyItem 2) ++ commit) (copyOps (xs.length + 1) false s)

/-- A stream starts at POS 0 with a START item (R420): its TERM and first ORIGIN_SEQ. -/
def startStream (first : Nat) (s : State) : State :=
  streamPut (copyItem 4 (beBytes 8 s.jnl.term ++ beBytes 8 first)) (onCopy (fun c => { c with
    out := [], pos := 0, ackPos := 0, sendFrom := 0, outSeq := first - 1 }) s)

/-- The active decides from the standby's heartbeat how to bring it up to date (R421). While no
checkpoint has been committed and one is needed, a compaction is started first (log entry 19). -/
def chooseCopy (s : State) : State :=
  let h := s.ssw.hb
  if h.term = s.jnl.term ∧ s.jnl.ckptSeq ≤ h.origin then setCopySt 3 (startStream (h.origin + 1) s)
  else if s.jnl.ckptId = 0 then
    (if s.jnl.compacting.isSome || !jnlWrites s then s
     else { s with jnl := { s.jnl with compacting := some (s.jnl.lastSeq, none) } })
  else if !slotServes s (copySlot s) 3 false (segCount s.jnl.ckpt + 1) then stopCopy 1 s
  else
    let r := dpReady .copy s
    if r.1 then setCopySt 2 (putCkpt (startStream (s.jnl.ckptSeq + 1) r.2)) else r.2

/-- Records not yet in the stream: persisted ones, and all that are raised while the journal is FROZEN
(R416, R420). -/
def copyPending (s : State) : List JRec :=
  (s.jnl.log ++ if s.jnl.st = 2 then s.jnl.waiting else []).filter fun r =>
    r.pay.shared && decide (s.copy.outSeq < r.seq)

/-- Records enter the stream in order, at most 256 KiB ahead of what is acknowledged, each once it has had a datapath to
be sealed on (14_cipher.md R356) and while the key may be used (14_cipher.md R364). -/
def putRecords : List JRec → State → State
  | [], s => s
  | r :: rs, s =>
    if 262144 < s.copy.out.length ∨ !slotServes s (copySlot s) 3 false r.parts then s
    else
      let x := dpReady .copy s
      if x.1 then putRecords rs (putRecord r x.2) else x.2

/-- Records enter the stream. -/
def formStream (s : State) : State := putRecords (copyPending s) s

/-- One COPY_DATA frame on a lane whose message channel is free, within the flow control of R420. -/
def sendCopy (l : Nat) (s : State) : State :=
  let c := s.copy
  let at_ := c.sendFrom - c.ackPos
  let room := 262144 - at_
  let b := (c.out.drop at_).take (min 232 room)
  if b.isEmpty || !(lane s l).out.msg.isEmpty then s
  else onCopy (fun c => { c with sendFrom := c.sendFrom + b.length }) (sendFrame l 0x40 (beBytes 8 c.sendFrom ++ b) s)

/-- Copying at the tick edge: on the active twin records are streamed over every bonded PX lane; when PX
is not LINKED or the key is missing, copying stops (R417). -/
def copyTick (s : State) : State :=
  let s := if !pxLinked s then (if s.copy.st = 0 then s else stopCopy 0 s)
    else if !copyKeyOk s then (if s.copy.st = 1 then s else stopCopy 1 s)
    else if s.copy.st = 1 then stopCopy 0 s
    else s
  if !s.ssw.actOut || !pxLinked s || !copyKeyOk s || !mgmtRuns s then settleWaiters s
  else
    let s := if s.copy.st = 0 && s.ssw.hb.seen && s.ssw.pxOk then chooseCopy s else s
    if s.copy.st = 2 ∨ s.copy.st = 3 then forAll (bondedLanes s 8) sendCopy (formStream s)
    else settleWaiters s

/-- COPY_ACK_RX (16_journal_seesaw.md R420): the watermark advances, what is persisted leaves the stream,
and a checkpoint that is acknowledged ends the CHECKPOINT state. -/
def execCopyAckRx (payload : Bytes) (s : State) : Host.Outcome State Fault Refusal :=
  if !mgmtRuns s then .next s else
  match pxFrame 0x41 payload s with
  | none => .next s
  | some (_, s) =>
    let c := s.copy
    let pp := beAt payload 8 8
    if payload.length < 28 ∨ !(c.st = 2 ∨ c.st = 3) ∨ pp < c.ackPos ∨ c.pos < pp then .next s
    else
      let s := onCopy (fun c => { c with
        ackSeq := max c.ackSeq (beAt payload 0 8)
        out := c.out.drop (pp - c.ackPos), ackPos := pp, sendFrom := max c.sendFrom pp }) s
      let s := if c.st = 2 ∧ beAt payload 24 4 = s.jnl.ckptId then setCopySt 3 s else s
      .next (settleWaiters s)

/-- COPY_RESEND_RX (R420): the active sends again from the position named; one that is no longer held
starts the stream afresh (log entry 19). -/
def execCopyResendRx (payload : Bytes) (s : State) : Host.Outcome State Fault Refusal :=
  if !mgmtRuns s then .next s else
  match pxFrame 0x42 payload s with
  | none => .next s
  | some (_, s) =>
    let c := s.copy
    let p := beAt payload 0 8
    if payload.length < 8 ∨ !(c.st = 2 ∨ c.st = 3) ∨ c.pos < p then .next s
    else if p < c.ackPos then .next (stopCopy 0 (count 0x80048 s))
    else .next (onCopy (fun c => { c with sendFrom := p }) (count 0x80048 s))

/-! ### The standby twin (R420 to R423) -/

/-- Journal a record of the twin: own SEQ and SALT, PEER = 1 and the sender's ORIGIN_SEQ (R423). -/
def journalPeer (p : JPay) (origin : Nat) (s : State) : State :=
  let j := s.jnl
  let n := p.parts j.nextSeq
  if !jnlSeals s then s
  else { s with jnl := { j with
    nextSeq := j.nextSeq + n
    waiting := j.waiting ++ [⟨j.nextSeq + n - 1, s.tick, j.salt, true, origin, n, p⟩] } }

/-- The shared state held here is of TERM `t`; when that is the stream's, the twin is SYNCED. -/
def takeTerm (t : Nat) (s : State) : State :=
  let s := onCopy (fun c => { c with ckptTerm := t }) { s with jnl := { s.jnl with term := max t s.jnl.term } }
  if t = s.copy.streamTerm then setCopySt 5 s else s

/-- A record of the twin is journalled here and applied to the model. -/
def takePeer (p : JPay) (origin pos : Nat) (s : State) : State :=
  let s := journalPeer p origin s
  let s := onCopy (fun c => { c with
    marks := c.marks ++ [(lastRaised s, origin, pos)] }) s
  refreshModel (match p with
    | .term t _ _ => takeTerm t s
    | _ => s)

/-- A RECORD item whose tag passes; the parts of a logical record wait for the last (R408). -/
def takeRecord (b : Bytes) (pos : Nat) (s : State) : State :=
  let x := openPart (copyKey s) b
  let s := copyOps (b2n (partWhole b)) (partWhole b && x.isNone) s
  match x with
  | none => s
  | some (h, p) =>
    let more := bitOf (h.getD 3 0).toNat 2
    let before := (s.copy.items.filter (·.1 = 1)).flatMap (·.2)
    if more then onCopy (fun c => { c with items := c.items ++ [(1, p)] }) s
    else
      let s := onCopy (fun c => { c with items := c.items.filter (·.1 ≠ 1) }) s
      match readPay (h.getD 2 0).toNat (before ++ p) with
      | some y => takePeer y (leAt h 32 8) pos s
      | none => s

/-- The records of a checkpoint's plaintext: TYPE and payload, parts joined. -/
def readPlain : Nat → Bytes → Bytes → List (Nat × Bytes)
  | 0, _, _ => []
  | k + 1, acc, bs =>
    let n := leAt bs 4 2
    if bs.length < 48 ∨ leAt bs 0 2 ≠ 0x524A then []
    else
      let p := acc ++ sub bs 48 n
      let rest := bs.drop (48 + (n + 15) / 16 * 16)
      if bitOf (bs.getD 3 0).toNat 2 then readPlain k p rest
      else ((bs.getD 2 0).toNat, p) :: readPlain k [] rest

/-- The SHARED records of a checkpoint received. -/
def sharedPays (pt : Bytes) : List JPay :=
  (readPlain (pt.length / 48 + 1) [] pt).filterMap fun e => if 0x10 ≤ e.1 then readPay e.1 e.2 else none

/-- The range of SHARED records that a copied checkpoint discards, by SEQ. -/
def divergedRange (s : State) : Option (Nat × Nat) :=
  let rs := (s.jnl.log ++ s.jnl.waiting).filter fun r => r.pay.shared && !r.peer
  (rs.head?).map fun r => (r.seq, (rs.getLast?.getD r).seq)

/-- The copied checkpoint becomes the shared state (R421): it is committed here with PEER = 1, and SHARED
records held before are discarded, with the event DIVERGED when this twin had raised any. -/
def takeCkpt (id term origin : Nat) (sha : Bytes) (pays : List JPay) (pos : Nat) (s : State) : State :=
  let lost := divergedRange s
  let s := match lost with
    | some (a, b) => raise .diverged 0 (a % 2 ^ 48 + 2 ^ 48 * (b % 2 ^ 48)) s
    | none => s
  let mine (r : JRec) : Bool := !r.pay.shared
  let recs := pays.map fun p => (⟨s.jnl.lastSeq, s.tick, s.jnl.salt, true, origin, p.parts 0, p⟩ : JRec)
  let s := { s with jnl := { s.jnl with
    ckpt := s.jnl.ckpt.filter mine ++ recs, log := s.jnl.log.filter mine, waiting := s.jnl.waiting.filter mine } }
  let n := max (s.jnl.region0.staged 3).length (s.jnl.region1.staged 3).length
  let s := journalPeer (.commit id n s.jnl.lastSeq term origin sha (stagedBlocks 3 s)) origin s
  let s := onRegions (Region.commit 3 fun b => b.kind = 3) s
  let s := onCopy (fun c => { c with
    ckptId := id, persisted := origin, marks := [], persistPos := pos, items := [] }) s
  takeTerm term (refreshModel s)

/-- A CKPT_COMMIT item: the staged segments are good, or the whole checkpoint is discarded (R421). -/
def takeCommitItem (b : Bytes) (pos : Nat) (s : State) : State :=
  let staged := (s.copy.items.filter (·.1 = 2)).map (·.2)
  let x := openPart (copyKey s) b
  let y := openSegs (copyKey s) staged
  let s := copyOps (b2n (partWhole b) + y.1) ((partWhole b && x.isNone) || y.2.1) s
  match x, y.2.2 with
  | some (_, p), some pt =>
    if leAt p 4 2 ≠ staged.length then dropItems s
    else takeCkpt (leAt p 0 4) (leAt p 16 8) (leAt p 24 8) (sub p 32 32) (sharedPays pt) pos s
  | _, _ => dropItems s

/-- A START item: the stream's TERM and first ORIGIN_SEQ (R419, R426). -/
def takeStart (b : Bytes) (pos : Nat) (s : State) : State :=
  let t := beAt b 0 8
  let s := dropItems (onCopy (fun c => { c with streamTerm := t, persistPos := pos, marks := [] }) s)
  setCopySt (if s.copy.ckptTerm = t ∧ t ≠ 0 then 5 else 4) s

/-- One complete item that ends at stream position `pos`. -/
def takeItem (kind : Nat) (b : Bytes) (pos : Nat) (s : State) : State :=
  if kind = 1 then takeRecord b pos s
  else if kind = 2 then
    onRegions (Region.openBlock 3 (leAt b 0 4)) (onCopy (fun c => { c with items := c.items ++ [(2, b)] }) s)
  else if kind = 3 then takeCommitItem b pos s
  else if kind = 4 then takeStart b pos s
  else s

/-- An item may be taken: a record or a commit opens under the copy key, and waits for a datapath (14_cipher.md R356). -/
def itemReady (kind : Nat) (s : State) : Bool × State :=
  if kind = 1 ∨ kind = 3 then dpReady .copy s else (true, s)

/-- Take every complete item among the bytes in order. -/
def takeItems : Nat → State → State
  | 0, s => s
  | k + 1, s =>
    let b := s.copy.item
    let n := beAt b 4 4
    if b.length < 8 ∨ b.length < 8 + n then s
    else
      let pos := s.copy.next - (b.length - 8 - n)
      let r := itemReady (b.getD 0 0).toNat s
      if !r.1 then r.2
      else takeItems k (takeItem (b.getD 0 0).toNat (sub b 8 n) pos
        (onCopy (fun c => { c with item := b.drop (8 + n) }) r.2))

/-- Bytes at position `p` that continue the stream. -/
def streamTake (p : Nat) (b : Bytes) (s : State) : State :=
  onCopy (fun c => { c with item := c.item ++ b.drop (c.next - p), next := max c.next (p + b.length) }) s

/-- Frames held beyond a gap that has closed, at most `k`. -/
def drainHeld : Nat → State → State
  | 0, s => s
  | k + 1, s =>
    match s.copy.held.find? fun e => decide (e.1 ≤ s.copy.next) with
    | none => s
    | some e => drainHeld k (streamTake e.1 e.2 (onCopy (fun c => { c with held := c.held.erase e }) s))

/-- The standby asks for the first missing position (R420). -/
def askResend (s : State) : State :=
  sendPx 0x42 (beBytes 8 s.copy.next) (count 0x80048 (onCopy (fun c => { c with gapAt := some s.tick }) s))

/-- The 28 bytes of a COPY_ACK (Table 16.7), and the frame sent. -/
def sendAck (s : State) : State :=
  let c := s.copy
  sendPx 0x41 (beBytes 8 c.persisted ++ beBytes 8 c.persistPos ++ beBytes 8 c.next ++ beBytes 4 c.ckptId)
    (onCopy (fun c => { c with ackAt := s.tick }) s)

/-- Take what is complete; a checkpoint taken is acknowledged at once. -/
def takeReady (s : State) : State :=
  let id := s.copy.ckptId
  let s := takeItems (s.copy.item.length / 8 + 1) s
  if s.copy.ckptId ≠ id then sendAck s else s

/-- A COPY_DATA frame on a standby. -/
def copyData (p : Nat) (b : Bytes) (s : State) : State :=
  let s := if p = 0 ∧ s.copy.next ≠ 0 then dropItems (onCopy (fun c => { c with
      next := 0, held := [], gapAt := none, item := [], marks := [], persistPos := 0 }) s) else s
  let c := s.copy
  if c.next + 65536 < p + b.length then askResend s
  else if c.next < p then onCopy (fun c => { c with
    held := spIns p b c.held, gapAt := (if c.gapAt.isNone then some s.tick else c.gapAt) }) s
  else
    let s := drainHeld c.held.length (streamTake p b s)
    takeReady (onCopy (fun c => { c with gapAt := if c.held.isEmpty then none else c.gapAt }) s)

/-- COPY_DATA_RX (R419 to R423): the standby takes a frame of the copy stream that PX has delivered. -/
def execCopyDataRx (payload : Bytes) (s : State) : Host.Outcome State Fault Refusal :=
  if !mgmtRuns s then .next s else
  match pxFrame 0x40 payload s with
  | none => .next s
  | some (_, s) =>
    if s.ssw.actOut || !pxLinked s || !copyKeyOk s || decide (payload.length < 8 ∨ 240 < payload.length) then .next s
    else .next (copyData (beAt payload 0 8) (payload.drop 8) s)

/-- COPY_GAP_TIMEOUT (R420): a gap has lasted 16 ticks, and the standby sends COPY_RESEND. -/
def execCopyGapTimeout (s : State) : Host.Outcome State Fault Refusal :=
  match s.copy.gapAt with
  | some t => if t + 16 ≤ s.tick && mgmtRuns s && !s.ssw.actOut && pxLinked s then .next (askResend s) else .next s
  | none => .next s

/-- COPY_ACK_SEND (R420): the standby sends COPY_ACK every 100 ticks while it receives. -/
def execCopyAckSend (s : State) : Host.Outcome State Fault Refusal :=
  if !s.ssw.actOut && mgmtRuns s && pxLinked s && (s.copy.st = 4 || s.copy.st = 5) && decide (s.copy.ackAt + 100 ≤ s.tick)
  then .next (sendAck s) else .next s

/-- Records of the twin that have been persisted move PERSISTED_SEQ and PERSIST_POS (R420); items that waited for a
datapath are taken. -/
def marksTick (s : State) : State :=
  let s := if 8 ≤ s.copy.item.length ∧ mgmtRuns s ∧ !s.ssw.actOut ∧ pxLinked s ∧ copyKeyOk s then takeReady s else s
  let done := s.copy.marks.filter fun m => decide (m.1 ≤ s.jnl.lastSeq)
  match done.getLast? with
  | none => s
  | some m => onCopy (fun c => { c with
    persisted := m.2.1, persistPos := m.2.2, marks := c.marks.filter fun m => decide (s.jnl.lastSeq < m.1) }) s

end Sys2Proof.Machine
end

