-- ==== Sys2Proof/Machine/Seesaw.lean ====
section
/-! DEFINITION. The seesaw interlock: claims, releases, heartbeats and takeover (16_journal_seesaw.md
R424 to R430, R445; 17_power_startup.md R449). -/

namespace Sys2Proof.Machine

/-- Change the seesaw. -/
def onSsw (f : Seesaw → Seesaw) (s : State) : State := { s with ssw := f s.ssw }

/-- ROLE changes: once start-up has reached step 10 the power state follows it (17_power_startup.md
R439). -/
def setRole (r : Nat) (s : State) : State :=
  let s := onSsw (fun x => { x with role := r }) s
  if s.pwr.st = 2 ∨ s.pwr.st = 3 then
    { s with pwr := { s.pwr with st := if r = 1 ∨ r = 3 then 2 else 3 } }
  else s

/-- The firmware holds STANDBY_ONLY of P0-P7 at 1 (16_journal_seesaw.md R426). -/
def holdStandbyOnly (s : State) : State :=
  forAll (List.range 8) (fun p s => setReg (portBase p) (putBits (cfg s (portBase p)) 1 1 1) s)
    (onSsw (fun x => { x with holdPorts := true }) s)

/-- STANDBY_ONLY of P0-P7 returns to its journalled value (R426). -/
def restoreStandbyOnly (s : State) : State :=
  forAll (List.range 8) (fun p t =>
      setReg (portBase p) (putBits (cfg t (portBase p)) 1 1 (keptStandbyOnly s p)) t)
    (onSsw (fun x => { x with holdPorts := false }) s)

/-! ### Releases (R425) -/

/-- SSW_ACT_OUT falls, with its cause: 1 command, 2 thermal, 3 halt, 4 tie, 5 reset (R425, Table 16.17).
After a command or a halt CLAIM_EN is kept at 0 for 1 s. -/
def release (cause : Nat) (s : State) : State :=
  if !s.ssw.actOut then s
  else
    let s := count (if cause = 4 then 0x40010 else 0x4000C) s
    let s := onSsw (fun x => { x with
      actOut := false, lastRelease := cause, lastChange := s.tick, giveUp := true
      holdAt := (if cause = 1 ∨ cause = 3 then some (now s) else x.holdAt) }) s
    let s := if cause = 1 ∨ cause = 3 then setClaimEn false s else s
    holdStandbyOnly (raise .sswChange 0 0 (stopCopy 0 (setRole 2 s)))

/-- An armed, built, building, loading or saving page set is abandoned, and every command that waits for
the standby page completes with PREEMPTED (R425). -/
def abandonPages (s : State) : State :=
  let p := s.page
  let qs := (p.armed.bind (·.waiter)).toList
    ++ (if p.armed.isNone then (p.holder.bind (·.queue)).toList else []) ++ p.waiting.filterMap (·.2.queue)
  let s := match p.holder with
    | some (.save _ n _ _ _) => dropSave n s
    | some (.hostLoad _ n _ _) => setScen n { scen s n with st := 1 } s
    | some (.groupLoad _ n) => setScen n { scen s n with st := 1 } s
    | _ => s
  let s := forAll (p.holder.toList ++ p.waiting.map (·.2)) dropWork (jobEnds s)
  let s := onPage (fun p => { p with
    standby := .clean, holder := none, armed := none, next := none, waiting := [], rebinds := [] }) s
  forAll qs (fun q s => complete q (ans stPreempted) s) s

/-- Both pages are written to zero, page 0 active, generation 0 and colour 0 (R425, 17_power_startup.md
R446). -/
def zeroPages (s : State) : State :=
  onPage (fun p => { p with
    page0 := PageSet.empty, page1 := PageSet.empty, active := false, gen := 0, colour := false }) s

/-- TRAFFIC_STATE_RELEASE (R425): a released twin gives up its traffic state once its ports have left
SERVICE; strings, groups and scenarios stay as the model of R423. -/
def execTrafficStateRelease (s : State) : Host.Outcome State Fault Refusal :=
  if !s.ssw.giveUp || anyService s || s.ssw.actOut then .next s
  else .next (refreshModel (onSsw (fun x => { x with giveUp := false }) (zeroPages (abandonPages s))))

/-! ### Claims (R424, R429) -/

/-- The guard time of Table 16.9 in CCLK: 2 us on side A, 6 us on side B. -/
def guardTime (s : State) : Nat := ticks (if s.ssw.side then 6 else 2)

/-- Selector bits of the groups' decisions are written (R429, R449), each group's by the engine that runs it. -/
def restoreSelectors (s : State) : State :=
  forAll s.prot.groups (fun e s =>
    writeSel (runs s (ownerOf e.1)) e.1 (selBits e.1 e.2.dfn e.2.carries e.2.bridged) s) s

/-- The twin becomes active (R418, R429; 17_power_startup.md R449): the copy stream is closed, a TERM
record is written, selector bits are written, and the first page set is asked for. -/
def becomeActive (s : State) : State :=
  let s := stopCopy 0 s
  let t := max s.jnl.term s.ssw.hb.term + 1
  let s := journal (.term t (nodeId s) s.ssw.side) { s with jnl := { s.jnl with term := t } }
  request .first (restoreSelectors s)

/-- The group engines take the definitions and decisions at this tick (R429; 17_power_startup.md Table
17.3, step 7). -/
def loadGroups (s : State) : State :=
  { s with prot := { s.prot with
    groups := s.prot.groups.map fun e => (e.1, { e.2 with heardAt := s.tick, changed := true }) } }

/-- SSW_ACT_OUT rises (R424): the role is ACTIVE at start-up and TAKEOVER on a standby, whose engines load
the model (R429); FORCE_CLAIM returns to AUTO (R426), and PEER_RST_OUT is driven no more (R428). -/
def claimLine (s : State) : State :=
  let s := count 0x40008 s
  let s := onSsw (fun x => { x with
    actOut := true, claimEn := false, guardAt := none, lastChange := s.tick, giveUp := false, peerRst := false }) s
  let s := if sswMode s = 2 then setReg 0x40004 (putBits (cfg s 0x40004) 31 30 0) s else s
  let start := decide (s.ssw.role = 0)
  let s := raise .sswChange 0 1 (setRole (if start then 1 else 3) s)
  becomeActive (onlyIf (!start) (fun s => loadGroups (refreshModel (reallocateBanks s))) s)

/-- CLAIM (R424, Table 16.9): SSW_ACT_IN has been low and CLAIM_EN 1 for the guard time, and
SSW_ACT_OUT rises. -/
def execClaim (s : State) : Host.Outcome State Fault Refusal :=
  if !s.ssw.actOut && !s.ssw.actIn && s.ssw.claimEn && due s s.ssw.guardAt (guardTime s) then
    .next (claimLine s)
  else .next s

/-- SSW_ACT_IN_FALL (R424, R426): the twin's line falls; the guard time starts when CLAIM_EN is 1, and a
standby that may not claim raises NO_TAKEOVER. -/
def execSswActInFall (s : State) : Host.Outcome State Fault Refusal :=
  let x := s.ssw
  if !x.actIn then .next s
  else
    let s := onSsw (fun x => { x with
      actIn := false, inFell := s.tick, guardAt := if x.claimEn then some (now s) else none }) s
    .next (if x.role = 2 && !x.claimEn then raise .noTakeover 0 0 s else s)

/-- SSW_ACT_IN_RISE (R424): a line that rises while this twin holds its own is a tie, in which side B
withdraws. A twin that was about to claim at start-up becomes the standby. -/
def execSswActInRise (s : State) : Host.Outcome State Fault Refusal :=
  let s := onSsw (fun x => { x with actIn := true, guardAt := none }) s
  if s.ssw.actOut then .next (if s.ssw.side then release 4 s else s)
  else .next (if s.ssw.role = 0 && decide (9 ≤ s.pwr.step) then setRole 2 s else s)

/-- CLAIM_EN_HOLD_EXPIRY (R425, R426): the 1 s hold ends; in AUTO a synchronised standby may claim again,
and under FORCE_CLAIM any twin. -/
def execClaimEnHoldExpiry (s : State) : Host.Outcome State Fault Refusal :=
  if !due s s.ssw.holdAt (ticks (ms 1000)) then .next s
  else
    let s := onSsw (fun x => { x with holdAt := none }) s
    .next (if !s.ssw.actOut && ((sswMode s = 0 && s.copy.st = 5) || sswMode s = 2) then setClaimEn true s else s)

/-! ### Step 8 of start-up (R426; 17_power_startup.md Table 17.3) -/

/-- Step 9: each port is configured from the replayed snapshot, with STANDBY_ONLY held on a twin that is
not yet active, and the domains of the ports whose ENABLEs are set come up. -/
def stepNine (s : State) : State :=
  let took := match s.ssw.decideAt with
    | some t => (now s - t) / 2048
    | none => 0
  let s := { s with pwr := { s.pwr with
    step := 9, stepAt := s.tick, times := spSet (fun _ => 0) 8 (BitVec.ofNat 32 (min 0xFFFFFFFF took)) s.pwr.times } }
  let s := holdStandbyOnly (onSsw (fun x => { x with decideAt := none }) s)
  forAll ((List.range 8).filter fun p => !domainIdle s (7 + p)) (fun p s => domainOn (7 + p) s) s

/-- CLAIM_EN is decided at start-up: a twin that may not claim, or that sees the twin's line high, is the
standby. -/
def decideClaim (may : Bool) (s : State) : State :=
  let may := if sswMode s = 1 then false else may || sswMode s = 2
  let s := setClaimEn may s
  stepNine (if may && !s.ssw.actIn then s else setRole 2 s)

/-- This twin is the fresher, or equally fresh and side A (R418, R426). -/
def fresher (s : State) : Bool :=
  let h := s.ssw.hb
  let o := lastOrigin s s.jnl.lastSeq
  decide (h.term < s.jnl.term ∨ (h.term = s.jnl.term ∧ h.origin < o)
    ∨ (h.term = s.jnl.term ∧ h.origin = o ∧ s.ssw.side = false))

/-- SEESAW_DECISION_TIMEOUT (R426): the 2 s of step 8 end without PX LINKED; a twin may claim only if no
wire heartbeat has arrived for 2 s. -/
def execSeesawDecisionTimeout (s : State) : Host.Outcome State Fault Refusal :=
  let silent := match s.ssw.wireAt with
    | some t => decide (t + ticks (ms 2000) ≤ now s)
    | none => true
  if due s s.ssw.decideAt (ticks (ms 2000)) && !pxLinked s then .next (decideClaim silent s) else .next s

/-! ### Heartbeats (R427, R428) -/

/-- HB_PERIOD in CCLK. -/
def hbPeriod (s : State) : Nat := ticks (ms (fld s 0x40004 23 16))

/-- HB_MISS heartbeat periods in CCLK. -/
def hbSpan (s : State) : Nat := fld s 0x40004 27 24 * hbPeriod s

/-- A path is alive again, with its event when it had failed or had never been. -/
def pathAlive (px : Bool) (s : State) : State :=
  let was := if px then s.ssw.pxOk else s.ssw.wireOk
  let s := onSsw (fun x => if px then { x with pxAt := some (now s), pxOk := true, silentAt := none }
    else { x with wireAt := some (now s), wireOk := true, silentAt := none }) s
  if was then s else raiseX .hbPath true (b2n px) 0 s

/-- The heartbeat fields (Table 16.10). -/
def hbOf (b : Bytes) : Heartbeat :=
  let f := (b.getD 0 0).toNat
  { seen := true, synced := bitOf f 3, side := bitOf f 2, claimEn := bitOf f 1, act := bitOf f 0
    jnl := (b.getD 1 0).toNat % 4, term := beAt b 2 8, origin := beAt b 10 8, count := beAt b 18 4 }

/-- A heartbeat is taken: ten in a row whose ACT differs from SSW_ACT_IN raise SSW_MISMATCH (R427). -/
def takeHeartbeat (b : Bytes) (s : State) : State :=
  let h := hbOf b
  let n := if h.act = s.ssw.actIn then 0 else min 10 (s.ssw.differ + 1)
  let hit := decide (n = 10 ∧ s.ssw.differ < 10)
  let s := pathAlive true (onSsw (fun x => { x with hb := h, differ := n }) s)
  let s := onlyIf hit (raise .sswMismatch 0 0) s
  if s.ssw.decideAt.isSome && pxLinked s then decideClaim (fresher s) s else s

/-- HEARTBEAT_RX (R426, R427): a HEARTBEAT frame that PX has delivered. In step 8 of start-up it decides
CLAIM_EN by freshness. -/
def execHeartbeatRx (payload : Bytes) (s : State) : Host.Outcome State Fault Refusal :=
  match pxFrame 0x03 payload s with
  | none => .next s
  | some (_, s) => .next (if payload.length < 22 then s else takeHeartbeat payload s)

/-- WIRE_HEARTBEAT_RX (R427): a toggle of the twin's wire heartbeat. -/
def execWireHeartbeatRx (s : State) : Host.Outcome State Fault Refusal :=
  if s.pwr.por || !s.pwr.vin then .next s else .next (pathAlive false s)

/-- The payload of a heartbeat (Table 16.10). COUNT includes the heartbeat itself (log entry 20). -/
def hbPayload (s : State) : Bytes :=
  let x := s.ssw
  [BitVec.ofNat 8 (8 * b2n (s.copy.st = 5) + 4 * b2n x.side + 2 * b2n x.claimEn + b2n x.actOut),
    BitVec.ofNat 8 (min 2 s.jnl.st)] ++ beBytes 8 s.jnl.term ++ beBytes 8 (lastOrigin s s.jnl.lastSeq)
  ++ beBytes 4 (x.sent + 1)

/-- HEARTBEAT_SEND (R427): every HB_PERIOD the management firmware sends a HEARTBEAT frame on the lowest
bonded lane of PX. -/
def execHeartbeatSend (s : State) : Host.Outcome State Fault Refusal :=
  let ready := decide (s.mgmt.up ≠ 0) && s.mgmt.restartAt.isNone && !s.mgmt.halted && pxLinked s
  if ready && (s.ssw.sent = 0 || decide (s.ssw.sentAt + hbPeriod s ≤ now s)) then
    .next (onSsw (fun x => { x with sent := (x.sent + 1) % 2 ^ 32, sentAt := now s })
      (sendPx 0x03 (hbPayload s) s))
  else .next s

/-- HEARTBEAT_PATH_FAIL (R427, R428): nothing has arrived on a path for HB_MISS periods; when both have
failed, PEER_HB_LOST is raised and counted. -/
def execHeartbeatPathFail (px : Bool) (s : State) : Host.Outcome State Fault Refusal :=
  let ok := if px then s.ssw.pxOk else s.ssw.wireOk
  if ok && due s (if px then s.ssw.pxAt else s.ssw.wireAt) (hbSpan s) then
    let s := raise .hbPath (b2n px) 0
      (onSsw (fun x => if px then { x with pxOk := false } else { x with wireOk := false }) s)
    if s.ssw.pxOk || s.ssw.wireOk then .next s
    else .next (raise .peerHbLost 0 0 (count 0x40014 (onSsw (fun x => { x with silentAt := some (now s) }) s)))
  else .next s

/-- PEER_RESET (R428): a standby whose two paths have been failed for RST_SILENCE asserts PEER_RST_OUT,
while RST_EN is 1, SSW_ACT_IN is high and 10 s have passed since the last one. -/
def execPeerReset (s : State) : Host.Outcome State Fault Refusal :=
  let x := s.ssw
  let rested := match x.rstAt with
    | some t => decide (t + ticks (ms 10000) ≤ now s)
    | none => true
  if !x.actOut && x.role = 2 && flg s 0x40004 29 && x.actIn && rested && !x.peerRst
      && due s x.silentAt (ticks (ms (fld s 0x40004 15 0))) then
    .next (count 0x40018 (onSsw (fun x => { x with peerRst := true, rstAt := some (now s) }) s))
  else .next s

/-- PEER_RST_OUT_END (R428): the pulse of 10 ms ends. -/
def execPeerRstOutEnd (s : State) : Host.Outcome State Fault Refusal :=
  if s.ssw.peerRst && due s s.ssw.rstAt (ticks (ms 10)) then .next (onSsw (fun x => { x with peerRst := false }) s)
  else .next s

/-! ### Commands (R430) -/

/-- The value of SEESAW.CFG that a SEESAW_CONFIG writes (Table 16.18). -/
def seesawCfg (d : Bytes) : Word :=
  let b (i : Nat) : Nat := (d.getD i 0).toNat
  BitVec.ofNat 32 (b 16 * 2 ^ 30 + b 17 % 4 % 2 * 2 ^ 29 + b 17 / 2 % 2 * 2 ^ 28 + b 21 * 2 ^ 24 + b 20 * 2 ^ 16
    + leAt d 18 2)

/-- CLAIM_EN under a new MODE, which was `old` (R426). -/
def modeClaim (old : Nat) (s : State) : State :=
  match sswMode s with
  | 1 => setClaimEn false s
  | 2 => if s.ssw.holdAt.isSome then s else setClaimEn true s
  | _ => if old = 0 then s
      else setClaimEn (!s.ssw.actOut && s.ssw.role = 2 && s.copy.st = 5 && s.ssw.holdAt.isNone) s

/-- SEESAW_CONFIG (0x82): it writes SEESAW.CFG and a register snapshot. -/
def execSeesawConfig (q : Nat) (s : State) : Host.Outcome State Fault Refusal :=
  runCmd 0x82 q (fun d s =>
    let b (i : Nat) : Nat := (d.desc.getD i 0).toNat
    let sil := leAt d.desc 18 2
    match firstOf [refuseIf (decide (2 < b 16)) (badArg 16), refuseIf (decide (sil < 10 ∨ 10000 < sil)) (badArg 18),
        refuseIf (decide (b 20 < 1 ∨ 100 < b 20)) (badArg 20),
        refuseIf (decide (b 21 < 2 ∨ 15 < b 21)) (badArg 21)] with
    | some a => complete q a s
    | none =>
      let old := sswMode s
      completeRegs q (modeClaim old (setReg 0x40004 (seesawCfg d.desc) s))) s

/-- SEESAW_RELEASE (0x83): NOT_ACTIVE when SSW_ACT_OUT is low; without FORCE, PEER_DOWN when PX is not
LINKED and NOT_PERMITTED when the twin's last heartbeat had SYNCED = 0 or CLAIM_EN = 0. -/
def execSeesawRelease (q : Nat) (s : State) : Host.Outcome State Fault Refusal :=
  runCmd 0x83 q (fun d s =>
    let b := (d.desc.getD 16 0).toNat
    let h := s.ssw.hb
    match firstOf [refuseIf (!s.ssw.actOut) (ans stNotActive),
        refuseIf (b = 0 && !pxLinked s) (ans stPeerDown),
        refuseIf (b = 0 && !(h.synced && h.claimEn)) (ans stNotPermitted)] with
    | some a => complete q a s
    | none => complete q (ans stOk) (release 1 s)) s

/-! ### At the tick edge -/

/-- The interlock at the tick edge: the wire heartbeat toggles every HB_PERIOD while PD0 is powered and the
management complex is not held (R427); the takeover ends with its first swap (R429); STANDBY_ONLY is
restored in the tick before that swap, or at start-up 10 us after the rise with SSW_ACT_IN low (R426). -/
def sswTick (s : State) : State :=
  let s := if s.tick % ms (max 1 (fld s 0x40004 23 16)) = 0 ∧ !s.mgmt.halted then
      onSsw (fun x => { x with hbOut := !x.hbOut }) s else s
  let s := if s.ssw.role = 3 ∧ s.page.gen ≠ 0 then setRole 1 s else s
  let swapNext : Bool := match s.page.armed with
    | some a => a.work = .first && a.swap = some (s.tick + 1)
    | none => false
  if !s.ssw.holdPorts || !s.ssw.actOut then s
  else if s.ssw.role = 3 then (if swapNext then restoreStandbyOnly s else s)
  else if max s.ssw.lastChange s.ssw.inFell + 11 ≤ s.tick && !s.ssw.actIn then restoreStandbyOnly s
  else s

end Sys2Proof.Machine
end

