-- ==== Sys2Proof/Machine/PowerOps.lean ====
section
/-! DEFINITION. Power domains going down: the thermal trip, and what is lost with PD6 to PD19
(17_power_startup.md R437, R450, R452; 15_management.md R385, R395). -/

namespace Sys2Proof.Machine

/-- Change the power controller. -/
def onPwr (f : Pwr → Pwr) (s : State) : State := { s with pwr := f s.pwr }

/-! ### Commands that need what goes down (R452) -/

/-- The restarts of clusters are abandoned; their commands complete with UNAVAILABLE
(15_management.md R395). -/
def dropRestarts (s : State) : State :=
  let qs := (s.eng.active.toList ++ s.eng.waiting).filterMap (·.q)
  let s := onEngines (fun e => { e with active := none, waiting := [] }) s
  forAll qs (fun q s => complete q (ans stUnavailable) s) s

/-- Allocations, releases and memory tests under way or waiting complete with UNAVAILABLE. -/
def dropBankWork (s : State) : State :=
  let qs := (s.bank.own.flatMap fun e => e.2.zeroing.toList ++ e.2.release.toList) ++ s.mtest.q.toList ++ s.mtest.asks.map (·.q)
  let s := { s with
    bank := { s.bank with own := s.bank.own.map fun e => (e.1, { e.2 with zeroing := none, release := none }) }
    mtest := { s.mtest with q := none, asks := [] } }
  forAll qs (fun q s => complete q (ans stUnavailable) s) s

/-- Requests that wait for the decide phase complete with UNAVAILABLE. -/
def dropGroupAsks (s : State) : State :=
  let qs := s.prot.groups.flatMap fun e => e.2.asks.map (·.1)
  let s := { s with prot := { s.prot with groups := s.prot.groups.map fun e => (e.1, { e.2 with asks := [] }) } }
  forAll qs (fun q s => complete q (ans stUnavailable) s) s

/-- Operations that hold or need a quarantine window complete with UNAVAILABLE: the windows lie in
scratchpad banks (14_cipher.md R368). -/
def dropWindowOps (s : State) : State :=
  let runs := s.sec.dps.filter fun e => needsWindow s e.2.job
  let waits := s.sec.waiting.filter (needsWindow s)
  let jobs := runs.map (·.2.job) ++ waits
  let s := { s with sec := { s.sec with
    dps := s.sec.dps.filter fun e => !(runs.any fun r => r.1 = e.1)
    waiting := s.sec.waiting.filter fun j => !waits.contains j
    wins := [] } }
  forAll jobs (fun j s => completeOpt j.q (ans stUnavailable) (unload j s)) s

/-- Everything that waits for the core, the engines or the ports ends. -/
def dropCoreWork (s : State) : State :=
  dropWindowOps (dropGroupAsks (dropBankWork (dropRestarts (abandonPages s))))

/-! ### The domains -/

/-- A register of a block of PD15 to PD19 that the journal does not hold. -/
def lostReg (o : Nat) : Bool :=
  ((0x300000 ≤ o && o < 0x340000) || (0x400000 ≤ o && o < 0x700000)) && !journalled o

/-- The groups as their engines will take them again: definitions, decisions and standing requests. -/
def idleGroups (s : State) : List (Nat × Group) :=
  s.prot.groups.map fun e => (e.1, restoreGroup s e.1 e.2.dfn (some (decisionRecord s e.1 e.2)))

/-- History keeps what is folded; the seconds not yet folded are lost with the tally banks. -/
def idleHist (s : State) : Pm :=
  { s.pm with
    strTick := []
    halves := (List.range 8).map fun p => (p, ⟨[], s.pm.second, true⟩)
    hist := s.pm.hist.map fun e => (e.1, { e.2 with
      mon := false, defects := 0, before := 0, reported := 0, absent := [], csRun := 0, window := []
      belowSf := 0, belowSd := 0, now := { Tally.empty with lost := true }, past := [] }) }

/-- The contents of the scratchpad banks are gone (11_engines_banks.md R283; log entry 12). -/
def scrambleBanks (b : Banks) : Banks :=
  { Banks.reset with
    epoch := (List.range 128).map fun n => (n, spGet (fun _ => 0) b.epoch n + 1)
    answers := b.answers }

/-- The repairs of the memories stay applied (11_engines_banks.md R296). -/
def keptRepairs (t : Mtest) : Mtest :=
  { Mtest.reset with
    blocks := t.blocks.map fun e => (e.1, { e.2 with cells := [], lost := [] })
    last := t.last }

/-- PD6 to PD19 go down (17_power_startup.md R437): lanes, ports, core, pages, selectors, engines, banks
and the march test lose their state; configuration, counters, the map, groups and scenarios stay with the
management complex (R438, R453; 19_registers.md R481). -/
def coreOff (s : State) : State :=
  let s := perfCatch (forAll (s.lanes.map (·.1)) loseRefs (stopCopy 0 (dropCoreWork s)))
  { s with
    lanes := []
    ports := []
    frames := []
    regs := s.regs.filter fun e => !lostReg e.1 || (locked s && e.1 = 0x300008)
    core := { Core.reset with retired := s.core.retired }
    page := { Page.reset with scens := s.page.scens.map fun e =>
      (e.1, if e.2.st = 5 then { e.2 with st := 2 } else e.2) }
    abacus := { Abacus.reset with map := s.abacus.map, batches := s.abacus.batches }
    prot := { Prot.reset with groups := idleGroups s }
    pm := idleHist s
    eng := Engines.reset
    bank := scrambleBanks s.bank
    mtest := keptRepairs s.mtest
    pwr := { s.pwr with on := s.pwr.on &&& 0x3F, idle := [] } }

/-! ### The critical trip (15_management.md R385; 17_power_startup.md R452) -/

/-- A critical thermal trip: SSW_ACT_OUT falls, CRIT_TRIPPED is set, and the device enters MGMT_ONLY. The
event is the record of the trip in the journal (R386). -/
def trip (s : State) : State :=
  let s := release 2 s
  let s := { s with sens := { s.sens with tripped := true } }
  let s := raise .thermCrit 0 s.sens.max.toNat s
  if s.pwr.st = 1 ∨ s.pwr.st = 2 ∨ s.pwr.st = 3 then
    onPwr (fun p => { p with st := 4, step := 0, resuming := false })
      (onSsw (fun x => { x with decideAt := none, giveUp := false }) (coreOff s))
  else s

end Sys2Proof.Machine
end

