-- ==== Sys2Proof/Machine/Boot.lean ====
section
/-! DEFINITION. The start-up sequence and the resets (17_power_startup.md R436 to R454). The steps before the start-up
memory test run within the command that begins them, and steps 7 and 8 within the one that ends the test
(log entry 25). -/

namespace Sys2Proof.Machine

/-! ### What a full reset leaves (R440) -/

/-- The repairs fused at production are applied (11_engines_banks.md R296). -/
def fusedRepairs (s : State) : State :=
  forAll s.otp.fused (fun f s => reapplyRepair f.1 (b2n f.2.1) f.2.2.1 s) s

/-- What the flash and the fuses hold of an image. -/
def flashImage (x : Image) : Image :=
  { Image.reset with slotA := x.slotA, slotB := x.slotB, rec0 := x.rec0, rec1 := x.rec1 }

/-- What the flash holds of the journal. -/
def flashJnl (x : Jnl) : Jnl :=
  { Jnl.reset with
    region0 := { x.region0 with ok := false }, region1 := { x.region1 with ok := false }
    salt := x.salt, lastSeq := x.lastSeq, nextSeq := x.lastSeq + 1
    log := x.log, ckpt := x.ckpt, ckptSeq := x.ckptSeq, ckptId := x.ckptId }

/-- Every domain but PD0 is off and the logic of PD0 is reset (R440). Flash and fuses, the JTAG
instruction, host memory and what the board drives stay. -/
def fullReset (s : State) : State :=
  { State.reset with
    pending := s.pending
    free := s.free
    hif := { Hif.reset with hostMem := s.hif.hostMem, sent := s.hif.sent, readData := s.hif.readData,
                            timingOut := s.hif.timingOut }
    otp := s.otp
    jtag := { s.jtag with open_ := false }
    image := flashImage s.image
    jnl := flashJnl s.jnl
    bank := { scrambleBanks s.bank with answers := s.bank.answers }
    ssw := { Seesaw.reset with actIn := s.ssw.actIn }
    pwr := { Pwr.reset with vin := s.pwr.vin, por := s.pwr.por, perst := s.pwr.perst,
                            overcurrent := s.pwr.overcurrent, flashRst := s.pwr.flashRst } }

/-- The level of FLASHn_RESET_N outside a warm reset: low while POR_N is low and while VIN is not good
(18_electrical.md R469). -/
def flashResetN (s : State) : Bool := !s.pwr.por && s.pwr.vin

/-- FLASH0_RESET_N and FLASH1_RESET_N fall, unless they are low already. -/
def resetFlash (s : State) : State :=
  if flashResetN s then onPwr (fun p => { p with flashRst := p.flashRst + 1 }) s else s

/-! ### Steps 2 to 5 (Table 17.3) -/

/-- STEP_TIME of a step: its duration is the moment's, a free value (log entry 2). -/
def stepTime (k : Nat) (s : State) : State :=
  let (v, s) := draw s
  onPwr (fun p => { p with times := spSet (fun _ => 0) (k - 1) (BitVec.ofNat 32 v) p.times }) s

/-- The next step begins. -/
def toStep (k : Nat) (s : State) : State := onPwr (fun p => { p with step := k }) (stepTime (k - 1) s)

/-- STEP_TIME of a step begun at `stepAt`. -/
def spanTime (k : Nat) (s : State) : State :=
  onPwr (fun p => { p with
    times := spSet (fun _ => 0) (k - 1) (BitVec.ofNat 32 (min 0xFFFFFFFF (s.tick - p.stepAt))) p.times }) s

/-- Domains come up. -/
def powerOn (m : Nat) (s : State) : State := onPwr (fun p => { p with on := p.on ||| BitVec.ofNat 20 m }) s

/-- Flash devices that answered. -/
def flashFound (b : BootInput) : List (Nat × (BitVec 24 × Nat)) :=
  (b.flash0.map fun x => (0, x)).toList ++ (b.flash1.map fun x => (1, x)).toList

/-- The boot ROM's choice (15_management.md R391): a slot whose flash device does not answer holds
nothing. -/
def bootFlash (s : State) : State × Bool :=
  let x := s.image
  let seen := { x with
    slotA := (if flashThere s 0 then x.slotA else []), slotB := (if flashThere s 1 then x.slotB else []) }
  let r := boot { s with image := seen }
  ({ r.1 with image := { r.1.image with slotA := x.slotA, slotB := x.slotB } }, r.2)

/-- The root key (14_cipher.md R359), derived over the label "TX256 ROOT KEK". In RETURN it is not
derived. -/
def rootKey (o : Otp) : Option Bytes :=
  let label : Bytes := [0x54, 0x58, 0x32, 0x35, 0x36, 0x20, 0x52, 0x4F, 0x4F, 0x54, 0x20, 0x4B, 0x45, 0x4B]
  if o.life = 3 then none else some (deriveKey o label)

/-- The recovery handler runs (15_management.md R393), and the root key is derived (14_cipher.md R359). -/
def recover (s : State) : State :=
  let s := powerOn 0x2E s
  deliverHeld { s with
    sec := { s.sec with root := rootKey s.otp }
    pwr := { s.pwr with st := 5, step := 0 }
    mgmt := { s.mgmt with recovery := true, up := 1 }
    hif := { s.hif with ready := !s.pwr.perst } }

/-- Step 3: the management firmware starts, the root key is derived and the function is ready. -/
def stepThree (s : State) : State :=
  let s := powerOn 0x20 (toStep 3 s)
  { s with
    mgmt := { s.mgmt with up := 0xF, recovery := false }
    sec := { s.sec with root := rootKey s.otp }
    hif := { s.hif with ready := !s.pwr.perst } }

/-- Steps 4 and 5: records held back enter the event log, and the journal is replayed. -/
def stepsFourFive (cause : Nat) (s : State) : State :=
  let s := deliverHeld (toStep 5 (toStep 4 s))
  let f (n : Nat) : Option (BitVec 24 × Nat) := (s.pwr.flash.find? (·.1 = n)).map (·.2)
  let s := replay cause (flashUsable (f 0)) (flashUsable (f 1)) s
  { s with copy := { s.copy with ckptTerm := s.jnl.term, persisted := lastOrigin s s.jnl.lastSeq } }

/-! ### Steps 6 to 8 -/

/-- Step 6 begins: the memories are powered, and the start-up test runs; every bank is under destructive test
(R446; 11_engines_banks.md R292, R294). -/
def beginSix (faults : List MemFault) (s : State) : State :=
  let s := onMtest (fun m => { m with known := faults }) (takeTarget 4 2 0 0 (powerOn 0xF8000 s))
  forAll (List.range 128) (fun b s => setBank b { bank s b with test := 2 } s)
    (onPwr (fun p => { p with stepAt := s.tick }) s)

/-- Step 6 ends: the faults found are repaired or handled, the banks get their default allocation, and the core runs with
empty pages (R446; 11_engines_banks.md R286, R293). -/
def endSix (faults : List MemFault) (s : State) : State :=
  let s := targetDone (takeFaults (fun _ => true) faults s)
  let s := forAll (List.range 128) (fun b s => setBank b { bank s b with test := 0 } s) s
  let s := zeroPages (allocateBanks (testedRows (fun _ => true) s))
  { s with core := { s.core with running := true } }

/-- A cluster starts with its component of the running image; without one that passes, it stays OFF
(15_management.md R395). -/
def startCluster (c : Nat) (s : State) : State :=
  let x := clusterOpens s.otp s.image.running c
  let s := countOpens none x.1 x.2 s
  match clusterComp s.otp s.image.running c with
  | none => s
  | some (v, m) =>
    let s := mapCluster c (fun x => { x with st := 2, imem := some (v, m) }) (perfCatch s)
    setCl c (clRuns s c) (onEngines (fun e => { e with
      image := spSet (fun _ => 0) c v e.image, meas := spIns c m e.meas }) s)

/-- Step 7: the engines start, and step 8 begins; the group engines take the definitions and decisions at
this tick. -/
def stepsSevenEight (s : State) : State :=
  let s := forAll (List.range 12) startCluster (onPwr (fun p => { p with step := 7 }) (spanTime 6 s))
  let s := toStep 8 (loadGroups s)
  let s := onSsw (fun x => { x with
    role := 0, decideAt := some (now s), giveUp := false, hb := Heartbeat.reset, differ := 0 }) s
  s

/-- Step 6 begins, with PX enabled as at the end of step 5 (R445). -/
def laterSteps (faults : List MemFault) (s : State) : State := beginSix faults (domainOn 6 s)

/-- While the debug ports may be opened, each start-up says so (13_host.md R353). -/
def reportDebug (s : State) : State := onlyIf (debugOpen s) (raise .debugOpen 0 0) s

/-- Start-up from step 2 (R444): recovery when no slot passes, MGMT_ONLY after step 5 while CRIT_TRIPPED is
1 (R451), and otherwise on to the start-up memory test. The repairs fused at production apply first
(11_engines_banks.md R296). -/
def startFromTwo (cause : Nat) (b : BootInput) (s : State) : State :=
  let s := powerOn 0xC (onPwr (fun p => { p with step := 2, flash := flashFound b }) (fusedRepairs s))
  let r := bootFlash s
  if !r.2 then reportDebug (recover r.1)
  else
    let s := reportDebug (stepsFourFive cause (stepThree r.1))
    if s.sens.tripped then onPwr (fun p => { p with st := 4, step := 0 }) s
    else laterSteps b.faults (toStep 6 s)

/-- Step 1 (R444, R443): OTP is read and the straps are latched; a device whose OTP does not read stays
there, with SMB_ALERT_N asserted (19_registers.md R494). The challenge is drawn (15_management.md
R400). -/
def startUp (b : BootInput) (s : State) : State :=
  let st := b.straps &&& 0x7B
  let (c, s) := randomBytes 32 s
  let s := { s with
    tick := 0
    smb := { s.smb with addr := BitVec.ofNat 3 (bitsOf st.toNat 5 3), alert := s.smb.alert || !b.otpOk }
    ssw := { s.ssw with side := st.getLsbD 6 }
    mgmt := { s.mgmt with challenge := c }
    pwr := { s.pwr with
      st := 1, step := 1, late := false, resuming := false, on := 0x13, straps := st, times := []
      otpOk := b.otpOk, cause := 1, warm := 0, overcurrent := false, shutting := false } }
  if !b.otpOk then s else startFromTwo 1 b (stepTime 1 s)

/-- Start-up, with INPUT_OVERCURRENT when that ended the run before (18_electrical.md R458). -/
def startUpFresh (b : BootInput) (s : State) : State :=
  let met := s.pwr.overcurrent
  onlyIf met (raise .inputOvercurrent 0 0) (startUp b s)

/-! ### The end of a memory test (11_engines_banks.md R281, R292 to R295) -/

/-- The memories of the cluster held in reset have been tested (R281). -/
def clusterTested (c : Nat) (s : State) : State :=
  { s with eng := { s.eng with active := s.eng.active.map fun r => if r.cl = c then { r with tested := true } else r } }

/-- MEMORY_TEST_DONE: the test of the target ends with the faults found; start-up goes on from that of step 6. -/
def execMemoryTestDone (faults : List MemFault) (s : State) : Host.Outcome State Fault Refusal :=
  let t := s.mtest
  let ty (k : Nat) (m : Nat) : Bool := macroType m = k
  if t.target = 1 ∧ t.mode = 1 then (if t.segment < 512 then .next s else .next (bankDone t.index s))
  else if !runOver s then .next s
  else match t.target, t.mode with
    | 1, _ => .next (testedRows (·.1 = t.index) (bankDone t.index (takeFaults (· = t.index) faults (bankRun t.index 4 0 512 320 320 s))))
    | 2, _ => .next (onMtest (fun m => { m with stepAt := s.tick + sched s 7 0 * 1000 })
        (targetDone (takeFaults (ty 2) (faults.filter fun f => f.row % 2048 = t.index) s)))
    | 3, _ =>
      let conn (m : Nat) : Bool := (ty 3 m || ty 4 m || ty 5 m) && bitOf m 8 ≠ s.page.active
      .next (resync (testedRows (fun e => conn e.1) (targetDone (takeFaults conn faults s))))
    | 4, _ => .next (stepsSevenEight (endSix (t.known ++ faults) s))
    | 5, _ => .next (clusterTested t.index (targetDone (takeFaults (fun m =>
        (ty 6 m || ty 7 m) && macroIndex m / 16 = t.index) faults s)))
    | 6, _ =>
      let mine (m : Nat) : Bool := ty 1 m && macroIndex m / 32 = t.index
      .next (testedRows (fun e => mine e.1) (targetDone (takeFaults mine faults s)))
    | _, _ => .next s

/-! ### VIN and POR_N (R436, R440; 18_electrical.md R457, R458) -/

/-- POR_N_ASSERT: the full reset. -/
def execPorNAssert (s : State) : Host.Outcome State Fault Refusal :=
  if s.pwr.por then .next s
  else
    let t := fullReset (resetFlash s)
    .next { t with pwr := { t.pwr with por := true, on := (if s.pwr.vin then 1 else 0) } }

/-- POR_N_DEASSERT: step 1 begins, once VIN is good. -/
def execPorNDeassert (b : BootInput) (s : State) : Host.Outcome State Fault Refusal :=
  if !s.pwr.por then .next s
  else
    let s := { s with pwr := { s.pwr with por := false } }
    .next (if s.pwr.vin then startUpFresh b s else s)

/-- VIN is lost: everything is as with POR_N held low. -/
def loseVin (s : State) : State :=
  let t := fullReset (resetFlash s)
  { t with pwr := { t.pwr with vin := false, on := 0 } }

/-- VIN_LOST. -/
def execVinLost (s : State) : Host.Outcome State Fault Refusal :=
  if s.pwr.vin then .next (loseVin s) else .next s

/-- VIN_OVERVOLTAGE: treated as VIN lost. -/
def execVinOvervoltage (s : State) : Host.Outcome State Fault Refusal :=
  if s.pwr.vin then .next (loseVin s) else .next s

/-- INPUT_OVERCURRENT: treated as VIN lost; the next start raises the event. -/
def execInputOvercurrent (s : State) : Host.Outcome State Fault Refusal :=
  if s.pwr.vin then
    let t := loseVin s
    .next { t with pwr := { t.pwr with overcurrent := true } }
  else .next s

/-- VIN_GOOD: PD0 is powered; with POR_N high, step 1 begins. -/
def execVinGood (b : BootInput) (s : State) : Host.Outcome State Fault Refusal :=
  if s.pwr.vin then .next s
  else
    let s := { s with pwr := { s.pwr with vin := true, on := 1 } }
    .next (if s.pwr.por then s else startUpFresh b s)

/-! ### Steps 9 and 10, and steps that take too long (R444) -/

/-- Step 10 begins: from here the power state follows ROLE (R439). -/
def beginTen (s : State) : State :=
  onPwr (fun p => { p with
    step := 10, stepAt := s.tick, st := if s.ssw.role = 1 ∨ s.ssw.role = 3 then 2 else 3 }) (spanTime 9 s)

/-- STARTUP_STEP_LATE: the step in progress, or one that this start has run, exceeds its bound. -/
def execStartupStepLate (n : Nat) (s : State) : Host.Outcome State Fault Refusal :=
  if s.pwr.step = 0 ∨ n = 0 ∨ n = 10 ∨ s.pwr.step < n then .next s
  else
    let s := raise .stepLate n 0 (count 0x10024 (onPwr (fun p => { p with late := true }) s))
    .next (if n = 9 ∧ s.pwr.step = 9 then beginTen s else s)

/-- The enabled ports of P0 to P7. -/
def enabledPorts (s : State) : List Nat := (List.range 8).filter fun p => flg s (portBase p) 0

/-- Steps 9 and 10 at the tick edge (R444; 19_registers.md R490): step 9 ends when every enabled port has
trained, and step 10 when each is in SERVICE or STANDBY. -/
def stepTick (s : State) : State :=
  if s.pwr.step = 9 ∧ (enabledPorts s).all (fun p => decide (2 ≤ (port s p).st.toNat)) then beginTen s
  else if s.pwr.step = 10 ∧ (enabledPorts s).all (fun p => decide (5 ≤ (port s p).st.toNat)) then
    onPwr (fun p => { p with step := 0, resuming := false }) (spanTime 10 s)
  else s

/-! ### Warm reset (R450, R451; Table 17.6) -/

/-- A register that keeps its value through a warm reset until replay: PD0 and PD1, what PERST_N keeps of
HIF, and the LK registers that GLB.LOCK holds (19_registers.md R483, R485). -/
def warmReg (s : State) (o : Nat) : Bool :=
  o < 0x60000 || (locked s && (o = 0x60004 || o = 0x70004 || o = 0x300008))

/-- A counter that keeps its value through a warm reset (02_tray_format.md R62; 16_journal_seesaw.md R433;
19_registers.md R485, R490; log entry 27). -/
def warmCount (o : Nat) : Bool := o < 0x20000 || (0x40000 ≤ o && o < 0x50000) || o = 0x6001C

/-- KEY_SLOT of every queue falls to 0 before replay restores it (R447). -/
def dropKeySlots (m : List (Nat × Word)) : List (Nat × Word) :=
  m.map fun e => match queueAt e.1 with
    | some (_, 0x10) => (e.1, putBits e.2 9 0 0)
    | _ => e

/-- What a warm reset loses. -/
def warmWipe (s : State) : State :=
  let s := forAll (s.lanes.map (·.1)) loseRefs (hostReset s)
  { s with
    regs := (dropKeySlots (s.regs.filter fun e => warmReg s e.1)).filter fun e => e.2 ≠ resetOf e.1
    rc := s.rc.filter fun e => warmCount e.1
    rc64 := [], latch := [], held := [], lanes := [], ports := [], frames := []
    core := Core.reset, page := Page.reset, abacus := Abacus.reset, prot := Prot.reset, pm := Pm.reset
    timing := { s.timing with
      todAsk := [], todDone := [], modeAsk := none, model := [], learnHours := 0, learned := 0 }
    eng := Engines.reset, bank := scrambleBanks s.bank, mtest := Mtest.reset, perf := Perf.reset
    hif := { s.hif with queues := [], rings := [], seqs := [] }
    sec := Sec.reset
    mgmt := { Mgmt.reset with
      challenge := s.mgmt.challenge, unlocked := s.mgmt.unlocked, logNext := s.mgmt.logNext
      corrupt := s.mgmt.corrupt, crit := s.mgmt.crit }
    image := flashImage s.image
    jnl := flashJnl s.jnl
    copy := Copy.reset
    ssw := { s.ssw with
      role := 0, claimEn := false, guardAt := none, holdAt := none, decideAt := none, giveUp := false
      holdPorts := false, hb := Heartbeat.reset, differ := 0, sent := 0, sentAt := 0 } }

/-- A magic write that is discarded (19_registers.md R491). -/
def badMagic (s : State) : State := count 0x10020 s

/-- WARM_RESET: a write of PWR.WARM_RESET. FLASHn_RESET_N is low for a moment (18_electrical.md R469). -/
def execWarmReset (v : Word) (b : BootInput) (s : State) : Host.Outcome State Fault Refusal :=
  if !linkUp s then .next s
  else if v ≠ 0x57525354 ∨ s.pwr.shutting then .next (badMagic s)
  else
    let s := warmWipe (release 5 (resetFlash s))
    .next (startFromTwo 2 b (onPwr (fun p => { p with
      st := 1, step := 2, late := false, resuming := false, on := 0x1B, times := [], idle := [], cause := 2
      warm := min 0xFFFF (p.warm + 1)
      straps := (p.straps &&& 0x78) ||| (b.straps &&& 3) }) s))

/-! ### Resume (R453) -/

/-- TEMP_MAX is below 100 degrees. -/
def coolEnough (s : State) : Bool := decide (s.sens.max.toInt < 800)

/-- RESUME: a write of PWR.RESUME, which runs steps 6 to 10 from MGMT_ONLY. -/
def execResume (v : Word) (faults : List MemFault) (s : State) : Host.Outcome State Fault Refusal :=
  if !linkUp s then .next s
  else if v ≠ 0x5245534D ∨ s.pwr.shutting ∨ s.pwr.st ≠ 4 then .next (badMagic s)
  else if !coolEnough s then .next (raise .resumeHot 0 s.sens.max.toNat s)
  else
    let s := onPwr (fun p => { p with
      st := 1, step := 6, late := false, resuming := true, times := [], cause := 3 }) s
    .next (laterSteps faults (reportDebug s))

/-! ### Orderly power-down (R454) -/

/-- Commands of queue q that have been fetched and have not started complete with UNAVAILABLE. -/
def refuseFetched (q : Nat) (s : State) : State :=
  let ds := (queue s q).fetched
  forAll ds (fun d s => writeCpl q d.desc (ans stUnavailable) s)
    (setQueue q { queue s q with fetched := [], waitSeq := none, doomed := 0 } s)

/-- The queues in use. -/
def openQueues (s : State) : List Nat := (s.hif.queues.filter fun e => e.2.enabled).map (·.1)

/-- Steps 1 to 3 of R454: commands not started are refused, SSW_ACT_OUT falls, and every record raised is
written; a command that still waits then has nothing more to wait for. -/
def quiesce (s : State) : State :=
  let idle := (openQueues s).filter fun q => (queue s q).running.isNone
  let s := forAll idle refuseFetched s
  let s := release 5 (abandonCompaction stUnavailable s)
  let s := if jnlWrites s then settleWaiters (persistAll s.jnl.waiting.length s) else s
  let s := releaseWaiters (fun _ => true) stNotPersisted (dropCoreWork s)
  forAll (openQueues s) (fun q s => refuseFetched q (completeNow q (ans stUnavailable) s)) s

/-- Domains PD19 down to PD1 are off: OFF_READY, which only POR_N or loss of VIN ends. The sensor hub in
PD0 goes on. -/
def powerDown (s : State) : State :=
  let t := fullReset s
  { t with
    tick := s.tick, smb := s.smb, sens := s.sens
    regs := s.regs.filter fun e => decide (e.1 < 0x30000)
    rc := s.rc.filter fun e => warmCount e.1
    ssw := { t.ssw with side := s.ssw.side, lastRelease := s.ssw.lastRelease, lastChange := s.ssw.lastChange, role := 2 }
    mgmt := { t.mgmt with unlocked := s.mgmt.unlocked, challenge := s.mgmt.challenge }
    pwr := { s.pwr with st := 0, step := 0, resuming := false, on := 1, shutting := true, idle := [] } }

/-- SHUTDOWN: a write of PWR.SHUTDOWN. -/
def execShutdown (v : Word) (s : State) : Host.Outcome State Fault Refusal :=
  if !linkUp s then .next s
  else if v ≠ 0x53485554 then .next (badMagic s)
  else if s.pwr.shutting then .next s
  else .next (powerDown (quiesce (onPwr (fun p => { p with shutting := true }) s)))

end Sys2Proof.Machine
end

