-- ==== Sys2Proof/Machine/Mgmt.lean ====
section
/-! DEFINITION. The management complex: restarts, watchdogs, images, sensors, the event log, tokens and
attestation (15_management.md R379 to R403; 13_host.md R347). -/

namespace Sys2Proof.Machine

/-- Change the management complex. -/
def onMgmt (f : Mgmt → Mgmt) (s : State) : State := { s with mgmt := f s.mgmt }

/-- Change the images. -/
def onImage (f : Image → Image) (s : State) : State := { s with image := f s.image }

/-! ### Restarts (R382, R383) -/

/-- A record that an engine raises and that its cluster's banks hold through a restart (R383). -/
def engineRaised (p : JPay) : Bool :=
  match p with
  | .decision .. | .str .. | .swap .. => true
  | _ => false

/-- Records that the firmware held are gone; commands that wait for one of them complete with
NOT_PERSISTED. -/
def dropRecords (s : State) : State :=
  let kept := s.jnl.waiting.filter fun r => engineRaised r.pay
  let s := { s with jnl := { s.jnl with waiting := kept } }
  releaseWaiters (fun w => decide (s.jnl.lastSeq < w.2.1) && !(kept.any fun r => r.seq = w.2.1)) stNotPersisted s

/-- A staging in progress is cut off: what its slot then holds is open (log entry 15). -/
def dropStaging (s : State) : State :=
  match s.image.staging with
  | none => s
  | some (q, _) =>
    let (k, s) := draw s
    let s := onImage (fun x => { (if k % 2 = 0 then x else setSlot (!x.boot) [] x) with staging := none }) s
    complete q (ans stNotPersisted) s

/-- Fuses being blown are left where they are (R392). -/
def dropBlowing (s : State) : State :=
  match s.image.blowing with
  | none => s
  | some (_, q) => complete q (ans stNotPersisted) (onImage (fun x => { x with blowing := none }) s)

/-- Commands fetched and not started complete with DEVICE_ERROR afterwards. -/
def doomFetched (s : State) : State :=
  { s with hif := { s.hif with queues := s.hif.queues.map fun e =>
    (e.1, { e.2 with doomed := e.2.fetched.length, waitSeq := none }) } }

/-- A restart of the management complex begins. -/
def startRestart (s : State) : State :=
  let s := count 0x70020 (onMgmt (fun m => { m with up := 0, restartAt := some (now s) }) s)
  let s := dropBlowing <| dropStaging (abandonCompaction stNotPersisted (stopCopy 0 s))
  doomFetched (dropRecords s)

/-- History starts empty (09_monitoring.md R233). -/
def emptyHistory (s : State) : State :=
  let first (h : Hist) : Bin := { Bin.empty with flags := if h.mon then 1 else 0x41 }
  let info : List BinInfo := [⟨s.timing.sec, 0, 0⟩]
  if !s.pm.running then s
  else
    let s := mapHist (fun _ h => { h with
      cur15 := first h, prev15 := [], cur24 := first h, prev24 := [], avail := true, pending := [], past := [] }) s
    { s with pm := { s.pm with info15 := info, info24 := info } }

/-- Replay at a restart (16_journal_seesaw.md R411): the holdover model goes back to its last record (10_timing.md R256),
and what no record holds is forgotten. The rest of what replay restores stands in the hardware, which kept running. -/
def replayAgain (s : State) : State :=
  let s := countN 0x80044 (replayDiscards (heldRecords s)) (countOpens none (replayOpens s) false (forgetLearning s))
  (heldRecords s).foldl (fun s r => match r.pay with
    | .holdover .. => applyLocal s r
    | _ => s) s

/-- The records kept through the restart take new sequence numbers behind the EPOCH record, and the
commands that wait for them follow. -/
def raiseKept (s : State) : State :=
  let kept := s.jnl.waiting
  let s := newEpoch 3 { s with jnl := { s.jnl with nextSeq := s.jnl.lastSeq + 1, waiting := [] } }
  kept.foldl (fun s r =>
    let s := journal r.pay s
    { s with jnl := { s.jnl with waiters := s.jnl.waiters.map fun w =>
      if w.2.1 = r.seq then (w.1, s.jnl.nextSeq - 1, w.2.2) else w } }) s

/-- Commands past their commit point complete after the restart. -/
def completePast (s : State) : State :=
  forAll s.mgmt.past (fun e s =>
      completeNow e.1 ⟨e.2.getD 0 0, e.2.getD 1 0, e.2.getD 2 0, e.2.getD 3 0, e.2.getD 4 0⟩ s)
    (onMgmt (fun m => { m with past := [] }) s)

/-- The IMAGE_ACTIVATE that caused the restart completes: from the trial image, from the old one with
IMAGE_INVALID, or after an abandon (R394). -/
def completeActivate (s : State) : State :=
  match s.image.activating with
  | none => s
  | some q =>
    let trial := decide ((runningDesc s q).getD 16 0 = 0)
    let a := if !trial then ans stOk
      else if s.image.onTrial then ⟨stOk, imgId s.image.running, 0, 0, 0⟩ else ans stImageInvalid
    complete q a (onImage (fun x => { x with activating := none }) s)

/-- The firmware is up again: held records, completions and the commands met unstarted. -/
def resumeService (s : State) : State :=
  let s := completeActivate (completePast (deliverHeld s))
  forAll (s.hif.queues.map (·.1)) (fun q s => finishClosing q (skipUndefined 16 q s)) s

/-- An image passes while the device is in recovery: start-up goes on from step 3. -/
def leaveRecovery (faults : List MemFault) (s : State) : State :=
  let s := resumeService (stepThree (onPwr (fun p => { p with st := 1 }) (emptyHistory s)))
  laterSteps faults (toStep 6 (stepsFourFive s.pwr.cause s))

/-- No slot passes: the recovery handler runs, and no port is enabled (R393). -/
def enterRecovery (s : State) : State :=
  let s := recover (coreOff (release 5 s))
  resumeService (onSsw (fun x => { x with giveUp := false, decideAt := none }) s)

/-- What a restart runs (R383, R391, R393): the slot chosen anew when the restart asks for it or when the copy in LPDDR6
does not verify (log entry 80), else that copy; in recovery, where no image runs, the recovery handler. -/
def restartImage (s : State) : State × Bool :=
  let fresh (s : State) : State × Bool :=
    let r := bootFlash s
    let seen := (if flashThere s 0 then [s.image.slotA] else []) ++ (if flashThere s 1 then [s.image.slotB] else [])
    let n := match seen.find? fun b => b = r.1.image.running with
      | some b => imageOpens s.otp false b
      | none => (0, false)
    (countOpens none n.1 n.2 r.1, r.2)
  if s.image.reboot then fresh s
  else if s.mgmt.recovery then (s, false)
  else
    let n := partOpens s.otp s.image.running (stepEight false s.image.running)
    if copyVerifies s then (countOpens none n.1 n.2 s, true) else fresh s

/-- MGMT_RESTART_DONE: the image in place, or the slot chosen anew, is verified and runs, once its check has had a
datapath (14_cipher.md R356). -/
def execMgmtRestartDone (faults : List MemFault) (s0 : State) : Host.Outcome State Fault Refusal :=
  let dp := dpReady .image s0
  if s0.mgmt.restartAt.isNone then .next s0
  else if !dp.1 then .next dp.2
  else
    let s := dp.2
    let r := restartImage s
    let was := s.mgmt.recovery
    let s := onImage (fun x => { x with reboot := false })
      (onMgmt (fun m => { m with restartAt := none, up := 0xF }) r.1)
    if !r.2 then .next (enterRecovery s)
    else if was then .next (leaveRecovery faults s)
    else .next (resumeService (raiseKept (replayAgain (emptyHistory s))))

/-- The complex is held in reset (R382). -/
def holdComplex (s : State) : State :=
  let s := startRestart s
  let s := { s with
    mgmt := { s.mgmt with restartAt := none, halted := true }
    smb := { s.smb with alert := true } }
  onlyIf (flg s 0x40004 28) (release 3) s

/-- A restart by the watchdog of a trial image counts as an attempt; after the third the active slot is
booted (R394). -/
def countAttempt (s : State) : State :=
  let x := s.image
  if !x.onTrial then s
  else
    let n := x.attempts + 1
    if 3 ≤ n then onBootRec (fun x => { x with attempts := 0, trial := none, reboot := true }) s
    else onBootRec (fun x => { x with attempts := n }) s

/-- WATCHDOG_EXPIRY: a restart, or at the third within 600 s the held state. -/
def execWatchdogExpiry (core : Nat) (s : State) : Host.Outcome State Fault Refusal :=
  if s.mgmt.restartAt.isSome ∨ s.mgmt.halted ∨ !s.mgmt.up.getLsbD core then .next s
  else
    let dogs := s.tick :: s.mgmt.dogs.filter fun t => decide (s.tick < t + 600000000)
    let s := countAttempt (onMgmt (fun m => { m with dogs := dogs }) s)
    .next (raise .watchdog core 0 (if 3 ≤ dogs.length then holdComplex s else startRestart s))

/-- An uncorrectable error in scenario slot n: the scenario becomes STALE with reason 4 (R381), whatever is done with it;
a rebuild of it begins again, and one that is stale already keeps its first reason. -/
def scenLost (n : Nat) (s : State) : State :=
  let x := scen s n
  if x.st = 0 then s
  else endRebuild n (setScen n { x with
    crc := ~~~ pageCrc x.pages, st := 2, reason := (if x.st = 2 then x.reason else 4) } s)

/-- An uncorrectable error is counted, reported and handled by region. -/
def lpddrLost (region : LpddrRegion) (s : State) : State :=
    let s := raise .lpddrUncorr region.ctorIdx 0 (count 0x70028 s)
    let lost (b : Bin) : Bin := { b with flags := b.flags ||| 4 }
    let lostAt (k : Nat) (xs : List Bin) : List Bin := match xs[k]? with
      | some b => xs.set k (lost b)
      | none => xs
    let mark (day : Bool) (k : Nat) (h : Hist) : Hist :=
      if day then (if k = 0 then { h with cur24 := lost h.cur24 } else { h with prev24 := lostAt (k - 1) h.prev24 })
      else if k = 0 then { h with cur15 := lost h.cur15 } else { h with prev15 := lostAt (k - 1) h.prev15 }
    match region with
    | .firmware => if s.mgmt.restartAt.isSome || s.mgmt.halted || s.mgmt.up = 0 then s else startRestart s
    | .scenario n => scenLost n s
    | .history o day k => mapHist (fun n h => if n = o then mark day k h else h) s
    | .log n => onMgmt (fun m => { m with corrupt := insNat n m.corrupt }) s
    | .trace | .staging => s

/-- LPDDR_ECC_UNCORR (R381): an uncorrectable error, if any, after the errors that were corrected since the last report (log entry 80). -/
def execLpddrEccUncorr (region : LpddrReport) (s : State) : Host.Outcome State Fault Refusal :=
  if !pdOn s 3 then .next s
  else
    let s := countN 0x70024 region.corr s
    .next (match region.region with
      | some r => lpddrLost r s
      | none => s)

/-! ### Images (R394, R395) -/

/-- An image command is in progress, or a cluster migration or restart is under way. -/
def imageBusy (s : State) : Bool :=
  s.image.staging.isSome || s.image.activating.isSome || s.image.blowing.isSome || s.eng.active.isSome || !s.eng.waiting.isEmpty

/-- IMAGE_STAGE (0x70): the container is read by DMA into the staging buffer. -/
def execImageStage (q : Nat) (container : Option Bytes) (s : State) : Host.Outcome State Fault Refusal :=
  runCmd 0x70 q (fun d s =>
    match firstOf [refuseIf (imageBusy s) (ans stBusy)], container with
    | some a, _ => complete q a s
    | none, none => complete q (ans stExtFault) (fire (qFunction s q) 0 s)
    | none, some b => onImage (fun x => { x with staging := some (q, b.take (leAt d.desc 24 4)) }) s) s

/-- The flash device of a slot answered at the last start. -/
def slotThere (s : State) (b : Bool) : Bool := flashThere s (b2n b)

/-- IMAGE_STAGE_DONE: all checks of R391, then the slot not running takes the image; `ok` when it read back
as written. Any failure leaves the slot empty. -/
def execImageStageDone (ok : Bool) (s : State) : Host.Outcome State Fault Refusal :=
  match s.image.staging with
  | none => .next s
  | some (q, b) =>
    let r := dpReady .image s
    if !mgmtRuns s then .next s
    else if !r.1 then .next r.2
    else
      let s := r.2
      let n := imageOpens s.otp true b
      let s := countOpens none n.1 n.2 s
      let slot := !s.image.boot
      let f := imageFault s.otp true b
      let good := f = 0 && ok && slotThere s slot
      let s := onImage (fun x => { setSlot slot (if good then b else []) x with staging := none }) s
      .next (complete q (if f = 6 then ans stRollbackRefused else if !good then ans stImageInvalid
        else ⟨stOk, imgId b + 2 ^ 32 * imgVersion b, 0, 0, 0⟩) s)

/-- A trial slot is set in the boot record, and the complex restarts on it. -/
def startTrial (q : Nat) (s : State) : State :=
  startRestart (onBootRec (fun x => { x with
    trial := some (!x.boot), attempts := 0, reboot := true, activating := some q }) s)

/-- A running trial is abandoned: the complex restarts on the active slot. -/
def abandonTrial (q : Option Nat) (s : State) : State :=
  startRestart (onBootRec (fun x => { x with trial := none, attempts := 0, reboot := true, activating := q }) s)

/-- The trial slot becomes active, and fuses are blown to its SEC_VER, one at a time: one in each tick from the next on,
and the command completes when the last is blown (R392; log entry 80). -/
def confirmTrial (q : Nat) (s : State) : State :=
  let s := onBootRec (fun x => { x with active := x.boot, trial := none, attempts := 0, onTrial := false }) s
  if imgSecVer s.image.running ≤ s.otp.arb then complete q (ans stOk) s
  else onImage (fun x => { x with blowing := some (imgSecVer x.running, q) }) s

/-- One fuse is blown. -/
def blowTick (s : State) : State :=
  match s.image.blowing with
  | none => s
  | some (n, q) =>
    if !mgmtRuns s then s
    else
      let s := { s with otp := { s.otp with arb := s.otp.arb + 1 } }
      if n ≤ s.otp.arb then complete q (ans stOk) (onImage (fun x => { x with blowing := none }) s) else s

/-- IMAGE_ACTIVATE (0x71). -/
def execImageActivate (q : Nat) (s : State) : Host.Outcome State Fault Refusal :=
  runCmd 0x71 q (fun d s =>
    let mode := (d.desc.getD 16 0).toNat
    match firstOf [refuseIf (decide (2 < mode)) (badArg 16),
        refuseIf (imageBusy s) (ans stBusy),
        refuseIf (mode ≠ 0 && !s.image.onTrial) (ans stNotArmed)] with
    | some a => complete q a s
    | none =>
      if mode = 0 then startTrial q s
      else if mode = 1 then confirmTrial q s
      else abandonTrial (some q) s) s

/-- TRIAL_TIMEOUT: a trial not confirmed within TRIAL_TIME is abandoned. -/
def execTrialTimeout (s : State) : Host.Outcome State Fault Refusal :=
  if s.image.onTrial && mgmtRuns s && decide (s.image.trialAt + trialTime s * 1000000 ≤ s.tick) then
    .next (abandonTrial none s)
  else .next s

/-- Major version of a VERSION. -/
def major (v : Nat) : Nat := v / 2 ^ 24

/-- A component has the major version of the management firmware and of every cluster that runs (R395). -/
def majorAgrees (s : State) (v : Word) : Bool :=
  major v.toNat = major (imgVersion s.image.running)
  && (List.range 12).all fun c => clState s c = 4 || major (spGet (fun _ => (0 : Word)) s.eng.image c).toNat = major v.toNat

/-- CLUSTER_ACTIVATE (0x72). -/
def execClusterActivate (q : Nat) (s : State) : Host.Outcome State Fault Refusal :=
  runCmd 0x72 q (fun d s =>
    let c := (d.desc.getD 16 0).toNat
    let part := clusterComp s.otp s.image.running c
    let n := clusterOpens s.otp s.image.running c
    match firstOf [refuseIf (decide (11 < c)) (badArg 16),
        refuseIf (!coreUp s) (ans stUnavailable), refuseIf s.image.onTrial (ans stWrongMode),
        refuseIf (imageBusy s) (ans stBusy),
        refuseIf (c = 11 && !(s.abacus.job = 0 && s.page.standby = .clean)) (ans stNotPermitted),
        refuseIf (hostUnfit s c) (ans stUnavailable)], part with
    | some a, _ => complete q a s
    | none, none => complete q (ans stImageInvalid) (countOpens none n.1 n.2 s)
    | none, some (v, m) =>
      let s := countOpens none n.1 n.2 s
      if majorAgrees s v then askRestart ⟨c, some q, s.tick, none, false, none, none, [], v, m⟩ s
      else complete q (ans stImageInvalid) s) s

/-! ### Tokens (R399, R400) -/

/-- The signer's key is the one in OTP; a token that programs OWNER_HASH brings its own. -/
def signerOk (o : Otp) (t : Bytes) : Bool :=
  let h := sha256 (sub t 48 384)
  let who := (t.getD 6 0).toNat
  let purpose := (t.getD 5 0).toNat
  if purpose = 4 then decide (who = 2) && o.ownerHash.isNone
  else if who = 1 then h = o.rootHash
  else if who = 2 then decide (purpose ≠ 3) && decide (o.ownerHash = some h)
  else false

/-- A life-cycle transition that R399 permits. -/
def moveOk (o : Otp) (purpose : Nat) : Bool :=
  if purpose = 2 then decide (o.life = 1) else if purpose = 3 then decide (o.life = 1 ∨ o.life = 2) else true

/-- A token is accepted (Table 15.9). -/
def tokenOk (s : State) (purposes : List Nat) (t : Bytes) : Bool :=
  let p := (t.getD 5 0).toNat
  sub t 0 4 = [0x54, 0x58, 0x54, 0x4B] && t.getD 4 0 = 1 && purposes.contains p && t.getD 7 0 = 0
  && (sub t 12 4).all (· = 0) && leAt t 8 4 = s.otp.nodeId.toNat && sub t 16 32 = s.mgmt.challenge
  && signerOk s.otp t && pssVerify (sub t 48 384) (sub t 432 384) (t.take 432) && moveOk s.otp p

/-- What is wrong with a token command before its token is looked at. -/
def tokenForm (d : Fetched) : Option Answer :=
  firstOf [refuseIf (extLen d.desc ≠ 832) (badArg 2),
    ((List.range' 816 16).find? fun i => (extOf d).getD i 0 ≠ 0).map fun i => badArg (64 + i)]

/-- The next challenge is drawn. -/
def newChallenge (s : State) : State :=
  let (c, s) := randomBytes 32 s
  onMgmt (fun m => { m with challenge := c }) s

/-- Entry to RETURN (R399): every key slot goes to ERASING and both key-encryption keys are cleared. -/
def enterReturn (s : State) : State :=
  { s with
    otp := { s.otp with life := 3 }
    sec := { s.sec with
      root := none, owner := none
      slots := (List.range 1024).map fun k => (k, { keySlot s k with st := 3 }) } }

/-- What an accepted LIFECYCLE_SET token does. -/
def useToken (t : Bytes) (s : State) : State :=
  match (t.getD 5 0).toNat with
  | 2 => { s with
      otp := { s.otp with life := 2 }
      -- the ports close (13_host.md Table 13.15)
      jtag := { s.jtag with open_ := s.jtag.open_ && s.mgmt.unlocked } }
  | 3 => enterReturn s
  | _ => { s with otp := { s.otp with ownerHash := some (sha256 (sub t 48 384)) } }

/-- LIFECYCLE_SET (0x73). -/
def execLifecycleSet (q : Nat) (s : State) : Host.Outcome State Fault Refusal :=
  runCmd 0x73 q (fun d s =>
    match tokenForm d with
    | some a => complete q a s
    | none =>
      if tokenOk s [2, 3, 4] (extOf d) then complete q (ans stOk) (newChallenge (useToken (extOf d) s))
      else complete q (ans stNotPermitted) s) s

/-- DEBUG_UNLOCK (0x74). -/
def execDebugUnlock (q : Nat) (s : State) : Host.Outcome State Fault Refusal :=
  runCmd 0x74 q (fun d s =>
    match tokenForm d with
    | some a => complete q a s
    | none =>
      if tokenOk s [1] (extOf d) then
        complete q (ans stOk) (newChallenge (onMgmt (fun m => { m with unlocked := true }) s))
      else complete q (ans stNotPermitted) s) s

/-! ### Attestation (R396 to R398) -/

/-- The LK registers, in ascending offset (19_registers.md R484). -/
def lkOffsets : List Nat :=
  [0x20004, 0x30004, 0x30008, 0x3000C, 0x30010, 0x30014, 0x30018, 0x30060, 0x30064, 0x30068, 0x3006C, 0x30070]
  ++ ((List.range 14).flatMap fun n => [0x30100 + 16 * n, 0x30104 + 16 * n])
  ++ [0x60004, 0x70004, 0x300008, 0x510004, 0x510008, 0x51000C, 0x510010]

/-- What CONFIG_DIGEST covers (R398). -/
def configBytes (s : State) : Bytes :=
  (lkOffsets.flatMap fun o => leBytes 4 (cfgN s o))
  ++ ((s.abacus.map.strs.filter fun e => e.2.st ≠ 0).flatMap fun e => strBytes e.2)
  ++ (s.prot.groups.flatMap fun e => groupBytes e.2.dfn)
  ++ ((List.range 1024).flatMap fun k =>
      let r := keyRecord s k
      r.take 16 ++ List.replicate 8 0 ++ r.drop 24)

/-- Bytes for which the spec states no value. -/
def openBytes (n : Nat) (s : State) : Bytes × State :=
  ((List.range n).map fun i => BitVec.ofNat 8 (Config.free (s.free + i)), { s with free := s.free + n })

/-- The measurement of the running image; none is stated while none runs. -/
def mgmtMeas (s : State) : Bytes × State :=
  if s.image.running = [] then openBytes 32 s else (sha256 (s.image.running.take 1024), s)

/-- The measurements of the clusters; none is stated for one that runs no component. -/
def engMeas (s : State) : Bytes × State :=
  (List.range 12).foldl (fun a c =>
    match a.2.eng.meas.find? (·.1 = c) with
    | some (_, m) => (a.1 ++ m, a.2)
    | none => let r := openBytes 32 a.2; (a.1 ++ r.1, r.2)) ([], s)

/-- The report of Table 15.8. -/
def attestReport (nonce : Bytes) (s : State) : Bytes × State :=
  let m := mgmtMeas s
  let e := engMeas m.2
  let s := e.2
  let flags := b2n (debugOpen s) + 2 * b2n s.image.onTrial + 4 * b2n s.otp.ownerHash.isSome + 8 * b2n s.mgmt.recovery
  let body := [0x54, 0x58, 0x41, 0x52, 1, BitVec.ofNat 8 s.otp.life, BitVec.ofNat 8 flags, 0]
    ++ leBytes 4 s.otp.nodeId.toNat ++ leBytes 4 s.otp.arb ++ leBytes 8 s.tick ++ nonce ++ m.1 ++ e.1
    ++ sha256 (configBytes s) ++ List.replicate 8 0
  (body ++ beBytes 384 (Config.identitySign body s.free).toNat, { s with free := s.free + 1 })

/-- ATTEST (0x75). -/
def execAttest (q : Nat) (s : State) : Host.Outcome State Fault Refusal :=
  runCmd 0x75 q (fun d s =>
    let addr := leAt d.desc 16 8
    let len := leAt d.desc 24 4
    let cert := bitOf (d.desc.getD 28 0).toNat 0
    let need := 896 + if cert then s.otp.cert.length else 0
    let soon := match s.mgmt.attestAt with
      | some t => decide (s.tick < t + 100000)
      | none => false
    match firstOf [refuseIf (extLen d.desc ≠ 64) (badArg 2), refuseIf (addr % 32 ≠ 0) (badArg 16),
        refuseIf (decide (len < need)) (badArg 24),
        ((List.range' 32 32).find? fun i => (extOf d).getD i 0 ≠ 0).map fun i => badArg (64 + i),
        refuseIf soon (ans stBusy)] with
    | some a => complete q a s
    | none =>
      let r := attestReport ((extOf d).take 32) (onMgmt (fun m => { m with attestAt := some s.tick }) s)
      let out := r.1 ++ if cert then s.otp.cert else []
      complete q ⟨stOk, need, 0, 0, 0⟩ (hostWrite q addr out r.2)) s

/-! ### Sensors (R384, R385) -/

/-- `x` put in its place in a rising list. -/
def insertUp (x : Int) : List Int → List Int
  | [] => [x]
  | y :: ys => if x ≤ y then x :: y :: ys else y :: insertUp x ys

/-- The middle of the eight readings of a quadrant, twice over: the two middle readings added (log entry
28). -/
def quadMiddle (ts : List Int) : Int :=
  let xs := ts.foldr insertUp []
  xs.getD 3 0 + xs.getD 4 0

/-- Sensor i's reading is invalid. -/
def badReading (ts : List Int) (i : Nat) : Bool :=
  let x := ts.getD i 0
  let far := 2 * x - quadMiddle ((ts.drop (i / 8 * 8)).take 8)
  decide (x < -320 ∨ 1200 < x ∨ far < -320 ∨ 320 < far)

/-- A sensor is found invalid: marked, counted and reported. -/
def takeReading (ts : List Int) (i : Nat) (s : State) : State :=
  let bad := badReading ts i
  let was := bitOf (tempWord s i) 31
  let w := BitVec.ofNat 32 (b2n bad * 2 ^ 31 + (BitVec.ofInt 16 (ts.getD i 0)).toNat)
  let s := { s with sens := { s.sens with temp := spSet (fun _ => 0) i w s.sens.temp } }
  if bad && !was then raise .sensInvalid i 0 (count 0x20020 s) else s

/-- TEMP_MAX: the highest valid reading; with none valid the spec states no value (log entry 28). -/
def takeMax (ts : List Int) (s : State) : State :=
  let good := (List.range 64).filter fun i => !badReading ts i
  let top (s : State) : BitVec 16 × State := match good.map (ts.getD · 0) with
    | x :: xs => (BitVec.ofInt 16 (xs.foldl max x), s)
    | [] => let r := draw s; (BitVec.ofNat 16 r.1, r.2)
  let r := top s
  { r.2 with sens := { r.2.sens with max := r.1, valid := good.length } }

/-- The warning level in units of 0.125 degrees. -/
def warnLevel (s : State) : Int := 8 * (max 85 (min 105 (fld s 0x20004 15 8)) : Nat)

/-- The warning begins at WARN and clears below WARN - 5 degrees. -/
def warnStep (s : State) : State :=
  let t := s.sens.max.toInt
  let s := if warnLevel s ≤ t then { s with smb := { s.smb with alert := true } } else s
  if !s.sens.warn ∧ warnLevel s ≤ t then
    raise .thermWarn 0 s.sens.max.toNat { s with sens := { s.sens with warn := true } }
  else if s.sens.warn ∧ t < warnLevel s - 40 then
    raiseX .thermWarn true 0 s.sens.max.toNat { s with sens := { s.sens with warn := false } }
  else s

/-- SENSOR_SAMPLE: one sample of the sensor hub, with its thermal response. -/
def execSensorSample (r : SensorReading) (s : State) : Host.Outcome State Fault Refusal :=
  if !s.pwr.vin || s.pwr.por then .next s
  else
    let ts := (List.range 64).map fun i => (r.temps.getD i 0).toInt
    let s := { s with sens := { s.sens with
      vin := r.vin, iin := r.iin, pin := r.pin, oven := r.oven
      dom := (List.range 20).foldl (fun m d => spSet (fun _ => 0) d (r.domains.getD d 0) m) s.sens.dom } }
    let s := warnStep (takeMax ts (forAll (List.range 64) (takeReading ts) s))
    let crit := decide (944 ≤ s.sens.max.toInt) || decide (s.sens.valid < 32)
    let live := s.pwr.st = 1 || s.pwr.st = 2 || s.pwr.st = 3
    .next (if crit && (!s.sens.tripped || live) then trip s else s)

/-- The snapshot of Table 15.6. -/
def sensorBytes (s : State) : Bytes :=
  let words (base n : Nat) : Bytes := (List.range n).flatMap fun i => leBytes 4 (readWord s (base + 4 * i)).toNat
  words 0x20000 7 ++ List.replicate 36 0 ++ words 0x20100 64 ++ words 0x20200 20 ++ List.replicate 112 0

/-- SENSOR_READ (0x76). -/
def execSensorRead (q : Nat) (s : State) : Host.Outcome State Fault Refusal :=
  runCmd 0x76 q (fun d s =>
    match firstOf [refuseIf (decide (0 < s.pwr.step ∧ s.pwr.step < 5)) (ans stUnavailable)] with
    | some a => complete q a s
    | none => answerBuffer q (leAt d.desc 20 8) (leAt d.desc 28 4) 20 28 (sensorBytes s) (ans stOk) s) s

/-! ### Events (13_host.md Table 13.9; R386, R387) -/

/-- An event's name in the catalogue: 28 bytes, printable ASCII padded with 0x00 (13_host.md R347; log entry 8). -/
def eventName (n : Nat) : Bytes :=
  (List.range 28).map fun i =>
    if i < 1 + Config.evNameLen n % 28 then BitVec.ofNat 8 (0x20 + (Config.evName n i).toNat % 95) else 0

/-- An entry of the catalogue. -/
def catalogEntry (e : Ev) (source : Nat) : Bytes :=
  leBytes 2 (Config.evCode e.ctorIdx).toNat ++ [BitVec.ofNat 8 source, BitVec.ofNat 8 (e.severity.toNat * 64)]
  ++ eventName e.ctorIdx

/-- The catalogue: every event of every source; a lane's events come from PXLANE too. -/
def catalog : Bytes × Nat :=
  let rows := Ev.all.flatMap fun e =>
    if e.source = 0x0A then [(e, 0x0A), (e, 0x14)] else [(e, e.source)]
  (rows.flatMap fun r => catalogEntry r.1 r.2, rows.length)

/-- EVENT_CATALOG (0x01). -/
def execEventCatalog (q : Nat) (s : State) : Host.Outcome State Fault Refusal :=
  runCmd 0x01 q (fun d s =>
    answerBuffer q (leAt d.desc 20 8) (leAt d.desc 28 4) 20 28 catalog.1 ⟨stOk, catalog.2, 0, 0, 0⟩ s) s

/-- MGMT.LOG_OLDEST. -/
def logOldest (s : State) : Nat := s.mgmt.logNext - s.log.length

/-- Record k of the event log as the read returns it: the ring fields SEQ and PHASE have no stated value
there, nor have the contents of a corrupt record beyond SOURCE and CODE (log entry 29). -/
def logRecord (k : Nat) (s : State) : Bytes × State :=
  let (a, s) := draw s
  let (b, s) := draw s
  let (c, s) := draw s
  match s.log[s.mgmt.logNext - 1 - k]? with
  | some r =>
    let r := if s.mgmt.corrupt.contains k then ⟨c, .logCorrupt, bitOf b 1, b / 4, a / 65536⟩ else r
    (evBytes r a (bitOf b 0), s)
  | none => ([], s)

/-- Records of the log, in order. -/
def logRecords (first n : Nat) (s : State) : Bytes × State :=
  (List.range n).foldl (fun a i => let r := logRecord (first + i) a.2; (a.1 ++ r.1, r.2)) ([], s)

/-- EVENT_LOG_READ (0x42). -/
def execEventLogRead (q : Nat) (s : State) : Host.Outcome State Fault Refusal :=
  runCmd 0x42 q (fun d s =>
    let from_ := leAt d.desc 16 8
    let n := leAt d.desc 24 4
    let len := leAt d.desc 28 4
    let addr := leAt d.desc 32 8
    let first := max from_ (logOldest s)
    let k := min n (s.mgmt.logNext - first)
    match firstOf [refuseIf (decide (n < 1 ∨ 65536 < n)) (badArg 24), refuseIf (decide (len < 32 + 32 * k)) (badArg 28),
        refuseIf (addr % 32 ≠ 0) (badArg 32),
        refuseIf (decide (0 < s.pwr.step ∧ s.pwr.step < 5)) (ans stUnavailable)] with
    | some a => complete q a s
    | none =>
      let (x, s) := if k = 0 then draw s else (first, s)
      let r := logRecords first k s
      let head := leBytes 8 x ++ leBytes 8 (logOldest s) ++ leBytes 8 s.mgmt.logNext ++ leBytes 4 k ++ leBytes 4 0
      complete q (ans stOk) (hostWrite q addr (head ++ r.1) r.2)) s

end Sys2Proof.Machine
end

