-- ==== Sys2Proof/Machine/PerfRows.lean ====
section
/-! DEFINITION. The rows of the performance counters: PERF_READ and the writes of counters, selects and
control (12_perf_counters.md R310 to R317, 13_host.md R347). -/

namespace Sys2Proof.Machine

/-- PERF is powered (19_registers.md Table 19.1). -/
def perfUp (s : State) : Bool := s.pwr.on.getLsbD 18 && s.pwr.on.getLsbD 19

/-- Shadow of counter i as 8 bytes. -/
def shadowBytes (s : State) (i : Nat) : Bytes := leBytes 8 (spGet (fun _ => (0 : DWord)) s.perf.sh i).toNat

/-- What PERF_READ writes: the header, 64 bytes for each engine, then 256 bytes of the device shadows. -/
def perfDump (s : State) (engines device : Bool) (first n : Nat) : Bytes :=
  leBytes 8 s.perf.shTick.toNat ++ leBytes 8 (fld s 0x600000 2 2)
  ++ (if engines then (List.range (8 * n)).flatMap fun i => shadowBytes s (8 * first + i) else [])
  ++ (if device then (List.range 32).flatMap fun k => shadowBytes s (devCounter k) else [])

/-- PERF_READ. -/
def execPerfRead (q : Nat) (s : State) : Host.Outcome State Fault Refusal :=
  runCmd 0x41 q (fun d s =>
    let f := (d.desc.getD 16 0).toNat
    let first := (d.desc.getD 18 0).toNat
    let n := (d.desc.getD 19 0).toNat
    match firstOf [refuseIf (bitOf f 0 && decide (192 ≤ first)) (badArg 18),
        refuseIf (bitOf f 0 && decide (192 < first + n)) (badArg 19)] with
    | some a => complete q a s
    | none =>
      if !perfUp s then complete q (ans stUnavailable) s
      else answerBuffer q (leAt d.desc 20 8) (leAt d.desc 28 4) 20 28
        (perfDump s (bitOf f 0) (bitOf f 1) first n) (ans stOk) s) s

/-- PERF_COUNTER_WRITE (00_scope.md R13, R315): a write of one word of a counter. The low word is held;
the write of the high word sets the counter, of which a programmable one keeps 48 bits. -/
def execPerfCounterWrite (off : Nat) (v : Word) (s : State) : Host.Outcome State Fault Refusal :=
  let s := perfThrough s
  if !reach s off then .next s
  else match perfCounterAt off, perfCounterAt (off - 4) with
    | some _, _ => .next { s with held := spSet (fun _ => 0) off v s.held }
    | none, some i =>
      let low := (spGet (fun _ => (0 : Word)) s.held (off - 4)).toNat
      let x := (v.toNat * 2 ^ 32 + low) % 2 ^ cntWidth i
      let old := (spGet (fun _ => (0 : DWord)) s.perf.cnt i).toNat
      .next { s with perf := { s.perf with
        cnt := spSet (fun _ => 0) i (BitVec.ofNat 64 x) s.perf.cnt
        wrote := (if s.perf.wrote.any (fun e => e.1 = i && e.2.1 = now s / 2) then s.perf.wrote
          else (i, now s / 2, old) :: s.perf.wrote.filter (·.1 ≠ i)) } }
    | none, none => .next s

/-- An offset holds SEL, ADDR, DSEL, DFILT or DADDR. -/
def isSelect (o : Nat) : Bool :=
  match windowAt o with
  | some _ => decide (perfMask o ≠ 0)
  | none => decide (0x620100 ≤ o) && decide (perfMask o ≠ 0)

/-- PERF_SELECT_WRITE (R316): a write of a select or filter; the counter keeps its value. In DSEL, PRIV
is reserved (R322). -/
def execPerfSelectWrite (off : Nat) (v : Word) (s : State) : Host.Outcome State Fault Refusal :=
  if !reach s off || !isSelect off then .next s
  else .next (putReg off v (perfMask off) (keepSel off (perfThrough s)))

/-- A write of PERF.CTRL (R321). -/
def writePerfCtrl (v : Word) (s : State) : State :=
  if reach s 0x600000 then putReg 0x600000 v 0x1F (keepSel 0x600000 (perfThrough s)) else s

/-- PERF_HOLD_CLEAR (R312): a write of PERF.CTRL with HOLD = 0, after which shadows are copied again. -/
def execPerfHoldClear (v : Word) (s : State) : Host.Outcome State Fault Refusal :=
  .next (writePerfCtrl v s)

/-- PERF_FREEZE_WRITE (R317): a write of PERF.CTRL, whose FREEZE stops or restarts all counting. -/
def execPerfFreezeWrite (v : Word) (s : State) : Host.Outcome State Fault Refusal :=
  .next (writePerfCtrl v s)

end Sys2Proof.Machine
end

