-- ==== Sys2Proof/Machine/Registers.lean ====
section
/-! DEFINITION. The accesses of BAR0 that have no row in the chapter of their block: reads, writes of
plain registers, the halves of 64-bit registers, refused accesses, GLB.LOCK, and TIMING_READ
(00_scope.md R12 to R16, 19_registers.md R480 to R489, 10_timing.md R262). -/

namespace Sys2Proof.Machine

/-! ### Reads -/

/-- The value a read returns, on the model's bus. -/
def onBus (v : Nat) (s : State) : State := { s with hif := { s.hif with readData := BitVec.ofNat 64 v } }

/-- The information words of which only VALID is cleared by a read (05_core.md R143, 19_registers.md
R489). -/
def validOnly (o : Nat) : Bool := o = 0x24 || o = 0x300004

/-- An RC register after a read (00_scope.md R12); SEC.LOCKS is cleared by POR_N only (14_cipher.md
R375). -/
def clearedBy (o : Nat) (v : Word) : Word :=
  if validOnly o then v &&& 0x7FFFFFFF else if o = 0x6001C then v else 0

/-- The clearing that a read of an RC register has. -/
def clearRc (o : Nat) (s : State) : State :=
  match portAt o with
  | some (p, 0x14) =>
    let y := port s p
    setPort p { y with bind := { y.bind with range := none } } s
  | _ => rcSet o (clearedBy o (rcGet s o)) s

/-- A read of the low word of a 64-bit register (00_scope.md R13): the latch takes the high word of the
same value, and an RC register is cleared. -/
def readLow (o : Nat) (s : State) : State :=
  let v := value64 s o
  let s := { s with latch := spSet (fun _ => none) o (some (BitVec.ofNat 32 (v / 2 ^ 32))) s.latch }
  let s := onlyIf (isRc64 o && blockOn s o) (fun s => { s with rc64 := spSet (fun _ => 0) o 0 s.rc64 }) s
  onBus (v % 2 ^ 32) s

/-- A read of TOD_SEC latches the value of the most recent edge (10_timing.md R264). -/
def latchTod (s : State) : State :=
  { s with timing := { s.timing with
    latSec := s.timing.sec, latNs := s.timing.ns, latTick := s.tick } }

/-- An access to PERF finds its counters as they stand (12_perf_counters.md R313). -/
def caughtUp (o : Nat) (s : State) : State := onlyIf (0x600000 ≤ o && o < 0x630000) perfCatch s

/-- A read of one 32-bit word of BAR0. -/
def hostRead (o : Nat) (s : State) : State :=
  let s := caughtUp o s
  if !linkUp s || !okOffset o then s
  else if o = 0x30030 then readLow o (latchTod s)
  else if isReg64 o then readLow o s
  else
    let v := (readWord s o).toNat
    onBus v (onlyIf (isRc o && blockOn s o) (clearRc o) s)

/-- A word of a VF's BAR0 (13_host.md Table 13.2): FN_STATUS, the QSTATUS of its queues and the EQSTATUS of its event
rings, in ascending number. -/
def vfRead (s : State) (f o : Nat) : Nat :=
  let qs := (List.range 256).filter fun q => qFunction s q = f
  let rs := (List.range 16).filter fun r => rFunction s r = f
  if o = 0 then (readWord s (0x50040 + 4 * f)).toNat
  else if 0x100 ≤ o ∧ o < 0x500 then ((qs[(o - 0x100) / 4]?).map fun q => (readWord s (0x51014 + 0x40 * q)).toNat).getD 0
  else if 0x500 ≤ o ∧ o < 0x540 then ((rs[(o - 0x500) / 4]?).map fun r => (readWord s (0x5600C + 0x20 * r)).toNat).getD 0
  else 0

/-- A word of a VF's MSI-X table or pending bits, laid out as those of the PF (19_registers.md R496; log entry 6). -/
def vfMsixWord (s : State) (f o : Nat) : Nat :=
  if o < 0x800 then (spGet vfWordReset s.hif.vfTable (f * 512 + o / 4)).toNat
  else if 0x1000 ≤ o ∧ o < 0x1010 then
    bits32 fun b => spGet (fun _ => false) s.hif.pba (128 * f + 8 * (o - 0x1000) + b)
  else 0

/-- REG_READ_CLEAR (00_scope.md R12, R14; 13_host.md R326, R330): a read of a 32-bit register; an RC register is
cleared. BAR2 reads 0. -/
def execRegReadClear (a : HostAddr) (s : State) : Host.Outcome State Fault Refusal :=
  if !linkUp s || !okWindow a.win a.off then .next s
  else match a.win with
    | .bar0 => .next (hostRead a.off s)
    | .vf f => .next (onBus (vfRead s f a.off) s)
    | .bar2 _ => .next (onBus 0 s)
    | .config f => .next (onBus (pciIdentity s f a.off) s)
    | .vfMsix f => .next (onBus (vfMsixWord s f a.off) s)

/-- REG64_LOW_READ (00_scope.md R13). -/
def execReg64LowRead (off : Nat) (s : State) : Host.Outcome State Fault Refusal :=
  if isReg64 off then .next (hostRead off s) else .next s

/-! ### Writes -/

/-- The writes of the rings and of their enables (13_host.md R328): a base is discarded while ENABLE
is 1. -/
def ringBusy (s : State) (o : Nat) : Bool :=
  match queueAt o, ringAt o with
  | some (q, x), _ => (x < 0x10) && bitOf (qcfg s q) 31
  | _, some (r, x) => (x < 8) && bitOf (eqcfg s r) 31
  | none, none => false

/-- A write of the high word of a 64-bit register applies the low word held (00_scope.md R13). DESIGN
CHOICE (log entry 70): with no low word written before it the low half is 0, and a second high-word write
applies the same held low word again. -/
def applyHigh (o : Nat) (v : Word) (s : State) : State :=
  if !isRw64 (o - 4) || ringBusy s o || !blockOn s o then s
  else setReg o v (setReg (o - 4) (spGet (fun _ => (0 : Word)) s.held (o - 4)) s)

/-- The low word of a 64-bit register is held until the high word is written. -/
def holdLow (o : Nat) (v : Word) (s : State) : State := { s with held := spSet (fun _ => 0) o v s.held }

/-- The overflow bits of engine e, and the device's (12_perf_counters.md R314), by bit of their word. -/
def ovfAt (o : Nat) : Option (Nat → Nat) :=
  match windowAt o with
  | some (e, 0x80) => some fun k => 8 * e + (if k = 6 then 0 else if k = 7 then 1 else k + 2)
  | some _ => none
  | none => if o = 0x620280 then some devCounter else none

/-- Writing 1 clears an overflow bit; an engine's word has eight. -/
def clearOvf (f : Nat → Nat) (n : Nat) (v : Word) (s : State) : State :=
  let gone := ((List.range n).filter fun k => v.getLsbD k).map f
  { s with perf := { s.perf with ovf := s.perf.ovf.filter fun i => !gone.contains i } }

/-- A write of GLB.LOCK, W1S (19_registers.md R483, R487). -/
def setLock (v : Word) (s : State) : State := setReg 4 (cfg s 4 ||| (v &&& 1)) s

/-- A write of an LK register, discarded once GLB.LOCK is set (00_scope.md R15). -/
def writeLk (o : Nat) (v : Word) (s : State) : State :=
  if locked s then s
  else
    let s := putReg o v (lkMask o) s
    if 0x30000 ≤ o ∧ o < 0x40000 then modeWritten (o - 0x30000) 0xFFFFFFFF s else s

/-- A write of a register whose offset belongs to a row of its own is that row's, and changes nothing
here. -/
def ownRow (o : Nat) : Bool :=
  let blocks := match queueAt o, ringAt o, portAt o, laneAt o with
    | some (_, x), _, _, _ => x = 0x10
    | _, some (_, x), _, _ => x = 8
    | _, _, some (_, x), _ => x = 0 || x = 8
    | _, _, _, some (_, x) => x = 0 || x = 8 || x = 0x804
    | _, _, _, _ => false
  blocks || [4, 0x10010, 0x10014, 0x10018, 0x60004, 0x300008, 0x600000].contains o
    || (perfCounterAt o).isSome || (perfCounterAt (o - 4)).isSome || isSelect o

/-- An MSI-X entry that is unmasked sends the message that was pending (13_host.md R335). -/
def unmask (fn vec : Nat) (s : State) : State :=
  let n := fn * 128 + vec
  if spGet (fun _ => false) s.hif.pba n && !msixMasked s fn vec then
    fire fn vec { s with hif := { s.hif with pba := spSet (fun _ => false) n false s.hif.pba } }
  else s

/-- A write of a plain register; one of an MSI-X vector control may unmask its entry. -/
def writeRw (o : Nat) (v : Word) (s : State) : State :=
  let s := putReg o v (rwMask o) s
  if 0x700000 ≤ o ∧ o < 0x700800 ∧ o % 16 = 12 then unmask 0 ((o - 0x700000) / 16) s else s

/-- A write of a VF's MSI-X table. -/
def writeVfMsix (f o : Nat) (v : Word) (s : State) : State :=
  let k := f * 512 + o / 4
  let w := maskIn (spGet vfWordReset s.hif.vfTable k) v (msixMask (0x700000 + o))
  let s := { s with hif := { s.hif with vfTable := spSet vfWordReset k w s.hif.vfTable } }
  if o % 16 = 12 then unmask f (o / 16) s else s

/-- A write of BAR0 of the PF. -/
def writeBar0 (off : Nat) (v : Word) (s : State) : State :=
  if !linkUp s || !blockOn s off || !okOffset off || ownRow off then s
  else if isRw64 off then holdLow off v s
  else if decide (4 ≤ off) && isRw64 (off - 4) then applyHigh off v s
  else match ovfAt off with
    | some f => clearOvf f (if off = 0x620280 then 32 else 8) v (perfCatch s)
    | none => if lkMask off ≠ 0 then writeLk off v s else if rwMask off ≠ 0 then writeRw off v s else s

/-- REGISTER_WRITE (00_scope.md R12 to R16): a write of a register that has no row of its own. Reserved
bits, read-only registers and blocks that are off discard it (19_registers.md R479, R481); so do a VF's BAR0 and
configuration, of which the model writes nothing (13_host.md R326; log entry 7), and BAR2, whose doorbells have rows of
their own. -/
def execRegisterWrite (a : HostAddr) (v : Word) (s : State) : Host.Outcome State Fault Refusal :=
  if !okWindow a.win a.off then .next s else
  match a.win with
  | .vf _ | .bar2 _ | .config _ => .next s
  | .vfMsix f => .next (if linkUp s && decide (a.off < 0x800) then writeVfMsix f a.off v s else s)
  | .bar0 => .next (writeBar0 a.off v s)

/-- REG64_HIGH_WRITE (00_scope.md R13): the write of a high word takes effect with the low word held. -/
def execReg64HighWrite (off : Nat) (v : Word) (s : State) : Host.Outcome State Fault Refusal :=
  if !linkUp s then .next s
  else if decide (4 ≤ off) && isRw64 (off - 4) then .next (applyHigh off v s)
  else execPerfCounterWrite off v s

/-- LOCK_SET (19_registers.md R483, R487): a write of 1 sets GLB.LOCK; 0 has no effect. -/
def execLockSet (v : Word) (s : State) : Host.Outcome State Fault Refusal :=
  if linkUp s then .next (setLock v s) else .next s

/-! ### Refused accesses (R480) -/

/-- An access that is served (19_registers.md R480). -/
def servedAccess (off size : Nat) : Bool :=
  (size = 4 && off % 4 = 0) || (size = 8 && off % 8 = 0 && isReg64 off)

/-- BAR0_ACCESS_REFUSED (19_registers.md R480, R489): counted and recorded; a read returns 0. -/
def execBar0AccessRefused (write : Bool) (off size : Nat) (s : State) : Host.Outcome State Fault Refusal :=
  if !linkUp s || servedAccess off size || decide (bar0Size ≤ off) then .next s
  else
    let s := count 0x20 (rcSet 0x24 (BitVec.ofNat 32 (fieldsOf [(1, 31), (b2n write, 30), (off, 0)])) s)
    .next (if write then s else onBus 0 s)

/-! ### TIMING_READ -/

/-- A word of TIMING at this tick edge; both halves of a 64-bit register are of one value. -/
def timingNow (s : State) (o : Nat) : Word :=
  if decide (4 ≤ o) && isReg64 (o - 4) then BitVec.ofNat 32 (value64 s (o - 4) / 2 ^ 32) else readWord s o

/-- The TIMING registers as of the last tick edge, from offset 0x0000 to REF_PHASE[13]. -/
def timingWords (s : State) : List Word :=
  let t := latchTod s
  (List.range 142).map fun i => timingNow t (0x30000 + 4 * i)

/-- TIMING_READ (10_timing.md R262): not critical, always accepted; the completion buffer is the model's
own place for what it returns (log entry 23). -/
def execTimingRead (q : Nat) (s : State) : Host.Outcome State Fault Refusal :=
  runCmd 0x35 q (fun _ s =>
    complete q (ans stOk) { s with hif := { s.hif with timingOut := timingWords s } }) s

end Sys2Proof.Machine
end

