-- ==== Sys2Proof/Machine/Sideband.lean ====
section
/-! DEFINITION. The SMBus interface of the sensor hub and the JTAG port (13_host.md R352, R353). -/

namespace Sys2Proof.Machine

/-! ### SMBus (R352, Table 13.14) -/

/-- The sensor hub serves SMBus in every power state once VIN is good (R352). -/
def smbServed (s : State) : Bool := s.pwr.vin

/-- The answer to a command code: the data bytes, byte 0 first. Nothing is acknowledged while the hub is
not served. -/
def smbReply (bs : Bytes) (s : State) : State :=
  { s with smb := { s.smb with reply := (if smbServed s then bs else []) } }

/-- A word answer, least significant byte first. -/
def smbWord (w : BitVec 16) (s : State) : State := smbReply (leBytes 2 w.toNat) s

/-- SMB_IDENT: vendor, device and revision of the PF (Table 13.1), SIDE, NODE_ID. -/
def execSmbIdent (s : State) : Host.Outcome State Fault Refusal :=
  .next (smbReply (leBytes 2 0x1F3D ++ leBytes 2 0x0256 ++ [0xB1, BitVec.ofNat 8 (b2n s.ssw.side)]
    ++ leBytes 4 s.otp.nodeId.toNat ++ [0, 0]) s)

/-- SMB_POWER_STATE: the power state as PWR.STATUS encodes it (17_power_startup.md R439). -/
def execSmbPowerState (s : State) : Host.Outcome State Fault Refusal :=
  .next (smbReply [BitVec.ofNat 8 s.pwr.st] s)

/-- The peer's heartbeat is present on either path (16_journal_seesaw.md R427). -/
def peerPresent (s : State) : Bool := s.ssw.wireOk || s.ssw.pxOk

/-- SMB_SEESAW: the interlock lines, SIDE, the peer's heartbeat and PX LINKED. -/
def execSmbSeesaw (s : State) : Host.Outcome State Fault Refusal :=
  .next (smbReply [BitVec.ofNat 8 (fieldsOf [(b2n (pxLinked s), 4), (b2n (peerPresent s), 3),
    (b2n s.ssw.side, 2), (b2n s.ssw.actIn, 1), (b2n s.ssw.actOut, 0)])] s)

/-- SMB_TEMP_MAX. -/
def execSmbTempMax (s : State) : Host.Outcome State Fault Refusal := .next (smbWord s.sens.max s)

/-- SMB_TEMP_ALL: the 64 sensors. -/
def execSmbTempAll (s : State) : Host.Outcome State Fault Refusal :=
  .next (smbReply ((List.range 64).flatMap fun i => leBytes 2 (tempWord s i % 65536)) s)

/-- SMB_VIN. -/
def execSmbVin (s : State) : Host.Outcome State Fault Refusal := .next (smbWord s.sens.vin s)

/-- SMB_IIN. -/
def execSmbIin (s : State) : Host.Outcome State Fault Refusal := .next (smbWord s.sens.iin s)

/-- SMB_PIN. -/
def execSmbPin (s : State) : Host.Outcome State Fault Refusal := .next (smbWord s.sens.pin s)

/-- SMB_DOMAINS: voltage and current of PD0 to PD19, as PD_MON holds them (15_management.md R403). -/
def execSmbDomains (s : State) : Host.Outcome State Fault Refusal :=
  .next (smbReply ((List.range 20).flatMap fun d =>
    leBytes 4 (spGet (fun _ => (0 : Word)) s.sens.dom d).toNat) s)

/-- SMB_OVEN. -/
def execSmbOven (s : State) : Host.Outcome State Fault Refusal := .next (smbWord s.sens.oven s)

/-- What EVENT_SUMMARY says of the last critical event; zeros when none has occurred since POR_N. -/
def lastCritical (r : Option EvRec) : Bytes :=
  match r with
  | none => List.replicate 8 0
  | some e => [BitVec.ofNat 8 (recSource e).1, 0] ++ leBytes 2 (Config.evCode e.ev.ctorIdx).toNat
      ++ leBytes 4 (e.tick % 2 ^ 32)

/-- SMB_EVENT_SUMMARY. -/
def execSmbEventSummary (s : State) : Host.Outcome State Fault Refusal :=
  .next (smbReply (leBytes 2 s.smb.crit ++ leBytes 2 s.smb.warn ++ lastCritical s.smb.last) s)

/-- What keeps SMB_ALERT_N asserted with both counts at 0: the junction at or above the warning level, or
an OTP that did not read (19_registers.md R494). -/
def alertHeld (s : State) : Bool :=
  decide (warnLevel s ≤ s.sens.max.toInt) || (s.pwr.step = 1 && !s.pwr.otpOk)

/-- SMB_EVENT_ACK, of any value: both counts are cleared, and SMB_ALERT_N is released unless the
temperature still holds it. -/
def execSmbEventAck (_v : Byte) (s : State) : Host.Outcome State Fault Refusal :=
  if smbServed s then
    .next { s with smb := { s.smb with crit := 0, warn := 0, alert := s.smb.alert && alertHeld s } }
  else .next s

/-- SMB_ALERT_RESPONSE: the device answers the alert response address with its own while it asserts
SMB_ALERT_N. -/
def execSmbAlertResponse (s : State) : Host.Outcome State Fault Refusal :=
  .next (smbReply (if s.smb.alert then [BitVec.ofNat 8 (0x58 + s.smb.addr.toNat)] else []) s)

/-! ### JTAG (R353) -/

/-- What an instruction has the balls of the boundary-scan register driven by (R353, IEEE 1149.1). -/
def ballsUnder (ir : JInstr) (bsr : List Bool) : Balls :=
  match ir with
  | .extest | .clamp => .scan bsr
  | .highz => .highZ
  | .bypass | .idcode | .sample | .dbg => .system

/-- Load an instruction, which selects a data register between TDI and TDO and what drives the balls. Without VIN the
port does nothing. -/
def jtagLoad (ir : JInstr) (dr : List Bool) (s : State) : State :=
  if s.pwr.vin then { s with jtag := { s.jtag with ir := ir, dr := dr, balls := ballsUnder ir s.jtag.bsr } } else s

/-- JTAG_BYPASS: the one bit of the bypass register. -/
def execJtagBypass (s : State) : Host.Outcome State Fault Refusal := .next (jtagLoad .bypass [false] s)

/-- IDCODE: version 0x2, part number 0x0256, manufacturer code 0x3DD. -/
def idcode : Word := 0x202567BB

/-- JTAG_IDCODE: the 32 bits of IDCODE, least significant first. -/
def execJtagIdcode (s : State) : Host.Outcome State Fault Refusal :=
  .next (jtagLoad .idcode ((List.range 32).map idcode.getLsbD) s)

/-- JTAG_SAMPLE_PRELOAD: the bits shifted into the boundary-scan register. -/
def execJtagSamplePreload (data : List Bool) (s : State) : Host.Outcome State Fault Refusal :=
  .next (if s.pwr.vin then jtagLoad .sample data { s with jtag := { s.jtag with bsr := data } } else s)

/-- JTAG_EXTEST: the boundary-scan register drives the balls it covers. -/
def execJtagExtest (s : State) : Host.Outcome State Fault Refusal := .next (jtagLoad .extest s.jtag.bsr s)

/-- JTAG_CLAMP: the balls stay as preloaded and the bypass register is selected. -/
def execJtagClamp (s : State) : Host.Outcome State Fault Refusal := .next (jtagLoad .clamp [false] s)

/-- JTAG_HIGHZ: the outputs covered are high-impedance and the bypass register is selected. -/
def execJtagHighz (s : State) : Host.Outcome State Fault Refusal := .next (jtagLoad .highz [false] s)

/-- DBG_ACCESS: opens the debug ports of the engines and management cores where Table 13.15 permits; in
PRODUCTION without an accepted DEBUG_UNLOCK they stay closed. -/
def execDbgAccess (s : State) : Host.Outcome State Fault Refusal :=
  .next (if s.pwr.vin then { s with jtag := { s.jtag with ir := .dbg, open_ := debugOpen s, balls := .system } } else s)

end Sys2Proof.Machine
end

