-- ==== Sys2Proof/Machine/Tick.lean ====
section
/-! DEFINITION. The tick edge (01_architecture.md R23, R26 to R28): what every block does as one tick
ends and the next begins. -/

namespace Sys2Proof.Machine

/-- The tick generator runs: PD1 is powered (17_power_startup.md R437, R444). -/
def tickRuns (s : State) : Bool := pdOn s 1

/-- GLB.TICK rises by exactly 1, and the CCLK cycles start again (R23). -/
def countTick (s : State) : State := { s with tick := s.tick + 1, cclk := 0 }

/-- Selector bits written in time in the tick before are latched for the new data tick (05_core.md R126,
01_architecture.md R28). -/
def latchSelectors (s : State) : State :=
  { s with
    core := { s.core with
      latched := s.prot.late.foldr (fun b m => spSet (fun _ => false) b.1 b.2 m) s.prot.sel
      latchedPrev := s.core.latched }
    prot := { s.prot with edgeSel := s.prot.sel, late := [] } }

/-- The ticks of the second in progress, and the second before time of day is valid
(09_monitoring.md R224). -/
def secondTick (s : State) : State :=
  { s with pm := { s.pm with
    ticks := if s.pm.running then s.pm.ticks + 1 else s.pm.ticks
    lastSec := if s.timing.todValid then s.pm.lastSec else s.timing.sec } }

/-- The start of the edge: time, selectors and outgoing messages. -/
def edgeTime (s : State) : State :=
  secondTick (layCalendars (takePosts (latchPortCfg (latchSelectors (timingEdge (countTick s))))))

/-- What the tick that has ended leaves to monitoring, groups, ports, engines and counters. -/
def edgeClose (ended : Nat) (s : State) : State :=
  enginesTick ended (portsTick (clearTickCounts (onlyIf (isActive s) groupsPost (monitorTick (condsTick s)))))

/-- The interlock, the journal copy and the pages. -/
def edgeFirmware (s : State) : State :=
  let s := pageTick (marksTick (copyTick (sswTick s)))
  kickAll (onlyIf (decide (s.page.gen ≠ 0)) startRebuild s)

/-- What begins in the new tick: the group engines of the active twin decide; restarts of engines, start-up
and power go on. -/
def edgeOpen (s : State) : State :=
  blowTick <| idleTick (stepTick (lentTick (restartTick (onlyIf (isActive s) groupsTick s))))

/-- TICK_EDGE. -/
def execTickEdge (s : State) : Host.Outcome State Fault Refusal :=
  if tickRuns s then .next (edgeOpen (edgeFirmware (edgeClose s.tick (edgeTime s)))) else .next s

end Sys2Proof.Machine
end

