-- ==== Sys2Proof/Machine/Dispatch.lean ====
section
/-! DEFINITION. The dispatch of a command to its meaning. -/

namespace Sys2Proof.Machine

def exec (i : Instr) (s : State) : Host.Outcome State Fault Refusal :=
  match i with
  | .nop q => Sys2Proof.Machine.execNop q s
  | .eventCatalog q => Sys2Proof.Machine.execEventCatalog q s
  | .stringCreate q => Sys2Proof.Machine.execStringCreate q s
  | .stringConnect q => Sys2Proof.Machine.execStringConnect q s
  | .stringDisconnect q => Sys2Proof.Machine.execStringDisconnect q s
  | .stringResize q => Sys2Proof.Machine.execStringResize q s
  | .stringCondition q => Sys2Proof.Machine.execStringCondition q s
  | .stringDelete q => Sys2Proof.Machine.execStringDelete q s
  | .batchCommit q => Sys2Proof.Machine.execBatchCommit q s
  | .repack q => Sys2Proof.Machine.execRepack q s
  | .pageDisarm q => Sys2Proof.Machine.execPageDisarm q s
  | .pageSwapAt q => Sys2Proof.Machine.execPageSwapAt q s
  | .scenSave q => Sys2Proof.Machine.execScenSave q s
  | .scenLoad q => Sys2Proof.Machine.execScenLoad q s
  | .scenDelete q => Sys2Proof.Machine.execScenDelete q s
  | .stringRead q => Sys2Proof.Machine.execStringRead q s
  | .pageRead q => Sys2Proof.Machine.execPageRead q s
  | .groupCreate q => Sys2Proof.Machine.execGroupCreate q s
  | .groupModify q => Sys2Proof.Machine.execGroupModify q s
  | .groupDelete q => Sys2Proof.Machine.execGroupDelete q s
  | .groupRequest q => Sys2Proof.Machine.execGroupRequest q s
  | .groupRead q => Sys2Proof.Machine.execGroupRead q s
  | .timingConfig q => Sys2Proof.Machine.execTimingConfig q s
  | .timingFreq q => Sys2Proof.Machine.execTimingFreq q s
  | .timingPhaseStep q => Sys2Proof.Machine.execTimingPhaseStep q s
  | .todSet q => Sys2Proof.Machine.execTodSet q s
  | .todAdj q => Sys2Proof.Machine.execTodAdj q s
  | .timingRead q => Sys2Proof.Machine.execTimingRead q s
  | .pmFetch q => Sys2Proof.Machine.execPmFetch q s
  | .perfRead q => Sys2Proof.Machine.execPerfRead q s
  | .eventLogRead q => Sys2Proof.Machine.execEventLogRead q s
  | .bankAlloc q => Sys2Proof.Machine.execBankAlloc q s
  | .bankRelease q => Sys2Proof.Machine.execBankRelease q s
  | .mtestConfig q => Sys2Proof.Machine.execMtestConfig q s
  | .mtestRun q => Sys2Proof.Machine.execMtestRun q s
  | .keyUnwrap q => Sys2Proof.Machine.execKeyUnwrap q s
  | .keyErase q => Sys2Proof.Machine.execKeyErase q s
  | .keyRead q => Sys2Proof.Machine.execKeyRead q s
  | .cipherOp q => Sys2Proof.Machine.execCipherOp q s
  | .imageStage q container => Sys2Proof.Machine.execImageStage q container s
  | .imageActivate q => Sys2Proof.Machine.execImageActivate q s
  | .clusterActivate q => Sys2Proof.Machine.execClusterActivate q s
  | .lifecycleSet q => Sys2Proof.Machine.execLifecycleSet q s
  | .debugUnlock q => Sys2Proof.Machine.execDebugUnlock q s
  | .attest q => Sys2Proof.Machine.execAttest q s
  | .sensorRead q => Sys2Proof.Machine.execSensorRead q s
  | .jnlConfig q => Sys2Proof.Machine.execJnlConfig q s
  | .jnlCompact q => Sys2Proof.Machine.execJnlCompact q s
  | .seesawConfig q => Sys2Proof.Machine.execSeesawConfig q s
  | .seesawRelease q => Sys2Proof.Machine.execSeesawRelease q s
  | .jnlRead q => Sys2Proof.Machine.execJnlRead q s
  | .sqPiDoorbell f q v => Sys2Proof.Machine.execSqPiDoorbell f q v s
  | .cqCiDoorbell f q v => Sys2Proof.Machine.execCqCiDoorbell f q v s
  | .eqCiDoorbell f r v => Sys2Proof.Machine.execEqCiDoorbell f r v s
  | .queueEnable q v => Sys2Proof.Machine.execQueueEnable q v s
  | .queueDisable q v => Sys2Proof.Machine.execQueueDisable q v s
  | .eqEnable r v => Sys2Proof.Machine.execEqEnable r v s
  | .eqDisable r v => Sys2Proof.Machine.execEqDisable r v s
  | .descriptorFetch q ds => Sys2Proof.Machine.execDescriptorFetch q ds s
  | .interruptTimerExpiry event ring => Sys2Proof.Machine.execInterruptTimerExpiry event ring s
  | .functionLevelReset f => Sys2Proof.Machine.execFunctionLevelReset f s
  | .perstNAssert => Sys2Proof.Machine.execPerstNAssert s
  | .perstNDeassert => Sys2Proof.Machine.execPerstNDeassert s
  | .warmReset v b => Sys2Proof.Machine.execWarmReset v b s
  | .resume v faults => Sys2Proof.Machine.execResume v faults s
  | .shutdown v => Sys2Proof.Machine.execShutdown v s
  | .lockSet v => Sys2Proof.Machine.execLockSet v s
  | .coreInjectArm v => Sys2Proof.Machine.execCoreInjectArm v s
  | .secInjectArm v => Sys2Proof.Machine.execSecInjectArm v s
  | .huntRestart l v => Sys2Proof.Machine.execHuntRestart l v s
  | .trainRestart l v => Sys2Proof.Machine.execTrainRestart l v s
  | .laneEnable l v => Sys2Proof.Machine.execLaneEnable l v s
  | .laneDisable l v => Sys2Proof.Machine.execLaneDisable l v s
  | .portEnable p v => Sys2Proof.Machine.execPortEnable p v s
  | .portDisable p v => Sys2Proof.Machine.execPortDisable p v s
  | .tdCfgWrite p v => Sys2Proof.Machine.execTdCfgWrite p v s
  | .perfCounterWrite off v => Sys2Proof.Machine.execPerfCounterWrite off v s
  | .perfSelectWrite off v => Sys2Proof.Machine.execPerfSelectWrite off v s
  | .perfHoldClear v => Sys2Proof.Machine.execPerfHoldClear v s
  | .perfFreezeWrite v => Sys2Proof.Machine.execPerfFreezeWrite v s
  | .regReadClear off => Sys2Proof.Machine.execRegReadClear off s
  | .reg64LowRead off => Sys2Proof.Machine.execReg64LowRead off s
  | .reg64HighWrite off v => Sys2Proof.Machine.execReg64HighWrite off v s
  | .todSecRead => Sys2Proof.Machine.execTodSecRead s
  | .bar0AccessRefused write off size => Sys2Proof.Machine.execBar0AccessRefused write off size s
  | .bankWindowAccess off size data => Sys2Proof.Machine.execBankWindowAccess off size data s
  | .registerWrite off v => Sys2Proof.Machine.execRegisterWrite off v s
  | .smbIdent => Sys2Proof.Machine.execSmbIdent s
  | .smbPowerState => Sys2Proof.Machine.execSmbPowerState s
  | .smbSeesaw => Sys2Proof.Machine.execSmbSeesaw s
  | .smbTempMax => Sys2Proof.Machine.execSmbTempMax s
  | .smbTempAll => Sys2Proof.Machine.execSmbTempAll s
  | .smbVin => Sys2Proof.Machine.execSmbVin s
  | .smbIin => Sys2Proof.Machine.execSmbIin s
  | .smbPin => Sys2Proof.Machine.execSmbPin s
  | .smbDomains => Sys2Proof.Machine.execSmbDomains s
  | .smbOven => Sys2Proof.Machine.execSmbOven s
  | .smbEventSummary => Sys2Proof.Machine.execSmbEventSummary s
  | .smbEventAck v => Sys2Proof.Machine.execSmbEventAck v s
  | .smbAlertResponse => Sys2Proof.Machine.execSmbAlertResponse s
  | .jtagBypass => Sys2Proof.Machine.execJtagBypass s
  | .jtagIdcode => Sys2Proof.Machine.execJtagIdcode s
  | .jtagSamplePreload data => Sys2Proof.Machine.execJtagSamplePreload data s
  | .jtagExtest => Sys2Proof.Machine.execJtagExtest s
  | .jtagClamp => Sys2Proof.Machine.execJtagClamp s
  | .jtagHighz => Sys2Proof.Machine.execJtagHighz s
  | .dbgAccess => Sys2Proof.Machine.execDbgAccess s
  | .vinGood b => Sys2Proof.Machine.execVinGood b s
  | .vinLost => Sys2Proof.Machine.execVinLost s
  | .vinOvervoltage => Sys2Proof.Machine.execVinOvervoltage s
  | .inputOvercurrent => Sys2Proof.Machine.execInputOvercurrent s
  | .porNAssert => Sys2Proof.Machine.execPorNAssert s
  | .porNDeassert b => Sys2Proof.Machine.execPorNDeassert b s
  | .startupStepLate step => Sys2Proof.Machine.execStartupStepLate step s
  | .seesawDecisionTimeout => Sys2Proof.Machine.execSeesawDecisionTimeout s
  | .tickEdge => Sys2Proof.Machine.execTickEdge s
  | .tickOverrun e => Sys2Proof.Machine.execTickOverrun e s
  | .engineHalt e => Sys2Proof.Machine.execEngineHalt e s
  | .clusterMigration c => Sys2Proof.Machine.execClusterMigration c s
  | .clusterReady c => Sys2Proof.Machine.execClusterReady c s
  | .clusterReturn c => Sys2Proof.Machine.execClusterReturn c s
  | .fabricMessage src dst msg => Sys2Proof.Machine.execFabricMessage src dst msg s
  | .coreStep k => Sys2Proof.Machine.execCoreStep k s
  | .egressRowRead m => Sys2Proof.Machine.execEgressRowRead m s
  | .trainingFrameRx l fr => Sys2Proof.Machine.execTrainingFrameRx l fr s
  | .trainingTimeout l timer => Sys2Proof.Machine.execTrainingTimeout l timer s
  | .electricalIdleEnd l => Sys2Proof.Machine.execElectricalIdleEnd l s
  | .codewordRx l cw => Sys2Proof.Machine.execCodewordRx l cw s
  | .codewordHuntTimeout l => Sys2Proof.Machine.execCodewordHuntTimeout l s
  | .laneSignalChange l signal cdr => Sys2Proof.Machine.execLaneSignalChange l signal cdr s
  | .rowRx l pos cclk bytes => Sys2Proof.Machine.execRowRx l pos cclk bytes s
  | .srmRx l msg => Sys2Proof.Machine.execSrmRx l msg s
  | .capabilityFrameRx l payload => Sys2Proof.Machine.execCapabilityFrameRx l payload s
  | .capabilitySend p => Sys2Proof.Machine.execCapabilitySend p s
  | .capabilityTimeout p => Sys2Proof.Machine.execCapabilityTimeout p s
  | .capabilitySilence p => Sys2Proof.Machine.execCapabilitySilence p s
  | .todFrameRx payload => Sys2Proof.Machine.execTodFrameRx payload s
  | .todFrameSend => Sys2Proof.Machine.execTodFrameSend s
  | .heartbeatRx payload => Sys2Proof.Machine.execHeartbeatRx payload s
  | .heartbeatSend => Sys2Proof.Machine.execHeartbeatSend s
  | .heartbeatPathFail px => Sys2Proof.Machine.execHeartbeatPathFail px s
  | .peerReset => Sys2Proof.Machine.execPeerReset s
  | .copyDataRx payload => Sys2Proof.Machine.execCopyDataRx payload s
  | .copyAckRx payload => Sys2Proof.Machine.execCopyAckRx payload s
  | .copyResendRx payload => Sys2Proof.Machine.execCopyResendRx payload s
  | .copyGapTimeout => Sys2Proof.Machine.execCopyGapTimeout s
  | .copyAckSend => Sys2Proof.Machine.execCopyAckSend s
  | .sswActInFall => Sys2Proof.Machine.execSswActInFall s
  | .sswActInRise => Sys2Proof.Machine.execSswActInRise s
  | .claim => Sys2Proof.Machine.execClaim s
  | .claimEnHoldExpiry => Sys2Proof.Machine.execClaimEnHoldExpiry s
  | .trafficStateRelease => Sys2Proof.Machine.execTrafficStateRelease s
  | .swapCommit => Sys2Proof.Machine.execSwapCommit s
  | .pageSwap => Sys2Proof.Machine.execPageSwap s
  | .resyncDone => Sys2Proof.Machine.execResyncDone s
  | .stepLend k => Sys2Proof.Machine.execStepLend k s
  | .stepVacateRequest k => Sys2Proof.Machine.execStepVacateRequest k s
  | .stepReturn k => Sys2Proof.Machine.execStepReturn k s
  | .placementDone => Sys2Proof.Machine.execPlacementDone s
  | .repackDone colours => Sys2Proof.Machine.execRepackDone colours s
  | .scenSaveDone => Sys2Proof.Machine.execScenSaveDone s
  | .scenLoadDone => Sys2Proof.Machine.execScenLoadDone s
  | .scenarioMarkStale n => Sys2Proof.Machine.execScenarioMarkStale n s
  | .scenarioRebuildDone n => Sys2Proof.Machine.execScenarioRebuildDone n s
  | .holdOffExpiry g => Sys2Proof.Machine.execHoldOffExpiry g s
  | .wtrExpiry g => Sys2Proof.Machine.execWtrExpiry g s
  | .exerTimeout g => Sys2Proof.Machine.execExerTimeout g s
  | .channelTimeout g => Sys2Proof.Machine.execChannelTimeout g s
  | .noResponseTimeout g => Sys2Proof.Machine.execNoResponseTimeout g s
  | .restoreHoldExpiry g => Sys2Proof.Machine.execRestoreHoldExpiry g s
  | .defectClear cls obj defect => Sys2Proof.Machine.execDefectClear cls obj defect s
  | .secondBoundary => Sys2Proof.Machine.execSecondBoundary s
  | .tallyHandoff p => Sys2Proof.Machine.execTallyHandoff p s
  | .foldDone p => Sys2Proof.Machine.execFoldDone p s
  | .tallyHandbackMissed p => Sys2Proof.Machine.execTallyHandbackMissed p s
  | .todApply => Sys2Proof.Machine.execTodApply s
  | .selectionEvaluation => Sys2Proof.Machine.execSelectionEvaluation s
  | .referenceActivityFail n => Sys2Proof.Machine.execReferenceActivityFail n s
  | .frequencyWindowEnd n freq => Sys2Proof.Machine.execFrequencyWindowEnd n freq s
  | .referenceWtrExpiry n => Sys2Proof.Machine.execReferenceWtrExpiry n s
  | .dpllLocked => Sys2Proof.Machine.execDpllLocked s
  | .softWatchdogExpiry => Sys2Proof.Machine.execSoftWatchdogExpiry s
  | .learnHour model => Sys2Proof.Machine.execLearnHour model s
  | .estimateValid => Sys2Proof.Machine.execEstimateValid s
  | .holdQlTimeExpiry => Sys2Proof.Machine.execHoldQlTimeExpiry s
  | .ovenReady => Sys2Proof.Machine.execOvenReady s
  | .sensorSample r => Sys2Proof.Machine.execSensorSample r s
  | .watchdogExpiry core => Sys2Proof.Machine.execWatchdogExpiry core s
  | .mgmtRestartDone faults => Sys2Proof.Machine.execMgmtRestartDone faults s
  | .lpddrEccUncorr region => Sys2Proof.Machine.execLpddrEccUncorr region s
  | .trialTimeout => Sys2Proof.Machine.execTrialTimeout s
  | .recordPersisted => Sys2Proof.Machine.execRecordPersisted s
  | .compactionDone => Sys2Proof.Machine.execCompactionDone s
  | .flashBlockFail dev blk erase => Sys2Proof.Machine.execFlashBlockFail dev blk erase s
  | .flashDeviceLost dev => Sys2Proof.Machine.execFlashDeviceLost dev s
  | .datapathGrant d input => Sys2Proof.Machine.execDatapathGrant d input s
  | .datapathFault d => Sys2Proof.Machine.execDatapathFault d s
  | .cipherOperationDone d => Sys2Proof.Machine.execCipherOperationDone d s
  | .windowZeroed w => Sys2Proof.Machine.execWindowZeroed w s
  | .keySlotErased k => Sys2Proof.Machine.execKeySlotErased k s
  | .bankAccess reqs => Sys2Proof.Machine.execBankAccess reqs s
  | .recallDone b => Sys2Proof.Machine.execRecallDone b s
  | .bankHandover b agent owner => Sys2Proof.Machine.execBankHandover b agent owner s
  | .handoverEffect b => Sys2Proof.Machine.execHandoverEffect b s
  | .handoverTimeout b => Sys2Proof.Machine.execHandoverTimeout b s
  | .bankBorrow b => Sys2Proof.Machine.execBankBorrow b s
  | .segmentDone b faults => Sys2Proof.Machine.execSegmentDone b faults s
  | .retentionPauseEnd => Sys2Proof.Machine.execRetentionPauseEnd s
  | .pageBorrow => Sys2Proof.Machine.execPageBorrow s
  | .memoryTestDone faults => Sys2Proof.Machine.execMemoryTestDone faults s
  | .portDomainPowerDown d => Sys2Proof.Machine.execPortDomainPowerDown d s
  | .perfCounterWrap k => Sys2Proof.Machine.execPerfCounterWrap k s
  | .wireHeartbeatRx => Sys2Proof.Machine.execWireHeartbeatRx s
  | .referenceInputEdge n phase => Sys2Proof.Machine.execReferenceInputEdge n phase s
  | .pcieLinkChange up speed width flit => Sys2Proof.Machine.execPcieLinkChange up speed width flit s
  | .copyTimeout => Sys2Proof.Machine.execCopyTimeout s
  | .trainingFrameTx l => Sys2Proof.Machine.execTrainingFrameTx l s
  | .imageStageDone ok => Sys2Proof.Machine.execImageStageDone ok s
  | .bankAllocDone => Sys2Proof.Machine.execBankAllocDone s
  | .peerRstOutEnd => Sys2Proof.Machine.execPeerRstOutEnd s
  | .portDomainPowered d => Sys2Proof.Machine.execPortDomainPowered d s
  | .destructiveTestStart target => Sys2Proof.Machine.execDestructiveTestStart target s

end Sys2Proof.Machine
end

