-- ==== Sys2Proof/Safety.lean ====
section
/-! DEFINITION. What the claims speak of: the outcome of a command, and the parts of the state that a
command leaves as they are. -/

namespace Sys2Proof

/-- Every command waiting names things the device has. -/
def queueOk (s : Machine.State) : Bool := s.pending.all Instr.wf

/-- The parts of the state. Most are one field of `State`; the host interface is told apart into its
queues, its event rings, what it has sent out (messages and host memory), its link and its last answer, the
management complex into its event log and the rest, and the scratchpad banks into their words and the rest. -/
inductive Part where
  | pending | tick | cclk | free | regs | rc | rc64 | latch | held | lanes | ports | core | page | abacus
  | prot | pm | timing | eng | bank | sram | mtest | perf | queues | rings | hostOut | link | bus | sec | mgmtLog
  | mgmt | sens | smb | jtag | otp | image | jnl | copy | ssw | pwr | frames | log
  deriving DecidableEq, Repr

/-- What is left of the host interface beside queues, rings, output and the last answer: the link, the configuration
that came with it, and the MSI-X tables of the VFs. -/
def linkOf (h : Machine.Hif) : (Bool × Bool × Nat × Nat × Bool) × (Nat × Nat × Nat) × List (Nat × Word) :=
  ((h.ready, h.link, h.speed, h.width, h.flit), (h.vfs, h.mps, h.mrrs), h.vfTable)

/-- The event log's side of the management complex. -/
def logOf (m : Machine.Mgmt) : Nat × List Nat × List Nat × List Machine.EvRec :=
  (m.logNext, m.corrupt, m.crit, m.held)

/-- The management complex beside its event log. -/
def mgmtOf (m : Machine.Mgmt) : Machine.Mgmt :=
  { m with logNext := 0, corrupt := [], crit := [], held := [] }

/-- What decides the words of the scratchpad banks: the listed words, the tests of each bank and the banks
whose unlisted words are zero. -/
def sramOf (b : Machine.Banks) : List (Nat × DWord) × List (Nat × Nat) × List Nat := (b.mem, b.epoch, b.zeroed)

/-- The scratchpad banks beside their words. -/
def bankOf (b : Machine.Banks) : Machine.Banks := { b with mem := [], epoch := [], zeroed := [] }

/-- The words of the scratchpad banks are in canonical form: places rise, and no word listed in a bank whose
unlisted words are zero is zero. -/
abbrev bankMemOk (b : Machine.Banks) : Prop :=
  Machine.Memory.wf b.mem ∧ ∀ e ∈ b.mem, b.zeroed.contains (e.1 / 32768) = true → e.2 ≠ 0

/-- A part is the same in two states. -/
def Part.same (s t : Machine.State) : Part → Prop
  | .pending => t.pending = s.pending | .tick => t.tick = s.tick | .cclk => t.cclk = s.cclk
  | .free => t.free = s.free | .regs => t.regs = s.regs | .rc => t.rc = s.rc | .rc64 => t.rc64 = s.rc64
  | .latch => t.latch = s.latch | .held => t.held = s.held | .lanes => t.lanes = s.lanes
  | .ports => t.ports = s.ports | .core => t.core = s.core | .page => t.page = s.page
  | .abacus => t.abacus = s.abacus | .prot => t.prot = s.prot | .pm => t.pm = s.pm
  | .timing => t.timing = s.timing | .eng => t.eng = s.eng | .bank => bankOf t.bank = bankOf s.bank
  | .sram => sramOf t.bank = sramOf s.bank
  | .mtest => t.mtest = s.mtest | .perf => t.perf = s.perf
  | .queues => t.hif.queues = s.hif.queues ∧ t.hif.turn = s.hif.turn
  | .rings => t.hif.rings = s.hif.rings ∧ t.hif.seqs = s.hif.seqs
  | .hostOut => t.hif.sent = s.hif.sent ∧ t.hif.pba = s.hif.pba ∧ t.hif.hostMem = s.hif.hostMem
  | .link => linkOf t.hif = linkOf s.hif
  | .bus => t.hif.readData = s.hif.readData ∧ t.hif.timingOut = s.hif.timingOut
  | .sec => t.sec = s.sec | .mgmtLog => logOf t.mgmt = logOf s.mgmt | .mgmt => mgmtOf t.mgmt = mgmtOf s.mgmt
  | .sens => t.sens = s.sens | .smb => t.smb = s.smb | .jtag => t.jtag = s.jtag | .otp => t.otp = s.otp
  | .image => t.image = s.image | .jnl => t.jnl = s.jnl | .copy => t.copy = s.copy | .ssw => t.ssw = s.ssw
  | .pwr => t.pwr = s.pwr | .frames => t.frames = s.frames | .log => t.log = s.log

/-- Every part but those listed is the same in `t` as in `s`. -/
structure Only (ps : List Part) (s t : Machine.State) : Prop where
  same : ∀ p, p ∉ ps → p.same s t

/-- What raising an event may touch (13_host.md R339, R340, R352; 15_management.md R386): the sideband's
counts, the event log, the event rings with host memory and messages, counters of dropped records, and
the journal for critical records. -/
def evParts : List Part := [.rc, .rings, .hostOut, .mgmtLog, .smb, .jnl, .log]

/-- What steps 1 to 4 of a host command and its completion may touch (13_host.md R332, R341 to R343;
14_cipher.md R378; 07_strings_abacus.md R175 for a queue that closes), beside what an event touches. -/
def cmdParts : List Part :=
  [.free, .regs, .rc, .rc64, .abacus, .queues, .rings, .hostOut, .sec, .mgmtLog, .mgmt, .smb, .jnl, .log]

/-- The parts of the state that a command may touch. -/
def touches : Instr → List Part
  | .nop _ | .eventCatalog _ | .stringRead _ | .pageRead _ | .groupRead _ | .pmFetch _ | .perfRead _
    | .eventLogRead _ | .mtestConfig _ | .keyUnwrap _ | .keyErase _ | .keyRead _ | .cipherOp _ | .debugUnlock _
    | .attest _ | .sensorRead _ | .jnlConfig _ | .jnlCompact _ | .jnlRead _ | .recordPersisted
    | .compactionDone =>
    cmdParts
  | .stringCreate _ | .stringConnect _ | .stringDisconnect _ | .stringResize _ | .stringCondition _
    | .stringDelete _ | .batchCommit _ | .repack _ | .scenSave _ | .scenLoad _ =>
    cmdParts ++ [.page, .mtest, .perf]
  | .pageDisarm _ | .pageSwapAt _ | .scenDelete _ =>
    cmdParts ++ [.page]
  | .groupCreate _ | .groupModify _ | .groupDelete _ | .groupRequest _ =>
    cmdParts ++ [.prot]
  | .timingConfig _ | .timingFreq _ | .timingPhaseStep _ | .todSet _ | .todAdj _ =>
    cmdParts ++ [.timing]
  | .timingRead _ =>
    cmdParts ++ [.timing, .bus]
  | .bankAlloc _ | .bankRelease _ =>
    cmdParts ++ [.bank]
  | .mtestRun _ =>
    cmdParts ++ [.mtest]
  | .imageStage _ _ | .imageStageDone _ =>
    cmdParts ++ [.image]
  | .imageActivate _ =>
    cmdParts ++ [.image, .copy, .ssw]
  | .clusterActivate _ =>
    cmdParts ++ [.eng]
  | .lifecycleSet _ =>
    cmdParts ++ [.jtag, .otp]
  | .seesawConfig _ =>
    cmdParts ++ [.ssw]
  | .seesawRelease _ =>
    cmdParts ++ [.copy, .ssw, .pwr]
  | .sqPiDoorbell _ _ _ | .cqCiDoorbell _ _ _ =>
    evParts ++ [.abacus, .queues]
  | .eqCiDoorbell _ _ _ =>
    evParts
  | .queueEnable _ _ | .queueDisable _ _ =>
    evParts ++ [.regs, .abacus, .queues]
  | .eqEnable _ _ | .eqDisable _ _ =>
    [.regs, .rings, .hostOut, .mgmtLog, .log]
  | .descriptorFetch _ _ =>
    evParts ++ [.queues]
  | .interruptTimerExpiry _ _ =>
    [.queues, .rings, .hostOut]
  | .functionLevelReset _ =>
    evParts ++ [.regs, .abacus, .queues, .link]
  | .perstNAssert =>
    evParts ++ [.regs, .abacus, .queues, .link, .pwr]
  | .perstNDeassert =>
    [.link, .pwr]
  | .warmReset _ _ =>
    cmdParts ++ [.latch, .held, .lanes, .ports, .core, .page, .prot, .pm, .timing, .eng, .bank, .sram,
      .mtest, .perf, .link, .image, .copy, .ssw, .pwr, .frames]
  | .resume _ _ =>
    evParts ++ [.lanes, .ports, .bank, .mtest, .pwr]
  | .shutdown _ =>
    cmdParts ++ [.tick, .cclk, .latch, .held, .lanes, .ports, .core, .page, .prot, .pm, .timing, .eng,
      .bank, .sram, .mtest, .perf, .link, .bus, .sens, .jtag, .image, .copy, .ssw, .pwr, .frames]
  | .lockSet _ | .coreInjectArm _ | .secInjectArm _ =>
    [.regs]
  | .huntRestart _ _ | .trainRestart _ _ | .laneEnable _ _ | .laneDisable _ _ =>
    evParts ++ [.regs, .lanes, .ports, .timing, .perf]
  | .portEnable _ _ | .portDisable _ _ =>
    evParts ++ [.regs, .lanes, .ports, .page]
  | .tdCfgWrite _ _ =>
    [.regs, .rc, .ports, .page, .abacus, .mtest]
  | .perfCounterWrite _ _ =>
    [.held, .eng, .perf]
  | .perfSelectWrite _ _ | .perfHoldClear _ | .perfFreezeWrite _ =>
    [.regs, .eng, .perf]
  | .regReadClear _ | .reg64LowRead _ =>
    [.rc, .rc64, .latch, .ports, .timing, .eng, .perf, .bus]
  | .reg64HighWrite _ _ =>
    [.regs, .held, .eng, .perf]
  | .todSecRead =>
    [.latch, .timing, .bus]
  | .bar0AccessRefused _ _ _ =>
    [.rc, .bus]
  | .bankWindowAccess _ _ _ =>
    evParts ++ [.free, .eng, .bank, .sram, .mtest, .perf, .bus]
  | .registerWrite _ _ =>
    [.regs, .held, .timing, .eng, .perf, .hostOut, .link]
  | .smbIdent | .smbPowerState | .smbSeesaw | .smbTempMax | .smbTempAll | .smbVin | .smbIin | .smbPin
    | .smbDomains | .smbOven | .smbEventSummary | .smbEventAck _ | .smbAlertResponse =>
    [.smb]
  | .jtagBypass | .jtagIdcode | .jtagSamplePreload _ | .jtagExtest | .jtagClamp | .jtagHighz | .dbgAccess =>
    [.jtag]
  | .vinGood _ | .porNDeassert _ =>
    cmdParts ++ [.tick, .lanes, .ports, .core, .page, .prot, .timing, .bank, .mtest, .link, .image, .copy,
      .ssw, .pwr]
  | .vinLost | .vinOvervoltage | .inputOvercurrent | .porNAssert =>
    evParts ++ [.tick, .cclk, .regs, .rc64, .latch, .held, .lanes, .ports, .core, .page, .abacus, .prot,
      .pm, .timing, .eng, .bank, .sram, .mtest, .perf, .queues, .link, .bus, .sec, .mgmt, .sens, .jtag,
      .image, .copy, .ssw, .pwr, .frames]
  | .startupStepLate _ =>
    evParts ++ [.pwr]
  | .seesawDecisionTimeout =>
    evParts ++ [.regs, .lanes, .ports, .ssw, .pwr]
  | .tickEdge =>
    cmdParts ++ [.tick, .cclk, .lanes, .ports, .core, .page, .prot, .pm, .timing, .eng, .bank, .sram,
      .mtest, .perf, .otp, .image, .copy, .ssw, .pwr]
  | .tickOverrun _ =>
    evParts ++ [.prot, .eng, .perf]
  | .engineHalt _ =>
    evParts ++ [.eng, .perf]
  | .clusterMigration _ =>
    [.rc, .eng, .bank, .mtest, .perf, .sec]
  | .clusterReady _ =>
    [.eng]
  | .clusterReturn _ =>
    [.rc, .eng, .bank, .perf, .sec]
  | .fabricMessage _ _ _ =>
    [.eng, .perf]
  | .coreStep _ =>
    evParts ++ [.cclk, .regs, .rc64, .core, .pm, .mtest, .perf]
  | .egressRowRead _ =>
    evParts ++ [.cclk, .regs, .rc64, .lanes, .mtest, .perf]
  | .trainingFrameRx _ _ | .trainingTimeout _ _ | .codewordHuntTimeout _ =>
    evParts ++ [.lanes, .ports, .timing, .perf]
  | .electricalIdleEnd _ | .laneSignalChange _ _ _ =>
    [.lanes]
  | .codewordRx _ _ =>
    evParts ++ [.rc64, .lanes, .ports, .timing, .perf]
  | .rowRx _ _ _ _ =>
    evParts ++ [.cclk, .lanes, .ports, .core, .page, .abacus, .prot, .pm, .timing, .mtest, .perf, .frames]
  | .srmRx _ _ | .exerTimeout _ | .channelTimeout _ | .noResponseTimeout _ =>
    evParts ++ [.prot]
  | .capabilityFrameRx _ _ =>
    evParts ++ [.ports, .frames]
  | .capabilitySend _ =>
    [.lanes, .ports]
  | .capabilityTimeout _ =>
    evParts ++ [.ports]
  | .capabilitySilence _ =>
    [.ports]
  | .todFrameRx _ =>
    [.timing, .frames]
  | .todFrameSend =>
    [.lanes, .timing]
  | .heartbeatRx _ =>
    evParts ++ [.regs, .lanes, .ports, .ssw, .pwr, .frames]
  | .heartbeatSend =>
    [.lanes, .ssw]
  | .heartbeatPathFail _ | .sswActInFall | .wireHeartbeatRx =>
    evParts ++ [.ssw]
  | .peerReset =>
    [.rc, .ssw]
  | .copyDataRx _ =>
    cmdParts ++ [.lanes, .page, .prot, .copy, .ssw, .frames]
  | .copyAckRx _ =>
    evParts ++ [.abacus, .queues, .mgmt, .copy, .ssw, .frames]
  | .copyResendRx _ =>
    evParts ++ [.copy, .ssw, .frames]
  | .copyGapTimeout =>
    [.rc, .lanes, .copy]
  | .copyAckSend =>
    [.lanes, .copy]
  | .sswActInRise =>
    evParts ++ [.regs, .copy, .ssw, .pwr]
  | .claim =>
    evParts ++ [.free, .regs, .page, .abacus, .prot, .bank, .mtest, .perf, .queues, .sec, .mgmt, .copy,
      .ssw, .pwr]
  | .claimEnHoldExpiry | .peerRstOutEnd =>
    [.ssw]
  | .trafficStateRelease =>
    evParts ++ [.free, .page, .abacus, .prot, .queues, .mgmt, .ssw]
  | .swapCommit | .scenarioMarkStale _ =>
    [.page]
  | .pageSwap =>
    evParts ++ [.ports, .core, .page, .abacus, .prot, .pm, .perf, .queues, .mgmt]
  | .resyncDone =>
    evParts ++ [.regs, .page, .abacus, .mtest, .perf, .queues, .mgmt]
  | .stepLend _ =>
    evParts ++ [.core, .abacus, .mtest]
  | .stepVacateRequest _ | .placementDone =>
    evParts ++ [.free, .page, .abacus, .mtest, .perf, .queues, .mgmt]
  | .stepReturn _ =>
    evParts ++ [.abacus]
  | .repackDone _ =>
    evParts ++ [.free, .page, .abacus, .perf, .queues, .mgmt]
  | .scenSaveDone | .scenLoadDone =>
    evParts ++ [.page, .abacus, .perf, .queues, .mgmt]
  | .scenarioRebuildDone _ =>
    [.free, .rc, .page, .abacus]
  | .holdOffExpiry _ | .wtrExpiry _ =>
    [.prot]
  | .restoreHoldExpiry _ =>
    evParts ++ [.free, .page, .abacus, .prot, .mtest, .perf, .queues, .mgmt]
  | .defectClear _ _ _ =>
    evParts ++ [.pm]
  | .secondBoundary | .tallyHandbackMissed _ =>
    [.rc, .pm]
  | .tallyHandoff _ =>
    [.rc, .pm, .bank, .perf, .sec]
  | .foldDone _ =>
    [.rc, .pm, .bank, .sram, .perf, .sec]
  | .todApply =>
    evParts ++ [.abacus, .timing, .queues, .mgmt]
  | .selectionEvaluation | .dpllLocked | .softWatchdogExpiry =>
    evParts ++ [.timing]
  | .referenceActivityFail _ | .frequencyWindowEnd _ _ | .referenceWtrExpiry _ | .estimateValid
    | .holdQlTimeExpiry | .ovenReady | .referenceInputEdge _ _ =>
    [.timing]
  | .learnHour _ =>
    [.timing, .jnl]
  | .sensorSample _ =>
    evParts ++ [.free, .regs, .lanes, .ports, .core, .page, .abacus, .prot, .pm, .timing, .eng, .bank,
      .sram, .mtest, .perf, .queues, .sec, .mgmt, .sens, .copy, .ssw, .pwr, .frames]
  | .watchdogExpiry _ =>
    evParts ++ [.free, .regs, .abacus, .queues, .mgmt, .image, .copy, .ssw, .pwr]
  | .mgmtRestartDone _ =>
    cmdParts ++ [.lanes, .ports, .core, .page, .prot, .pm, .timing, .eng, .bank, .sram, .mtest, .perf,
      .link, .image, .copy, .ssw, .pwr, .frames]
  | .lpddrEccUncorr _ =>
    evParts ++ [.free, .page, .abacus, .pm, .queues, .mgmt, .image, .copy, .ssw]
  | .trialTimeout =>
    evParts ++ [.free, .abacus, .queues, .mgmt, .image, .copy, .ssw]
  | .flashBlockFail _ _ _ | .flashDeviceLost _ | .copyTimeout =>
    evParts ++ [.abacus, .queues, .mgmt]
  | .datapathGrant _ _ =>
    evParts ++ [.rc64, .abacus, .queues, .sec, .mgmt]
  | .datapathFault _ =>
    evParts ++ [.free, .abacus, .sram, .queues, .sec, .mgmt]
  | .cipherOperationDone _ =>
    evParts ++ [.free, .regs, .abacus, .sram, .perf, .queues, .sec, .mgmt]
  | .windowZeroed _ =>
    [.sram, .perf, .sec]
  | .keySlotErased _ =>
    evParts ++ [.abacus, .queues, .sec, .mgmt]
  | .bankAccess _ =>
    evParts ++ [.eng, .bank, .sram, .mtest, .perf]
  | .recallDone _ =>
    evParts ++ [.eng, .bank, .sram, .mtest, .perf, .sec]
  | .bankHandover _ _ _ =>
    evParts ++ [.abacus, .bank, .perf, .queues, .mgmt]
  | .handoverEffect _ =>
    evParts ++ [.abacus, .bank, .perf, .queues, .sec, .mgmt]
  | .handoverTimeout _ =>
    evParts ++ [.abacus, .bank, .queues, .mgmt]
  | .bankBorrow _ =>
    [.rc, .bank, .mtest, .perf, .sec]
  | .segmentDone _ _ =>
    evParts ++ [.free, .core, .page, .abacus, .eng, .bank, .mtest, .perf, .queues, .sec, .mgmt]
  | .retentionPauseEnd =>
    [.mtest]
  | .pageBorrow =>
    [.page, .mtest]
  | .memoryTestDone _ =>
    evParts ++ [.free, .rc64, .core, .page, .abacus, .prot, .eng, .bank, .mtest, .perf, .queues, .sec,
      .mgmt, .ssw, .pwr]
  | .portDomainPowerDown _ =>
    evParts ++ [.lanes, .ports, .timing, .perf, .pwr]
  | .perfCounterWrap _ =>
    evParts ++ [.perf]
  | .pcieLinkChange _ _ _ _ =>
    [.link]
  | .trainingFrameTx _ =>
    evParts ++ [.free, .regs, .rc64, .lanes, .mtest, .perf]
  | .bankAllocDone =>
    evParts ++ [.abacus, .bank, .sram, .perf, .queues, .sec, .mgmt]
  | .portDomainPowered _ =>
    evParts ++ [.lanes, .ports, .pwr]
  | .destructiveTestStart _ =>
    [.rc, .core, .bank, .sram, .mtest, .perf, .sec]

/-- The families of commands: host commands; the host's and the sideband's accesses; tick, engines, core,
lanes and ports; power and the twin; pages, protection, monitoring and timing; management, journal, cipher and
banks. -/
inductive Family where
  | command | access | line | twin | service | device
  deriving DecidableEq, Repr

/-- The family of a command. -/
def family : Instr → Family
  | .nop _ | .eventCatalog _ | .stringCreate _ | .stringConnect _ | .stringDisconnect _ | .stringResize _
  | .stringCondition _ | .stringDelete _ | .batchCommit _ | .repack _ | .pageDisarm _ | .pageSwapAt _
  | .scenSave _ | .scenLoad _ | .scenDelete _ | .stringRead _ | .pageRead _ | .groupCreate _
  | .groupModify _ | .groupDelete _ | .groupRequest _ | .groupRead _ | .timingConfig _ | .timingFreq _
  | .timingPhaseStep _ | .todSet _ | .todAdj _ | .timingRead _ | .pmFetch _ | .perfRead _ | .eventLogRead _
  | .bankAlloc _ | .bankRelease _ | .mtestConfig _ | .mtestRun _ | .keyUnwrap _ | .keyErase _ | .keyRead _
  | .cipherOp _ | .imageStage _ _ | .imageActivate _ | .clusterActivate _ | .lifecycleSet _
  | .debugUnlock _ | .attest _ | .sensorRead _ | .jnlConfig _ | .jnlCompact _ | .seesawConfig _
  | .seesawRelease _ | .jnlRead _ => .command
  | .sqPiDoorbell _ _ _ | .cqCiDoorbell _ _ _ | .eqCiDoorbell _ _ _ | .queueEnable _ _ | .queueDisable _ _
  | .eqEnable _ _ | .eqDisable _ _ | .descriptorFetch _ _ | .interruptTimerExpiry _ _
  | .functionLevelReset _ | .perstNAssert | .perstNDeassert | .warmReset _ _ | .resume _ _ | .shutdown _
  | .lockSet _ | .coreInjectArm _ | .secInjectArm _ | .huntRestart _ _ | .trainRestart _ _
  | .laneEnable _ _ | .laneDisable _ _ | .portEnable _ _ | .portDisable _ _ | .tdCfgWrite _ _
  | .perfCounterWrite _ _ | .perfSelectWrite _ _ | .perfHoldClear _ | .perfFreezeWrite _ | .regReadClear _
  | .reg64LowRead _ | .reg64HighWrite _ _ | .todSecRead | .bar0AccessRefused _ _ _
  | .bankWindowAccess _ _ _ | .registerWrite _ _ | .smbIdent | .smbPowerState | .smbSeesaw | .smbTempMax
  | .smbTempAll | .smbVin | .smbIin | .smbPin | .smbDomains | .smbOven | .smbEventSummary | .smbEventAck _
  | .smbAlertResponse | .jtagBypass | .jtagIdcode | .jtagSamplePreload _ | .jtagExtest | .jtagClamp
  | .jtagHighz | .dbgAccess | .pcieLinkChange _ _ _ _ => .access
  | .tickEdge | .tickOverrun _ | .engineHalt _ | .clusterMigration _ | .clusterReady _ | .clusterReturn _
  | .fabricMessage _ _ _ | .coreStep _ | .egressRowRead _ | .trainingFrameRx _ _ | .trainingTimeout _ _
  | .electricalIdleEnd _ | .codewordRx _ _ | .codewordHuntTimeout _ | .laneSignalChange _ _ _
  | .rowRx _ _ _ _ | .srmRx _ _ | .capabilityFrameRx _ _ | .capabilitySend _ | .capabilityTimeout _
  | .capabilitySilence _ | .perfCounterWrap _ | .trainingFrameTx _ => .line
  | .vinGood _ | .vinLost | .vinOvervoltage | .inputOvercurrent | .porNAssert | .porNDeassert _
  | .startupStepLate _ | .seesawDecisionTimeout | .todFrameRx _ | .todFrameSend | .heartbeatRx _
  | .heartbeatSend | .heartbeatPathFail _ | .peerReset | .copyDataRx _ | .copyAckRx _ | .copyResendRx _
  | .copyGapTimeout | .copyAckSend | .sswActInFall | .sswActInRise | .claim | .claimEnHoldExpiry
  | .trafficStateRelease | .portDomainPowerDown _ | .wireHeartbeatRx | .copyTimeout | .peerRstOutEnd
  | .portDomainPowered _ => .twin
  | .swapCommit | .pageSwap | .resyncDone | .stepLend _ | .stepVacateRequest _ | .stepReturn _
  | .placementDone | .repackDone _ | .scenSaveDone | .scenLoadDone | .scenarioMarkStale _
  | .scenarioRebuildDone _ | .holdOffExpiry _ | .wtrExpiry _ | .exerTimeout _ | .channelTimeout _
  | .noResponseTimeout _ | .restoreHoldExpiry _ | .defectClear _ _ _ | .secondBoundary | .tallyHandoff _
  | .foldDone _ | .tallyHandbackMissed _ | .todApply | .selectionEvaluation | .referenceActivityFail _
  | .frequencyWindowEnd _ _ | .referenceWtrExpiry _ | .dpllLocked | .softWatchdogExpiry | .learnHour _
  | .estimateValid | .holdQlTimeExpiry | .ovenReady | .referenceInputEdge _ _ => .service
  | .sensorSample _ | .watchdogExpiry _ | .mgmtRestartDone _ | .lpddrEccUncorr _ | .trialTimeout
  | .recordPersisted | .compactionDone | .flashBlockFail _ _ _ | .flashDeviceLost _ | .datapathGrant _ _
  | .datapathFault _ | .cipherOperationDone _ | .windowZeroed _ | .keySlotErased _ | .bankAccess _
  | .recallDone _ | .bankHandover _ _ _ | .handoverEffect _ | .handoverTimeout _ | .bankBorrow _
  | .segmentDone _ _ | .retentionPauseEnd | .pageBorrow | .memoryTestDone _ | .imageStageDone _
  | .bankAllocDone | .destructiveTestStart _ => .device

/-- The opcode (13_host.md Table 13.8) and the queue of a host command. -/
def hostOp : Instr → Option (Nat × Nat)
  | .nop q => some (0x00, q)
  | .eventCatalog q => some (0x01, q)
  | .stringCreate q => some (0x10, q)
  | .stringConnect q => some (0x11, q)
  | .stringDisconnect q => some (0x12, q)
  | .stringResize q => some (0x13, q)
  | .stringCondition q => some (0x14, q)
  | .stringDelete q => some (0x15, q)
  | .batchCommit q => some (0x16, q)
  | .repack q => some (0x17, q)
  | .pageDisarm q => some (0x18, q)
  | .pageSwapAt q => some (0x19, q)
  | .scenSave q => some (0x1A, q)
  | .scenLoad q => some (0x1B, q)
  | .scenDelete q => some (0x1C, q)
  | .stringRead q => some (0x1D, q)
  | .pageRead q => some (0x1E, q)
  | .groupCreate q => some (0x20, q)
  | .groupModify q => some (0x21, q)
  | .groupDelete q => some (0x22, q)
  | .groupRequest q => some (0x23, q)
  | .groupRead q => some (0x24, q)
  | .timingConfig q => some (0x30, q)
  | .timingFreq q => some (0x31, q)
  | .timingPhaseStep q => some (0x32, q)
  | .todSet q => some (0x33, q)
  | .todAdj q => some (0x34, q)
  | .timingRead q => some (0x35, q)
  | .pmFetch q => some (0x40, q)
  | .perfRead q => some (0x41, q)
  | .eventLogRead q => some (0x42, q)
  | .bankAlloc q => some (0x50, q)
  | .bankRelease q => some (0x51, q)
  | .mtestConfig q => some (0x52, q)
  | .mtestRun q => some (0x53, q)
  | .keyUnwrap q => some (0x60, q)
  | .keyErase q => some (0x61, q)
  | .keyRead q => some (0x62, q)
  | .cipherOp q => some (0x63, q)
  | .imageStage q _ => some (0x70, q)
  | .imageActivate q => some (0x71, q)
  | .clusterActivate q => some (0x72, q)
  | .lifecycleSet q => some (0x73, q)
  | .debugUnlock q => some (0x74, q)
  | .attest q => some (0x75, q)
  | .sensorRead q => some (0x76, q)
  | .jnlConfig q => some (0x80, q)
  | .jnlCompact q => some (0x81, q)
  | .seesawConfig q => some (0x82, q)
  | .seesawRelease q => some (0x83, q)
  | .jnlRead q => some (0x84, q)
  | _ => none

/-- The command with opcode `o` at the head of queue q and the state it runs on, when one may start there,
passes steps 1 to 4 of 13_host.md Table 13.7, sets no reserved bit of its arguments, and has the datapath that
its records or image need (14_cipher.md R356). -/
def ran (o q : Nat) (s : Machine.State) : Option (Fetched × Machine.State) :=
  match Machine.headCmd o q s with
  | none => none
  | some (d, ds) =>
    match Machine.checkCmd q d s with
    | .pass t =>
      if (Machine.argFault o d).isNone && (Machine.workReady o d t).1
        then some (d, Machine.startCmd q d ds (Machine.workReady o d t).2) else none
    | _ => none

/-- The command answers a next state, of which `P` holds. -/
def Does (c : Instr) (s : Machine.State) (P : Machine.State → Prop) : Prop :=
  ∃ t, Machine.exec c s = .next t ∧ P t

/-- Power and start-up begin GLB.TICK again with these commands. -/
def restarts : Instr → Bool
  | .vinGood _ | .vinLost | .vinOvervoltage | .inputOvercurrent | .porNAssert | .porNDeassert _ => true
  | _ => false

end Sys2Proof
end

