-- ==== Sys2Proof/Certificates/Slice0/Obligations.lean ====
section
/-! DEFINITION. The statements about the machine. -/

open Sys2Proof Sys2Proof.Machine

/-- For every state whose queue begins with a command, a step is exec of that command on the state with the rest
of the queue; with no command waiting the step answers the same state. The queue and the idle step are the
model's own choices (log entries 1 and 4). (01_architecture.md) -/
def Obligations.StepRunsFront : Prop :=
  (∀ (s : State) (c : Instr) (cs : List Instr), s.pending = c :: cs → step s = exec c { s with pending := cs }) ∧
    ∀ s : State, s.pending = [] → step s = .next s

/-- For every command and state, when exec answers a next state its queue is the queue before. The queue is the
model's own (log entry 1). (00_scope.md) -/
def Obligations.QueueKept : Prop :=
  ∀ (c : Instr) (s t : State), exec c s = .next t → t.pending = s.pending

/-- No command ends in a fault or a refusal: for every command and every state exec answers a next state. No
rule of the spec stops the device. (00_scope.md, 13_host.md) -/
def Obligations.EveryCommandAnswers : Prop :=
  ∀ (c : Instr) (s : State), ∃ t, exec c s = .next t

/-- For every command of this family and every state, when exec answers a next state, every part of the state
that `touches` does not list for the command is as before: registers, counters, lanes, ports, memories,
queues, fuses and the rest. (13_host.md) -/
def Obligations.FrameCommand : Prop :=
  ∀ (c : Instr) (s t : State), family c = .command → exec c s = .next t → Only (touches c) s t

/-- For every command of this family and every state, when exec answers a next state, every part of the state
that `touches` does not list for the command is as before: registers, counters, lanes, ports, memories,
queues, fuses and the rest. (19_registers.md, 13_host.md) -/
def Obligations.FrameAccess : Prop :=
  ∀ (c : Instr) (s t : State), family c = .access → exec c s = .next t → Only (touches c) s t

/-- For every command of this family and every state, when exec answers a next state, every part of the state
that `touches` does not list for the command is as before: registers, counters, lanes, ports, memories,
queues, fuses and the rest. (01_architecture.md, 03_lanes.md, 04_ports.md, 05_core.md) -/
def Obligations.FrameLine : Prop :=
  ∀ (c : Instr) (s t : State), family c = .line → exec c s = .next t → Only (touches c) s t

/-- For every command of this family and every state, when exec answers a next state, every part of the state
that `touches` does not list for the command is as before: registers, counters, lanes, ports, memories,
queues, fuses and the rest. (16_journal_seesaw.md, 17_power_startup.md) -/
def Obligations.FrameTwin : Prop :=
  ∀ (c : Instr) (s t : State), family c = .twin → exec c s = .next t → Only (touches c) s t

/-- For every command of this family and every state, when exec answers a next state, every part of the state
that `touches` does not list for the command is as before: registers, counters, lanes, ports, memories,
queues, fuses and the rest. (06_pages.md, 08_protection.md, 09_monitoring.md, 10_timing.md) -/
def Obligations.FrameService : Prop :=
  ∀ (c : Instr) (s t : State), family c = .service → exec c s = .next t → Only (touches c) s t

/-- For every command of this family and every state, when exec answers a next state, every part of the state
that `touches` does not list for the command is as before: registers, counters, lanes, ports, memories,
queues, fuses and the rest. (11_engines_banks.md, 14_cipher.md, 15_management.md, 16_journal_seesaw.md) -/
def Obligations.FrameDevice : Prop :=
  ∀ (c : Instr) (s t : State), family c = .device → exec c s = .next t → Only (touches c) s t

/-- For every command and state: the tick is unchanged by every command but TICK_EDGE and the commands of VIN
and POR_N; TICK_EDGE raises it by exactly 1 while power domain PD1 is powered and leaves it otherwise; the
commands of VIN and POR_N leave it or begin it again at 0. (01_architecture.md, 17_power_startup.md) -/
def Obligations.TickRises : Prop :=
  ∀ (c : Instr) (s t : State), exec c s = .next t →
    (c = .tickEdge → t.tick = if pdOn s 1 then s.tick + 1 else s.tick) ∧
    (restarts c = true → t.tick = s.tick ∨ t.tick = 0) ∧
    (c ≠ .tickEdge → restarts c = false → t.tick = s.tick)

/-- For every state and step: the identity, keys and root hash never change; the anti-rollback count never
falls, and rises only at TICK_EDGE and there by one, as its fuses are blown one at a time (log entry 80);
the life-cycle state moves only from DEVELOPMENT to PRODUCTION, from PRODUCTION to RETURN or from
DEVELOPMENT to RETURN, and only at LIFECYCLE_SET; an owner hash once programmed stays. It holds in every
state whose owner hash, life cycle and count are any value. (15_management.md) -/
def Obligations.FusesOneWay : Prop :=
  ∀ (s t : State), step s = .next t →
    t.otp.nodeId = s.otp.nodeId ∧ t.otp.rootHash = s.otp.rootHash ∧ t.otp.imageKey = s.otp.imageKey ∧
    t.otp.secret = s.otp.secret ∧ t.otp.cert = s.otp.cert ∧ t.otp.subsys = s.otp.subsys ∧
    s.otp.arb ≤ t.otp.arb ∧ t.otp.arb ≤ s.otp.arb + 1 ∧
    (t.otp.life = s.otp.life ∨ (s.otp.life = 1 ∧ t.otp.life = 2) ∨ (s.otp.life = 2 ∧ t.otp.life = 3) ∨
      (s.otp.life = 1 ∧ t.otp.life = 3)) ∧
    (∀ h, s.otp.ownerHash = some h → t.otp.ownerHash = some h) ∧
    (t.otp.arb ≠ s.otp.arb → ∃ cs, s.pending = .tickEdge :: cs) ∧
    (t.otp.life ≠ s.otp.life → ∃ q cs, s.pending = .lifecycleSet q :: cs)

/-- For every state whose listed words of the scratchpad banks have rising places and hold no zero in a bank
whose unlisted words are zero, every step leaves such a state. The canonical form is the model's own; what
an unlisted word holds is log entry 12. (11_engines_banks.md) -/
def Obligations.BankWordsCanonical : Prop :=
  ∀ (s t : State), bankMemOk s.bank → step s = .next t → bankMemOk t.bank

/-- At reset no word is listed, so the canonical form holds; what an unlisted word holds is log entry 12.
(11_engines_banks.md) -/
def Obligations.BankWordsCanonicalAtReset : Prop :=
  bankMemOk State.reset.bank

/-- For each of the 51 host commands with its opcode and queue: with no such command ready at the head of the
queue nothing happens; a command that fails a check of steps 1 to 4 completes with the status of that check;
one that waits at step 4 stays where it is; one that passes them with a bit of its arguments set that no
argument table names, or of an extension of which no byte is used, completes with INVALID_ARG and the byte
as DETAIL; one that passes these too, and seals or opens bytes for which no datapath is there yet, stays
where it is until one is. What of the arguments is reserved is the model's reading (log entry 53), and so is
that internal work takes its datapath at that instant (log entry 44). That a command row without its command
at the head does nothing is the model's choice (log entry 1). (13_host.md) -/
def Obligations.HostCommandChecks : Prop :=
  ∀ (c : Instr) (o q : Nat) (s : State), hostOp c = some (o, q) →
    (headCmd o q s = none → exec c s = .next s) ∧
    (∀ d ds a u, headCmd o q s = some (d, ds) → checkCmd q d s = .fail a u →
      exec c s = .next (complete q a (startCmd q d ds u))) ∧
    (∀ d ds u, headCmd o q s = some (d, ds) → checkCmd q d s = .wait u → exec c s = .next u) ∧
    (∀ d ds u n, headCmd o q s = some (d, ds) → checkCmd q d s = .pass u → argFault o d = some n →
      exec c s = .next (complete q (badArg n) (startCmd q d ds u))) ∧
    (∀ d ds u, headCmd o q s = some (d, ds) → checkCmd q d s = .pass u → argFault o d = none →
      (workReady o d u).1 = false → exec c s = .next (workReady o d s).2)

/-- For every queue, descriptor, answer and state with the link up and the ring not reset under the command: the
32 bytes of the completion stand at the ring base plus 32 times the producer index, every other byte of host
memory is as before, the consumed index moves by one, the producer index moves by one, and the phase turns
when it wraps to 0. The indices wrap at the ring sizes. (13_host.md) -/
def Obligations.CompletionRecord : Prop :=
  ∀ (q : Nat) (desc : Bytes) (a : Answer) (s : State), linkUp s = true → (queue s q).mute = false →
    let x := queue s q
    let ci := (x.ci + 1) % sqSize s q
    let pi := (x.cpi + 1) % cqSize s q
    let t := writeCpl q desc a s
    (∀ k, k < 32 → memGet t.hif.hostMem (cqBase s q + 32 * x.cpi + k) = (cplBytes desc a ci x.phase)[k]?) ∧
    (∀ b, (b < cqBase s q + 32 * x.cpi ∨ cqBase s q + 32 * x.cpi + 32 ≤ b) →
      memGet t.hif.hostMem b = memGet s.hif.hostMem b) ∧
    (queue t q).ci = ci ∧ (queue t q).cpi = pi ∧ (queue t q).phase = (if pi = 0 then !x.phase else x.phase) ∧
    ∀ r, r ≠ q → queue t r = queue s r

/-- A NOP that runs completes OK with no other effect. TIMING_READ completes OK with the words of the timing
registers. EVENT_CATALOG, STRING_READ, PAGE_READ and GROUP_READ with good arguments, a 32-byte aligned
buffer and room enough write their bytes there and complete OK with the result the table names. Where the
words of TIMING_READ go is the model's reading (log entry 23); the codes and names of events are free (log
entry 8). (13_host.md, 10_timing.md, 06_pages.md, 07_strings_abacus.md, 08_protection.md) -/
def Obligations.ReadCommandsA : Prop :=
  (∀ q s d u, ran 0x00 q s = some (d, u) → exec (.nop q) s = .next (complete q (ans stOk) u)) ∧
    (∀ q s d u, ran 0x35 q s = some (d, u) → exec (.timingRead q) s =
      .next (complete q (ans stOk) { u with hif := { u.hif with timingOut := timingWords u } })) ∧
    (∀ q s d u, ran 0x01 q s = some (d, u) →
      leAt d.desc 20 8 % 32 = 0 → catalog.1.length ≤ leAt d.desc 28 4 → exec (.eventCatalog q) s =
      .next (complete q ⟨stOk, catalog.2, 0, 0, 0⟩ (hostWrite q (leAt d.desc 20 8) catalog.1 u))) ∧
    (∀ q s d u, ran 0x1D q s = some (d, u) → coreUp u = true → leAt d.desc 20 8 % 32 = 0 →
      (strBytes (u.abacus.map.str (strNum d))).length ≤ leAt d.desc 28 4 → exec (.stringRead q) s =
      .next (complete q ⟨stOk, (strBytes (u.abacus.map.str (strNum d))).length, 0, 0, 0⟩
        (hostWrite q (leAt d.desc 20 8) (strBytes (u.abacus.map.str (strNum d))) u))) ∧
    (∀ q s d u, ran 0x1E q s = some (d, u) → coreUp u = true → (d.desc.getD 16 0).toNat < 3 →
      leAt d.desc 20 2 < (if (d.desc.getD 16 0).toNat = 2 then 1024 else 2048) →
      leAt d.desc 20 2 + leAt d.desc 22 2 ≤ (if (d.desc.getD 16 0).toNat = 2 then 1024 else 2048) →
      leAt d.desc 24 8 % 32 = 0 → 8 * leAt d.desc 22 2 ≤ leAt d.desc 32 4 → exec (.pageRead q) s =
      .next (complete q (ans stOk) (hostWrite q (leAt d.desc 24 8)
        ((List.range (leAt d.desc 22 2)).flatMap fun i => leBytes 8 (pageEntry (pageSet u u.page.active)
          (d.desc.getD 16 0).toNat (d.desc.getD 18 0).toNat (leAt d.desc 20 2 + i))) u))) ∧
    (∀ q s d u x, ran 0x24 q s = some (d, u) → coreUp u = true → headNum d < 8192 → group u (headNum d) = some x →
      leAt d.desc 20 8 % 32 = 0 →
      (groupBytes x.dfn ++ groupState u (headNum d) x).length ≤ leAt d.desc 28 4 → exec (.groupRead q) s =
      .next (complete q (ans stOk) (hostWrite q (leAt d.desc 20 8)
        (groupBytes x.dfn ++ groupState u (headNum d) x) u)))

/-- With good arguments, a 32-byte aligned buffer and room enough, each writes its bytes to the buffer and
completes OK: a bin of monitored objects or their defects, the performance counters, the records of the
event log with their head (with no record in the head's range its first number is free), the records of key
slots, the records of the journal (sealed under the key of a slot that serves the journal when one is named,
whose uses they count), the sensors. What the spec leaves open in these bytes is free or the model's reading
(log entries 12, 13, 17, 29). (09_monitoring.md, 12_perf_counters.md, 14_cipher.md, 15_management.md,
16_journal_seesaw.md) -/
def Obligations.ReadCommandsB : Prop :=
  (∀ q s d u, ran 0x40 q s = some (d, u) → (d.desc.getD 16 0).toNat ∈ [1, 2, 3] →
      ∀ day k, binNumber (d.desc.getD 17 0).toNat = some (day, k) →
      0 < leAt d.desc 24 4 → leAt d.desc 20 4 + leAt d.desc 24 4 ≤ classSize (d.desc.getD 16 0).toNat →
      leAt d.desc 28 8 % 32 = 0 →
      (fetchBins u (d.desc.getD 16 0).toNat (leAt d.desc 20 4) (leAt d.desc 24 4) day k).length
        ≤ leAt d.desc 36 4 →
      exec (.pmFetch q) s = .next (complete q (ans stOk) (hostWrite q (leAt d.desc 28 8)
        (fetchBins u (d.desc.getD 16 0).toNat (leAt d.desc 20 4) (leAt d.desc 24 4) day k) u))) ∧
    (∀ q s d u, ran 0x40 q s = some (d, u) → (d.desc.getD 16 0).toNat ∈ [4, 5, 6] →
      0 < leAt d.desc 24 4 →
      leAt d.desc 20 4 + leAt d.desc 24 4 ≤ classSize (d.desc.getD 16 0).toNat → leAt d.desc 28 8 % 32 = 0 →
      (fetchDefects u ((d.desc.getD 16 0).toNat - 3) (leAt d.desc 20 4) (leAt d.desc 24 4)).length
        ≤ leAt d.desc 36 4 →
      exec (.pmFetch q) s = .next (complete q (ans stOk) (hostWrite q (leAt d.desc 28 8)
        (fetchDefects u ((d.desc.getD 16 0).toNat - 3) (leAt d.desc 20 4) (leAt d.desc 24 4)) u))) ∧
    (∀ q s d u, ran 0x41 q s = some (d, u) →
      (bitOf (d.desc.getD 16 0).toNat 0 = true →
        (d.desc.getD 18 0).toNat < 192 ∧ (d.desc.getD 18 0).toNat + (d.desc.getD 19 0).toNat ≤ 192) →
      perfUp u = true → leAt d.desc 20 8 % 32 = 0 →
      ∀ bs, bs = perfDump u (bitOf (d.desc.getD 16 0).toNat 0) (bitOf (d.desc.getD 16 0).toNat 1)
        (d.desc.getD 18 0).toNat (d.desc.getD 19 0).toNat → bs.length ≤ leAt d.desc 28 4 →
      exec (.perfRead q) s = .next (complete q (ans stOk) (hostWrite q (leAt d.desc 20 8) bs u))) ∧
    (∀ q s d u, ran 0x42 q s = some (d, u) → 1 ≤ leAt d.desc 24 4 → leAt d.desc 24 4 ≤ 65536 →
      ∀ first k, first = max (leAt d.desc 16 8) (logOldest u) →
      k = min (leAt d.desc 24 4) (u.mgmt.logNext - first) → 32 + 32 * k ≤ leAt d.desc 28 4 →
      leAt d.desc 32 8 % 32 = 0 → ¬ (0 < u.pwr.step ∧ u.pwr.step < 5) →
      (0 < k → exec (.eventLogRead q) s = .next (complete q (ans stOk) (hostWrite q (leAt d.desc 32 8)
        (leBytes 8 first ++ leBytes 8 (logOldest u) ++ leBytes 8 u.mgmt.logNext ++ leBytes 4 k ++ leBytes 4 0
          ++ (logRecords first k u).1) (logRecords first k u).2))) ∧
      (k = 0 → exec (.eventLogRead q) s = .next (complete q (ans stOk) (hostWrite q (leAt d.desc 32 8)
        (leBytes 8 (draw u).1 ++ leBytes 8 (logOldest u) ++ leBytes 8 u.mgmt.logNext ++ leBytes 4 0 ++ leBytes 4 0)
          (draw u).2)))) ∧
    (∀ q s d u, ran 0x62 q s = some (d, u) → leAt d.desc 16 2 < 1024 → 0 < leAt d.desc 18 2 →
      leAt d.desc 16 2 + leAt d.desc 18 2 ≤ 1024 →
      leAt d.desc 20 8 % 32 = 0 →
      ∀ bs, bs = ((List.range (leAt d.desc 18 2)).flatMap fun i => keyRecord u (leAt d.desc 16 2 + i)) →
      bs.length ≤ leAt d.desc 28 4 →
      exec (.keyRead q) s =
        .next (complete q ⟨stOk, 32 * leAt d.desc 18 2, 0, 0, 0⟩ (hostWrite q (leAt d.desc 20 8) bs u))) ∧
    (∀ q s d u, ran 0x84 q s = some (d, u) → 1 ≤ leAt d.desc 24 2 → leAt d.desc 24 2 ≤ 4096 →
      ∀ k rs, k = leAt d.desc 26 2 → rs = readRecords u k (leAt d.desc 16 8) (leAt d.desc 24 2) →
      (k = 0xFFFF ∨ (u.sec.locked = false ∧ slotServes u k 1 false rs.length = true)) →
      leAt d.desc 32 8 % 32 = 0 → rs.flatten.length ≤ leAt d.desc 28 4 →
      ∀ v, v = (if k = 0xFFFF then u else opStart (some k) rs.length u) →
      exec (.jnlRead q) s =
        .next (complete q ⟨stOk, rs.length, lowestSeq v, 0, 0⟩ (hostWrite q (leAt d.desc 32 8) rs.flatten v))) ∧
    (∀ q s d u, ran 0x76 q s = some (d, u) →
      ¬ (0 < u.pwr.step ∧ u.pwr.step < 5) → leAt d.desc 20 8 % 32 = 0 →
      (sensorBytes u).length ≤ leAt d.desc 28 4 →
      exec (.sensorRead q) s = .next (complete q (ans stOk) (hostWrite q (leAt d.desc 20 8) (sensorBytes u) u)))

/-- Each of the six, when the shared checks pass, no other batch holds its string and its fields make a command:
without JOIN it forms a committed batch of its own, whose placement is requested; with JOIN it is taken into
the open batch of its queue. (07_strings_abacus.md, 13_host.md) -/
def Obligations.StringCommands : Prop :=
  ∀ (c : Nat → Instr) (o : Nat) (parse : State → Nat → Fetched → Parsed),
    (c, o, parse) ∈ [(Instr.stringCreate, 0x10, parseCreate), (Instr.stringConnect, 0x11, parseConnect),
      (Instr.stringDisconnect, 0x12, parseDisconnect), (Instr.stringResize, 0x13, parseResize),
      (Instr.stringCondition, 0x14, parseCondition), (Instr.stringDelete, 0x15, parseDelete)] →
    ∀ q s d u x, ran o q s = some (d, u) → sharedCheck u = none →
      heldAgainst u q (strNum d) (bitOf (d.desc.getD 1 0).toNat 0) = false → parse u q d = .ok x →
      exec (c q) s = .next (
        if bitOf (d.desc.getD 1 0).toNat 0 then joinBatch q x u
        else request (.batch q 0 none false)
          (onAbacus (fun a => { a with batches := a.batches ++ [⟨q, true, [x]⟩] }) u))

/-- With the shared checks passed: BATCH_COMMIT without an open batch completes OK, and with one commits it and
requests its placement at the tick, follow and stage it names; REPACK requests a full repack; PAGE_DISARM of
a host page armed for no tick yet or for one more than one ahead completes the waiting command DISARMED and
its own OK and resynchronizes the standby page, of a BUILT set discards it in the same way, of a committed
set completes SWAP_COMMITTED, and of a set that a group engine armed NOT_PERMITTED; PAGE_SWAP_AT gives the
armed follow page its swap tick. SCEN_SAVE of a slot that is not LOADING requests the save, and with
FROM_BUILT and a BUILT set saves that set; SCEN_LOAD of a slot that is not EMPTY, STALE or REBUILDING
requests the load; SCEN_DELETE of a slot that is neither SAVING nor LOADING empties it, journals the
deletion and completes OK once the record is persistent. That a set of a vacated step may be disarmed is the
model's reading (log entry 42). (06_pages.md, 07_strings_abacus.md, 13_host.md) -/
def Obligations.PageCommands : Prop :=
  (∀ q s d u, ran 0x16 q s = some (d, u) → sharedCheck u = none →
      (bitOf (d.desc.getD 24 0).toNat 0 = true → (d.desc.getD 25 0).toNat < 8) →
      (u.abacus.batches.find? fun x => x.q = q && !x.committed) = none →
      exec (.batchCommit q) s = .next (complete q (ans stOk) u)) ∧
    (∀ q s d u x, ran 0x16 q s = some (d, u) → sharedCheck u = none →
      (bitOf (d.desc.getD 24 0).toNat 0 = true → (d.desc.getD 25 0).toNat < 8) →
      (u.abacus.batches.find? fun x => x.q = q && !x.committed) = some x →
      exec (.batchCommit q) s = .next (request (.batch q (leAt d.desc 16 8)
        (if bitOf (d.desc.getD 24 0).toNat 0
          then some ((d.desc.getD 25 0).toNat, BitVec.ofNat 8 (d.desc.getD 26 0).toNat) else none)
        (bitOf (d.desc.getD 24 0).toNat 1))
        (onAbacus (fun a => { a with batches := a.batches.erase x ++ [{ x with committed := true }] }) u))) ∧
    (∀ q s d u, ran 0x17 q s = some (d, u) → sharedCheck u = none → exec (.repack q) s = .next (request (.repack q) u)) ∧
    (∀ q s d u a, ran 0x18 q s = some (d, u) → sharedCheck u = none → u.page.standby = .armed →
      u.page.armed = some a → a.work.group = false → a.work.source ≠ 2 → (∀ x, a.swap = some x → u.tick + 1 < x) →
      exec (.pageDisarm q) s = .next (complete q (ans stOk)
        (resync (dropWork a.work (completeOpt a.waiter (ans stDisarmed) u))))) ∧
    (∀ q s d u a, ran 0x19 q s = some (d, u) → sharedCheck u = none → u.page.standby = .armed →
      u.page.armed = some a → a.swap = none →
      exec (.pageSwapAt q) s = .next (onPage (fun p => { p with armed := some { a with
        swap := some (swapTick (leAt d.desc 16 8) u), waiter := some q } }) u)) ∧
    (∀ q s d u, ran 0x1A q s = some (d, u) → sharedCheck u = none → (d.desc.getD 16 0).toNat < 64 →
      (d.desc.getD 17 0).toNat < 2 → (scen u (d.desc.getD 16 0).toNat).st ≠ 4 →
      exec (.scenSave q) s = .next (request (.save q (d.desc.getD 16 0).toNat
        (bitOf (d.desc.getD 17 0).toNat 0) false (sub d.desc 18 16)) u)) ∧
    (∀ q s d u, ran 0x1B q s = some (d, u) → sharedCheck u = none → (d.desc.getD 16 0).toNat < 64 →
      (scen u (d.desc.getD 16 0).toNat).st ≠ 0 → (scen u (d.desc.getD 16 0).toNat).st ≠ 2 →
      (scen u (d.desc.getD 16 0).toNat).st ≠ 5 →
      exec (.scenLoad q) s = .next (request (.hostLoad q (d.desc.getD 16 0).toNat (leAt d.desc 18 8)
        (bitOf (d.desc.getD 17 0).toNat 0)) u)) ∧
    (∀ q s d u, ran 0x1C q s = some (d, u) → sharedCheck u = none → (d.desc.getD 16 0).toNat < 64 →
      (scen u (d.desc.getD 16 0).toNat).st ≠ 3 → (scen u (d.desc.getD 16 0).toNat).st ≠ 4 →
      ∀ v, v = endRebuild (d.desc.getD 16 0).toNat u →
      exec (.scenDelete q) s = .next (completePersisted q true (ans stOk)
        (journal (scenRecord (d.desc.getD 16 0).toNat true (scen v (d.desc.getD 16 0).toNat))
          (setScen (d.desc.getD 16 0).toNat Scenario.empty v)))) ∧
    (∀ q s d u w, ran 0x18 q s = some (d, u) → sharedCheck u = none → u.page.standby = .built →
      u.page.holder = some w → exec (.pageDisarm q) s = .next (complete q (ans stOk) (resync (dropWork w u)))) ∧
    (∀ q s d u, ran 0x18 q s = some (d, u) → sharedCheck u = none → u.page.standby = .committed →
      exec (.pageDisarm q) s = .next (complete q (ans stSwapCommitted) u)) ∧
    (∀ q s d u a, ran 0x18 q s = some (d, u) → sharedCheck u = none → u.page.standby = .armed →
      u.page.armed = some a → a.work.group = true → exec (.pageDisarm q) s =
      .next (complete q (ans stNotPermitted) u)) ∧
    (∀ q s d u w n, ran 0x1A q s = some (d, u) → sharedCheck u = none → n = (d.desc.getD 16 0).toNat → n < 64 →
      bitOf (d.desc.getD 17 0).toNat 1 = true → (scen u n).st ≠ 4 → u.page.standby = .built →
      u.page.holder = some w → exec (.scenSave q) s = .next (startWork
        (.save q n (bitOf (d.desc.getD 17 0).toNat 0) true (sub d.desc 18 16)) (dropWork w u)))

/-- GROUP_CREATE of a free group without clash and with room in the calendar takes the new group; GROUP_MODIFY
of a group of the same type and size takes the new definition, keeps the conditions of the paths whose
string stays the same, and drops the urgent messages of a group whose SR lane changes; GROUP_DELETE of a
group without a leg and GROUP_REQUEST with a request and a signal the group has ask the group engine, whose
decide phase completes them; GROUP_DELETE with a leg joined completes GROUP_BUSY. When a deletion takes
effect is the model's reading (log entry 43). (08_protection.md, 13_host.md) -/
def Obligations.GroupCommands : Prop :=
  (∀ q s d u, ran 0x20 q s = some (d, u) → checkGroup u (headNum d) d = none →
      group u (headNum d) = none → groupClash u (headNum d) (parseGroup (extOf d)) = false →
      calendarFull u (headNum d) (parseGroup (extOf d)) = false →
      exec (.groupCreate q) s = .next (takeGroup q (headNum d) (newGroup u (headNum d) (parseGroup (extOf d))) u)) ∧
    (∀ q s d u y x, ran 0x21 q s = some (d, u) → group u (headNum d) = some y → x = parseGroup (extOf d) →
      checkGroup u (headNum d) d = none → x.type = y.dfn.type → x.n = y.dfn.n →
      groupClash u (headNum d) x = false → calendarFull u (headNum d) x = false →
      exec (.groupModify q) s = .next (takeGroup q (headNum d) { y with
        dfn := x, restored := false, changed := true
        paths := y.paths.filter fun e => samePath y.dfn x e.1
        latePaths := y.latePaths.filter fun e => samePath y.dfn x e.1
        bothAt := (if y.restored then none else y.bothAt) }
        (if x.sr = y.dfn.sr then u else dropUrgent (headNum d) u))) ∧
    (∀ q s d u y, ran 0x22 q s = some (d, u) → sharedCheck u = none → headNum d < 8192 →
      group u (headNum d) = some y → hasLeg u (headNum d) = false →
      exec (.groupDelete q) s = .next (askGroup (headNum d) q 0x10 0 u)) ∧
    (∀ q s d u y req sig, ran 0x23 q s = some (d, u) → sharedCheck u = none → headNum d < 8192 →
      group u (headNum d) = some y → req = (d.desc.getD 18 0).toNat → sig = (d.desc.getD 19 0).toNat →
      ((req ∈ [8, 5, 3] ∧ 0 < sig ∧ sig ≤ y.dfn.n) ∨ (req ∈ [0, 0xA] ∧ sig = 0)) →
      exec (.groupRequest q) s = .next (askGroup (headNum d) q req sig u)) ∧
    (∀ q s d u y, ran 0x22 q s = some (d, u) → sharedCheck u = none → headNum d < 8192 →
      group u (headNum d) = some y → hasLeg u (headNum d) = true →
      exec (.groupDelete q) s = .next (complete q (ans stGroupBusy) u))

/-- TIMING_CONFIG of a register it may write writes the masked value, journals the registers and completes, and
of any other offset completes INVALID_ARG; TIMING_FREQ in SOFT mode aims at the new frequency from the
present one and is WRONG_MODE in any other; TIMING_PHASE_STEP within bounds adds to the step left, and is
WRONG_MODE while a reference is followed; TOD_SET and TOD_ADJ enter the change with its tick edge, at which
they complete. (10_timing.md, 13_host.md) -/
def Obligations.TimingCommands : Prop :=
  (∀ q s d u, ran 0x30 q s = some (d, u) → timingMask (leAt d.desc 16 2) ≠ 0 →
      ∀ m, m = (BitVec.ofNat 32 (leAt d.desc 24 4) &&& BitVec.ofNat 32 (timingMask (leAt d.desc 16 2))).toNat →
      exec (.timingConfig q) s = .next (completeRegs q (modeWritten (leAt d.desc 16 2) m
        (putReg (0x30000 + leAt d.desc 16 2) (BitVec.ofNat 32 (leAt d.desc 20 4)) m u)))) ∧
    (∀ q s d u, ran 0x31 q s = some (d, u) → u.timing.mode = 4 →
      exec (.timingFreq q) s = .next (complete q (ans stOk) { u with timing := { u.timing with
        softFrom := softFreq u, softTo := (BitVec.ofNat 32 (leAt d.desc 16 4)).toInt,
        softSince := u.tick, softAt := u.tick } })) ∧
    (∀ q s d u x, ran 0x32 q s = some (d, u) → x = (BitVec.ofNat 32 (leAt d.desc 16 4)).toInt →
      u.timing.mode ≠ 1 → u.timing.mode ≠ 2 →
      (anyService u = false ∨ (d.desc.getD 20 0).toNat = 1) → x.natAbs ≤ 500000 →
      (u.timing.stepLeft + x).natAbs ≤ 500000 →
      exec (.timingPhaseStep q) s = .next (complete q (ans stOk) { u with timing := { u.timing with
        stepLeft := u.timing.stepLeft + x
        stepForced := (if u.timing.stepLeft = 0 then decide ((d.desc.getD 20 0).toNat = 1)
          else u.timing.stepForced && decide ((d.desc.getD 20 0).toNat = 1)) } })) ∧
    (∀ q s d u, ran 0x33 q s = some (d, u) → leAt d.desc 24 4 < 1000000000 →
      (leAt d.desc 28 8 = 0 ∨ u.tick < leAt d.desc 28 8) →
      exec (.todSet q) s = .next { u with timing := { u.timing with todAsk := u.timing.todAsk ++
        [.set q (if leAt d.desc 28 8 = 0 then edgeAfter2 u else leAt d.desc 28 8)
          (leAt d.desc 16 6) (leAt d.desc 24 4)] } }) ∧
    (∀ q s d u x, ran 0x34 q s = some (d, u) → x = (BitVec.ofNat 64 (leAt d.desc 16 8)).toInt →
      0 ≤ todAhead u (edgeAfter2 u - u.tick) + x →
      exec (.todAdj q) s = .next { u with timing := { u.timing with todAsk := u.timing.todAsk ++
        [.adj q (edgeAfter2 u) x] } }) ∧
    (∀ q s d u, ran 0x30 q s = some (d, u) → timingMask (leAt d.desc 16 2) = 0 →
      exec (.timingConfig q) s = .next (complete q (badArg 16) u)) ∧
    (∀ q s d u, ran 0x31 q s = some (d, u) → u.timing.mode ≠ 4 →
      exec (.timingFreq q) s = .next (complete q (ans stWrongMode) u)) ∧
    (∀ q s d u, ran 0x32 q s = some (d, u) → (u.timing.mode = 1 ∨ u.timing.mode = 2) →
      exec (.timingPhaseStep q) s = .next (complete q (ans stWrongMode) u))

/-- With the banks powered. BANK_ALLOC of a bank in the pool, or with 0xFF of a bank of the pool (the lowest,
which is the model's choice, log entry 45), begins to write that bank to zero for the queue, and
BANK_ALLOC_DONE completes it; a named bank that is not in the pool is REFUSED, and with no bank in the pool
the command completes NO_BANK. BANK_RELEASE of a whole bank of HDMA starts its hand-over to NONE, at whose
effect it completes (as the supervisor's agent, log entry 78), is BUSY while one is pending, and of any
other bank is REFUSED. MTEST_CONFIG of an LK register of MTEST writes the masked value, journals the
registers and completes, and of any other offset completes INVALID_ARG. MTEST_RUN of a bank that is not
FAILED enters the test, destructive when NONE owns the bank, preserving when its LEND_OK is 1, and is
REFUSED otherwise; it completes when the test ends. That a bank counts as in the pool only while it is
whole, untested and not being zeroed or handed over is the model's reading (log entry 45).
(11_engines_banks.md, 13_host.md) -/
def Obligations.BankCommands : Prop :=
  (∀ q s d u n, ran 0x50 q s = some (d, u) → banksUp u = true → n = (d.desc.getD 16 0).toNat → n < 128 →
      (inPool u n = true → exec (.bankAlloc q) s = .next (setBank n { bank u n with zeroing := some q } u)) ∧
      (inPool u n = false → exec (.bankAlloc q) s = .next (complete q (ans stRefused) u))) ∧
    (∀ q s d u, ran 0x50 q s = some (d, u) → banksUp u = true → (d.desc.getD 16 0).toNat = 0xFF →
      (∀ n, (List.range 128).find? (inPool u) = some n → inPool u n = true ∧
        exec (.bankAlloc q) s = .next (setBank n { bank u n with zeroing := some q } u)) ∧
      ((∀ n, n < 128 → inPool u n = false) → exec (.bankAlloc q) s = .next (complete q (ans stNoBank) u))) ∧
    (∀ q s d u n, ran 0x51 q s = some (d, u) → banksUp u = true → n = (d.desc.getD 16 0).toNat → n < 128 →
      ((bank u n).owner = 2 → (bank u n).failed = false → (bank u n).handover = none → exec (.bankRelease q) s =
        .next (setBank n { bank u n with handover := some (0, now u, 194), release := some q } u)) ∧
      ((bank u n).owner = 2 → (bank u n).failed = false → (bank u n).handover ≠ none → exec (.bankRelease q) s =
        .next (complete q (ans stBusy) (count 0x500414 u))) ∧
      ((bank u n).owner ≠ 2 ∨ (bank u n).failed = true →
        exec (.bankRelease q) s = .next (complete q (ans stRefused) u))) ∧
    (∀ q s d u, ran 0x52 q s = some (d, u) → banksUp u = true →
      (mtestMask (leAt d.desc 16 2) ≠ 0 → exec (.mtestConfig q) s = .next (completeRegs q
        (putReg (0x510000 + leAt d.desc 16 2) (BitVec.ofNat 32 (leAt d.desc 20 4))
          (BitVec.ofNat 32 (leAt d.desc 24 4) &&& BitVec.ofNat 32 (mtestMask (leAt d.desc 16 2))).toNat u))) ∧
      (mtestMask (leAt d.desc 16 2) = 0 → exec (.mtestConfig q) s = .next (complete q (badArg 16) u))) ∧
    (∀ q s d u n m, ran 0x53 q s = some (d, u) → banksUp u = true → n = (d.desc.getD 16 0).toNat → n < 128 →
      m = (d.desc.getD 17 0).toNat → m < 2 → (bank u n).failed = false →
      ((m = 1 ∧ (bank u n).owner = 0) ∨ (m = 0 ∧ (bank u n).lendOk = true) → exec (.mtestRun q) s =
        .next (onMtest (fun t => { t with asks := t.asks ++ [⟨q, n, decide (m = 1), 0, 0⟩] }) u)) ∧
      ((m = 1 ∧ (bank u n).owner ≠ 0) ∨ (m = 0 ∧ (bank u n).lendOk = false) → exec (.mtestRun q) s =
        .next (complete q (ans stRefused) u))) ∧
    (∀ q s d u n, ran 0x53 q s = some (d, u) → banksUp u = true → n = (d.desc.getD 16 0).toNat → n < 128 →
      (d.desc.getD 17 0).toNat < 2 → (bank u n).failed = true →
      exec (.mtestRun q) s = .next (complete q (ans stRefused) u))

/-- KEY_UNWRAP with an extension of 128 bytes whose padding is 0: of a blob that is not a key-encryption key,
into a slot below 1,024 that is neither LOADING nor ERASING, of the generation named, and that the function
may load, with a good header, makes the slot LOADING and waits for a datapath; of a key-encryption key with
a good header, sent by the PF, waits for a datapath. KEY_ERASE of a loaded slot of the generation named,
that the function may erase, makes it ERASING; an EMPTY slot is erased already, and one LOADING or ERASING
is BUSY. CIPHER_OP whose slot is still loading, or which no rule stops, waits for a datapath; one that a
rule stops completes with its status, and a wrong generation is counted. What a VF may do and what waits for
what are read from several rules together (log entry 44); the padding is log entry 53. (14_cipher.md,
13_host.md) -/
def Obligations.KeyCommands : Prop :=
  (∀ q s d u, ran 0x60 q s = some (d, u) → extLen d.desc = 128 → blobPadding (extOf d) = none →
      (extOf d).getD 5 0 ≠ 2 → leAt d.desc 16 2 < 1024 →
      ∀ k x, k = leAt d.desc 16 2 → x = keySlot u k → x.st ≠ 1 → x.st ≠ 3 →
      (leAt d.desc 20 2 = 0 ∨ leAt d.desc 20 2 = x.gen) → vfMay (qFunction u q) x = true →
      (qFunction u q = 0 ∨ (((extOf d).getD 20 0).toNat = 0 ∧ ((extOf d).getD 21 0).toNat = qFunction u q)) →
      blobHeaderOk u.sec.owner.isSome (extOf d) = true → exec (.keyUnwrap q) s =
        .next (waitDp (.unwrap q (some k)) (setKeySlot k { x with st := 1, was := x.st } u))) ∧
    (∀ q s d u, ran 0x60 q s = some (d, u) → extLen d.desc = 128 → blobPadding (extOf d) = none →
      (extOf d).getD 5 0 = 2 → qFunction u q = 0 →
      blobHeaderOk u.sec.owner.isSome (extOf d) = true →
      exec (.keyUnwrap q) s = .next (waitDp (.unwrap q none) u)) ∧
    (∀ q s d u k x, ran 0x61 q s = some (d, u) → k = leAt d.desc 16 2 → k < 1024 → x = keySlot u k →
      x.st ≠ 0 → x.st ≠ 1 → x.st ≠ 3 →
      (leAt d.desc 20 2 = 0 ∨ leAt d.desc 20 2 = x.gen) → vfMay (qFunction u q) x = true →
      ∀ v, v = setKeySlot k { x with st := 3 } u →
      exec (.keyErase q) s = .next { v with sec := { v.sec with erasing := v.sec.erasing ++ [(q, k)] } }) ∧
    (∀ q s d u a, ran 0x63 q s = some (d, u) → a = cipherAsk d → extLen d.desc = 64 → a.slot < 1024 → a.mode ≤ 5 →
      ((keySlot u a.slot).st = 1 ∨ opStop u q = none → exec (.cipherOp q) s = .next (waitDp (.op q) u)) ∧
      (∀ r, (keySlot u a.slot).st ≠ 1 → opStop u q = some r →
        exec (.cipherOp q) s = .next (refuseOp q r u))) ∧
    (∀ q s d u k x, ran 0x61 q s = some (d, u) → k = leAt d.desc 16 2 → k < 1024 → x = keySlot u k →
      ((x.st = 1 ∨ x.st = 3) → exec (.keyErase q) s = .next (complete q (ans stBusy) u)) ∧
      (x.st = 0 → (leAt d.desc 20 2 = 0 ∨ leAt d.desc 20 2 = x.gen) → vfMay (qFunction u q) x = true →
        exec (.keyErase q) s = .next (complete q (ans stOk) u)))

/-- IMAGE_STAGE with no image work under way and its container read begins to stage it, and with a container
that cannot be read completes EXT_FAULT (log entry 16); IMAGE_ACTIVATE starts, confirms or abandons a trial
by its MODE; CLUSTER_ACTIVATE asks for the restart of the cluster when the running image has a component for
it that passes its checks and whose major version agrees, completes IMAGE_INVALID otherwise, and counts the
segments it opened. That a cluster without a working host cluster is UNAVAILABLE is the model's reading (log
entry 46). (15_management.md, 13_host.md) -/
def Obligations.ImageCommands : Prop :=
  (∀ q b s d u, ran 0x70 q s = some (d, u) → imageBusy u = false →
      exec (.imageStage q (some b)) s =
        .next (onImage (fun x => { x with staging := some (q, b.take (leAt d.desc 24 4)) }) u)) ∧
    (∀ q s d u, ran 0x71 q s = some (d, u) → imageBusy u = false →
      (d.desc.getD 16 0).toNat = 0 → exec (.imageActivate q) s = .next (startTrial q u)) ∧
    (∀ q s d u, ran 0x71 q s = some (d, u) → imageBusy u = false →
      u.image.onTrial = true → (d.desc.getD 16 0).toNat = 1 →
      exec (.imageActivate q) s = .next (confirmTrial q u)) ∧
    (∀ q s d u, ran 0x71 q s = some (d, u) → imageBusy u = false →
      u.image.onTrial = true → (d.desc.getD 16 0).toNat = 2 →
      exec (.imageActivate q) s = .next (abandonTrial (some q) u)) ∧
    (∀ q s d u c, ran 0x72 q s = some (d, u) → c = (d.desc.getD 16 0).toNat → c ≤ 11 →
      coreUp u = true → u.image.onTrial = false →
      imageBusy u = false → (c = 11 → u.abacus.job = 0 ∧ u.page.standby = .clean) → hostUnfit u c = false →
      ∀ n w, n = clusterOpens u.otp u.image.running c → w = countOpens none n.1 n.2 u →
      exec (.clusterActivate q) s = .next (match clusterComp u.otp u.image.running c with
        | none => complete q (ans stImageInvalid) w
        | some (v, m) => if majorAgrees w v then askRestart ⟨c, some q, w.tick, none, false, none, none, [], v, m⟩ w
          else complete q (ans stImageInvalid) w)) ∧
    (∀ q s d u, ran 0x70 q s = some (d, u) → imageBusy u = false → exec (.imageStage q none) s =
      .next (complete q (ans stExtFault) (fire (qFunction u q) 0 u)))

/-- LIFECYCLE_SET and DEBUG_UNLOCK with a well-formed accepted token move the life cycle or unlock debug, draw
the next challenge (free, log entry 13) and complete OK; with a token that is not accepted they complete
NOT_PERMITTED and nothing else. ATTEST with good arguments, at least 100 ms after the last one that wrote a
report, writes the report, followed by the certificate when it is asked for, and completes OK with its
length; sooner it is BUSY. JNL_CONFIG and SEESAW_CONFIG with good arguments write their register, journal
the registers and complete; JNL_COMPACT of a journal in service with no compaction under way begins one at
the last record; SEESAW_RELEASE by the active twin completes OK and releases when it is forced, or when PX
is LINKED and the twin is synchronized and may claim; by a twin that is not active it completes NOT_ACTIVE.
That reserved bytes of tokens and of the ATTEST extension must be 0 is the model's reading (log entries 48
and 53). (15_management.md, 13_host.md, 16_journal_seesaw.md) -/
def Obligations.TokenAndJournalCommands : Prop :=
  (∀ q s d u, ran 0x73 q s = some (d, u) → tokenForm d = none →
      exec (.lifecycleSet q) s = .next (if tokenOk u [2, 3, 4] (extOf d)
        then complete q (ans stOk) (newChallenge (useToken (extOf d) u)) else complete q (ans stNotPermitted) u)) ∧
    (∀ q s d u, ran 0x74 q s = some (d, u) → tokenForm d = none →
      exec (.debugUnlock q) s = .next (if tokenOk u [1] (extOf d)
        then complete q (ans stOk) (newChallenge (onMgmt (fun m => { m with unlocked := true }) u))
        else complete q (ans stNotPermitted) u)) ∧
    (∀ q s d u r, ran 0x75 q s = some (d, u) → extLen d.desc = 64 → leAt d.desc 16 8 % 32 = 0 →
      ∀ cert, cert = (if bitOf (d.desc.getD 28 0).toNat 0 then u.otp.cert else []) →
      896 + cert.length ≤ leAt d.desc 24 4 →
      ((List.range' 32 32).find? fun i => (extOf d).getD i 0 ≠ 0) = none →
      (∀ t, u.mgmt.attestAt = some t → t + 100000 ≤ u.tick) →
      r = attestReport ((extOf d).take 32) (onMgmt (fun m => { m with attestAt := some u.tick }) u) →
      exec (.attest q) s =
        .next (complete q ⟨stOk, 896 + cert.length, 0, 0, 0⟩ (hostWrite q (leAt d.desc 16 8) (r.1 ++ cert) r.2))) ∧
    (∀ q s d u, ran 0x80 q s = some (d, u) → jnlConfigCheck u d.desc = none →
      exec (.jnlConfig q) s = .next (completeRegs q (setReg 0x80004 (jnlCfg u d.desc) u))) ∧
    (∀ q s d u, ran 0x81 q s = some (d, u) → u.jnl.st < 2 →
      u.jnl.compacting = none → exec (.jnlCompact q) s =
        .next { u with jnl := { u.jnl with compacting := some (u.jnl.lastSeq, some q) } }) ∧
    (∀ q s d u, ran 0x82 q s = some (d, u) → (d.desc.getD 16 0).toNat ≤ 2 →
      10 ≤ leAt d.desc 18 2 → leAt d.desc 18 2 ≤ 10000 → 1 ≤ (d.desc.getD 20 0).toNat →
      (d.desc.getD 20 0).toNat ≤ 100 → 2 ≤ (d.desc.getD 21 0).toNat → (d.desc.getD 21 0).toNat ≤ 15 →
      exec (.seesawConfig q) s =
        .next (completeRegs q (modeClaim (sswMode u) (setReg 0x40004 (seesawCfg d.desc) u)))) ∧
    (∀ q s d u, ran 0x83 q s = some (d, u) →
      u.ssw.actOut = true →
      ((d.desc.getD 16 0).toNat = 1 ∨
        (pxLinked u = true ∧ u.ssw.hb.synced = true ∧ u.ssw.hb.claimEn = true)) →
      exec (.seesawRelease q) s = .next (complete q (ans stOk) (release 1 u))) ∧
    (∀ q s d u t, ran 0x75 q s = some (d, u) → extLen d.desc = 64 → leAt d.desc 16 8 % 32 = 0 →
      896 + u.otp.cert.length ≤ leAt d.desc 24 4 →
      ((List.range' 32 32).find? fun i => (extOf d).getD i 0 ≠ 0) = none →
      u.mgmt.attestAt = some t → u.tick < t + 100000 → exec (.attest q) s = .next (complete q (ans stBusy) u)) ∧
    (∀ q s d u, ran 0x83 q s = some (d, u) → u.ssw.actOut = false →
      exec (.seesawRelease q) s = .next (complete q (ans stNotActive) u))

/-- With the link up and the ring enabled for the function that writes, an index below the size of the ring
becomes the producer index of the submission queue, the consumer index of the completion queue or the
consumer index of the event ring, and every other queue stays as it is. A write by another function, or to a
ring that is not enabled, is only counted. An index outside the ring is counted too, and puts the queue or
the ring in ERROR unless it is there already. (13_host.md) -/
def Obligations.Doorbells : Prop :=
  (∀ f q v s, linkUp s = true → okQueue q = true → (queue s q).enabled = true → qFunction s q = f →
      v.toNat % 65536 < sqSize s q → Does (.sqPiDoorbell f q v) s fun t =>
        (queue t q).pi = v.toNat % 65536 ∧ (∀ r, r ≠ q → queue t r = queue s r) ∧ Only [.queues] s t) ∧
    (∀ f q v s, linkUp s = true → okQueue q = true → (queue s q).enabled = true → qFunction s q = f →
      v.toNat % 65536 < cqSize s q → Does (.cqCiDoorbell f q v) s fun t =>
        (queue t q).cci = v.toNat % 65536 ∧ (∀ r, r ≠ q → queue t r = queue s r) ∧ Only [.queues] s t) ∧
    (∀ f r v s, linkUp s = true → okRing r = true → (ring s r).enabled = true → rFunction s r = f →
      v.toNat % 65536 < ringSize s r → Does (.eqCiDoorbell f r v) s fun t =>
        (ring t r).ci = v.toNat % 65536 ∧ ∀ q, queue t q = queue s q) ∧
    (∀ f q v s, linkUp s = true → okQueue q = true → ((queue s q).enabled = false ∨ qFunction s q ≠ f) →
      exec (.sqPiDoorbell f q v) s = .next (count 0x50010 s) ∧
      exec (.cqCiDoorbell f q v) s = .next (count 0x50010 s)) ∧
    (∀ f r v s, linkUp s = true → okRing r = true → ((ring s r).enabled = false ∨ rFunction s r ≠ f) →
      exec (.eqCiDoorbell f r v) s = .next (count 0x50010 s)) ∧
    (∀ f q v s, linkUp s = true → okQueue q = true → (queue s q).enabled = true → qFunction s q = f →
      (sqSize s q ≤ v.toNat % 65536 → exec (.sqPiDoorbell f q v) s = .next (queueRange q (count 0x50010 s))) ∧
      (cqSize s q ≤ v.toNat % 65536 → exec (.cqCiDoorbell f q v) s = .next (queueRange q (count 0x50010 s)))) ∧
    (∀ f r v s, linkUp s = true → okRing r = true → (ring s r).enabled = true → rFunction s r = f →
      ringSize s r ≤ v.toNat % 65536 → exec (.eqCiDoorbell f r v) s =
        .next (if (ring s r).error then count 0x50010 s else ringError r 1 (count 0x50010 s)))

/-- A write of QCFG with ENABLE 1 to a queue that is off, with both sizes allowed, starts it with empty rings,
indices 0, phase 1 and no error, and with a size that is not allowed, or to an enabled queue, changes
nothing; one with ENABLE 0 to an enabled queue closes it, and to a queue that is off takes its fields. A
write of EQCFG with ENABLE 1 to a ring that is off, with its size allowed, starts it, and otherwise changes
nothing; one with ENABLE 0 stops a ring, whose error stays until it is enabled again, and takes the fields
of one that is off. That the indices written by doorbells start at 0 is the model's reading (log entry 30),
as is which errors stay (log entry 31). (13_host.md) -/
def Obligations.RingEnables : Prop :=
  (∀ q v s, okQueue q = true → linkUp s = true → v.getLsbD 31 = true → bitOf (qcfg s q) 31 = false →
      (queue s q).enabled = false → logOk (bitsOf v.toNat 26 22) = true → logOk (bitsOf v.toNat 21 17) = true →
      Does (.queueEnable q v) s fun t => cfg t (0x51010 + 0x40 * q) = v ∧ (queue t q).enabled = true ∧
        (queue t q).error = false ∧ (queue t q).pi = 0 ∧ (queue t q).fi = 0 ∧ (queue t q).ci = 0 ∧
        (queue t q).cpi = 0 ∧ (queue t q).cci = 0 ∧ (queue t q).phase = true ∧ (queue t q).fetched = [] ∧
        (queue t q).running = none ∧ (∀ r, r ≠ q → queue t r = queue s r)) ∧
    (∀ q v s, okQueue q = true → linkUp s = true → v.getLsbD 31 = false → bitOf (qcfg s q) 31 = true →
      exec (.queueDisable q v) s = .next (closeQueue q s)) ∧
    (∀ r v s, okRing r = true → linkUp s = true → v.getLsbD 31 = true → bitOf (eqcfg s r) 31 = false →
      (ring s r).enabled = false → logOk (bitsOf (v &&& 0xFFFF8000).toNat 26 22) = true →
      Does (.eqEnable r v) s fun t => cfg t (0x56008 + 0x20 * r) = v &&& 0xFFFF8000 ∧
        (ring t r).enabled = true ∧ (ring t r).ci = 0) ∧
    (∀ r v s, okRing r = true → linkUp s = true → v.getLsbD 31 = false → bitOf (eqcfg s r) 31 = true →
      Does (.eqDisable r v) s fun t =>
        cfg t (0x56008 + 0x20 * r) = cfg s (0x56008 + 0x20 * r) &&& 0x7FFFFFFF ∧
        (ring t r).enabled = false ∧ (ring t r).error = (ring s r).error ∧ (ring t r).cause = (ring s r).cause ∧
        Only [.regs, .rings] s t) ∧
    (∀ q v s, okQueue q = true → linkUp s = true → v.getLsbD 31 = true → (bitOf (qcfg s q) 31 = true ∨
      logOk (bitsOf v.toNat 26 22) = false ∨ logOk (bitsOf v.toNat 21 17) = false) →
      exec (.queueEnable q v) s = .next s) ∧
    (∀ r v s, okRing r = true → linkUp s = true → v.getLsbD 31 = true → (bitOf (eqcfg s r) 31 = true ∨
      logOk (bitsOf (v &&& 0xFFFF8000).toNat 26 22) = false) → exec (.eqEnable r v) s = .next s) ∧
    (∀ q v s, okQueue q = true → linkUp s = true → v.getLsbD 31 = false → bitOf (qcfg s q) 31 = false →
      exec (.queueDisable q v) s = .next (setQcfg q v s)) ∧
    (∀ r v s, okRing r = true → linkUp s = true → v.getLsbD 31 = false → bitOf (eqcfg s r) 31 = false →
      exec (.eqDisable r v) s = .next (setReg (0x56008 + 0x20 * r) (v &&& 0xFFFF8000) s))

/-- With the firmware serving, a fetch for the queue whose turn it is takes the descriptors that fit, in order,
and completes those with no defined opcode; with the link down every read of it fails; for another queue it
does nothing. An interrupt timer that has run its time since the oldest record not signalled fires the
vector of its ring and forgets the records. A function-level reset resets the rings and queues of the
function and fires its error vector. PERST_N asserted resets the host interface; deasserted, the interface
is ready once start-up allows it. A link change while PERST_N and POR_N are high records the speed, the
width, flit mode and the configuration that came with it, or that the link is down; one to a speed, width or
configuration that does not exist changes nothing. Which errors and indices a reset leaves is the model's
reading (log entries 30 and 31). (13_host.md, 17_power_startup.md) -/
def Obligations.HostEvents : Prop :=
  (∀ q ds s, linkUp s = true → serving s = true → nextQueue s = some q → (ds.take (fetchable s q)) ≠ [] →
      exec (.descriptorFetch q ds) s = .next (skipUndefined 8 q (fetchEach q (ds.take (fetchable s q))
        { s with hif := { s.hif with turn := q } }))) ∧
    (∀ n s, (ring s n).unsig ≠ 0 → (ring s n).time ≠ 0 → (ring s n).unsigAt + (ring s n).time ≤ s.tick →
      exec (.interruptTimerExpiry true n) s = .next
        (if bitsOf (eqcfg s n) 21 15 ≠ 0
          then fire (rFunction s n) (bitsOf (eqcfg s n) 21 15) (setRing n { ring s n with unsig := 0 } s)
          else setRing n { ring s n with unsig := 0 } s)) ∧
    (∀ n s, (queue s n).unsig ≠ 0 → (queue s n).time ≠ 0 → (queue s n).unsigAt + (queue s n).time ≤ s.tick →
      exec (.interruptTimerExpiry false n) s = .next
        (if bitsOf (qcfg s n) 16 10 ≠ 0
          then fire (qFunction s n) (bitsOf (qcfg s n) 16 10) (setQueue n { queue s n with unsig := 0 } s)
          else setQueue n { queue s n with unsig := 0 } s)) ∧
    (∀ f s, linkUp s = true → exec (.functionLevelReset f) s = .next (fire f 0 (resetFunction f (resetConfig f s)))) ∧
    (∀ s, s.pwr.perst = false →
      exec .perstNAssert s = .next (hostReset { s with pwr := { s.pwr with perst := true } })) ∧
    (∀ s, s.pwr.perst = true → Does .perstNDeassert s fun t => t.pwr.perst = false ∧ t.hif.ready = canReady t ∧
        t.hif.queues = s.hif.queues ∧ Only [.link, .pwr] s t) ∧
    (∀ sp w fl s, s.pwr.perst = false → s.pwr.por = false → s.pwr.st ≠ 0 → okLink sp w fl.vfs fl.mps fl.mrrs = true →
      Does (.pcieLinkChange true sp w fl) s fun t => t.hif.link = true ∧ t.hif.speed = sp ∧ t.hif.width = w ∧
        t.hif.flit = (fl.flit || sp = 6) ∧ t.hif.vfs = fl.vfs ∧ t.hif.mps = fl.mps ∧ t.hif.mrrs = fl.mrrs ∧
        Only [.link] s t) ∧
    (∀ sp w fl s, okLink sp w fl.vfs fl.mps fl.mrrs = false → exec (.pcieLinkChange true sp w fl) s = .next s) ∧
    (∀ sp w fl s, s.pwr.perst = false → s.pwr.por = false → s.pwr.st ≠ 0 →
      Does (.pcieLinkChange false sp w fl) s fun t => t.hif.link = false ∧ t.hif.speed = 0 ∧ t.hif.width = 0 ∧
        Only [.link] s t) ∧
    (∀ q ds s, linkUp s = false → serving s = true → nextQueue s = some q → (ds.take (fetchable s q)) ≠ [] →
      exec (.descriptorFetch q ds) s = .next (skipUndefined 8 q
        (fetchEach q ((ds.map fun _ => none).take (fetchable s q)) { s with hif := { s.hif with turn := q } }))) ∧
    (∀ q ds s, nextQueue s ≠ some q → exec (.descriptorFetch q ds) s = .next s)

/-- With the link up: the magic value of each begins the warm reset (not while shutting down; FLASHn_RESET_N is
driven low with it), the resume from MGMT_ONLY of a card cool enough (the memory test of step 6 begins
again), or the power-down. A resume of a card too hot only raises its event; one from another power state,
and any other value, is discarded and counted. What a warm reset keeps, and how the role goes on, are read
from several rules together (log entries 27, 34 and 35). (17_power_startup.md, 19_registers.md) -/
def Obligations.ResetWrites : Prop :=
  (∀ b s, linkUp s = true → s.pwr.shutting = false → exec (.warmReset 0x57525354 b) s = .next
      (startFromTwo 2 b (onPwr (fun p => { p with
        st := 1, step := 2, late := false, resuming := false, on := 0x1B, times := [], idle := [], cause := 2
        warm := min 0xFFFF (p.warm + 1), straps := (p.straps &&& 0x78) ||| (b.straps &&& 3) })
        (warmWipe (release 5 (resetFlash s)))))) ∧
    (∀ fs s, linkUp s = true → s.pwr.shutting = false → s.pwr.st = 4 → coolEnough s = true →
      exec (.resume 0x5245534D fs) s = .next (laterSteps fs (reportDebug (onPwr (fun p => { p with
        st := 1, step := 6, late := false, resuming := true, times := [], cause := 3 }) s)))) ∧
    (∀ s, linkUp s = true → s.pwr.shutting = false → exec (.shutdown 0x53485554) s =
      .next (powerDown (quiesce (onPwr (fun p => { p with shutting := true }) s)))) ∧
    (∀ v b s, linkUp s = true → v ≠ 0x57525354 → exec (.warmReset v b) s = .next (count 0x10020 s)) ∧
    (∀ v fs s, linkUp s = true → v ≠ 0x5245534D → exec (.resume v fs) s = .next (count 0x10020 s)) ∧
    (∀ v s, linkUp s = true → v ≠ 0x53485554 → exec (.shutdown v) s = .next (count 0x10020 s)) ∧
    (∀ fs s, linkUp s = true → s.pwr.shutting = false → s.pwr.st = 4 → coolEnough s = false →
      exec (.resume 0x5245534D fs) s = .next (raise .resumeHot 0 s.sens.max.toNat s)) ∧
    (∀ v fs s, linkUp s = true → s.pwr.st ≠ 4 → exec (.resume v fs) s = .next (count 0x10020 s))

/-- A write of 1 sets GLB.LOCK, a write of 0 leaves it. With the lock clear and their blocks on, the injection
registers take the bits the manual gives them; the core register is not armed for a target it does not have.
Every other register of the register file stays as it is. (05_core.md, 14_cipher.md, 19_registers.md) -/
def Obligations.LockAndInject : Prop :=
  (∀ v s, linkUp s = true → Does (.lockSet v) s fun t => cfg t 4 = cfg s 4 ||| (v &&& 1) ∧
      (∀ o, o ≠ 4 → cfg t o = cfg s o) ∧ Only [.regs] s t) ∧
    (∀ v s, flg s 4 0 = false → reach s 0x300008 = true → Does (.coreInjectArm v) s fun t =>
      cfg t 0x300008 = (if bitsOf v.toNat 30 29 = 1 ∨ bitsOf v.toNat 30 29 = 2 then v &&& 0xF807FFFF
        else putBits (v &&& 0xF807FFFF) 31 31 0) ∧
      (∀ o, o ≠ 0x300008 → cfg t o = cfg s o) ∧ Only [.regs] s t) ∧
    (∀ v s, linkUp s = true → flg s 4 0 = false → s.pwr.on.getLsbD 5 = true → Does (.secInjectArm v) s fun t =>
      cfg t 0x60004 = v &&& 0xF0000000 ∧ (∀ o, o ≠ 0x60004 → cfg t o = cfg s o) ∧ Only [.regs] s t)

/-- With the link up and the lane or port present, for both rows of LN_CFG and both of PORT CFG, whatever value
they carry: LN_CFG takes its writable bits and no other register changes; on a powered lane ENABLE 1 starts
training, with the taps its preset names, when the lane is off, and leaves the training of a lane that is
on; ENABLE 0 ends it, keeping signal, clock recovery and taps; the training of every other lane stays. CFG
takes its writable bits, with MAINT kept at 1 while ports are held for a decision, and no other register
changes; ENABLE 1 takes a powered port out of DOWN with the lane counts in force, to TRAIN while a lane of
it is not in codeword lock; on a port that is not DOWN, not powered or not enabled the state and the counts
stay, and every other port is as before. TD_CFG takes its writable bits; a port in SERVICE asks for a
rebinding, any other port of the eight takes the new mode at once, and every other port is as before.
TRAIN_RESTART with its bit set on a lane in training starts training again, and otherwise only stores SEED;
HUNT_RESTART with its bit set drops the alignment, the reference and the bond of the lane, and otherwise
only stores its other bit. (03_lanes.md, 04_ports.md, 02_tray_format.md) -/
def Obligations.LaneAndPortWrites : Prop :=
  (∀ l v s c, laneOk l = true → linkUp s = true → c ∈ [Instr.laneEnable l v, .laneDisable l v] →
      Does c s fun t => t = writeLnCfg l v s ∧ cfg t (laneBase l) = maskIn (cfg s (laneBase l)) v 0x37F ∧
      (∀ o, o ≠ laneBase l → cfg t o = cfg s o) ∧ (∀ m, m ≠ l → (lane t m).trn = (lane s m).trn) ∧
      (pdOn s (laneDomain l) = true → bitOf v.toNat 9 = true → (lane s l).trn.rx = 0 →
        (lane t l).trn = { Training.reset with
          tx := 1, rx := 1, signal := (lane s l).trn.signal, cdr := (lane s l).trn.cdr
          taps := presetTaps (bitsOf (cfg t (laneBase l)).toNat 6 4) }) ∧
      (pdOn s (laneDomain l) = true → bitOf v.toNat 9 = false → (lane s l).trn.rx ≠ 0 →
        (lane t l).trn = { Training.reset with
          signal := (lane s l).trn.signal, cdr := (lane s l).trn.cdr, taps := (lane s l).trn.taps }) ∧
      (pdOn s (laneDomain l) = false ∨ bitOf v.toNat 9 = decide ((lane s l).trn.rx ≠ 0) →
        (lane t l).trn = (lane s l).trn)) ∧
    (∀ p v s c, p < 9 → linkUp s = true → c ∈ [Instr.portEnable p v, .portDisable p v] →
      Does c s fun t => t = writePortCfg p v s ∧
      cfg t (portBase p) = maskIn (cfg s (portBase p))
        (if s.ssw.holdPorts = true ∧ p < 8 then putBits v 1 1 1 else v) (portMask p 0) ∧
      (∀ o, o ≠ portBase p → cfg t o = cfg s o) ∧
      ((port s p).st = 0 → bitOf v.toNat 0 = true → pdOn s (laneDomain (laneOf p 0)) = true →
        (port t p).lanes = cfgLanes t p ∧ (port t p).minLanes = cfgMinLanes t p ∧
        ((∃ i, i < cfgLanes t p ∧ (lane s (laneOf p i)).trn.rx ≠ 3) → (port t p).st = 1)) ∧
      ((port s p).st ≠ 0 ∨ bitOf v.toNat 0 = false ∨ pdOn s (laneDomain (laneOf p 0)) = false →
        (port t p).st = (port s p).st ∧ (port t p).lanes = (port s p).lanes ∧
        (port t p).minLanes = (port s p).minLanes ∧ t.lanes = s.lanes ∧ ∀ r, r ≠ p → port t r = port s r)) ∧
    (∀ p v s, p < 9 → linkUp s = true → Does (.tdCfgWrite p v) s fun t =>
      cfg t (portBase p + 8) = maskIn (cfg s (portBase p + 8)) v (portMask p 8) ∧
      (∀ o, o ≠ portBase p + 8 → cfg t o = cfg s o) ∧ (∀ r, r ≠ p → port t r = port s r) ∧
      (p < 8 → (port s p).st = 5 → (port t p).bind = { (port s p).bind with modePending := true } ∧
        p ∈ t.page.rebinds) ∧
      (p < 8 → (port s p).st ≠ 5 → (port t p).bind = { (port s p).bind with
        td := cfg t (portBase p + 8), mode := BitVec.ofNat 2 (tdMode (cfg t (portBase p + 8)))
        modePending := false }) ∧
      (p = 8 → port t p = port s p)) ∧
    (∀ l v s, laneOk l = true → linkUp s = true → bitOf v.toNat 31 = true → (lane s l).trn.rx ≠ 0 →
      Does (.trainRestart l v) s fun t =>
        t = restartTraining l (setReg (laneBase l + 8) (v &&& 0x03FF0000) s) ∧
        (lane t l).trn = { Training.reset with
          tx := 1, rx := 1, signal := (lane s l).trn.signal, cdr := (lane s l).trn.cdr
          taps := presetTaps (bitsOf (cfg s (laneBase l)).toNat 6 4) } ∧
        (∀ m, m ≠ l → lane t m = lane s m) ∧ cfg t (laneBase l + 8) = v &&& 0x03FF0000 ∧
        ∀ o, o ≠ laneBase l + 8 → cfg t o = cfg s o) ∧
    (∀ l v s, laneOk l = true → linkUp s = true → (bitOf v.toNat 31 = false ∨ (lane s l).trn.rx = 0) →
      exec (.trainRestart l v) s = .next (setReg (laneBase l + 8) (v &&& 0x03FF0000) s)) ∧
    (∀ l v s, laneOk l = true → linkUp s = true → bitOf v.toNat 0 = true →
      Does (.huntRestart l v) s fun t =>
        t = loseAlignment l (setReg (laneBase l + 0x804) (v &&& 2) s) ∧
        (lane t l).frm = { (lane s l).frm with
          cands := [], lock := false, takeover := false, lastRow0 := none, bip := none, inFrame := false
          row0Ok := false } ∧
        (lane t l).bond = { (lane s l).bond with bonded := false, good := 0 } ∧
        (lane t l).trn = (lane s l).trn ∧ (∀ m, m ≠ l → lane t m = lane s m) ∧
        cfg t (laneBase l + 0x804) = v &&& 2 ∧ ∀ o, o ≠ laneBase l + 0x804 → cfg t o = cfg s o) ∧
    (∀ l v s, laneOk l = true → linkUp s = true → bitOf v.toNat 0 = false →
      exec (.huntRestart l v) s = .next (setReg (laneBase l + 0x804) (v &&& 2) s))

/-- With the block reached, the counters of the engines first catch up to the end of the present cycle. Then the
low word of a counter is held; the high word writes the counter from both, cut to its width, and no other
counter; a select register takes its writable bits, and PERF.CTRL its five bits, and the setting before
stays in force for the rest of the cycle. PERF_COUNTER_WRAP of a counter that has wrapped reports the
overflow (one event in a tick, where its select asks for events); one at its top that may count is first
counted past its top; of any other counter it does nothing. How the cycles of an engine fall among the
classes is free (log entry 11); that a high word without a low word before it takes 0 is the model's choice
(log entry 70). (12_perf_counters.md) -/
def Obligations.PerfWrites : Prop :=
  (∀ off v i s, reach s off = true → perfCounterAt off = some i → Does (.perfCounterWrite off v) s fun t =>
      t.held = spSet (fun _ => (0 : Word)) off v s.held ∧ t.perf = (perfThrough s).perf ∧
      Only [.held, .eng, .perf] s t) ∧
    (∀ off v i s, reach s off = true → perfCounterAt off = none → perfCounterAt (off - 4) = some i →
      Does (.perfCounterWrite off v) s fun t =>
        t.perf.cnt = spSet (fun _ => (0 : DWord)) i (BitVec.ofNat 64 ((v.toNat * 2 ^ 32 +
          (spGet (fun _ => (0 : Word)) s.held (off - 4)).toNat) % 2 ^ cntWidth i)) (perfThrough s).perf.cnt ∧
        t.perf.ovf = (perfThrough s).perf.ovf ∧ Only [.eng, .perf] s t) ∧
    (∀ off v s, reach s off = true → isSelect off = true → Does (.perfSelectWrite off v) s fun t =>
      cfg t off = maskIn (cfg s off) v (perfMask off) ∧ (∀ o, o ≠ off → cfg t o = cfg s o) ∧
      t.perf.cnt = (perfThrough s).perf.cnt ∧ t.perf = (keepSel off (perfThrough s)).perf ∧
      Only [.regs, .eng, .perf] s t) ∧
    (∀ v s c, reach s 0x600000 = true → c ∈ [Instr.perfHoldClear v, .perfFreezeWrite v] → Does c s fun t =>
      cfg t 0x600000 = maskIn (cfg s 0x600000) v 0x1F ∧ (∀ o, o ≠ 0x600000 → cfg t o = cfg s o) ∧
      t.perf.cnt = (perfThrough s).perf.cnt ∧ t.perf = (keepSel 0x600000 (perfThrough s)).perf ∧
      Only [.regs, .eng, .perf] s t) ∧
    (∀ k s, s.perf.wrapped.contains k = false → k < 1568 → mayCount s k = true →
      (spGet (fun _ => (0 : DWord)) s.perf.cnt k).toNat = 2 ^ cntWidth k - 1 →
      ∀ p, p = perfAdd (now s / 2) k 1 s.perf →
      exec (.perfCounterWrap k) s =
        .next (overflowEvent k { s with perf := { p with wrapped := p.wrapped.erase k } })) ∧
    (∀ k s, s.perf.wrapped.contains k = true → exec (.perfCounterWrap k) s =
      .next (overflowEvent k { s with perf := { s.perf with wrapped := s.perf.wrapped.erase k } })) ∧
    (∀ k s, s.perf.wrapped.contains k = false → (mayCount s k = false ∨ 1568 ≤ k ∨
      (spGet (fun _ => (0 : DWord)) s.perf.cnt k).toNat ≠ 2 ^ cntWidth k - 1) →
      exec (.perfCounterWrap k) s = .next s)

/-- With the link up, a read of a 32-bit word of BAR0 returns it, and a counter register that clears on read, in
a block that is on, holds what the manual leaves of it (the range of skew of a port is forgotten); a read of
the low word of a 64-bit register returns it and latches the high word of the same value, and clears a
64-bit counter that clears on read; a read of TOD_SEC, by either row, returns the low word of the seconds of
the most recent tick edge and latches seconds, nanoseconds and tick of that edge. A read of BAR0 of a VF
returns its word, of BAR2 zero, of a configuration space its identity word and of the MSI-X table of a VF
its word, and changes nothing else. Reads of the performance counters first bring them up to the cycle. That
REG_READ_CLEAR stands for every read of a word, and that a read of a block that is off clears nothing, are
the model's readings (log entry 37). (00_scope.md, 10_timing.md, 19_registers.md) -/
def Obligations.RegisterReads : Prop :=
  (∀ o s, linkUp s = true → okOffset o = true → isReg64 o = false → o ≠ 0x30030 →
      Does (.regReadClear ⟨.bar0, o⟩) s fun t => t.hif.readData = BitVec.ofNat 64 (readWord (caughtUp o s) o).toNat ∧
        (isRc o = true → blockOn s o = true → (∀ p, portAt o ≠ some (p, 0x14)) →
          rcGet t o = clearedBy o (rcGet s o) ∧ ∀ k, k ≠ o → rcGet t k = rcGet s k) ∧
        t.perf = (caughtUp o s).perf ∧ (isRc o = false → Only [.eng, .perf, .bus] s t)) ∧
    (∀ o s c, linkUp s = true → okOffset o = true → isReg64 o = true → o ≠ 0x30030 →
      c ∈ [Instr.reg64LowRead o, .regReadClear ⟨.bar0, o⟩] →
      Does c s fun t => t.hif.readData = BitVec.ofNat 64 (value64 (caughtUp o s) o % 2 ^ 32) ∧
        spGet (fun _ => none) t.latch o = some (BitVec.ofNat 32 (value64 (caughtUp o s) o / 2 ^ 32)) ∧ t.perf = (caughtUp o s).perf ∧
        (isRc64 o = true → blockOn s o = true → spGet (fun _ => (0 : DWord)) t.rc64 o = 0) ∧
        (∀ k, k ≠ o → spGet (fun _ => (0 : DWord)) t.rc64 k = spGet (fun _ => (0 : DWord)) s.rc64 k) ∧
        Only [.rc64, .latch, .eng, .perf, .bus] s t) ∧
    (∀ s c, linkUp s = true → c ∈ [Instr.todSecRead, .regReadClear ⟨.bar0, 0x30030⟩] → Does c s fun t =>
      t.hif.readData = BitVec.ofNat 64 (s.timing.sec % 2 ^ 32) ∧ t.timing.latSec = s.timing.sec ∧
      t.timing.latNs = s.timing.ns ∧ t.timing.latTick = s.tick ∧ Only [.latch, .timing, .bus] s t) ∧
    (∀ o p s, linkUp s = true → okOffset o = true → isReg64 o = false → portAt o = some (p, 0x14) →
      isRc o = true → blockOn s o = true → Does (.regReadClear ⟨.bar0, o⟩) s fun t =>
        t.hif.readData = BitVec.ofNat 64 (portWord s p 0x14 % 2 ^ 32) ∧ (port t p).bind.range = none ∧
        ∀ r, r ≠ p → port t r = port s r) ∧
    (∀ f o s, linkUp s = true → f < 16 → o < 4096 → o % 4 = 0 →
      (0 < f → exec (.regReadClear ⟨.vf f, o⟩) s = .next (onBus (vfRead s f o) s)) ∧
      exec (.regReadClear ⟨.bar2 f, o⟩) s = .next (onBus 0 s) ∧
      exec (.regReadClear ⟨.config f, o⟩) s = .next (onBus (pciIdentity s f o) s) ∧
      (0 < f → exec (.regReadClear ⟨.vfMsix f, o⟩) s = .next (onBus (vfMsixWord s f o) s)))

/-- With the link up, the block on and no row of its own: a register that may always be written takes its bits;
a register that GLB.LOCK guards takes its bits while the lock is clear and none once it is set; an overflow
register is cleared where 1 is written; the low word of a 64-bit register is held and the high word writes
both; a register without writable bits stays as it is. A write to BAR0 of a VF, to BAR2 or to a
configuration space changes nothing here, and one to the MSI-X table of a VF takes its bits. That an offset
with a row of its own is written by that row only is the model's reading (log entry 38); a high word with no
low word before it takes the word held, 0 at first, which is the model's choice (log entry 70).
(00_scope.md, 19_registers.md) -/
def Obligations.RegisterWrites : Prop :=
  (∀ o v s, linkUp s = true → blockOn s o = true → okOffset o = true → ownRow o = false → isRw64 o = false →
      (o < 4 ∨ isRw64 (o - 4) = false) → ovfAt o = none → lkMask o = 0 → rwMask o ≠ 0 →
      Does (.registerWrite ⟨.bar0, o⟩ v) s fun t => cfg t o = maskIn (cfg s o) v (rwMask o) ∧
        (∀ k, k ≠ o → cfg t k = cfg s k) ∧ Only [.regs] s t) ∧
    (∀ o v s, linkUp s = true → blockOn s o = true → okOffset o = true → ownRow o = false → isRw64 o = false →
      (o < 4 ∨ isRw64 (o - 4) = false) → ovfAt o = none → lkMask o ≠ 0 → flg s 4 0 = false →
      Does (.registerWrite ⟨.bar0, o⟩ v) s fun t => cfg t o = maskIn (cfg s o) v (lkMask o) ∧
        (∀ k, k ≠ o → cfg t k = cfg s k) ∧ Only [.regs, .timing] s t) ∧
    (∀ o v s, linkUp s = true → blockOn s o = true → okOffset o = true → ownRow o = false → isRw64 o = false →
      (o < 4 ∨ isRw64 (o - 4) = false) → ovfAt o = none → lkMask o ≠ 0 → flg s 4 0 = true →
      exec (.registerWrite ⟨.bar0, o⟩ v) s = .next s) ∧
    (∀ o v s, linkUp s = true → blockOn s o = true → okOffset o = true → ownRow o = false → isRw64 o = false →
      (o < 4 ∨ isRw64 (o - 4) = false) → ovfAt o = none → lkMask o = 0 → rwMask o = 0 →
      exec (.registerWrite ⟨.bar0, o⟩ v) s = .next s) ∧
    (∀ o v s, linkUp s = true → blockOn s o = true → okOffset o = true → ownRow o = false → isRw64 o = true →
      Does (.registerWrite ⟨.bar0, o⟩ v) s fun t => spGet (fun _ => (0 : Word)) t.held o = v ∧ Only [.held] s t) ∧
    (∀ o v s, linkUp s = true → 4 ≤ o → isRw64 (o - 4) = true → ringBusy s o = false → blockOn s o = true →
      Does (.reg64HighWrite o v) s fun t => cfg t o = v ∧
        cfg t (o - 4) = spGet (fun _ => (0 : Word)) s.held (o - 4) ∧
        (∀ k, k ≠ o → k ≠ o - 4 → cfg t k = cfg s k) ∧ Only [.regs] s t) ∧
    (∀ o v s f, linkUp s = true → blockOn s o = true → okOffset o = true → ownRow o = false → isRw64 o = false →
      (o < 4 ∨ isRw64 (o - 4) = false) → ovfAt o = some f → exec (.registerWrite ⟨.bar0, o⟩ v) s =
        .next (clearOvf f (if o = 0x620280 then 32 else 8) v (perfCatch s))) ∧
    (∀ o v s, linkUp s = true → okOffset o = true → ownRow o = true →
      exec (.registerWrite ⟨.bar0, o⟩ v) s = .next s) ∧
    (∀ f o v s, (exec (.registerWrite ⟨.vf f, o⟩ v) s = .next s) ∧ (exec (.registerWrite ⟨.bar2 f, o⟩ v) s = .next s) ∧
      exec (.registerWrite ⟨.config f, o⟩ v) s = .next s) ∧
    (∀ f o v s, linkUp s = true → 0 < f → f < 16 → o % 4 = 0 → o < 0x800 →
      Does (.registerWrite ⟨.vfMsix f, o⟩ v) s fun t => t = writeVfMsix f o v s ∧
        spGet vfWordReset t.hif.vfTable (f * 512 + o / 4) =
          maskIn (spGet vfWordReset s.hif.vfTable (f * 512 + o / 4)) v (msixMask (0x700000 + o)) ∧
        Only [.link, .hostOut] s t)

/-- With the link up, a read of offset 0 returns DEVICE 0x0256, REVISION 0xB1 and MAP_VERSION 0x01 in their
fields, and a write of any value to it changes nothing, as its fields are read only. (R486) -/
def Obligations.GlbId : Prop :=
  ∀ s, linkUp s = true →
    (Does (.regReadClear ⟨.bar0, 0⟩) s fun t => bitsOf t.hif.readData.toNat 31 16 = 0x0256 ∧
      bitsOf t.hif.readData.toNat 15 8 = 0xB1 ∧ bitsOf t.hif.readData.toNat 7 0 = 0x01 ∧ Only [.bus] s t) ∧
    ∀ v, exec (.registerWrite ⟨.bar0, 0⟩ v) s = .next s

/-- With the link up, an access to BAR0 that is not served is counted and recorded with its direction and
offset, and a read returns 0. An access of 4 or 8 bytes within the 32 MiB window of the banks is one access
of port B by the host's master to the bank and offset it names, with the ECC it meets; a read returns what
the bank serves, a free value where the word cannot be corrected (log entry 77), and 0 where it is refused.
(11_engines_banks.md, 19_registers.md) -/
def Obligations.RefusedAndWindow : Prop :=
  (∀ w o n s, linkUp s = true → servedAccess o n = false → o < bar0Size →
      Does (.bar0AccessRefused w o n) s fun t =>
        rcGet t 0x24 = BitVec.ofNat 32 (fieldsOf [(1, 31), (b2n w, 30), (o, 0)]) ∧
        rcGet t 0x20 = BitVec.ofNat 32 (min 0xFFFFFFFF ((rcGet s 0x20).toNat + 1)) ∧
        (w = false → t.hif.readData = 0) ∧ (∀ k, k ≠ 0x20 → k ≠ 0x24 → rcGet t k = rcGet s k) ∧
        Only [.rc, .bus] s t) ∧
    (∀ o n e s, o < 0x2000000 → n = 4 ∨ n = 8 → ∀ u, u = accessStep [⟨true, false, 2, false, o / 0x40000, o % 0x40000,
        .read (decide (n = 8)), e⟩] { s with bank := { s.bank with answers := [] } } →
      (∀ r v as, u.bank.answers = (r, .served v) :: as → exec (.bankWindowAccess o n ⟨none, e⟩) s =
        .next { u with hif := { u.hif with readData := v } }) ∧
      (∀ r as, u.bank.answers = (r, .eccUncorr) :: as → exec (.bankWindowAccess o n ⟨none, e⟩) s =
        .next { (draw u).2 with hif := { u.hif with readData := BitVec.ofNat 64 (draw u).1 } }) ∧
      ((∀ r v as, u.bank.answers ≠ (r, .served v) :: as) → (∀ r as, u.bank.answers ≠ (r, .eccUncorr) :: as) → exec (.bankWindowAccess o n ⟨none, e⟩) s =
        .next { u with hif := { u.hif with readData := 0 } })) ∧
    (∀ o n v e s, o < 0x2000000 → n = 4 ∨ n = 8 → exec (.bankWindowAccess o n ⟨some v, e⟩) s =
      .next (accessStep [⟨true, false, 2, false, o / 0x40000, o % 0x40000, .write (decide (n = 8)) v, e⟩]
        { s with bank := { s.bank with answers := [] } }))

/-- With VIN good each of the twelve SMBus reads answers with the bytes of its code, least significant first:
identity, power state, seesaw state, highest and all temperatures, input voltage, current and power, oven,
domains, the event summary and the alert response; the acknowledgement clears both counts and releases the
alert unless the temperature or start-up holds it. Without VIN a read answers nothing and the
acknowledgement does nothing. Nothing but the sideband changes. With VIN good: BYPASS, CLAMP and HIGHZ
select one bit of 0; IDCODE selects version 0x2, part 0x0256, manufacturer 0x3DD and a final 1, least
significant bit first; SAMPLE_PRELOAD loads the boundary-scan register and EXTEST selects it; EXTEST and
CLAMP drive the balls from the boundary-scan register, HIGHZ releases them, every other instruction leaves
them to the device; the debug instruction opens the port when debug is open and closes it otherwise. Nothing
but the test access port changes, and without VIN nothing does. (13_host.md, 15_management.md) -/
def Obligations.Sideband : Prop :=
  (∀ s, smbServed s = true → Does .smbIdent s fun t => t.smb.reply =
      [0x3D, 0x1F, 0x56, 0x02, 0xB1, (if s.ssw.side then 1 else 0)] ++ leBytes 4 s.otp.nodeId.toNat ++ [0, 0] ∧
      Only [.smb] s t) ∧
    (∀ s, smbServed s = true → Does .smbPowerState s fun t => t.smb.reply = [BitVec.ofNat 8 s.pwr.st] ∧ Only [.smb] s t) ∧
    (∀ s, smbServed s = true → Does .smbSeesaw s fun t => t.smb.reply = [BitVec.ofNat 8
      (16 * b2n (pxLinked s) + 8 * b2n (peerPresent s) + 4 * b2n s.ssw.side + 2 * b2n s.ssw.actIn
        + b2n s.ssw.actOut)] ∧ Only [.smb] s t) ∧
    (∀ s, smbServed s = true →
      (Does .smbTempMax s fun t => t.smb.reply = leBytes 2 s.sens.max.toNat ∧ Only [.smb] s t) ∧
      (Does .smbVin s fun t => t.smb.reply = leBytes 2 s.sens.vin.toNat ∧ Only [.smb] s t) ∧
      (Does .smbIin s fun t => t.smb.reply = leBytes 2 s.sens.iin.toNat ∧ Only [.smb] s t) ∧
      (Does .smbPin s fun t => t.smb.reply = leBytes 2 s.sens.pin.toNat ∧ Only [.smb] s t) ∧
      (Does .smbOven s fun t => t.smb.reply = leBytes 2 s.sens.oven.toNat ∧ Only [.smb] s t)) ∧
    (∀ s, smbServed s = true → Does .smbTempAll s fun t => t.smb.reply =
      ((List.range 64).flatMap fun i => leBytes 2 (tempWord s i % 65536)) ∧ Only [.smb] s t) ∧
    (∀ s, smbServed s = true → Does .smbDomains s fun t => t.smb.reply =
      ((List.range 20).flatMap fun d => leBytes 4 (spGet (fun _ => (0 : Word)) s.sens.dom d).toNat) ∧
      Only [.smb] s t) ∧
    (∀ s, smbServed s = true → Does .smbEventSummary s fun t =>
      t.smb.reply = leBytes 2 s.smb.crit ++ leBytes 2 s.smb.warn ++ lastCritical s.smb.last ∧ Only [.smb] s t) ∧
    (∀ v s, smbServed s = true → Does (.smbEventAck v) s fun t => t.smb.crit = 0 ∧ t.smb.warn = 0 ∧
      t.smb.alert = (s.smb.alert && alertHeld s) ∧ t.smb.last = s.smb.last ∧ Only [.smb] s t) ∧
    (∀ s, smbServed s = true → Does .smbAlertResponse s fun t =>
      t.smb.reply = (if s.smb.alert then [BitVec.ofNat 8 (0x58 + s.smb.addr.toNat)] else []) ∧ Only [.smb] s t) ∧
    (∀ c s, smbServed s = false → c ∈ [Instr.smbIdent, .smbPowerState, .smbSeesaw, .smbTempMax, .smbTempAll, .smbVin,
      .smbIin, .smbPin, .smbDomains, .smbOven, .smbEventSummary, .smbAlertResponse] →
      Does c s fun t => t.smb.reply = [] ∧ Only [.smb] s t) ∧
    (∀ v s, smbServed s = false → exec (.smbEventAck v) s = .next s) ∧
    (∀ s, s.pwr.vin = true →
      (Does .jtagBypass s fun t => t.jtag.ir = .bypass ∧ t.jtag.dr = [false] ∧ t.jtag.bsr = s.jtag.bsr ∧
        t.jtag.balls = .system ∧ Only [.jtag] s t) ∧
      (Does .jtagClamp s fun t => t.jtag.ir = .clamp ∧ t.jtag.dr = [false] ∧ t.jtag.bsr = s.jtag.bsr ∧
        t.jtag.balls = .scan s.jtag.bsr ∧ Only [.jtag] s t) ∧
      (Does .jtagHighz s fun t => t.jtag.ir = .highz ∧ t.jtag.dr = [false] ∧ t.jtag.bsr = s.jtag.bsr ∧
        t.jtag.balls = .highZ ∧ Only [.jtag] s t)) ∧
    (∀ s, s.pwr.vin = true → Does .jtagIdcode s fun t => t.jtag.ir = .idcode ∧ t.jtag.dr.length = 32 ∧
      t.jtag.dr = (List.range 32).map (BitVec.ofNat 32 (0x2 * 2 ^ 28 + 0x0256 * 2 ^ 12 + 0x3DD * 2 + 1)).getLsbD ∧
      t.jtag.bsr = s.jtag.bsr ∧ t.jtag.balls = .system ∧ Only [.jtag] s t) ∧
    (∀ d s, s.pwr.vin = true → Does (.jtagSamplePreload d) s fun t => t.jtag.ir = .sample ∧ t.jtag.dr = d ∧
      t.jtag.bsr = d ∧ t.jtag.balls = .system ∧ Only [.jtag] s t) ∧
    (∀ s, s.pwr.vin = true → Does .jtagExtest s fun t => t.jtag.ir = .extest ∧ t.jtag.dr = s.jtag.bsr ∧
      t.jtag.bsr = s.jtag.bsr ∧ t.jtag.balls = .scan s.jtag.bsr ∧ Only [.jtag] s t) ∧
    (∀ s, s.pwr.vin = true → Does .dbgAccess s fun t => t.jtag.ir = .dbg ∧ t.jtag.open_ = debugOpen s ∧
      t.jtag.balls = .system ∧ t.jtag.bsr = s.jtag.bsr ∧ Only [.jtag] s t) ∧
    (∀ c s, s.pwr.vin = false → (c ∈ [Instr.jtagBypass, .jtagIdcode, .jtagExtest, .jtagClamp, .jtagHighz, .dbgAccess] ∨
      ∃ d, c = .jtagSamplePreload d) → exec c s = .next s)

/-- POR_N low, VIN lost, over-voltage and input over-current leave only domain PD0 (POR_N with VIN) or none
powered, SSW_ACT_OUT low, GLB.LOCK, the critical trip and TOD_VALID clear, the tick 0, the core stopped, no
port out of DOWN, no lane in training, the event log empty and the fuses as they were; over-current is
remembered; repeated, they change nothing. VIN good with POR_N high, and POR_N high with VIN good, begin
start-up, which takes the side from its strap and stops in step 1 when OTP cannot be read, and otherwise
comes to the memory test of step 6, to MGMT_ONLY when the card is too hot, or to recovery; while the other
pin holds the card nothing starts. A step of start-up that has begun and is late is counted, marked and
reported, and late step 9 goes on to step 10. The decision about the role ends when its time has run with PX
not linked: start-up goes on to step 9, and the card may claim when the wire was silent or its mode says so,
and is standby when it may not or the twin holds its line. A port domain that has been idle for 10 ms is
switched off with its port and lanes forgotten, one that is wanted and allowed is switched on, and each
switching is counted. (17_power_startup.md, 18_electrical.md, 16_journal_seesaw.md) -/
def Obligations.PowerAndStartup : Prop :=
  (∀ c s, (c = .porNAssert ∧ s.pwr.por = false) ∨ (c ∈ [Instr.vinLost, .vinOvervoltage, .inputOvercurrent] ∧
      s.pwr.vin = true) → Does c s fun t => t.pwr.on = (if c = .porNAssert ∧ s.pwr.vin = true then 1 else 0) ∧
        t.pwr.vin = (s.pwr.vin && decide (c = .porNAssert)) ∧
        t.pwr.por = (s.pwr.por || decide (c = .porNAssert)) ∧
        t.pwr.overcurrent = (s.pwr.overcurrent || decide (c = .inputOvercurrent)) ∧
        t.ssw.actOut = false ∧ flg t 4 0 = false ∧ t.sens.tripped = false ∧ t.timing.todValid = false ∧
        t.tick = 0 ∧ t.core.running = false ∧ (∀ p, (port t p).st = 0) ∧ (∀ l, (lane t l).trn.rx = 0) ∧
        t.log = [] ∧ t.otp = s.otp) ∧
    (∀ c s, (c = .porNAssert ∧ s.pwr.por = true) ∨ (c ∈ [Instr.vinLost, .vinOvervoltage, .inputOvercurrent] ∧
      s.pwr.vin = false) → exec c s = .next s) ∧
    (∀ b s, s.pwr.vin = false → s.pwr.por = true → exec (.vinGood b) s =
      .next { s with pwr := { s.pwr with vin := true, on := 1 } }) ∧
    (∀ b s, s.pwr.por = true → s.pwr.vin = false → exec (.porNDeassert b) s =
      .next { s with pwr := { s.pwr with por := false } }) ∧
    (∀ b s c u, (c = .vinGood b ∧ s.pwr.vin = false ∧ s.pwr.por = false ∧
        u = { s with pwr := { s.pwr with vin := true, on := 1 } }) ∨
      (c = .porNDeassert b ∧ s.pwr.por = true ∧ s.pwr.vin = true ∧ u = { s with pwr := { s.pwr with por := false } }) →
      Does c s fun t => t = startUpFresh b u ∧ t.tick = 0 ∧ t.otp = s.otp ∧ t.pwr.vin = true ∧ t.pwr.por = false ∧
        t.ssw.side = b.straps.getLsbD 6 ∧ t.ssw.actOut = s.ssw.actOut ∧
        (b.otpOk = false → t.pwr.st = 1 ∧ t.pwr.step = 1 ∧ t.pwr.on = 0x13) ∧
        (b.otpOk = true → (t.pwr.st = 1 ∧ t.pwr.step = 6 ∧ t.mtest.target = 4) ∨ (t.pwr.st = 4 ∧ t.pwr.step = 0) ∨
          (t.pwr.st = 5 ∧ t.pwr.step = 0 ∧ t.mgmt.recovery = true))) ∧
    (∀ b s, (s.pwr.vin = true → exec (.vinGood b) s = .next s) ∧
      (s.pwr.por = false → exec (.porNDeassert b) s = .next s)) ∧
    (∀ n s, s.pwr.step ≠ 0 → n ≠ 0 → n ≤ s.pwr.step → n ≠ 10 → (n ≠ 9 ∨ s.pwr.step ≠ 9) → exec (.startupStepLate n) s =
      .next (raise .stepLate n 0 (count 0x10024 (onPwr (fun p => { p with late := true }) s)))) ∧
    (∀ s, s.pwr.step = 9 → Does (.startupStepLate 9) s fun t =>
      t = beginTen (raise .stepLate 9 0 (count 0x10024 (onPwr (fun p => { p with late := true }) s))) ∧
      t.pwr.step = 10 ∧ t.pwr.late = true ∧ t.pwr.st = if s.ssw.role = 1 ∨ s.ssw.role = 3 then 2 else 3) ∧
    (∀ n s, (s.pwr.step = 0 ∨ n = 0 ∨ n = 10 ∨ s.pwr.step < n) → exec (.startupStepLate n) s = .next s) ∧
    (∀ s m, due s s.ssw.decideAt (ticks (ms 2000)) = true → pxLinked s = false →
      m = (decide (sswMode s ≠ 1) && (decide (sswMode s = 2) ||
        s.ssw.wireAt.all fun t => decide (t + ticks (ms 2000) ≤ now s))) →
      Does .seesawDecisionTimeout s fun t => t.pwr.step = 9 ∧ t.ssw.decideAt = none ∧ t.ssw.claimEn = m ∧
        t.ssw.role = (if m = true ∧ s.ssw.actIn = false then s.ssw.role else 2) ∧ t.ssw.actOut = s.ssw.actOut) ∧
    (∀ d x s, 6 ≤ d → d ≤ 14 → pdOn s d = true → domainIdle s d = true → s.pwr.idle.find? (·.1 = d) = some (d, x) →
      x + ms 10 ≤ s.tick → Does (.portDomainPowerDown d) s fun t => t = domainOff d (count 0x10028 s) ∧
        pdOn t d = false ∧ port t (domainPort d) = Port.reset ∧ (∀ l, l ∈ domainLanes d → lane t l = Lane.reset) ∧
        ∀ e, e ≠ d → e < 20 → pdOn t e = pdOn s e) ∧
    (∀ d s, 6 ≤ d → d ≤ 14 → pdOn s d = false → domainIdle s d = false → domainAllowed s d = true →
      Does (.portDomainPowered d) s fun t => t = domainOn d (count 0x10028 s) ∧ pdOn t d = true ∧
        ∀ e, e ≠ d → e < 20 → pdOn t e = pdOn s e)

/-- At reset VIN is good and POR_N is low: only domain PD0 is on, the power state is OFF_READY, SSW_ACT_OUT is
low, time of day is invalid, the tick is 0, no port is in a state but DOWN, no lane is in training, no key
slot, group, scenario or batch exists, no queue or event ring is enabled, the event log is empty, debug is
closed, and the registers hold the values their tables give. That reset stands for VIN good with POR_N low
is the model's choice (log entry 3). (17_power_startup.md, 19_registers.md, 10_timing.md, 03_lanes.md,
04_ports.md, 16_journal_seesaw.md) -/
def Obligations.ResetState : Prop :=
  State.reset.pending = [] ∧ State.reset.pwr.vin = true ∧ State.reset.pwr.por = true ∧ State.reset.pwr.on = 1 ∧
    State.reset.pwr.st = 0 ∧ State.reset.pwr.step = 0 ∧ State.reset.ssw.actOut = false ∧
    State.reset.timing.todValid = false ∧ State.reset.tick = 0 ∧ State.reset.log = [] ∧
    State.reset.jtag.open_ = false ∧ State.reset.core.running = false ∧ State.reset.page.armed = none ∧
    (∀ p, (port State.reset p).st = 0) ∧ (∀ l, (lane State.reset l).trn.rx = 0 ∧ (lane State.reset l).frm.lock = false) ∧
    (∀ k, (keySlot State.reset k).st = 0) ∧ (∀ g, group State.reset g = none) ∧
    (∀ n, (scen State.reset n).st = 0) ∧ (∀ q, batchOf State.reset q = none) ∧
    (∀ q, (queue State.reset q).enabled = false ∧ (queue State.reset q).running = none) ∧
    (∀ r, (ring State.reset r).enabled = false) ∧ (∀ o, rcGet State.reset o = 0) ∧
    (∀ o, cfg State.reset o = resetOf o) ∧ cfg State.reset 4 = 0 ∧ cfg State.reset 0x30008 = 0x001405A0 ∧
    cfg State.reset 0x40004 = 0x15010032 ∧ cfg State.reset 0x70004 = 0x00000E10 ∧
    (∀ p, p < 8 → cfg State.reset (portBase p) = 0x600 ∧ cfg State.reset (portBase p + 8) = 0x01000181) ∧
    ∀ l, l < 256 → cfg State.reset (laneBase l) = 0x32 ∧ cfg State.reset (laneBase l + 8) = 0x00C80000

/-- For every rate code and row of bytes: the header fits if and only if bytes 4 and 5 hold the CRC of bytes 0
to 3, bits 7 and 6 of byte 0 and bits 7 to 4 of byte 3 are zero, bits 5 and 4 of byte 0 are the rate code of
the lane, and bits 3 to 0 of byte 0 are at most the last row of that rate. (R38) -/
def Obligations.HeaderFits : Prop :=
  ∀ (rate : Nat) (bs : Bytes), headerFits rate bs = true ↔
    (256 * (bs.getD 4 0).toNat + (bs.getD 5 0).toNat =
      crc16 [bs.getD 0 0, bs.getD 1 0, bs.getD 2 0, bs.getD 3 0] ∧
    (bs.getD 0 0).getLsbD 7 = false ∧ (bs.getD 0 0).getLsbD 6 = false ∧ (bs.getD 3 0).toNat < 16 ∧
    bitsOf (bs.getD 0 0).toNat 5 4 = rate ∧ bitsOf (bs.getD 0 0).toNat 3 0 ≤ rowsOf rate - 1)

/-- For every path of a group, the protect path among them: a tick records the tick at which a condition is
raised, keeps it while the condition holds and drops it, and the request with it, when the condition clears;
with HOLD_OFF 0 the request stands as soon as the condition does; with another HOLD_OFF no tick makes a
request that did not stand; and HOLD_OFF_EXPIRY makes exactly those requests whose condition has held for
HOLD_OFF ticks since it was raised. (R205) -/
def Obligations.HoldOff : Prop :=
  (∀ s d n c, let x := pathStep s d n c
      (x.sf = true → c.sf = false → x.sfAt = some s.tick) ∧ (x.sf = true → c.sf = true → x.sfAt = c.sfAt) ∧
      (x.sd = true → c.sd = false → x.sdAt = some s.tick) ∧ (x.sd = true → c.sd = true → x.sdAt = c.sdAt) ∧
      (x.sf = false → x.sfAt = none ∧ x.sfReq = false) ∧ (x.sd = false → x.sdAt = none ∧ x.sdReq = false) ∧
      (d.holdOff = 0 → x.sfReq = x.sf ∧ x.sdReq = x.sd) ∧
      (d.holdOff ≠ 0 → (x.sfReq = true ↔ x.sf = true ∧ c.sf = true ∧ c.sfReq = true) ∧
        (x.sdReq = true ↔ x.sd = true ∧ c.sd = true ∧ c.sdReq = true))) ∧
    (∀ g s x, group s g = some x → Does (.holdOffExpiry g) s fun t => ∃ y, group t g = some y ∧
      y.dfn = x.dfn ∧ ∀ p, (y.path p).sf = (x.path p).sf ∧ (y.path p).sd = (x.path p).sd ∧
        ((y.path p).sfReq = true ↔ (x.path p).sfReq = true ∨
          ((x.path p).sf = true ∧ ∃ a, (x.path p).sfAt = some a ∧ a + x.dfn.holdOff ≤ s.tick)) ∧
        ((y.path p).sdReq = true ↔ (x.path p).sdReq = true ∨
          ((x.path p).sd = true ∧ ∃ a, (x.path p).sdAt = some a ∧ a + x.dfn.holdOff ≤ s.tick)))

/-- For every state with GLB.LOCK set and every command but POR_N low and the three that lose VIN (whose
internal reset acts as POR_N held low), the next state has GLB.LOCK set: no register write, host command,
restored snapshot, warm reset, shutdown or takeover clears it. (00_scope.md, 18_electrical.md,
19_registers.md) -/
def Obligations.LockHolds : Prop :=
  ∀ (c : Instr) (s t : State), flg s 4 0 = true → exec c s = .next t →
    c ∉ [Instr.porNAssert, .vinLost, .vinOvervoltage, .inputOvercurrent] → flg t 4 0 = true

/-- A tick edge with PD1 powered is the edge's four parts in their order, raises the tick by one, begins its
first cycle and takes the selectors, those of engines that overran one tick late; with PD1 off it does
nothing. A running engine that overruns for the first time in its tick before it is done is counted, its row
of overruns grows, and its groups' posts are held for the tick after; with 1,000 in a row it halts, and a
halted engine is HALTED. A fabric message of a running engine is held for the engine it names in the order
of arrival. A cluster that may migrate does so at this tick: its banks are those noted, its engines that
have not FAILED are loading, its groups run on the host cluster; it becomes ready once the memories of its
engines are tested and holds the component then, and returns two ticks later with its engines running. On
any other state none of these does anything. The order of the blocks within an edge, and what of an
overrunning engine is late, are the model's readings (log entries 55 and 63). (01_architecture.md,
11_engines_banks.md) -/
def Obligations.Engines : Prop :=
  (∀ s, pdOn s 1 = true → Does .tickEdge s fun t =>
      t = edgeOpen (edgeFirmware (edgeClose s.tick (edgeTime s))) ∧ t.tick = s.tick + 1 ∧ t.cclk = 0 ∧
      t.core.latched = s.prot.late.foldr (fun b m => spSet (fun _ => false) b.1 b.2 m) s.prot.sel) ∧
    (∀ s, pdOn s 1 = false → exec .tickEdge s = .next s) ∧
    (∀ e s, (eng s e).st = 2 → (eng s e).overran = false → (eng s e).done = false → (eng s e).consec < 999 →
      Does (.tickOverrun e) s fun t =>
      eng t e = { eng s e with consec := (eng s e).consec + 1, overran := true } ∧
      rcGet t (engBase (e / 16) + 0x200 + 4 * (e % 16)) =
        rcGet (count (engBase (e / 16) + 0x200 + 4 * (e % 16)) s) (engBase (e / 16) + 0x200 + 4 * (e % 16)) ∧
      t.prot.posts = s.prot.posts.filter (fun p => decide (runs s (ownerOf p.1) ≠ e)) ∧
      t.prot.latePosts = s.prot.latePosts ++
        (s.prot.posts.filter fun p => decide (runs s (ownerOf p.1) = e)).map (fun p => (s.tick + 2, p)) ∧
      (∀ f, f ≠ e → eng t f = eng s f) ∧ Only [.rc, .prot, .eng, .perf] s t) ∧
    (∀ e s, (eng s e).st = 2 → (eng s e).overran = false → (eng s e).done = false → 999 ≤ (eng s e).consec →
      Does (.tickOverrun e) s fun t => (eng t e).st = 3 ∧ (eng t e).consec = min 1023 ((eng s e).consec + 1)) ∧
    (∀ e s, ((eng s e).st ≠ 2 ∨ (eng s e).overran = true ∨ (eng s e).done = true) → exec (.tickOverrun e) s = .next s) ∧
    (∀ e s, ((eng s e).st = 2 → Does (.engineHalt e) s fun t => t = haltEngine e s ∧ (eng t e).st = 3 ∧
        t.tick = s.tick ∧ t.prot = s.prot ∧ t.bank = s.bank) ∧
      ((eng s e).st ≠ 2 → exec (.engineHalt e) s = .next s)) ∧
    (∀ a b m s, ((eng s (runs s a)).st = 2 → Does (.fabricMessage a b m) s fun t =>
        eng t b = { eng s b with inbox := fabricInsert (now s / 2, a, m) (eng s b).inbox } ∧
        (∀ e, e ≠ b → eng t e = eng s e) ∧ Only [.eng, .perf] s t) ∧
      ((eng s (runs s a)).st ≠ 2 → exec (.fabricMessage a b m) s = .next s)) ∧
    (∀ c s r, s.eng.active = some r → r.cl = c → r.moved = none → mayMigrate s r = true →
      Does (.clusterMigration c) s fun t => clState t c = 2 ∧
        t.eng.active = some { r with
          moved := some s.tick, banks := (if hostCluster c < 12 then banksOf s c else []) } ∧
        (hostCluster c < 12 → spGet (fun _ => 0) t.eng.host c = hostCluster c + 1) ∧
        ∀ e, e ∈ engsOf c → (eng t e).st = (if (eng s e).st = 4 then 4 else 1)) ∧
    (∀ c s r m, s.eng.active = some r → r.cl = c → r.moved = some m → r.ready = none → r.tested = true →
      Does (.clusterReady c) s fun t => t.eng.active = some { r with ready := some s.tick } ∧
        (∀ e, e ∈ engsOf c → (eng t e).imem =
          (if (eng s e).st = 4 then (eng s e).imem else some (r.version, r.meas))) ∧ Only [.eng] s t) ∧
    (∀ c s r m, s.eng.active = some r → r.cl = c → r.ready = some m → m + 2 ≤ s.tick → r.back = none →
      Does (.clusterReturn c) s fun t => clState t c = 3 ∧ spGet (fun _ => 0) t.eng.host c = 0 ∧
        t.eng.active = some { r with back := some s.tick, banks := [] } ∧
        ∀ e, e ∈ engsOf c → (eng t e).st =
          (if (eng s e).st ≠ 4 ∧ (eng s e).imem.isSome = true then 2 else (eng s e).st)) ∧
    (∀ c s, (∀ r, s.eng.active = some r → r.cl ≠ c) → exec (.clusterMigration c) s = .next s ∧
      exec (.clusterReady c) s = .next s ∧ exec (.clusterReturn c) s = .next s)

/-- With the core running: a step that is not retired reads its ingress words of the active page and passes them
through the space stage to the egress lanes; a retired step only counts; an output row of every lane is
read. With the core stopped a step and a row do nothing. A row that the codewords received on a lane in lock
hold, when it is one of the SYNC candidate, goes through the framer, and one of another candidate goes to
that candidate; a background candidate that has held for 16 rows is counted and raises an event. A row that
the codewords do not hold, or on a lane without codeword lock, does nothing: that such a row is no row of
the lane is the model's choice (log entries 1 and 60). (02_tray_format.md, 05_core.md) -/
def Obligations.CoreAndRows : Prop :=
  (∀ k s u v, s.core.running = true → k < 2048 → s.core.retired.contains k = false → u = { s with cclk := k } →
      v = ingressAll (pageSet u u.page.active) k u →
      exec (.coreStep k) s = .next (forAll (activeLanes v.2 2 k (pageSet u u.page.active).spc)
        (spaceStep (pageSet u u.page.active) k v.1) v.2)) ∧
    (∀ k s, s.core.running = true → k < 2048 → s.core.retired.contains k = true →
      exec (.coreStep k) s = .next { s with cclk := k }) ∧
    (∀ m s, s.core.running = true → m < 16 → exec (.egressRowRead m) s =
      .next (forAll (s.lanes.map (·.1)) (rowReadLane m) { s with cclk := m * 128 })) ∧
    (∀ l p k bs s u h, laneOk l = true → (lane s l).trn.rx = 3 → rowAt s l p = some bs →
      u = closeGroup (portOf l) { s with cclk := k % 2048 } →
      h = headerStep (lane s l).frm (rowsOf (laneRate u l)) p (headerFits (laneRate u l) bs) (hdrRow bs) →
      h.mimic = false →
      (h.sync = true → exec (.rowRx l p k bs) s = .next (advancePort (portOf l) (syncRow l p h bs u))) ∧
      (h.sync = false → exec (.rowRx l p k bs) s = .next (setLane l { lane u l with frm := h.frm } u))) ∧
    (∀ l p k bs s u v h, laneOk l = true → (lane s l).trn.rx = 3 → rowAt s l p = some bs →
      u = closeGroup (portOf l) { s with cclk := k % 2048 } →
      h = headerStep (lane s l).frm (rowsOf (laneRate u l)) p (headerFits (laneRate u l) bs) (hdrRow bs) →
      h.mimic = true → h.sync = false → v = raise .mimic l 0 (count (laneBase l + 0x82C) u) →
      exec (.rowRx l p k bs) s = .next (setLane l { lane v l with frm := h.frm } v)) ∧
    (∀ l p k bs s, (laneOk l = false ∨ (lane s l).trn.rx ≠ 3 ∨ rowAt s l p ≠ some bs) →
      exec (.rowRx l p k bs) s = .next s) ∧
    (∀ k s, (s.core.running = false ∨ 2048 ≤ k) → exec (.coreStep k) s = .next s) ∧
    (∀ m s, (s.core.running = false ∨ 16 ≤ m) → exec (.egressRowRead m) s = .next s)

/-- A training frame received in TRAIN with no loss under way updates the training of its lane, to CW_HUNT when
its status ends training, and no other lane; after a loss, frame lock restarts training, and a frame without
it is only looked at for its marker. A frame sent carries the control and the status of the lane; it counts
down the last frames, and the last of them is followed by its pattern up to a codeword boundary, where
codewords begin. A timer that has run its time, and none before, fails training, electrical idle of 1 ms
starts it again on an enabled lane, and a hunt of 1 ms restarts it. The signal and clock recovery of a lane
are as reported. A codeword is decoded; in CW_HUNT it is hunted, and in lock the one that follows the last
is counted and checked. What the training chapter leaves open is chosen as log entry 60 says. (03_lanes.md) -/
def Obligations.LaneTraining : Prop :=
  (∀ l fr s T, laneOk l = true → (lane s l).trn.rx = 1 → (lane s l).tim.idleAt = none → (lane s l).tim.huntAt = none →
      T = startCountdown (trainFrame fr (lane s l).trn) →
      Does (.trainingFrameRx l fr) s fun t => (lane t l).trn = { T with
          rx := (if (frameStatus fr).any (fun st => decide (bitsOf st.toNat 11 8 = 1)) then 2 else T.rx) } ∧
        (∀ m, m ≠ l → lane t m = lane s m) ∧ Only [.lanes] s t) ∧
    (∀ l fr s a T, laneOk l = true → (lane s l).trn.rx ≠ 0 → (lane s l).tim.idleAt = none →
      (lane s l).tim.huntAt = some a → T = detectFrame fr (lane s l).trn →
      (T.frameLock = true → (lane s l).trn.frameLock = false →
        exec (.trainingFrameRx l fr) s = .next (restartTraining l s)) ∧
      ((T.frameLock = false ∨ (lane s l).trn.frameLock = true) →
        exec (.trainingFrameRx l fr) s = .next (setLane l { lane s l with trn := T } s))) ∧
    (∀ l s v, laneOk l = true → (lane s l).trn.tx = 1 → v = (tapValue (lane s l).trn s).1 →
      Does (.trainingFrameTx l) s fun t => (lane t l).trn = startCountdown { (lane s l).trn with
          sent := frameLevels (inPort l) (sentControl l (lane s l)) (sentStatus (lane s l).trn v) 0
          readySent := (lane s l).trn.ready } ∧
        (∀ m, m ≠ l → lane t m = lane s m) ∧ Only [.free, .lanes] s t) ∧
    (∀ l s v, laneOk l = true → (lane s l).trn.tx = 2 → (lane s l).trn.framesLeft ≠ 1 →
      v = (tapValue (lane s l).trn s).1 →
      Does (.trainingFrameTx l) s fun t => (lane t l).trn = { (lane s l).trn with
          sent := frameLevels (inPort l) (sentControl l (lane s l)) (sentStatus (lane s l).trn v) 0
          readySent := (lane s l).trn.ready, framesLeft := (lane s l).trn.framesLeft - 1 } ∧
        (∀ m, m ≠ l → lane t m = lane s m) ∧ Only [.free, .lanes] s t) ∧
    (∀ l s w u more, laneOk l = true → (lane s l).trn.tx = 2 → (lane s l).trn.framesLeft = 1 →
      w = tapValue (lane s l).trn s → u = cycleUi w.2 (laneRate w.2 l) → more = (2720 - u % 2720) % 2720 →
      exec (.trainingFrameTx l) s = .next (beginCodewords l ((u + more) / 2720 * 640) (setLane l { lane s l with
        trn := { (lane s l).trn with
          sent := frameLevels (inPort l) (sentControl l (lane s l)) (sentStatus (lane s l).trn w.1) more
          readySent := (lane s l).trn.ready, framesLeft := 0, tx := 3 }
        tim := { (lane s l).tim with trainAt := (if (lane s l).trn.rx = 3 then none else (lane s l).tim.trainAt) } }
        w.2))) ∧
    (∀ l n s, laneOk l = true → due s (timerStart (lane s l).tim n) (timerLimit s l n) = true →
      exec (.trainingTimeout l n) s = .next (trainFailure l n s)) ∧
    (∀ l s, laneOk l = true → due s (lane s l).tim.idleAt (ticks (ms 1)) = true → flg s (laneBase l) 9 = true →
      exec (.electricalIdleEnd l) s = .next (startTraining l s)) ∧
    (∀ l s, laneOk l = true → due s (lane s l).tim.huntAt (ticks (ms 1)) = true →
      exec (.codewordHuntTimeout l) s = .next (restartTraining l s)) ∧
    (∀ l a b s, laneOk l = true → Does (.laneSignalChange l a b) s fun t =>
      (lane t l).trn = { (lane s l).trn with signal := a, cdr := a && b } ∧
      (∀ m, m ≠ l → lane t m = lane s m) ∧ Only [.lanes] s t) ∧
    (∀ l c s d, laneOk l = true → (lane s l).trn.rx = 3 → d = decodeCodeword (bypassActive s l) c →
      c.ui = (lane s l).cw.ui → exec (.codewordRx l c) s = .next (lockedStep l d (countCodeword l d s))) ∧
    (∀ l c s, laneOk l = true → (lane s l).trn.rx = 2 → exec (.codewordRx l c) s =
      .next (advancePort (portOf l) (huntStep l (decodeCodeword (bypassActive s l) c) s))) ∧
    (∀ l c s, laneOk l = true → (((lane s l).trn.rx = 3 ∧ c.ui ≠ (lane s l).cw.ui) ∨
      ((lane s l).trn.rx ≠ 3 ∧ (lane s l).trn.rx ≠ 2)) → exec (.codewordRx l c) s = .next s) ∧
    (∀ l fr s, laneOk l = true → ((lane s l).trn.rx = 0 ∨ (lane s l).tim.idleAt.isSome = true ∨
      ((lane s l).tim.huntAt = none ∧ (lane s l).trn.rx ≠ 1)) → exec (.trainingFrameRx l fr) s = .next s) ∧
    (∀ l s, laneOk l = true → (lane s l).trn.tx ≠ 1 → (lane s l).trn.tx ≠ 2 → exec (.trainingFrameTx l) s = .next s) ∧
    (∀ l n s, (laneOk l = false ∨ due s (timerStart (lane s l).tim n) (timerLimit s l n) = false) →
      exec (.trainingTimeout l n) s = .next s) ∧
    (∀ l s, (laneOk l = false ∨ due s (lane s l).tim.idleAt (ticks (ms 1)) = false ∨ flg s (laneBase l) 9 = false) →
      exec (.electricalIdleEnd l) s = .next s) ∧
    (∀ l s, (laneOk l = false ∨ due s (lane s l).tim.huntAt (ticks (ms 1)) = false) →
      exec (.codewordHuntTimeout l) s = .next s)

/-- A capability frame that a lane received is removed; on a lane of the bond of a port from LINKED on it is
taken by the port: it has been heard, and is acceptable or refused with its reason; elsewhere nothing more
happens. A port sends its frame on the first lane of its bond: one after the other in LINKED, beyond it
every millisecond and when its content changes; otherwise it sends none. Ten milliseconds without agreement
in LINKED are reported, counted and begin again; sixteen without a frame leave the port silent. Fields of a
received frame and the frame to send are read as log entry 51 says. (04_ports.md) -/
def Obligations.Capability : Prop :=
  (∀ l bs s u, takeFrame l 0x01 bs s = some u → (bondedLanes u (portOf l)).contains l = true →
      4 ≤ (port u (portOf l)).st.toNat → Does (.capabilityFrameRx l bs) s fun t => t = capTake (portOf l) bs u ∧
        (port t (portOf l)).cap.heardAt = some (now s) ∧ (port t (portOf l)).cap.silent = false ∧
        ((port t (portOf l)).cap.ok = true ↔ capReason u (portOf l) bs = 0) ∧
        (capReason u (portOf l) bs ≠ 0 →
          (port t (portOf l)).cap.reason = BitVec.ofNat 4 (capReason u (portOf l) bs)) ∧
        (port t (portOf l)).st = (port s (portOf l)).st ∧ ∀ r, r ≠ portOf l → port t r = port s r) ∧
    (∀ l bs s u, takeFrame l 0x01 bs s = some u → ((bondedLanes u (portOf l)).contains l = false ∨
      (port u (portOf l)).st.toNat < 4) → exec (.capabilityFrameRx l bs) s = .next u) ∧
    (∀ l bs s, takeFrame l 0x01 bs s = none → exec (.capabilityFrameRx l bs) s = .next s) ∧
    (∀ p l s, p < 9 → (bondedLanes s p).head? = some l →
      (((port s p).st = 4 ∧ (lane s l).out.msg.isEmpty = true) ∨ (5 ≤ (port s p).st.toNat ∧
        ((port s p).cap.sentAt + 1000 ≤ s.tick ∨ capPayload s p ≠ (port s p).cap.sent))) →
      Does (.capabilitySend p) s fun t => (port t p).cap.sent = capPayload s p ∧ (port t p).cap.sentAt = s.tick ∧
        (port t p).st = (port s p).st ∧ t.lanes = (sendFrame l 0x01 (capPayload s p) s).lanes ∧
        (∀ r, r ≠ p → port t r = port s r) ∧ Only [.lanes, .ports] s t) ∧
    (∀ p s, ((bondedLanes s p = []) ∨ (port s p).st.toNat < 4) → exec (.capabilitySend p) s = .next s) ∧
    (∀ p s, p < 9 → (port s p).st = 4 → (port s p).cap.agreeNow = false →
      due s (port s p).cap.since (ticks (ms 10)) = true → Does (.capabilityTimeout p) s fun t =>
        (port t p).cap = { (port s p).cap with since := some (now s) } ∧ (port t p).st = 4 ∧
        (∀ r, r ≠ p → port t r = port s r) ∧
        t = raise .capFail p (port s p).cap.reason.toNat (count (portBase p + 0x40) (setPort p { port s p with
          cap := { (port s p).cap with since := some (now s) } } s))) ∧
    (∀ p s, p < 9 → 5 ≤ (port s p).st.toNat → (port s p).cap.silent = false →
      due s (port s p).cap.heardAt (ticks (ms 16)) = true → Does (.capabilitySilence p) s fun t =>
        port t p = { port s p with cap := { (port s p).cap with silent := true, mute := true } } ∧
        (∀ r, r ≠ p → port t r = port s r) ∧ Only [.ports] s t)

/-- A request message that the framer delivered is removed from the inbox; one with a reserved request or bits,
of no group, of a group on another port or with a signal its group has not, or of a group on another lane is
only counted; one of a group on its lane is heard by it; on a port whose request channels are off nothing
more happens. A wait-to-restore time that has run ends; the exercises of 100 ms end and each is reported; a
channel silent for its time and a message not answered for 50 ms fail the channel, which is counted once and
reported with its cause; a restoration hold that has run marks the group restored, journals its decision and
asks for the scenario. How a channel is restored is the model's reading (log entry 43). (08_protection.md) -/
def Obligations.GroupEvents : Prop :=
  (∀ l w s m u, s.prot.inbox.find? (fun m => m.lane = l && m.msg = w) = some m →
      u = { s with prot := { s.prot with inbox := s.prot.inbox.erase m } } → srOn u (portOf l) = true →
      ((0xA < (msgReq w).1 ∨ bitsOf w.toNat 2 0 ≠ 0 ∨ group u (bitsOf w.toNat 27 15) = none) →
        exec (.srmRx l w) s = .next (count 0x330050 u)) ∧
      (∀ x, (msgReq w).1 ≤ 0xA → bitsOf w.toNat 2 0 = 0 → group u (bitsOf w.toNat 27 15) = some x →
        (x.dfn.sr.map (·.1) ≠ some (portOf l) → exec (.srmRx l w) s = .next (count 0x330050 u)) ∧
        (x.dfn.sr.map (·.1) = some (portOf l) → x.dfn.srLane ≠ some l →
          exec (.srmRx l w) s = .next (count 0x33004C u)) ∧
        (x.dfn.sr.map (·.1) = some (portOf l) → x.dfn.srLane = some l →
          (x.dfn.n < (msgReq w).2 ∨ x.dfn.n < msgBr w) → exec (.srmRx l w) s = .next (count 0x330050 u)) ∧
        (x.dfn.sr.map (·.1) = some (portOf l) → x.dfn.srLane = some l → (msgReq w).2 ≤ x.dfn.n → msgBr w ≤ x.dfn.n →
          exec (.srmRx l w) s =
            .next (heardMsg (bitsOf w.toNat 27 15) (persistOf u (portOf l)) w x u)))) ∧
    (∀ l w s m, s.prot.inbox.find? (fun m => m.lane = l && m.msg = w) = some m → srOn s (portOf l) = false →
      exec (.srmRx l w) s = .next { s with prot := { s.prot with inbox := s.prot.inbox.erase m } }) ∧
    (∀ g s x e, group s g = some x → x.wtr = some e → e.2 ≤ s.tick →
      exec (.wtrExpiry g) s = .next (setGroup g { x with wtr := none, changed := true } s)) ∧
    (∀ g s x ended, group s g = some x → ended = x.exer.filter (fun e => decide (e.2 + ms 100 ≤ s.tick)) → ended ≠ [] →
      exec (.exerTimeout g) s = .next (forAll ended (fun _ => raise .exerEnd g 1) (setGroup g { x with
        exer := x.exer.filter fun e => !decide (e.2 + ms 100 ≤ s.tick), changed := true } s))) ∧
    (∀ c g s x cause, group s g = some x → ((c = Instr.channelTimeout g ∧ cause = 2 ∧
        ∃ l, x.dfn.srLane = some l ∧ x.heardAt + chTimeout s l ≤ s.tick) ∨
      (c = Instr.noResponseTimeout g ∧ cause = 4 ∧ ∃ a, x.waitBr = some a ∧ a + ms 50 ≤ s.tick)) →
      (x.chCause = 0 → exec c s = .next (raise .chFail g cause (count 0x330044
        (setGroup g { x with chCause := cause, changed := true } s)))) ∧
      (x.chCause ≠ 0 → exec c s = .next s)) ∧
    (∀ g s x a n u, group s g = some x → x.bothAt = some a → x.dfn.restore = some n → x.restored = false →
      a + x.dfn.restoreHold ≤ s.tick → u = setGroup g { x with restored := true } s →
      exec (.restoreHoldExpiry g) s =
        .next (askLoad g n (journal (decisionRecord u g { x with restored := true }) u)))

/-- For every command and state: when SSW_ACT_OUT is low before and high after, the command is CLAIM, SSW_ACT_IN
was low, CLAIM_EN was 1, and both had held for the guard time since the later of the two: 2 us on side A, 6
us on side B (2,048 cycles to the microsecond). (16_journal_seesaw.md, 01_architecture.md) -/
def Obligations.ActiveLineRises : Prop :=
  ∀ (c : Instr) (s t : State), exec c s = .next t → s.ssw.actOut = false → t.ssw.actOut = true →
    c = .claim ∧ s.ssw.actIn = false ∧ s.ssw.claimEn = true ∧
    ∃ a, s.ssw.guardAt = some a ∧ a + 2048 * (if s.ssw.side then 6 else 2) ≤ 2048 * s.tick + s.cclk

/-- SSW_ACT_IN falling starts the guard time when CLAIM_EN is 1 and raises NO_TAKEOVER on a standby when it is
0. A claim after the guard time raises SSW_ACT_OUT, clears CLAIM_EN, counts, takes a new TERM and asks for
the first page set. SSW_ACT_IN rising while SSW_ACT_OUT is high makes side B withdraw and leaves side A. The
end of the hold sets CLAIM_EN on a synchronised standby in AUTO mode and under FORCE_CLAIM. A released twin
out of SERVICE zeroes its pages. Where its condition is not met none of these does anything. SSW_ACT_IN
rising before a role is taken makes the card standby once start- up has reached step 9 (log entry 36).
(16_journal_seesaw.md) -/
def Obligations.Interlock : Prop :=
  (∀ s, s.ssw.actIn = true → Does .sswActInFall s fun t => t.ssw.actIn = false ∧
      t.ssw.guardAt = (if s.ssw.claimEn then some (now s) else none) ∧ t.ssw.actOut = s.ssw.actOut ∧
      t.ssw.claimEn = s.ssw.claimEn) ∧
    (∀ s, s.ssw.actIn = true → s.ssw.role = 2 → s.ssw.claimEn = false → exec .sswActInFall s = .next
      (raise .noTakeover 0 0 { s with ssw := { s.ssw with actIn := false, inFell := s.tick, guardAt := none } })) ∧
    (∀ s, s.ssw.actOut = false → s.ssw.actIn = false → s.ssw.claimEn = true →
      due s s.ssw.guardAt (ticks (if s.ssw.side then 6 else 2)) = true → Does .claim s fun t =>
        t.ssw.actOut = true ∧ t.ssw.claimEn = false ∧ t.ssw.role = (if s.ssw.role = 0 then 1 else 3) ∧
        t.ssw.lastChange = s.tick ∧ t.jnl.term = max s.jnl.term s.ssw.hb.term + 1) ∧
    (∀ s, s.ssw.actOut = true → s.ssw.side = true → Does .sswActInRise s fun t => t.ssw.actOut = false ∧
      t.ssw.actIn = true ∧ t.ssw.role = 2 ∧ t.ssw.lastRelease = 4 ∧ t.ssw.giveUp = true) ∧
    (∀ s, s.ssw.actOut = true → s.ssw.side = false → exec .sswActInRise s =
      .next { s with ssw := { s.ssw with actIn := true, guardAt := none } }) ∧
    (∀ s, s.ssw.actOut = false → s.ssw.role ≠ 0 → exec .sswActInRise s =
      .next { s with ssw := { s.ssw with actIn := true, guardAt := none } }) ∧
    (∀ s, due s s.ssw.holdAt (ticks (ms 1000)) = true → Does .claimEnHoldExpiry s fun t => t.ssw.holdAt = none ∧
      t.ssw.claimEn = (s.ssw.claimEn || (!s.ssw.actOut && ((sswMode s = 0 && s.copy.st = 5) || sswMode s = 2))) ∧
      t.ssw.actOut = s.ssw.actOut ∧ Only [.ssw] s t) ∧
    (∀ s, s.ssw.giveUp = true → anyService s = false → s.ssw.actOut = false → Does .trafficStateRelease s fun t =>
      t.page.page0 = PageSet.empty ∧ t.page.page1 = PageSet.empty ∧ t.page.active = false ∧ t.page.gen = 0 ∧
      t.page.colour = false ∧ t.ssw.giveUp = false ∧ t.ssw.actOut = false) ∧
    (∀ s, s.ssw.actOut = false → s.ssw.role = 0 → exec .sswActInRise s =
      .next (if 9 ≤ s.pwr.step then setRole 2 { s with ssw := { s.ssw with actIn := true, guardAt := none } }
        else { s with ssw := { s.ssw with actIn := true, guardAt := none } })) ∧
    (∀ s, (s.ssw.actOut = true ∨ s.ssw.actIn = true ∨ s.ssw.claimEn = false ∨
      due s s.ssw.guardAt (ticks (if s.ssw.side then 6 else 2)) = false) → exec .claim s = .next s) ∧
    (∀ s, s.ssw.actIn = false → exec .sswActInFall s = .next s) ∧
    (∀ s, due s s.ssw.holdAt (ticks (ms 1000)) = false → exec .claimEnHoldExpiry s = .next s) ∧
    (∀ s, (s.ssw.giveUp = false ∨ anyService s = true ∨ s.ssw.actOut = true) →
      exec .trafficStateRelease s = .next s)

/-- A HEARTBEAT frame that PX delivers is taken when it has its 22 bytes, and a shorter one is only removed; a
toggle of the wire heartbeat keeps the wire alive on a card that is up. A heartbeat is sent when its period
has run, with its count raised by 1, and not before. A path that is silent for the span fails, is reported,
and when both have failed the loss of the twin is counted and dated. The reset of the twin is asserted by a
standby only, when enabled, while the twin holds its line, is silent for the time set, and was not reset for
10 s, and ends after 10 ms. What COUNT and the wire heartbeat do is the model's reading (log entry 20).
(16_journal_seesaw.md) -/
def Obligations.Heartbeats : Prop :=
  (∀ b s l u, pxFrame 0x03 b s = some (l, u) → 22 ≤ b.length → exec (.heartbeatRx b) s = .next (takeHeartbeat b u)) ∧
    (∀ b s, pxFrame 0x03 b s = none → exec (.heartbeatRx b) s = .next s) ∧
    (∀ b s l u, pxFrame 0x03 b s = some (l, u) → b.length < 22 → exec (.heartbeatRx b) s = .next u) ∧
    (∀ s, (s.pwr.por = true ∨ s.pwr.vin = false) → exec .wireHeartbeatRx s = .next s) ∧
    (∀ s, (s.mgmt.up = 0 ∨ s.mgmt.restartAt.isSome = true ∨ s.mgmt.halted = true ∨ pxLinked s = false ∨
      (s.ssw.sent ≠ 0 ∧ now s < s.ssw.sentAt + hbPeriod s)) → exec .heartbeatSend s = .next s) ∧
    (∀ s, (s.ssw.pxOk = false ∨ due s s.ssw.pxAt (hbSpan s) = false) →
      exec (.heartbeatPathFail true) s = .next s) ∧
    (∀ s, (s.ssw.wireOk = false ∨ due s s.ssw.wireAt (hbSpan s) = false) →
      exec (.heartbeatPathFail false) s = .next s) ∧
    (∀ s, s.pwr.por = false → s.pwr.vin = true → Does .wireHeartbeatRx s fun t => t.ssw.wireAt = some (now s) ∧
      t.ssw.wireOk = true ∧ t.ssw.silentAt = none ∧ t.ssw.pxOk = s.ssw.pxOk ∧ t.ssw.actOut = s.ssw.actOut) ∧
    (∀ s, s.mgmt.up ≠ 0 → s.mgmt.restartAt = none → s.mgmt.halted = false → pxLinked s = true →
      (s.ssw.sent = 0 ∨ s.ssw.sentAt + hbPeriod s ≤ now s) → Does .heartbeatSend s fun t =>
        t.ssw.sent = (s.ssw.sent + 1) % 2 ^ 32 ∧ t.ssw.sentAt = now s ∧
        t.lanes = (sendPx 0x03 (hbPayload s) s).lanes ∧ Only [.lanes, .ssw] s t) ∧
    (∀ s, s.ssw.pxOk = true → due s s.ssw.pxAt (hbSpan s) = true → Does (.heartbeatPathFail true) s fun t =>
      t.ssw.pxOk = false ∧ t.ssw.wireOk = s.ssw.wireOk ∧
      t.ssw.silentAt = (if s.ssw.wireOk then s.ssw.silentAt else some (now s))) ∧
    (∀ s, s.ssw.wireOk = true → due s s.ssw.wireAt (hbSpan s) = true → Does (.heartbeatPathFail false) s fun t =>
      t.ssw.wireOk = false ∧ t.ssw.pxOk = s.ssw.pxOk ∧
      t.ssw.silentAt = (if s.ssw.pxOk then s.ssw.silentAt else some (now s))) ∧
    (∀ s, s.ssw.actOut = false → s.ssw.role = 2 → flg s 0x40004 29 = true → s.ssw.actIn = true → s.ssw.peerRst = false →
      (∀ a, s.ssw.rstAt = some a → a + ticks (ms 10000) ≤ now s) →
      due s s.ssw.silentAt (ticks (ms (fld s 0x40004 15 0))) = true → Does .peerReset s fun t =>
        t.ssw.peerRst = true ∧ t.ssw.rstAt = some (now s) ∧ t.rc = (count 0x40018 s).rc ∧ Only [.rc, .ssw] s t) ∧
    (∀ s, (s.ssw.actOut = true ∨ s.ssw.role ≠ 2 ∨ flg s 0x40004 29 = false ∨ s.ssw.actIn = false ∨
      s.ssw.peerRst = true ∨ (∃ a, s.ssw.rstAt = some a ∧ now s < a + ticks (ms 10000)) ∨
      due s s.ssw.silentAt (ticks (ms (fld s 0x40004 15 0))) = false) →
      exec .peerReset s = .next s) ∧
    (∀ s, s.ssw.peerRst = true → due s s.ssw.rstAt (ticks (ms 10)) = true → exec .peerRstOutEnd s =
      .next { s with ssw := { s.ssw with peerRst := false } }) ∧
    (∀ s, (s.ssw.peerRst = false ∨ due s s.ssw.rstAt (ticks (ms 10)) = false) →
      exec .peerRstOutEnd s = .next s)

/-- On the active twin an acknowledgement moves the persisted position forward, drops what it covers from the
stream, makes the copy synchronized when it names the checkpoint in force, and settles what waits; a resend
request is counted and moves sending back, or stops copying when the position is no longer held. On a
standby with its copy key, a data frame of at most 232 bytes after its position is taken, a gap of 16 ticks
asks again, and an acknowledgement is sent every 100 ticks. A frame that is too short, comes in another
state of the copy or names a position out of range is only removed. A command that waits for the twin past
the copy timeout completes with PEER_UNACKED. The stream's own details and the byte order of the frames are
the model's readings (log entries 19 and 72). (16_journal_seesaw.md) -/
def Obligations.StateCopy : Prop :=
  (∀ b s l u v, mgmtRuns s = true → pxFrame 0x41 b s = some (l, u) → 28 ≤ b.length →
      (u.copy.st = 2 ∨ u.copy.st = 3) → u.copy.ackPos ≤ beAt b 8 8 → beAt b 8 8 ≤ u.copy.pos →
      v = { u with copy := { u.copy with
          ackSeq := max u.copy.ackSeq (beAt b 0 8), out := u.copy.out.drop (beAt b 8 8 - u.copy.ackPos),
          ackPos := beAt b 8 8, sendFrom := max u.copy.sendFrom (beAt b 8 8) } } →
      exec (.copyAckRx b) s =
        .next (settleWaiters (if u.copy.st = 2 ∧ beAt b 24 4 = u.jnl.ckptId then setCopySt 3 v else v))) ∧
    (∀ b s l u, mgmtRuns s = true → pxFrame 0x42 b s = some (l, u) → 8 ≤ b.length →
      (u.copy.st = 2 ∨ u.copy.st = 3) → beAt b 0 8 ≤ u.copy.pos →
      (u.copy.ackPos ≤ beAt b 0 8 → Does (.copyResendRx b) s fun t => t.copy.sendFrom = beAt b 0 8 ∧
        t.copy.out = u.copy.out ∧ t.copy.pos = u.copy.pos) ∧
      (beAt b 0 8 < u.copy.ackPos → exec (.copyResendRx b) s = .next (stopCopy 0 (count 0x80048 u)))) ∧
    (∀ b s l u, mgmtRuns s = true → pxFrame 0x40 b s = some (l, u) → u.ssw.actOut = false → pxLinked u = true →
      copyKeyOk u = true → 8 ≤ b.length → b.length ≤ 240 →
      exec (.copyDataRx b) s = .next (copyData (beAt b 0 8) (b.drop 8) u)) ∧
    (∀ s a, s.copy.gapAt = some a → a + 16 ≤ s.tick → mgmtRuns s = true → s.ssw.actOut = false → pxLinked s = true →
      Does .copyGapTimeout s fun t => t = askResend s ∧ t.copy.gapAt = some s.tick ∧ Only [.rc, .lanes, .copy] s t) ∧
    (∀ s, s.ssw.actOut = false → mgmtRuns s = true → pxLinked s = true → (s.copy.st = 4 ∨ s.copy.st = 5) →
      s.copy.ackAt + 100 ≤ s.tick → Does .copyAckSend s fun t => t = sendAck s ∧ t.copy.ackAt = s.tick ∧
        Only [.lanes, .copy] s t) ∧
    (∀ s, exec .copyTimeout s = .next (settleWaiters (releaseWaiters (fun w => s.jnl.persistedAt.any fun e =>
      e.1 = w.2.1 && decide (e.2 + copyTimeout s ≤ s.tick)) stPeerUnacked s))) ∧
    (∀ b s l u, mgmtRuns s = true → pxFrame 0x41 b s = some (l, u) → (b.length < 28 ∨ (u.copy.st ≠ 2 ∧ u.copy.st ≠ 3) ∨
      beAt b 8 8 < u.copy.ackPos ∨ u.copy.pos < beAt b 8 8) → exec (.copyAckRx b) s = .next u) ∧
    (∀ b s l u, mgmtRuns s = true → pxFrame 0x42 b s = some (l, u) → (b.length < 8 ∨ (u.copy.st ≠ 2 ∧ u.copy.st ≠ 3) ∨
      u.copy.pos < beAt b 0 8) → exec (.copyResendRx b) s = .next u) ∧
    (∀ b s l u, mgmtRuns s = true → pxFrame 0x40 b s = some (l, u) → (u.ssw.actOut = true ∨ pxLinked u = false ∨
      copyKeyOk u = false ∨ b.length < 8 ∨ 240 < b.length) → exec (.copyDataRx b) s = .next u) ∧
    (∀ b s, (mgmtRuns s = false ∨ pxFrame 0x41 b s = none) → exec (.copyAckRx b) s = .next s) ∧
    (∀ b s, (mgmtRuns s = false ∨ pxFrame 0x42 b s = none) → exec (.copyResendRx b) s = .next s) ∧
    (∀ b s, (mgmtRuns s = false ∨ pxFrame 0x40 b s = none) → exec (.copyDataRx b) s = .next s) ∧
    (∀ s, (s.copy.gapAt = none ∨ (∃ a, s.copy.gapAt = some a ∧ s.tick < a + 16) ∨ mgmtRuns s = false ∨
      s.ssw.actOut = true ∨ pxLinked s = false) → exec .copyGapTimeout s = .next s) ∧
    (∀ s, (s.ssw.actOut = true ∨ mgmtRuns s = false ∨ pxLinked s = false ∨ (s.copy.st ≠ 4 ∧ s.copy.st ≠ 5) ∨
      s.tick < s.copy.ackAt + 100) → exec .copyAckSend s = .next s)

/-- An armed set is committed in the tick before its swap tick and swapped at it, once; a resynchronisation of
one tick copies the active page to the standby page, which is then CLEAN; a build places what the standby
page is held for; a scenario that has lost what it needs becomes stale with its cause; a rebuild ends with
new pages or leaves the scenario stale. A save stores the map, the pages, the bound modes and the name in
its slot, VALID, journals the scenario, leaves the standby page CLEAN or resynchronises it when it was built
for the save, and completes once persisted. A load that has lost what it needs completes with
SCENARIO_STALE; one staged leaves the page BUILT and completes; others arm the page for their tick. A
repacking that is done is taken when its colouring is proper, and a set that cannot be repacked fails with
its report. On any other state each of these does nothing. Open choices among equal candidates are free (log
entry 26), and which sets carry which rebindings is read from several rules together (log entry 42); the
packing of the CRC is log entry 65, and the order in which a repack places is log entry 67. (06_pages.md,
07_strings_abacus.md, 08_protection.md) -/
def Obligations.PageEvents : Prop :=
  (∀ s a x, s.page.standby = .armed → s.page.armed = some a → a.swap = some x →
      exec .swapCommit s = .next (if x ≤ s.tick + 1 then { s with page := { s.page with standby := .committed } } else s)) ∧
    (∀ s a x, s.page.standby = .committed → s.page.armed = some a → a.swap = some x → x ≤ s.tick → s.page.lastSwap ≠ x →
      exec .pageSwap s = .next (doSwap x a s)) ∧
    (∀ s u, s.page.standby = .resync → s.page.since + 2048 ≤ now s → u = resyncEcc s → exec .resyncDone s =
      .next (kickAll (perfEv 0x13 0x02 0 1 (onPage (fun p => { p with standby := .clean })
        (writeStandby (pageSet u u.page.active) u))))) ∧
    (∀ s, s.page.standby = .building → s.abacus.job ≠ 2 → abacusUp s = true →
      (∀ q t f st, s.page.holder = some (.batch q t f st) →
        exec .placementDone s = .next (placeBatch q t f st s)) ∧
      (∀ r, s.page.holder = some (.rebind r) → exec .placementDone s = .next (placeRebind s)) ∧
      (∀ k, s.page.holder = some (.vacate k) → exec .placementDone s = .next (placeVacate k s)) ∧
      (∀ g n, s.page.holder = some (.groupBridge g n) → exec .placementDone s = .next (placeBridge g n s)) ∧
      (s.page.holder = some .first → exec .placementDone s = .next (placeFirst s))) ∧
    (∀ c s v u, s.page.standby = .building → s.abacus.job = 2 → abacusUp s = true →
      v = rebindEnv s s.page.rebinds → u = { s with free := s.free + 1 } →
      (∀ q, s.page.holder = some (.repack q) →
        (∀ e, repackBase v (Config.free s.free) s.abacus.map [] = .error e →
          exec (.repackDone c) s = .next (noPlacement q (.repack q) e s)) ∧
        (∀ p, repackBase v (Config.free s.free) s.abacus.map [] = .ok p → exec (.repackDone c) s =
          .next (repacked q (.repack q) v (Config.free s.free) s.page.rebinds none p c id u))) ∧
      (∀ q t f st cmds, s.page.holder = some (.batch q t f st) → cmds = ((batchOf s q).map (·.cmds)).getD [] →
        (∀ e, repackBase v (Config.free s.free) s.abacus.map cmds = .error e → exec (.repackDone c) s =
          .next (noPlacement q (.batch q t f st) (failReport v (Config.free s.free) s.abacus.map cmds e s) s)) ∧
        (∀ p, repackBase v (Config.free s.free) s.abacus.map cmds = .ok p → exec (.repackDone c) s =
          .next (repacked q (.batch q t f st) v (Config.free s.free) (if st then [] else s.page.rebinds) (some cmds) p c
            (fun e => failReport v (Config.free s.free) s.abacus.map cmds e s) u))) ∧
      (∀ k, s.page.holder = some (.vacate k) →
        (∀ e, repackBase v (Config.free s.free) s.abacus.map [] = .error e →
          exec (.repackDone c) s = .next (raise .stepUnvacated k 0 (resync s))) ∧
        (∀ p, repackBase v (Config.free s.free) s.abacus.map [] = .ok p →
          exec (.repackDone c) s = .next (repackVacate k v (Config.free s.free) p c u)))) ∧
    (∀ n s, (scen s n).st = 1 → staleCause (scen s n) s ≠ 0 → Does (.scenarioMarkStale n) s fun t =>
      (scen t n).st = 2 ∧ (scen t n).reason = BitVec.ofNat 4 (staleCause (scen s n) s) ∧
      (∀ k, k ≠ n → scen t k = scen s k) ∧ Only [.page] s t) ∧
    (∀ n s, s.abacus.rebuilding = some n → (scen s n).st = 5 → abacusUp s = true → Does (.scenarioRebuildDone n) s fun t =>
      t.abacus.rebuilding = none ∧ ((scen t n).st = 1 ∨ (scen t n).st = 2) ∧
      ((scen t n).st = 1 → (scen t n).reason = 0 ∧ (scen t n).pages = buildPages (scen t n).map (groupDef s)) ∧
      (∀ k, k ≠ n → scen t k = scen s k) ∧ t.free = s.free + 1 ∧ Only [.free, .rc, .page, .abacus] s t) ∧
    (∀ n s, (s.abacus.rebuilding ≠ some n ∨ (scen s n).st ≠ 5 ∨ abacusUp s = false) →
      exec (.scenarioRebuildDone n) s = .next s) ∧
    (∀ n s, ((scen s n).st ≠ 1 ∨ staleCause (scen s n) s = 0) → exec (.scenarioMarkStale n) s = .next s) ∧
    (∀ s, (s.page.standby ≠ .building ∨ abacusUp s = false) → exec .placementDone s = .next s ∧
      ∀ c, exec (.repackDone c) s = .next s) ∧
    (∀ s, s.page.standby ≠ .saving → exec .scenSaveDone s = .next s) ∧
    (∀ s, s.page.standby ≠ .loading → exec .scenLoadDone s = .next s) ∧
    (∀ s, s.page.standby ≠ .armed → exec .swapCommit s = .next s) ∧
    (∀ s, s.page.standby ≠ .committed → exec .pageSwap s = .next s) ∧
    (∀ s, (s.page.standby ≠ .resync ∨ now s < s.page.since + 2048) → exec .resyncDone s = .next s) ∧
    (∀ s q n auto name u, s.page.standby = .saving → s.page.holder = some (.save q n auto false name) →
      u = ({ st := 1, auto := auto, reason := 0, loads := 0, name := name, tick := s.tick, modes := boundModes s
             pages := pageSet s (!s.page.active), map := s.abacus.map
             crc := pageCrc (pageSet s (!s.page.active)), fromJnl := false } : Scenario) →
      ∀ w, w = journal (scenRecord n false u) (perfEv 0x13 0x06 0 1 (setScen n u s)) →
      exec .scenSaveDone s = .next (kickAll (completePersisted q true (ans stOk)
        (onPage (fun p => { p with standby := .clean, holder := none }) (endRebuild n w))))) ∧
    (∀ s q n auto name u, s.page.standby = .saving → s.page.holder = some (.save q n auto true name) →
      u = ({ st := 1, auto := auto, reason := 0, loads := 0, name := name, tick := s.tick, modes := boundModes s
             pages := pageSet s (!s.page.active), map := s.page.next.getD s.abacus.map
             crc := pageCrc (pageSet s (!s.page.active)), fromJnl := false } : Scenario) →
      ∀ w, w = journal (scenRecord n false u) (perfEv 0x13 0x06 0 1 (setScen n u s)) →
      exec .scenSaveDone s = .next (kickAll (completePersisted q true (ans stOk) (resync
        (endRebuild n w))))) ∧
    (∀ s q n x st, s.page.standby = .loading → s.page.holder = some (.hostLoad q n x st) →
      (loadCause (scen s n) s ≠ 0 → exec .scenLoadDone s =
        .next (complete q (ans stScenarioStale) (loadFails n (loadCause (scen s n) s) s))) ∧
      (loadCause (scen s n) s = 0 → st = true → exec .scenLoadDone s =
        .next (complete q (ans stOk) (onPage (fun p => { p with standby := .built }) (loadPasses n s)))) ∧
      (loadCause (scen s n) s = 0 → st = false → exec .scenLoadDone s =
        .next (armPage (.hostLoad q n x false) (some q) 0 [] (some x) (loadPasses n s)))) ∧
    (∀ s g n, s.page.standby = .loading → s.page.holder = some (.groupLoad g n) →
      (loadCause (scen s n) s ≠ 0 → exec .scenLoadDone s =
        .next (restoreFail g (loadFails n (loadCause (scen s n) s) s))) ∧
      (loadCause (scen s n) s = 0 → exec .scenLoadDone s =
        .next (armPage (.groupLoad g n) none 0 [] (some 0) (loadPasses n s))))

/-- A defect that holds and whose clearing condition holds is cleared, with its report, and no other object
changes. The first boundary of a second with a valid time of day starts monitoring, each further one, and a
change of the time of day, ends the second and begins the next; without monitoring a change alone is only
noted. A half of the tally banks of a port is handed over for each second past, from its third tick; when it
is folded the next one waits, and its banks go back; a half not back two seconds on is counted as missed,
once. On any other state none of these does anything. What the tallies and bins hold is written in the
definitions of the chapter. (09_monitoring.md) -/
def Obligations.MonitoringEvents : Prop :=
  (∀ c n d s, 1 ≤ c → c ≤ 3 → (hist s (objOf c n)).defects.getLsbD d = true → clears s c n d (hist s (objOf c n)) = true →
      Does (.defectClear c n d) s fun t => (hist t (objOf c n)).defects = clrBit (hist s (objOf c n)).defects d ∧
        (hist t (objOf c n)).reported = clrBit (hist s (objOf c n)).reported d ∧
        ∀ o, o ≠ objOf c n → hist t o = hist s o) ∧
    (∀ s, s.timing.todValid = true → (s.timing.sec ≠ s.pm.lastSec ∨ s.pm.todChange = true) → s.pm.running = true →
      Does .secondBoundary s fun t => t = endSecond s ∧ t.pm.second = s.pm.second + 1 ∧ t.pm.ticks = 1 ∧
        t.pm.lastSec = s.timing.sec ∧ t.pm.todChange = false ∧ t.pm.running = true ∧ Only [.rc, .pm] s t) ∧
    (∀ s, s.timing.todValid = true → s.timing.sec ≠ s.pm.lastSec → s.pm.running = false →
      Does .secondBoundary s fun t => t = startMonitor s ∧ t.pm.running = true ∧ t.pm.second = 0 ∧ t.pm.ticks = 1 ∧
        t.pm.lastSec = s.timing.sec ∧ Only [.pm] s t) ∧
    (∀ p s, s.pm.running = true → (halves s p).given < s.pm.second →
      (3 ≤ s.pm.ticks ∨ s.pm.second ≠ (halves s p).given + 1) → Does (.tallyHandoff p) s fun t =>
        (halves t p).out = (halves s p).out ++ [(halves s p).given] ∧ (halves t p).given = (halves s p).given + 1 ∧
        (∀ r, r ≠ p → halves t r = halves s r) ∧ Only [.rc, .pm, .bank, .perf, .sec] s t) ∧
    (∀ p s n ns, mgmtRuns s = true → (halves s p).out = n :: ns → Does (.foldDone p) s fun t =>
      (halves t p).out = ns ∧ (halves t p).given = (halves s p).given ∧ (∀ r, r ≠ p → halves t r = halves s r) ∧
      t.pm.hist = (foldPort p n s).pm.hist ∧ Only [.rc, .pm, .bank, .sram, .perf, .sec] s t) ∧
    (∀ p s, s.pm.running = true → (halves s p).lost = false → 2 ≤ s.pm.second →
      ((halves s p).out.contains (s.pm.second - 2) = true ∨ (halves s p).given + 1 < s.pm.second) →
      Does (.tallyHandbackMissed p) s fun t => (halves t p).lost = true ∧
        rcGet t 0x34001C = rcGet (count 0x34001C s) 0x34001C ∧ Only [.rc, .pm] s t) ∧
    (∀ s, s.timing.todValid = true → s.timing.sec = s.pm.lastSec → s.pm.todChange = true → s.pm.running = false →
      exec .secondBoundary s = .next { s with pm := { s.pm with todChange := false } }) ∧
    (∀ s, (s.timing.todValid = false ∨ (s.timing.sec = s.pm.lastSec ∧ s.pm.todChange = false)) →
      exec .secondBoundary s = .next s) ∧
    (∀ c n d s, ((hist s (objOf c n)).defects.getLsbD d = false ∨ clears s c n d (hist s (objOf c n)) = false) →
      exec (.defectClear c n d) s = .next s) ∧
    (∀ p s, (s.pm.running = false ∨ s.pm.second ≤ (halves s p).given) → exec (.tallyHandoff p) s = .next s) ∧
    (∀ p s, (mgmtRuns s = false ∨ (halves s p).out = []) → exec (.foldDone p) s = .next s) ∧
    (∀ p s, (s.pm.running = false ∨ (halves s p).lost = true ∨ s.pm.second < 2) →
      exec (.tallyHandbackMissed p) s = .next s)

/-- TOD_APPLY completes the oldest request that has applied. The edge of a tick, which TICK_EDGE runs, carries
the time of day 1,000 ns on, changed by every request for that tick in order, and takes those requests from
the list. On a synchronised standby that follows PX, a frame enters the sender's time, moved by the ticks
between the two edges, for the next edge; a twin that is active or does not follow PX in LOCKED only removes
it. On the active twin a frame is sent on the first bonded PX lane every second. The references are
evaluated every millisecond, or at once when asked, by a complex that works: the configuration comes into
force, a return to AUTO without a reference holds over, wander is judged and the best reference steers. That
a request applies within TICK_EDGE and TOD_APPLY completes it, and the byte order of the frames, are the
model's readings (log entries 72 and 73). (10_timing.md) -/
def Obligations.TimeOfDay : Prop :=
  (∀ s q r, s.timing.todDone = q :: r → exec .todApply s =
      .next (complete q (ans stOk) { s with timing := { s.timing with todDone := r } })) ∧
    (∀ s u x, u = timingEdge (countTick s) → x = todAt (s.tick + 1) s.timing.todAsk (todNs s.timing) →
      u.timing.sec = (x / 1000000000).toNat % 2 ^ 48 ∧ u.timing.ns = (x % 1000000000).toNat ∧
      u.timing.todAsk = s.timing.todAsk.filter (fun a => a.at ≠ s.tick + 1) ∧
      u.timing.todDone = s.timing.todDone ++ (s.timing.todAsk.filter fun a => a.at = s.tick + 1).filterMap TodAsk.queue) ∧
    (∀ b s l u q m x, pxFrame 0x02 b s = some (l, u) → (lane u l).bond.row0 = some (q, m) → u.ssw.actOut = false →
      (u.timing.selected = some 12 ∨ u.timing.selected = some 13) → u.timing.mode = 2 →
      x = (beAt b 0 6 : Int) * 1000000000 + beAt b 6 4 + 1000 * ((u.tick : Int) + 1
        - (((m + 1024) / 2048 : Nat) + (BitVec.ofNat 32 (beAt b 10 8) - q).toInt)) →
      exec (.todFrameRx b) s = .next { u with timing := { u.timing with
        todAsk := u.timing.todAsk ++ [.twin (u.tick + 1) x] } }) ∧
    (∀ b s l u, pxFrame 0x02 b s = some (l, u) → (u.ssw.actOut = true ∨ u.timing.mode ≠ 2 ∨
      (u.timing.selected ≠ some 12 ∧ u.timing.selected ≠ some 13)) → exec (.todFrameRx b) s = .next u) ∧
    (∀ s l, [256, 257, 258, 259].find? (fun l => (lane s l).bond.bonded) = some l → (port s 8).st = 7 →
      s.ssw.actOut = true → s.timing.todSentAt + 1000000 ≤ s.tick → Does .todFrameSend s fun t =>
        t.timing = { s.timing with todSentAt := s.tick } ∧ t.lanes = (sendFrame l 0x02 (beBytes 6 s.timing.sec
          ++ beBytes 4 s.timing.ns ++ beBytes 8 s.tick ++ [BitVec.ofNat 8 (b2n s.timing.todValid)]) s).lanes ∧
        Only [.lanes, .timing] s t) ∧
    (∀ s, s.mgmt.up ≠ 0 → s.mgmt.restartAt = none → (s.timing.evalAt + 1000 ≤ s.tick ∨ s.timing.urgent = true) →
      ∀ v u, v = takeConfig { s with timing := { s.timing with evalAt := s.tick } } →
      u = turnAuto (decide (reqMode s ≠ 0 ∧ reqMode v = 0)) (forAll (List.range 14) judgeWander v) →
      exec .selectionEvaluation s = .next (squelchOutputs (reportDisagreements (steer
        { u with timing := { u.timing with urgent := false } }))))

/-- An edge of a reference input that is on is taken; a reference whose activity fails is disqualified, and asks
for an evaluation when it was selected; the end of a frequency window records the frequency in range of 32
bits, checked against the accepting limit of one that is not qualified and the rejecting limit of one that
is, and with a wait-to-restore time of 0 the first window that passes qualifies the reference; a reference
that has passed every check for its wait-to-restore time is qualified, and no other reference changes. A
DPLL that has been in range for a second while acquiring is LOCKED; soft control that is not written for its
watchdog falls to HOLDOVER, is counted and reported; an hour learned is recorded and journalled with its
model; the estimate is valid once five minutes are gathered; the quality of holdover is told again when its
time has run; the oven is ready while PD1 is on. What the oscillator model predicts is free (log entry 10).
(10_timing.md) -/
def Obligations.TimingEvents : Prop :=
  (∀ n x s, refOn s n = true → 8 ≤ n → n ≠ 12 → exec (.referenceInputEdge n x) s = .next (refEdge n x s)) ∧
    (∀ n s, refOn s n = true → (ref s n).active = true → activityFails s n = true →
      Does (.referenceActivityFail n) s fun t => t = disqualify n s ∧
        ref t n = { ref s n with qualified := false, active := false, freqOk := false, wtrAt := none } ∧
        (s.timing.selected = some n → (ref s n).qualified = true → t.timing.urgent = true) ∧
        (∀ m, m ≠ n → ref t m = ref s m) ∧ Only [.timing] s t) ∧
    (∀ n s a, (ref s n).wtrAt = some a → refPasses s n = true → refWtr s n ≠ 0 → a + 1000000 * refWtr s n ≤ s.tick →
      Does (.referenceWtrExpiry n) s fun t => ref t n = { ref s n with qualified := true, wtrAt := none } ∧
        (∀ m, m ≠ n → ref t m = ref s m) ∧ Only [.timing] s t) ∧
    (∀ n f s, refOn s n = true → (ref s n).active = true →
      (ref s n).winAt + (if 8 ≤ n ∧ n < 12 ∧ refFreqCode s n = 0 then 10000000 else 1000000) ≤ s.tick →
      Does (.frequencyWindowEnd n f) s fun t => (ref t n).freq = sat32 f ∧ (ref t n).winAt = s.tick ∧
        (ref t n).freqOk = (if (ref s n).qualified then decide ((sat32 f).natAbs ≤ (qualLimits s).1)
          else decide ((sat32 f).natAbs ≤ (qualLimits s).2)) ∧
        (∀ m, m ≠ n → ref t m = ref s m) ∧ Only [.timing] s t) ∧
    (∀ s a, s.timing.lockAt = some a → s.timing.mode = 1 → a + 1000000 ≤ s.tick → Does .dpllLocked s fun t => t = setMode 2 s ∧ t.timing.mode = 2) ∧
    (∀ s, s.timing.mode = 4 → bitsOf (tcfg s 0x18) 14 0 ≠ 0 → s.timing.softAt + ms (bitsOf (tcfg s 0x18) 14 0) ≤ s.tick →
      ∀ u, u = setMode 3 s → Does .softWatchdogExpiry s fun t => t = raise .softWatchdog 0 0 (count 0x3005C
        { u with timing := { u.timing with softOut := true } }) ∧ t.timing.mode = 3 ∧ t.timing.softOut = true) ∧
    (∀ b s, 3600000000 ≤ s.timing.learned → Does (.learnHour b) s fun t =>
      t.timing.learned = s.timing.learned - 3600000000 ∧ t.timing.learnHours = min 0xFFFF (s.timing.learnHours + 1) ∧
      t.timing.model = b ∧ t.timing.modelTemp = s.sens.oven.toNat ∧
      t.jnl = (journal (.holdover b (min 0xFFFF (s.timing.learnHours + 1))) s).jnl ∧ Only [.timing, .jnl] s t) ∧
    (∀ b s, s.timing.learned < 3600000000 → exec (.learnHour b) s = .next s) ∧
    (∀ s, s.timing.gathered < 300000000 → exec .estimateValid s = .next s) ∧
    (∀ n x s, (refOn s n = false ∨ n < 8 ∨ n = 12) → exec (.referenceInputEdge n x) s = .next s) ∧
    (∀ s, s.timing.mode ≠ 4 → exec .softWatchdogExpiry s = .next s) ∧
    (∀ s, s.timing.mode ≠ 3 → exec .holdQlTimeExpiry s = .next s) ∧
    (∀ s, s.timing.mode ≠ 1 → exec .dpllLocked s = .next s) ∧
    (∀ s, 300000000 ≤ s.timing.gathered → exec .estimateValid s =
      .next { s with timing := { s.timing with estValid := true } }) ∧
    (∀ s a, s.timing.holdAt = some a → s.timing.mode = 3 → a + 1000000 * bitsOf (tcfg s 0x14) 19 0 ≤ s.tick →
      Does .holdQlTimeExpiry s fun t => t.timing.holdOld = true ∧ t.timing.mode = 3 ∧
        t.timing.qlTx = qlOf { s with timing := { s.timing with holdOld := true } } ∧ Only [.timing] s t) ∧
    (∀ s, s.pwr.on.getLsbD 1 = true → exec .ovenReady s = .next { s with timing := { s.timing with ovenReady := true } }) ∧
    (∀ n f s r, refOn s n = true → (ref s n).active = true → (ref s n).qualified = false → refWtr s n = 0 →
      (ref s n).wanderOk = true →
      (ref s n).winAt + (if 8 ≤ n ∧ n < 12 ∧ refFreqCode s n = 0 then 10000000 else 1000000) ≤ s.tick →
      (sat32 f).natAbs ≤ (qualLimits s).2 → r = (ref s n).wtrAt → Does (.frequencyWindowEnd n f) s fun t =>
        (ref t n).qualified = true ∧ (ref t n).wtrAt = none)

/-- With VIN good and POR_N high a sample publishes its readings, and trips the card at 118.0 degrees or with
more than half the sensors invalid, unless it has tripped and is off already. A watchdog of a core that is
up restarts the complex, or holds it at the third in ten minutes. A restart that is done, with a datapath to
verify its image, brings four cores up and goes on with service, or leaves recovery when the complex was in
it, or enters recovery when no slot boots. Corrected errors of LPDDR6 are counted; an uncorrectable one is
counted and reported and what it hits is marked: a stored scenario is stale and no longer fits its CRC, a
record of the log is corrupt, a bin has lost counts, or the complex restarts. A trial not confirmed in its
time is abandoned. An image staged, with a datapath to open it, goes to the other slot when it passes every
check and was written, and leaves that slot empty otherwise; the command completes with what was found.
Medians, restarts and the scenario hit are read as log entries 28, 33, 48 and 65 say, and the datapath of
internal work as log entry 44 says. (15_management.md) -/
def Obligations.ManagementEvents : Prop :=
  (∀ r s, s.pwr.vin = true → s.pwr.por = false → ∀ u, u = warnStep (takeMax ((List.range 64).map fun i =>
        (r.temps.getD i 0).toInt) (forAll (List.range 64) (takeReading ((List.range 64).map fun i =>
        (r.temps.getD i 0).toInt)) { s with sens := { s.sens with
          vin := r.vin, iin := r.iin, pin := r.pin, oven := r.oven,
          dom := (List.range 20).foldl (fun m d => spSet (fun _ => 0) d (r.domains.getD d 0) m) s.sens.dom } })) →
      ((u.sens.max.toInt < 944 ∧ 32 ≤ u.sens.valid) → exec (.sensorSample r) s = .next u) ∧
      ((944 ≤ u.sens.max.toInt ∨ u.sens.valid < 32) →
        (u.sens.tripped = false ∨ u.pwr.st = 1 ∨ u.pwr.st = 2 ∨ u.pwr.st = 3) →
        exec (.sensorSample r) s = .next (trip u))) ∧
    (∀ k s, s.mgmt.restartAt = none → s.mgmt.halted = false → s.mgmt.up.getLsbD k = true →
      ∀ ds, ds = s.tick :: s.mgmt.dogs.filter (fun t => decide (s.tick < t + 600000000)) →
      ∀ u, u = countAttempt { s with mgmt := { s.mgmt with dogs := ds } } →
      (ds.length < 3 → exec (.watchdogExpiry k) s = .next (raise .watchdog k 0 (startRestart u))) ∧
      (3 ≤ ds.length → exec (.watchdogExpiry k) s = .next (raise .watchdog k 0 (holdComplex u)))) ∧
    (∀ fs s a v r u, s.mgmt.restartAt = some a → (dpReady .image s).1 = true → v = (dpReady .image s).2 →
      r = restartImage v →
      u = onImage (fun x => { x with reboot := false }) (onMgmt (fun m => { m with restartAt := none, up := 0xF }) r.1) →
      exec (.mgmtRestartDone fs) s = .next (if r.2 = false then enterRecovery u
        else if v.mgmt.recovery = true then leaveRecovery fs u
        else resumeService (raiseKept (replayAgain (emptyHistory u))))) ∧
    (∀ fs s, (s.mgmt.restartAt = none → exec (.mgmtRestartDone fs) s = .next s) ∧
      (s.mgmt.restartAt ≠ none → (dpReady .image s).1 = false →
        exec (.mgmtRestartDone fs) s = .next (dpReady .image s).2)) ∧
    (∀ s n, pdOn s 3 = true → Does (.lpddrEccUncorr ⟨none, n⟩) s fun t => t = countN 0x70024 n s ∧
      rcGet t 0x70024 = BitVec.ofNat 32 (min 0xFFFFFFFF ((rcGet s 0x70024).toNat + n)) ∧ Only [.rc] s t) ∧
    (∀ s n m u, pdOn s 3 = true → m = LpddrRegion.firmware ∨ m = .trace ∨ m = .staging →
      u = raise .lpddrUncorr m.ctorIdx 0 (count 0x70028 (countN 0x70024 n s)) →
      exec (.lpddrEccUncorr ⟨some m, n⟩) s = .next (if m = .firmware ∧ u.mgmt.restartAt = none ∧ u.mgmt.halted = false ∧
        u.mgmt.up ≠ 0 then startRestart u else u)) ∧
    (∀ s k n, pdOn s 3 = true → (scen s n).st ≠ 0 → Does (.lpddrEccUncorr ⟨some (.scenario n), k⟩) s fun t =>
      (scen t n).st = 2 ∧ (scen t n).reason = (if (scen s n).st = 2 then (scen s n).reason else 4) ∧
      (scen t n).pages = (scen s n).pages ∧ (scen t n).crc = ~~~ pageCrc (scen s n).pages ∧
      ∀ m, m ≠ n → scen t m = scen s m) ∧
    (∀ s k n, pdOn s 3 = true → (scen s n).st = 0 → Does (.lpddrEccUncorr ⟨some (.scenario n), k⟩) s fun t =>
      t.page = s.page) ∧
    (∀ s k n, pdOn s 3 = true → Does (.lpddrEccUncorr ⟨some (.log n), k⟩) s fun t => n ∈ t.mgmt.corrupt ∧
      t.page = s.page) ∧
    (∀ s k o, pdOn s 3 = true →
      (Does (.lpddrEccUncorr ⟨some (.history o false 0), k⟩) s fun t => t.pm = (mapHist (fun n h => if n = o then
        { h with cur15 := { h.cur15 with flags := h.cur15.flags ||| 4 } } else h) s).pm) ∧
      (Does (.lpddrEccUncorr ⟨some (.history o true 0), k⟩) s fun t => t.pm = (mapHist (fun n h => if n = o then
        { h with cur24 := { h.cur24 with flags := h.cur24.flags ||| 4 } } else h) s).pm) ∧
      (∀ i, Does (.lpddrEccUncorr ⟨some (.history o false (i + 1)), k⟩) s fun t =>
        t.pm = (mapHist (fun n h => if n = o then { h with prev15 := (match h.prev15[i]? with
          | some b => h.prev15.set i { b with flags := b.flags ||| 4 }
          | none => h.prev15) } else h) s).pm)) ∧
    (∀ s, s.image.onTrial = true → mgmtRuns s = true → s.image.trialAt + trialTime s * 1000000 ≤ s.tick →
      exec .trialTimeout s = .next (abandonTrial none s)) ∧
    (∀ s, (s.image.onTrial = false ∨ s.tick < s.image.trialAt + trialTime s * 1000000) →
      exec .trialTimeout s = .next s) ∧
    (∀ ok s q b u n v f good, s.image.staging = some (q, b) → mgmtRuns s = true → (dpReady .image s).1 = true →
      u = (dpReady .image s).2 → n = imageOpens u.otp true b → v = countOpens none n.1 n.2 u →
      f = imageFault v.otp true b → good = (decide (f = 0) && ok && slotThere v (!s.image.boot)) →
      exec (.imageStageDone ok) s =
        .next (complete q (if f = 6 then ans stRollbackRefused else if good = false then ans stImageInvalid
            else ⟨stOk, imgId b + 2 ^ 32 * imgVersion b, 0, 0, 0⟩)
          { v with image := { setSlot (!s.image.boot) (if good then b else []) v.image with staging := none } })) ∧
    (∀ ok s q b, s.image.staging = some (q, b) → mgmtRuns s = true → (dpReady .image s).1 = false →
      exec (.imageStageDone ok) s = .next (dpReady .image s).2) ∧
    (∀ ok s, (s.image.staging = none ∨ mgmtRuns s = false) → exec (.imageStageDone ok) s = .next s)

/-- With the journal writing, the complex running and a datapath to seal it, the oldest waiting record is
persisted and what waits for it goes on; a compaction that is done becomes the checkpoint and its command
completes with its number, and with the journal not writing it is given up with NOT_PERSISTED; without a
datapath either waits. A block that fails is counted with its kind and gives way to a spare, and without a
spare the device leaves the set; a device lost is counted and leaves it. Which blocks are free and spare at
first is the model's choice (log entries 3 and 76), and that sealing takes its datapath at that instant is
log entry 44. (16_journal_seesaw.md) -/
def Obligations.JournalEvents : Prop :=
  (∀ s, s.jnl.waiting ≠ [] → jnlWrites s = true → mgmtRuns s = true →
      ((dpReady .seal s).1 = true → exec .recordPersisted s =
        .next (settleWaiters (autoCompact (persistOne (dpReady .seal s).2)))) ∧
      ((dpReady .seal s).1 = false → exec .recordPersisted s = .next (dpReady .seal s).2)) ∧
    (∀ s, (s.jnl.waiting = [] ∨ jnlWrites s = false ∨ mgmtRuns s = false) → exec .recordPersisted s = .next s) ∧
    (∀ s x q u, s.jnl.compacting = some (x, q) → mgmtRuns s = true → jnlWrites s = true →
      u = commitCompaction x (dpReady .seal s).2 →
      ((dpReady .seal s).1 = true → exec .compactionDone s =
        .next (settleWaiters (completeOpt q ⟨stOk, u.jnl.ckptId, 0, 0, 0⟩ u))) ∧
      ((dpReady .seal s).1 = false → exec .compactionDone s = .next (dpReady .seal s).2)) ∧
    (∀ s x q, s.jnl.compacting = some (x, q) → mgmtRuns s = true → jnlWrites s = false →
      exec .compactionDone s = .next (completeOpt q (ans stNotPersisted) { s with jnl := { s.jnl with compacting := none } })) ∧
    (∀ s, (s.jnl.compacting = none ∨ mgmtRuns s = false) → exec .compactionDone s = .next s) ∧
    (∀ d k e s u, d < 2 → (region s d).has k = true → (region s d).ok = true →
      u = count (0xA0008 + 0x40 * d + if e then 4 else 0) (count 0x80040 s) →
      ((region s d).spares ≠ 0 → exec (.flashBlockFail d k e) s =
        .next (setRegion d ((region s d).retire k) u)) ∧
      ((region s d).spares = 0 → exec (.flashBlockFail d k e) s = .next (regionLeaves d u))) ∧
    (∀ d s, d < 2 → (region s d).ok = true →
      exec (.flashDeviceLost d) s = .next (regionLeaves d (count (0xA0010 + 0x40 * d) s))) ∧
    (∀ d k e s, (2 ≤ d ∨ (region s d).ok = false) → exec (.flashBlockFail d k e) s = .next s ∧
      exec (.flashDeviceLost d) s = .next s)

/-- The datapath granted starts the first job that waits: an unwrap or internal work runs, an operation that may
not start completes with its reason, one whose input failed counts its use and completes with EXT_FAULT with
the function's error vector, and one with its input runs; a grant of another datapath, or with nothing to
grant, does nothing. A datapath that faults, or with a fault injected, takes the fault path; otherwise its
operation or unwrap finishes, and internal work holds its result for who asked. A window that is zeroing is
zeroed and becomes free. A slot that is being erased and is no longer held is empty at its generation and
its count of faults, is counted, and the command that erased it completes once the erasure is persisted. The
instant of the grant, and what of a slot outlives its erasure, are the model's readings (log entries 44 and
76). (14_cipher.md) -/
def Obligations.CipherEvents : Prop :=
  (∀ d i s q u, nextJob s = some (.op q, d) → u = { s with sec := { s.sec with waiting := s.sec.waiting.erase (.op q) } } →
      (∀ r, opStop u q = some r → exec (.datapathGrant d i) s = .next (refuseOp q r u)) ∧
      (opStop u q = none → i = none → exec (.datapathGrant d i) s =
        .next (complete q (ans stExtFault) (fire (qFunction u q) 0 (opStarts (some (askOf u q).slot) u)))) ∧
      (∀ b x, opStop u q = none → i = some b → x = jobRun u (.op q) b → exec (.datapathGrant d i) s =
        .next (opStarts x.slot { u with sec := { u.sec with dps := spIns d x u.sec.dps } }))) ∧
    (∀ d i s j u x, nextJob s = some (j, d) → (∀ q, j ≠ .op q) →
      u = { s with sec := { s.sec with waiting := s.sec.waiting.erase j } } → x = jobRun u j [] →
      exec (.datapathGrant d i) s = .next (startDp d x u)) ∧
    (∀ d i s, (∀ j, nextJob s ≠ some (j, d)) → exec (.datapathGrant d i) s = .next s) ∧
    (∀ d s x, dpRun s d = some x → exec (.datapathFault d) s = .next (faultDp d x s)) ∧
    (∀ d s q, dpRun s d = none → checking s d = some q →
      exec (.datapathFault d) s = .next (faultDp d (workRun s (.tag q)) s)) ∧
    (∀ d s, dpRun s d = none → checking s d = none → exec (.datapathFault d) s = .next s) ∧
    (∀ d s x, dpRun s d = some x →
      (secInjected s d = true → exec (.cipherOperationDone d) s = .next (faultDp d x (secDisarm s))) ∧
      (∀ q, secInjected s d = false → x.job = .op q → exec (.cipherOperationDone d) s = .next (finishOp d q x s)) ∧
      (∀ q k, secInjected s d = false → x.job = .unwrap q k →
        exec (.cipherOperationDone d) s = .next (finishUnwrap d q k x s)) ∧
      (∀ w, secInjected s d = false → x.job = .work w → exec (.cipherOperationDone d) s =
        .next (dpEnd d { s with sec := { s.sec with won := s.sec.won ++ [(w, true)] } }))) ∧
    (∀ d s, dpRun s d = none → exec (.cipherOperationDone d) s = .next s) ∧
    (∀ w s, window s w = .zeroing → Does (.windowZeroed w) s fun t => window t w = .free ∧
      (∀ v, v ≠ w → window t v = window s v) ∧ t.bank = (zeroBank (114 + w) s).bank ∧ Only [.sram, .perf, .sec] s t) ∧
    (∀ w s, window s w ≠ .zeroing → exec (.windowZeroed w) s = .next s) ∧
    (∀ k s, (keySlot s k).st = 3 → keyUnheld s k = true → s.sec.erasing.find? (fun e => e.2 = k) = none →
      Does (.keySlotErased k) s fun t => keySlot t k = { KeySlot.reset with
          gen := (keySlot s k).gen, faults := (keySlot s k).faults } ∧
        ∀ j, j ≠ k → keySlot t j = keySlot s j) ∧
    (∀ k s q j u, (keySlot s k).st = 3 → keyUnheld s k = true → s.sec.erasing.find? (fun e => e.2 = k) = some (q, j) →
      u = count 0x60028 (resetCounters k (setKeySlot k { KeySlot.reset with
          gen := (keySlot s k).gen, faults := (keySlot s k).faults } s)) →
      exec (.keySlotErased k) s = .next (completePersisted q false (ans stOk) (journal (.keyRef k (keySlot s k).gen
        true []) { u with sec := { u.sec with erasing := u.sec.erasing.filter fun e => e.2 ≠ k } }))) ∧
    (∀ k s, ((keySlot s k).st ≠ 3 ∨ keyUnheld s k = false) → exec (.keySlotErased k) s = .next s)

/-- The accesses of a step are served with those that retry. A hand-over by the owner at kernel level, by the
code of a master that owns the bank, or by MGMT, to another owner, of a bank that is whole and not under
test, is noted with its time; one to the owner it has changes nothing; one by another agent or level, one
that lends to the memory tests and is not MGMT's, or one of a bank that has failed or is under test, is
refused with its cause; where one is pending it is counted, and takes the place of the pending one only in
its cycle and by the order of the writers. The owner or MGMT sets LEND_OK, which a window bank cannot take.
A hand-over takes effect once the bank has been quiet for 4 ECLK, within 64 ECLK; after them it is dropped
and counted, and a BANK_RELEASE that wrote it completes with either. An allocated bank that has been zeroed
becomes a host bank and its command completes with its number (the pool is read as log entry 45 says, the
writers and the bounds as log entry 78 says). (11_engines_banks.md) -/
def Obligations.BankEvents : Prop :=
  (∀ xs s u, u = { s with bank := { s.bank with answers := [] } } →
      exec (.bankAccess xs) s = .next (accessStep (retries u ++ xs.filter reqInBank) (takeRetries u))) ∧
    (∀ b a o s, (bank s b).failed = false → (bank s b).test = 0 → mayWriteBank (bank s b) a.agent a.kernel = true →
      (o = 4 → writerCode a.agent = 1) →
      (o ≠ (bank s b).owner → (bank s b).handover = none → Does (.bankHandover b a (.owner o)) s fun t =>
        bank t b = { bank s b with handover := some (o, now s, a.agent) } ∧
        (∀ c, c ≠ b → bank t c = bank s c) ∧ Only [.bank] s t) ∧
      (o = (bank s b).owner → exec (.bankHandover b a (.owner o)) s = .next s) ∧
      (∀ x m w, o ≠ (bank s b).owner → (bank s b).handover = some (x, m, w) →
        ((now s / 2 = m / 2 ∧ stands w a.agent = false) → exec (.bankHandover b a (.owner o)) s =
          .next (endRelease b stBusy (count 0x500414 (setBank b
            { bank s b with handover := some (o, now s, a.agent) } s)))) ∧
        (¬ (now s / 2 = m / 2 ∧ stands w a.agent = false) →
          exec (.bankHandover b a (.owner o)) s = .next (count 0x500414 s)))) ∧
    (∀ b a o s, ((bank s b).failed = true ∨ (bank s b).test ≠ 0 ∨ mayWriteBank (bank s b) a.agent a.kernel = false ∨
      (o = 4 ∧ writerCode a.agent ≠ 1)) → exec (.bankHandover b a (.owner o)) s = .next
      (refused (if (bank s b).failed then 2 else if (bank s b).test ≠ 0 then 1 else 3) b a.agent
        (writerCode a.agent) (decide (192 ≤ a.agent)) a.kernel none s)) ∧
    (∀ b a v s, mayWriteBank (bank s b) a.agent a.kernel = true → (v = true → b < 114 ∨ 118 ≤ b) →
      Does (.bankHandover b a (.lend v)) s fun t => bank t b = { bank s b with lendOk := v } ∧
        (∀ c, c ≠ b → bank t c = bank s c) ∧ Only [.bank] s t) ∧
    (∀ b a v s, (mayWriteBank (bank s b) a.agent a.kernel = false ∨ (v = true ∧ 114 ≤ b ∧ b < 118)) →
      exec (.bankHandover b a (.lend v)) s = .next (refused 3 b a.agent (writerCode a.agent)
        (decide (192 ≤ a.agent)) a.kernel none s)) ∧
    (∀ b s o m w, (bank s b).handover = some (o, m, w) → quiet s b = true → now s / 2 ≤ m / 2 + 64 →
      exec (.handoverEffect b) s = .next (endRelease b stOk (handOver b o s)) ∧
      (bank (handOver b o s) b).owner = o ∧ (bank (handOver b o s) b).handover = none) ∧
    (∀ b s, ((bank s b).handover = none ∨ quiet s b = false) → exec (.handoverEffect b) s = .next s) ∧
    (∀ b s o m w, (bank s b).handover = some (o, m, w) → (m / 2 + 64 < now s / 2 ∨
      (quiet s b = false ∧ m / 2 + 64 = now s / 2)) → exec (.handoverTimeout b) s =
      .next (endRelease b stBusy (count 0x500414 (setBank b { bank s b with handover := none } s)))) ∧
    (∀ b s, ((bank s b).handover = none ∨ ∃ o m w, (bank s b).handover = some (o, m, w) ∧ now s / 2 < m / 2 + 64) →
      exec (.handoverTimeout b) s = .next s) ∧
    (∀ s b x, s.bank.own.find? (fun e => e.2.zeroing.isSome) = some (b, x) → exec .bankAllocDone s =
      .next (completeOpt x.zeroing ⟨stOk, b, 0, 0, 0⟩ (handOver b 2 (setBank b { x with zeroing := none } (zeroBank b s))))) ∧
    (∀ s, s.bank.own.find? (fun e => e.2.zeroing.isSome) = none → exec .bankAllocDone s = .next s)

/-- A bank with work to do is lent for its row, the command that asks for it or its segment. A segment whose run
is over records its faults and the next segment begins, and a bank that has failed ends its test. A recall
ends with the bank back at its lender and its words as they were, and what waited for it is served. A
retention pause that has run goes on with the next element. With nothing under test, the clean standby page
is borrowed; a free bank of the pool is tested destructively when MTEST_RUN asks for it or the round takes
it, and the memories of a port that is DOWN. A test whose run is over takes the faults of its target, ends,
and gives back what it had; the test of start-up goes on to steps 7 and 8. With step tests on and nothing
under test, a step that is neither retired, retiring nor lent is asked for when the schedule has run: one
that no page names is lent in the next tick, one in use asks for a page set without it. A step whose loan
has come joins those lent, is counted, and is tested when nothing else is and waits otherwise, unless it was
retired or taken into use meanwhile or the loan is no longer allowed. A step that is lent and not under test
is taken back. On any other state each of these does nothing. The lengths of the runs and the round are read
as log entries 26, 45 and 74 say. (11_engines_banks.md, 05_core.md) -/
def Obligations.MemoryTests : Prop :=
  (∀ b s, (∀ r, borrowOf s b = some (.row r) → exec (.bankBorrow b) s = .next (onMtest (fun t => { t with
        single := true, rows := t.rows.erase (b, r) }) (lendBank b r s))) ∧
      (∀ a, borrowOf s b = some (.ask a) → exec (.bankBorrow b) s = .next (onMtest (fun t => { t with
        q := some a.q, found := a.found, asks := t.asks.erase a }) (lendBank b a.segment s))) ∧
      (borrowOf s b = some .round → exec (.bankBorrow b) s = .next (lendBank b (bank s b).segment s)) ∧
      (borrowOf s b = none → exec (.bankBorrow b) s = .next s)) ∧
    (∀ b fs s u, s.mtest.target = 1 → s.mtest.mode = 1 → s.mtest.index = b → (bank s b).test = 1 → s.mtest.segment < 512 →
      runOver s = true → u = takeFaults (· = b) (fs.filter fun f => f.row = s.mtest.segment)
        (bankRun b 4 s.mtest.segment 1 384 384 s) →
      ((bank u b).failed = true → exec (.segmentDone b fs) s = .next (bankDone b u)) ∧
      ((bank u b).failed = false → Does (.segmentDone b fs) s fun t =>
        t.mtest.segment = (if u.mtest.single then 512 else s.mtest.segment + 1) ∧ t.mtest.element = 0 ∧
        (t.mtest.segment < 512 → t.mtest.runAt = now s) ∧ (bank t b).recalls = 0 ∧
        ∀ c, c ≠ b → bank t c = bank u c)) ∧
    (∀ b fs s, (s.mtest.target ≠ 1 ∨ s.mtest.index ≠ b ∨ runOver s = false) → exec (.segmentDone b fs) s = .next s) ∧
    (∀ b s, (bank s b).test = 3 → Does (.recallDone b) s fun t => ∃ u,
      t = drain (u.bank.stalled.length + 1) { u with bank := { u.bank with answers := [] } } ∧ (bank u b).test = 0 ∧
      (bank u b).owner = (bank s b).lender ∧ (bank u b).lender = 0 ∧ u.mtest.target = 0 ∧ u.bank.mem = s.bank.mem) ∧
    (∀ b s, (bank s b).test ≠ 3 → exec (.recallDone b) s = .next s) ∧
    (∀ s a m, s.mtest.pausedAt = some a → a + ticks s.mtest.pause ≤ now s →
      m = { s.mtest with pass := if s.mtest.element = 4 then s.mtest.pass + 1 else s.mtest.pass } →
      exec .retentionPauseEnd s =
        .next { s with mtest := beginRun (if s.mtest.element = 1 then 4 else 1) (now s) m }) ∧
    (∀ s, (s.mtest.pausedAt = none ∨ ∃ a, s.mtest.pausedAt = some a ∧ now s < a + ticks s.mtest.pause) →
      exec .retentionPauseEnd s = .next s) ∧
    (∀ s, mtIdle s = true → testOn s 3 = true → s.page.standby = .clean → s.page.waiting = [] → s.core.running = true →
      Does .pageBorrow s fun t => t.page.standby = .borrowed ∧ t.mtest.target = 3 ∧ Only [.page, .mtest] s t) ∧
    (∀ s, (mtIdle s = false ∨ testOn s 3 = false ∨ s.page.standby ≠ .clean) → exec .pageBorrow s = .next s) ∧
    (∀ fs s, s.mtest.target = 1 → s.mtest.mode = 1 → (512 ≤ s.mtest.segment →
        exec (.memoryTestDone fs) s = .next (bankDone s.mtest.index s)) ∧
      (s.mtest.segment < 512 → exec (.memoryTestDone fs) s = .next s)) ∧
    (∀ fs s, s.mtest.target ≠ 1 → runOver s = false → exec (.memoryTestDone fs) s = .next s) ∧
    (∀ fs s, runOver s = true →
      (s.mtest.target = 1 → s.mtest.mode ≠ 1 → exec (.memoryTestDone fs) s =
        .next (testedRows (fun e => e.1 = s.mtest.index) (bankDone s.mtest.index (takeFaults (· = s.mtest.index) fs
          (bankRun s.mtest.index 4 0 512 320 320 s))))) ∧
      (s.mtest.target = 2 → exec (.memoryTestDone fs) s = .next (onMtest (fun m => { m with
        stepAt := s.tick + sched s 7 0 * 1000 }) (targetDone (takeFaults (fun m => macroType m = 2)
          (fs.filter fun f => f.row % 2048 = s.mtest.index) s)))) ∧
      (∀ conn : Nat → Bool, s.mtest.target = 3 → conn = (fun m => (macroType m = 3 || macroType m = 4 ||
          macroType m = 5) && bitOf m 8 ≠ s.page.active) → exec (.memoryTestDone fs) s =
        .next (resync (testedRows (fun e => conn e.1) (targetDone (takeFaults conn fs s))))) ∧
      (s.mtest.target = 4 → exec (.memoryTestDone fs) s =
        .next (stepsSevenEight (endSix (s.mtest.known ++ fs) s))) ∧
      (s.mtest.target = 5 → exec (.memoryTestDone fs) s = .next (clusterTested s.mtest.index (targetDone (takeFaults
        (fun m => (macroType m = 6 || macroType m = 7) && macroIndex m / 16 = s.mtest.index) fs s)))) ∧
      (∀ mine : Nat → Bool, s.mtest.target = 6 → mine = (fun m => macroType m = 1 &&
          macroIndex m / 32 = s.mtest.index) → exec (.memoryTestDone fs) s =
        .next (testedRows (fun e => mine e.1) (targetDone (takeFaults mine fs s))))) ∧
    (∀ b s, mtIdle s = true → b < 128 → inPool s b = true →
      ((s.mtest.asks.any fun a => a.bank = b && a.destructive) = true ∨ (testOn s 0 = true ∧ roundTakes s b = true)) →
      Does (.destructiveTestStart b) s fun t => (bank t b).test = 2 ∧ (bank t b).owner = 4 ∧
        t.mtest.target = 1 ∧ t.mtest.mode = 2 ∧ t.mtest.index = b ∧
        t.mtest.q = (match s.mtest.asks.find? (fun a => a.bank = b && a.destructive) with
          | some a => some a.q | none => s.mtest.q)) ∧
    (∀ b s, (mtIdle s = false ∨ (b < 128 ∧ inPool s b = false) ∨ (128 ≤ b ∧ (testOn s 4 = false ∨
      (port s (b - 128)).st ≠ 0))) → exec (.destructiveTestStart b) s = .next s) ∧
    (∀ p s, mtIdle s = true → testOn s 4 = true → (port s p).st = 0 → Does (.destructiveTestStart (128 + p)) s fun t =>
      t.mtest.target = 6 ∧ t.mtest.index = p ∧ ∀ l, l / 32 ≠ p → ∀ k, k / 64 = l →
        t.core.ingress.find? (·.1 = k) = s.core.ingress.find? (·.1 = k)) ∧
    (∀ k s, testOn s 2 = true → mtIdle s = true → s.mtest.stepAt ≤ s.tick → s.core.running = true →
      s.core.retired.contains k = false → s.core.retiring.contains k = false → s.abacus.lent.contains k = false →
      s.abacus.lending.any (·.1 = k) = false → ∀ u, u = onMtest (fun t => { t with
        stepNext := (k + 1) % 2048, stepAt := s.tick + sched s 7 0 * 1000 }) s →
      (mayLend u = false → exec (.stepVacateRequest k) s = .next u) ∧
      (mayLend u = true → s.abacus.map.names k = false → (∀ m, s.page.next = some m → m.names k = false) →
        exec (.stepVacateRequest k) s =
        .next { u with abacus := { u.abacus with lending := u.abacus.lending ++ [(k, s.tick + 1)] } }) ∧
      (mayLend u = true → (s.abacus.map.names k = true ∨ ∃ m, s.page.next = some m ∧ m.names k = true) →
        exec (.stepVacateRequest k) s = .next (request (.vacate k) u))) ∧
    (∀ k s e u, s.abacus.lending.find? (fun e => e.1 = k && decide (e.2 ≤ s.tick)) = some e →
      u = { s with abacus := { s.abacus with lending := s.abacus.lending.erase e } } →
      (s.core.retired.contains k = true ∨ s.abacus.map.names k = true ∨ mayLend u = false →
        exec (.stepLend k) s = .next u) ∧
      (s.core.retired.contains k = false → s.abacus.map.names k = false → mayLend u = true →
        Does (.stepLend k) s fun t => t.abacus.lent = insNat k s.abacus.lent ∧ t.abacus.lending = u.abacus.lending ∧
          rcGet t 0x32001C = rcGet (count 0x32001C s) 0x32001C ∧
          t.mtest = (if mtIdle s = true then { (takeTarget 2 2 k 0 s).mtest with lentWait := s.mtest.lentWait.erase k }
            else { s.mtest with
              lentWait := s.mtest.lentWait.filter (insNat k s.abacus.lent).contains ++ [k] }))) ∧
    (∀ k s, (s.abacus.lending.find? fun e => e.1 = k && decide (e.2 ≤ s.tick)) = none →
      exec (.stepLend k) s = .next s) ∧
    (∀ k s, (testOn s 2 = false ∨ mtIdle s = false ∨ s.tick < s.mtest.stepAt ∨ s.core.running = false) →
      exec (.stepVacateRequest k) s = .next s) ∧
    (∀ k s, (s.abacus.lent.contains k = false ∨ (s.mtest.target = 2 ∧ s.mtest.index = k)) →
      exec (.stepReturn k) s = .next s) ∧
    (∀ k s, s.abacus.lent.contains k = true → ¬ (s.mtest.target = 2 ∧ s.mtest.index = k) →
      Does (.stepReturn k) s fun t => t.abacus.lent = s.abacus.lent.erase k)
end

