-- ==== Sys2Proof/Laws/Frame.lean ====
section
/-! SUPPORT. Reasoning about the parts of the state that an operation leaves as they are: how `Only`
composes, and the shapes of record update that the operations use. -/

set_option Elab.async false

namespace Sys2Proof.Laws

open Sys2Proof Sys2Proof.Machine

/-- Every part of `qs` is one of `ps`. -/
def sub (qs ps : List Part) : Bool := qs.all fun p => ps.contains p

theorem mem_of_sub {qs ps : List Part} (h : sub qs ps = true) {p : Part} (hp : p ∈ qs) : p ∈ ps := by
  simpa using List.all_eq_true.mp h p hp

theorem sub_refl (ps : List Part) : sub ps ps = true := by
  simp [sub]

theorem same_refl (s : State) (p : Part) : p.same s s := by
  cases p <;> first | exact rfl | exact ⟨rfl, rfl⟩ | exact ⟨rfl, rfl, rfl⟩

theorem same_trans {s t u : State} {p : Part} (h : p.same s t) (k : p.same t u) : p.same s u := by
  cases p <;> first
    | exact Eq.trans k h
    | exact ⟨k.1.trans h.1, k.2.trans h.2⟩
    | exact ⟨k.1.trans h.1, k.2.1.trans h.2.1, k.2.2.trans h.2.2⟩

theorem Only.refl (ps : List Part) (s : State) : Only ps s s := ⟨fun p _ => same_refl s p⟩

/-- Two operations in turn. -/
theorem Only.then {ps qs : List Part} {s t u : State} (h : Only ps s t) (k : Only qs t u)
    (hp : sub qs ps = true := by rfl) : Only ps s u :=
  ⟨fun p hn => same_trans (h.same p hn) (k.same p fun hq => hn (mem_of_sub hp hq))⟩

theorem Only.mono {ps qs : List Part} {s t : State} (h : Only qs s t)
    (hp : sub qs ps = true := by rfl) : Only ps s t :=
  Only.then (Only.refl ps s) h hp

theorem Only.ite {ps : List Part} {s t u : State} {c : Prop} [Decidable c] (h : Only ps s t)
    (k : Only ps s u) : Only ps s (if c then t else u) := by
  split <;> assumption

theorem Only.cond {ps : List Part} {s t : State} {c : Bool} {f : State → State} (h : Only ps s t)
    (k : ∀ u, Only ps s u → Only ps s (f u)) : Only ps s (onlyIf c f t) := by
  unfold onlyIf; split
  · exact k t h
  · exact h

theorem Only.fold {ps : List Part} {α : Type} {xs : List α} {s t : State} {f : State → α → State}
    (h : Only ps s t) (k : ∀ u x, Only ps s u → Only ps s (f u x)) : Only ps s (xs.foldl f t) := by
  induction xs generalizing t with
  | nil => exact h
  | cons x xs ih => exact ih (k t x h)

theorem Only.all {ps : List Part} {α : Type} {xs : List α} {s t : State} {f : α → State → State}
    (h : Only ps s t) (k : ∀ x u, Only ps s u → Only ps s (f x u)) : Only ps s (forAll xs f t) :=
  Only.fold h fun u x hu => k x u hu


theorem Only.fold2 {ps : List Part} {α β : Type} {xs : List α} {s : State} {b : β × State}
    {f : β × State → α → β × State} (h : Only ps s b.2)
    (k : ∀ u x, Only ps s u.2 → Only ps s (f u x).2) : Only ps s (xs.foldl f b).2 := by
  induction xs generalizing b with
  | nil => exact h
  | cons x xs ih => exact ih (k b x h)

theorem Only.fold1 {ps : List Part} {α β : Type} {xs : List α} {s : State} {b : State × β}
    {f : State × β → α → State × β} (h : Only ps s b.1)
    (k : ∀ u x, Only ps s u.1 → Only ps s (f u x).1) : Only ps s (xs.foldl f b).1 := by
  induction xs generalizing b with
  | nil => exact h
  | cons x xs ih => exact ih (k b x h)

theorem Only.pair2 {ps : List Part} {β : Type} {s t : State} {b : β} (h : Only ps s t) :
    Only ps s (b, t).2 := h

theorem Only.pair1 {ps : List Part} {β : Type} {s t : State} {b : β} (h : Only ps s t) :
    Only ps s (t, b).1 := h

/-- A command answers a next state, which differs from `s` in the parts `ps` alone. -/
structure NextOnly (ps : List Part) (s : State) (o : Host.Outcome State Fault Refusal) : Prop where
  out : ∃ t, o = .next t ∧ Only ps s t

theorem NextOnly.of {ps : List Part} {s t : State} (h : Only ps s t) : NextOnly ps s (.next t) :=
  ⟨t, rfl, h⟩

theorem Only.upd0 {ps : List Part} {s t : State} (h : Only ps s t) {x0}
    (hp : sub [.abacus] ps = true := by rfl) :
    Only ps s { t with abacus := x0 } :=
  Only.then h ⟨fun p hp => by cases p <;> first | exact rfl | exact ⟨rfl, rfl⟩ | exact ⟨rfl, rfl, rfl⟩ | exact absurd (by decide) hp⟩ hp

theorem Only.upd1 {ps : List Part} {s t : State} (h : Only ps s t) {x0}
    (hp : sub [.bank] ps = true := by rfl) :
    Only ps s { t with bank := { t.bank with answers := x0 } } :=
  Only.then h ⟨fun p hp => by cases p <;> first | exact rfl | exact ⟨rfl, rfl⟩ | exact ⟨rfl, rfl, rfl⟩ | exact absurd (by decide) hp⟩ hp

theorem Only.upd2 {ps : List Part} {s t : State} (h : Only ps s t) {x0} {x1} {x2}
    (hp : sub [.sram] ps = true := by rfl) :
    Only ps s { t with bank := { t.bank with mem := x0, epoch := x1, zeroed := x2 } } :=
  Only.then h ⟨fun p hp => by cases p <;> first | exact rfl | exact ⟨rfl, rfl⟩ | exact ⟨rfl, rfl, rfl⟩ | exact absurd (by decide) hp⟩ hp

theorem Only.upd3 {ps : List Part} {s t : State} (h : Only ps s t) {x0} {x1}
    (hp : sub [.sram] ps = true := by rfl) :
    Only ps s { t with bank := { t.bank with mem := x0, zeroed := x1 } } :=
  Only.then h ⟨fun p hp => by cases p <;> first | exact rfl | exact ⟨rfl, rfl⟩ | exact ⟨rfl, rfl, rfl⟩ | exact absurd (by decide) hp⟩ hp

theorem Only.upd4 {ps : List Part} {s t : State} (h : Only ps s t) {x0}
    (hp : sub [.sram] ps = true := by rfl) :
    Only ps s { t with bank := { t.bank with mem := x0 } } :=
  Only.then h ⟨fun p hp => by cases p <;> first | exact rfl | exact ⟨rfl, rfl⟩ | exact ⟨rfl, rfl, rfl⟩ | exact absurd (by decide) hp⟩ hp

theorem Only.upd5 {ps : List Part} {s t : State} (h : Only ps s t) {x0}
    (hp : sub [.bank] ps = true := by rfl) :
    Only ps s { t with bank := { t.bank with own := x0 } } :=
  Only.then h ⟨fun p hp => by cases p <;> first | exact rfl | exact ⟨rfl, rfl⟩ | exact ⟨rfl, rfl, rfl⟩ | exact absurd (by decide) hp⟩ hp

theorem Only.upd6 {ps : List Part} {s t : State} (h : Only ps s t) {x0}
    (hp : sub [.bank] ps = true := by rfl) :
    Only ps s { t with bank := { t.bank with stalled := x0 } } :=
  Only.then h ⟨fun p hp => by cases p <;> first | exact rfl | exact ⟨rfl, rfl⟩ | exact ⟨rfl, rfl, rfl⟩ | exact absurd (by decide) hp⟩ hp

theorem Only.upd7 {ps : List Part} {s t : State} (h : Only ps s t) {x0}
    (hp : sub [.cclk] ps = true := by rfl) :
    Only ps s { t with cclk := x0 } :=
  Only.then h ⟨fun p hp => by cases p <;> first | exact rfl | exact ⟨rfl, rfl⟩ | exact ⟨rfl, rfl, rfl⟩ | exact absurd (by decide) hp⟩ hp

theorem Only.upd8 {ps : List Part} {s t : State} (h : Only ps s t) {x0}
    (hp : sub [.copy] ps = true := by rfl) :
    Only ps s { t with copy := x0 } :=
  Only.then h ⟨fun p hp => by cases p <;> first | exact rfl | exact ⟨rfl, rfl⟩ | exact ⟨rfl, rfl, rfl⟩ | exact absurd (by decide) hp⟩ hp

theorem Only.upd9 {ps : List Part} {s t : State} (h : Only ps s t) {x0}
    (hp : sub [.core] ps = true := by rfl) :
    Only ps s { t with core := x0 } :=
  Only.then h ⟨fun p hp => by cases p <;> first | exact rfl | exact ⟨rfl, rfl⟩ | exact ⟨rfl, rfl, rfl⟩ | exact absurd (by decide) hp⟩ hp

theorem Only.upd10 {ps : List Part} {s t : State} (h : Only ps s t) {x0}
    (hp : sub [.eng] ps = true := by rfl) :
    Only ps s { t with eng := x0 } :=
  Only.then h ⟨fun p hp => by cases p <;> first | exact rfl | exact ⟨rfl, rfl⟩ | exact ⟨rfl, rfl, rfl⟩ | exact absurd (by decide) hp⟩ hp

theorem Only.upd11 {ps : List Part} {s t : State} (h : Only ps s t) {x0}
    (hp : sub [.frames] ps = true := by rfl) :
    Only ps s { t with frames := x0 } :=
  Only.then h ⟨fun p hp => by cases p <;> first | exact rfl | exact ⟨rfl, rfl⟩ | exact ⟨rfl, rfl, rfl⟩ | exact absurd (by decide) hp⟩ hp

theorem Only.upd12 {ps : List Part} {s t : State} (h : Only ps s t) {x0}
    (hp : sub [.free] ps = true := by rfl) :
    Only ps s { t with free := x0 } :=
  Only.then h ⟨fun p hp => by cases p <;> first | exact rfl | exact ⟨rfl, rfl⟩ | exact ⟨rfl, rfl, rfl⟩ | exact absurd (by decide) hp⟩ hp

theorem Only.upd13 {ps : List Part} {s t : State} (h : Only ps s t) {x0}
    (hp : sub [.held] ps = true := by rfl) :
    Only ps s { t with held := x0 } :=
  Only.then h ⟨fun p hp => by cases p <;> first | exact rfl | exact ⟨rfl, rfl⟩ | exact ⟨rfl, rfl, rfl⟩ | exact absurd (by decide) hp⟩ hp

theorem Only.upd14 {ps : List Part} {s t : State} (h : Only ps s t) {x0}
    (hp : sub [.hostOut] ps = true := by rfl) :
    Only ps s { t with hif := { t.hif with hostMem := x0 } } :=
  Only.then h ⟨fun p hp => by cases p <;> first | exact rfl | exact ⟨rfl, rfl⟩ | exact ⟨rfl, rfl, rfl⟩ | exact absurd (by decide) hp⟩ hp

theorem Only.upd15 {ps : List Part} {s t : State} (h : Only ps s t) {x0} {x1} {x2} {x3}
    (hp : sub [.link] ps = true := by rfl) :
    Only ps s { t with hif := { t.hif with link := x0, speed := x1, width := x2, flit := x3 } } :=
  Only.then h ⟨fun p hp => by cases p <;> first | exact rfl | exact ⟨rfl, rfl⟩ | exact ⟨rfl, rfl, rfl⟩ | exact absurd (by decide) hp⟩ hp

theorem Only.upd16 {ps : List Part} {s t : State} (h : Only ps s t) {x0} {x1} {x2} {x3} {x4} {x5} {x6}
    (hp : sub [.link] ps = true := by rfl) :
    Only ps s { t with hif := { t.hif with link := x0, speed := x1, width := x2, flit := x3, vfs := x4, mps := x5, mrrs := x6 } } :=
  Only.then h ⟨fun p hp => by cases p <;> first | exact rfl | exact ⟨rfl, rfl⟩ | exact ⟨rfl, rfl, rfl⟩ | exact absurd (by decide) hp⟩ hp

theorem Only.upd17 {ps : List Part} {s t : State} (h : Only ps s t) {x0}
    (hp : sub [.hostOut] ps = true := by rfl) :
    Only ps s { t with hif := { t.hif with pba := x0 } } :=
  Only.then h ⟨fun p hp => by cases p <;> first | exact rfl | exact ⟨rfl, rfl⟩ | exact ⟨rfl, rfl, rfl⟩ | exact absurd (by decide) hp⟩ hp

theorem Only.upd18 {ps : List Part} {s t : State} (h : Only ps s t) {x0}
    (hp : sub [.queues] ps = true := by rfl) :
    Only ps s { t with hif := { t.hif with queues := x0 } } :=
  Only.then h ⟨fun p hp => by cases p <;> first | exact rfl | exact ⟨rfl, rfl⟩ | exact ⟨rfl, rfl, rfl⟩ | exact absurd (by decide) hp⟩ hp

theorem Only.upd19 {ps : List Part} {s t : State} (h : Only ps s t) {x0}
    (hp : sub [.bus] ps = true := by rfl) :
    Only ps s { t with hif := { t.hif with readData := x0 } } :=
  Only.then h ⟨fun p hp => by cases p <;> first | exact rfl | exact ⟨rfl, rfl⟩ | exact ⟨rfl, rfl, rfl⟩ | exact absurd (by decide) hp⟩ hp

theorem Only.upd20 {ps : List Part} {s t : State} (h : Only ps s t) {x0} {x1} {x2} {x3} {x4} {x5} {x6} {x7} {x8} {x9}
    (hp : sub [.queues, .link] ps = true := by rfl) :
    Only ps s { t with hif := { t.hif with ready := x0, link := x1, speed := x2, width := x3, flit := x4, vfs := x5, mps := x6, mrrs := x7, turn := x8, vfTable := x9 } } :=
  Only.then h ⟨fun p hp => by cases p <;> first | exact rfl | exact ⟨rfl, rfl⟩ | exact ⟨rfl, rfl, rfl⟩ | exact absurd (by decide) hp⟩ hp

theorem Only.upd21 {ps : List Part} {s t : State} (h : Only ps s t) {x0}
    (hp : sub [.link] ps = true := by rfl) :
    Only ps s { t with hif := { t.hif with ready := x0 } } :=
  Only.then h ⟨fun p hp => by cases p <;> first | exact rfl | exact ⟨rfl, rfl⟩ | exact ⟨rfl, rfl, rfl⟩ | exact absurd (by decide) hp⟩ hp

theorem Only.upd22 {ps : List Part} {s t : State} (h : Only ps s t) {x0}
    (hp : sub [.rings] ps = true := by rfl) :
    Only ps s { t with hif := { t.hif with rings := x0 } } :=
  Only.then h ⟨fun p hp => by cases p <;> first | exact rfl | exact ⟨rfl, rfl⟩ | exact ⟨rfl, rfl, rfl⟩ | exact absurd (by decide) hp⟩ hp

theorem Only.upd23 {ps : List Part} {s t : State} (h : Only ps s t) {x0} {x1}
    (hp : sub [.hostOut] ps = true := by rfl) :
    Only ps s { t with hif := { t.hif with sent := x0, pba := x1 } } :=
  Only.then h ⟨fun p hp => by cases p <;> first | exact rfl | exact ⟨rfl, rfl⟩ | exact ⟨rfl, rfl, rfl⟩ | exact absurd (by decide) hp⟩ hp

theorem Only.upd24 {ps : List Part} {s t : State} (h : Only ps s t) {x0}
    (hp : sub [.bus] ps = true := by rfl) :
    Only ps s { t with hif := { t.hif with timingOut := x0 } } :=
  Only.then h ⟨fun p hp => by cases p <;> first | exact rfl | exact ⟨rfl, rfl⟩ | exact ⟨rfl, rfl, rfl⟩ | exact absurd (by decide) hp⟩ hp

theorem Only.upd25 {ps : List Part} {s t : State} (h : Only ps s t) {x0}
    (hp : sub [.queues] ps = true := by rfl) :
    Only ps s { t with hif := { t.hif with turn := x0 } } :=
  Only.then h ⟨fun p hp => by cases p <;> first | exact rfl | exact ⟨rfl, rfl⟩ | exact ⟨rfl, rfl, rfl⟩ | exact absurd (by decide) hp⟩ hp

theorem Only.upd26 {ps : List Part} {s t : State} (h : Only ps s t) {x0}
    (hp : sub [.link] ps = true := by rfl) :
    Only ps s { t with hif := { t.hif with vfTable := x0 } } :=
  Only.then h ⟨fun p hp => by cases p <;> first | exact rfl | exact ⟨rfl, rfl⟩ | exact ⟨rfl, rfl, rfl⟩ | exact absurd (by decide) hp⟩ hp

theorem Only.upd27 {ps : List Part} {s t : State} (h : Only ps s t) {x0} {x1} {x2}
    (hp : sub [.hostOut, .link] ps = true := by rfl) :
    Only ps s { t with hif := { t.hif with vfs := x0, vfTable := x1, pba := x2 } } :=
  Only.then h ⟨fun p hp => by cases p <;> first | exact rfl | exact ⟨rfl, rfl⟩ | exact ⟨rfl, rfl, rfl⟩ | exact absurd (by decide) hp⟩ hp

theorem Only.upd28 {ps : List Part} {s t : State} (h : Only ps s t) {x0}
    (hp : sub [.image] ps = true := by rfl) :
    Only ps s { t with image := x0 } :=
  Only.then h ⟨fun p hp => by cases p <;> first | exact rfl | exact ⟨rfl, rfl⟩ | exact ⟨rfl, rfl, rfl⟩ | exact absurd (by decide) hp⟩ hp

theorem Only.upd29 {ps : List Part} {s t : State} (h : Only ps s t) {x0}
    (hp : sub [.jnl] ps = true := by rfl) :
    Only ps s { t with jnl := x0 } :=
  Only.then h ⟨fun p hp => by cases p <;> first | exact rfl | exact ⟨rfl, rfl⟩ | exact ⟨rfl, rfl, rfl⟩ | exact absurd (by decide) hp⟩ hp

theorem Only.upd30 {ps : List Part} {s t : State} (h : Only ps s t) {x0}
    (hp : sub [.jtag] ps = true := by rfl) :
    Only ps s { t with jtag := x0 } :=
  Only.then h ⟨fun p hp => by cases p <;> first | exact rfl | exact ⟨rfl, rfl⟩ | exact ⟨rfl, rfl, rfl⟩ | exact absurd (by decide) hp⟩ hp

theorem Only.upd31 {ps : List Part} {s t : State} (h : Only ps s t) {x0}
    (hp : sub [.lanes] ps = true := by rfl) :
    Only ps s { t with lanes := x0 } :=
  Only.then h ⟨fun p hp => by cases p <;> first | exact rfl | exact ⟨rfl, rfl⟩ | exact ⟨rfl, rfl, rfl⟩ | exact absurd (by decide) hp⟩ hp

theorem Only.upd32 {ps : List Part} {s t : State} (h : Only ps s t) {x0}
    (hp : sub [.latch] ps = true := by rfl) :
    Only ps s { t with latch := x0 } :=
  Only.then h ⟨fun p hp => by cases p <;> first | exact rfl | exact ⟨rfl, rfl⟩ | exact ⟨rfl, rfl, rfl⟩ | exact absurd (by decide) hp⟩ hp

theorem Only.upd33 {ps : List Part} {s t : State} (h : Only ps s t) {x0}
    (hp : sub [.mgmtLog] ps = true := by rfl) :
    Only ps s { t with mgmt := { t.mgmt with held := x0 } } :=
  Only.then h ⟨fun p hp => by cases p <;> first | exact rfl | exact ⟨rfl, rfl⟩ | exact ⟨rfl, rfl, rfl⟩ | exact absurd (by decide) hp⟩ hp

theorem Only.upd34 {ps : List Part} {s t : State} (h : Only ps s t) {x0}
    (hp : sub [.mgmt] ps = true := by rfl) :
    Only ps s { t with mgmt := { t.mgmt with past := x0 } } :=
  Only.then h ⟨fun p hp => by cases p <;> first | exact rfl | exact ⟨rfl, rfl⟩ | exact ⟨rfl, rfl, rfl⟩ | exact absurd (by decide) hp⟩ hp

theorem Only.upd35 {ps : List Part} {s t : State} (h : Only ps s t) {x0}
    (hp : sub [.mgmtLog, .mgmt] ps = true := by rfl) :
    Only ps s { t with mgmt := x0 } :=
  Only.then h ⟨fun p hp => by cases p <;> first | exact rfl | exact ⟨rfl, rfl⟩ | exact ⟨rfl, rfl, rfl⟩ | exact absurd (by decide) hp⟩ hp

theorem Only.upd36 {ps : List Part} {s t : State} (h : Only ps s t) {x0}
    (hp : sub [.mtest] ps = true := by rfl) :
    Only ps s { t with mtest := x0 } :=
  Only.then h ⟨fun p hp => by cases p <;> first | exact rfl | exact ⟨rfl, rfl⟩ | exact ⟨rfl, rfl, rfl⟩ | exact absurd (by decide) hp⟩ hp

theorem Only.upd37 {ps : List Part} {s t : State} (h : Only ps s t) {x0}
    (hp : sub [.otp] ps = true := by rfl) :
    Only ps s { t with otp := x0 } :=
  Only.then h ⟨fun p hp => by cases p <;> first | exact rfl | exact ⟨rfl, rfl⟩ | exact ⟨rfl, rfl, rfl⟩ | exact absurd (by decide) hp⟩ hp

theorem Only.upd38 {ps : List Part} {s t : State} (h : Only ps s t) {x0}
    (hp : sub [.page] ps = true := by rfl) :
    Only ps s { t with page := x0 } :=
  Only.then h ⟨fun p hp => by cases p <;> first | exact rfl | exact ⟨rfl, rfl⟩ | exact ⟨rfl, rfl, rfl⟩ | exact absurd (by decide) hp⟩ hp

theorem Only.upd39 {ps : List Part} {s t : State} (h : Only ps s t) {x0}
    (hp : sub [.pending] ps = true := by rfl) :
    Only ps s { t with pending := x0 } :=
  Only.then h ⟨fun p hp => by cases p <;> first | exact rfl | exact ⟨rfl, rfl⟩ | exact ⟨rfl, rfl, rfl⟩ | exact absurd (by decide) hp⟩ hp

theorem Only.upd40 {ps : List Part} {s t : State} (h : Only ps s t) {x0}
    (hp : sub [.perf] ps = true := by rfl) :
    Only ps s { t with perf := x0 } :=
  Only.then h ⟨fun p hp => by cases p <;> first | exact rfl | exact ⟨rfl, rfl⟩ | exact ⟨rfl, rfl, rfl⟩ | exact absurd (by decide) hp⟩ hp

theorem Only.upd41 {ps : List Part} {s t : State} (h : Only ps s t) {x0}
    (hp : sub [.pm] ps = true := by rfl) :
    Only ps s { t with pm := x0 } :=
  Only.then h ⟨fun p hp => by cases p <;> first | exact rfl | exact ⟨rfl, rfl⟩ | exact ⟨rfl, rfl, rfl⟩ | exact absurd (by decide) hp⟩ hp

theorem Only.upd42 {ps : List Part} {s t : State} (h : Only ps s t) {x0}
    (hp : sub [.ports] ps = true := by rfl) :
    Only ps s { t with ports := x0 } :=
  Only.then h ⟨fun p hp => by cases p <;> first | exact rfl | exact ⟨rfl, rfl⟩ | exact ⟨rfl, rfl, rfl⟩ | exact absurd (by decide) hp⟩ hp

theorem Only.upd43 {ps : List Part} {s t : State} (h : Only ps s t) {x0}
    (hp : sub [.prot] ps = true := by rfl) :
    Only ps s { t with prot := x0 } :=
  Only.then h ⟨fun p hp => by cases p <;> first | exact rfl | exact ⟨rfl, rfl⟩ | exact ⟨rfl, rfl, rfl⟩ | exact absurd (by decide) hp⟩ hp

theorem Only.upd44 {ps : List Part} {s t : State} (h : Only ps s t) {x0}
    (hp : sub [.pwr] ps = true := by rfl) :
    Only ps s { t with pwr := x0 } :=
  Only.then h ⟨fun p hp => by cases p <;> first | exact rfl | exact ⟨rfl, rfl⟩ | exact ⟨rfl, rfl, rfl⟩ | exact absurd (by decide) hp⟩ hp

theorem Only.upd45 {ps : List Part} {s t : State} (h : Only ps s t) {x0}
    (hp : sub [.rc] ps = true := by rfl) :
    Only ps s { t with rc := x0 } :=
  Only.then h ⟨fun p hp => by cases p <;> first | exact rfl | exact ⟨rfl, rfl⟩ | exact ⟨rfl, rfl, rfl⟩ | exact absurd (by decide) hp⟩ hp

theorem Only.upd46 {ps : List Part} {s t : State} (h : Only ps s t) {x0}
    (hp : sub [.rc64] ps = true := by rfl) :
    Only ps s { t with rc64 := x0 } :=
  Only.then h ⟨fun p hp => by cases p <;> first | exact rfl | exact ⟨rfl, rfl⟩ | exact ⟨rfl, rfl, rfl⟩ | exact absurd (by decide) hp⟩ hp

theorem Only.upd47 {ps : List Part} {s t : State} (h : Only ps s t) {x0}
    (hp : sub [.regs] ps = true := by rfl) :
    Only ps s { t with regs := x0 } :=
  Only.then h ⟨fun p hp => by cases p <;> first | exact rfl | exact ⟨rfl, rfl⟩ | exact ⟨rfl, rfl, rfl⟩ | exact absurd (by decide) hp⟩ hp

theorem Only.upd48 {ps : List Part} {s t : State} (h : Only ps s t) {x0}
    (hp : sub [.sec] ps = true := by rfl) :
    Only ps s { t with sec := x0 } :=
  Only.then h ⟨fun p hp => by cases p <;> first | exact rfl | exact ⟨rfl, rfl⟩ | exact ⟨rfl, rfl, rfl⟩ | exact absurd (by decide) hp⟩ hp

theorem Only.upd49 {ps : List Part} {s t : State} (h : Only ps s t) {x0}
    (hp : sub [.sens] ps = true := by rfl) :
    Only ps s { t with sens := x0 } :=
  Only.then h ⟨fun p hp => by cases p <;> first | exact rfl | exact ⟨rfl, rfl⟩ | exact ⟨rfl, rfl, rfl⟩ | exact absurd (by decide) hp⟩ hp

theorem Only.upd50 {ps : List Part} {s t : State} (h : Only ps s t) {x0}
    (hp : sub [.smb] ps = true := by rfl) :
    Only ps s { t with smb := x0 } :=
  Only.then h ⟨fun p hp => by cases p <;> first | exact rfl | exact ⟨rfl, rfl⟩ | exact ⟨rfl, rfl, rfl⟩ | exact absurd (by decide) hp⟩ hp

theorem Only.upd51 {ps : List Part} {s t : State} (h : Only ps s t) {x0}
    (hp : sub [.ssw] ps = true := by rfl) :
    Only ps s { t with ssw := x0 } :=
  Only.then h ⟨fun p hp => by cases p <;> first | exact rfl | exact ⟨rfl, rfl⟩ | exact ⟨rfl, rfl, rfl⟩ | exact absurd (by decide) hp⟩ hp

theorem Only.upd52 {ps : List Part} {s t : State} (h : Only ps s t) {x0}
    (hp : sub [.tick] ps = true := by rfl) :
    Only ps s { t with tick := x0 } :=
  Only.then h ⟨fun p hp => by cases p <;> first | exact rfl | exact ⟨rfl, rfl⟩ | exact ⟨rfl, rfl, rfl⟩ | exact absurd (by decide) hp⟩ hp

theorem Only.upd53 {ps : List Part} {s t : State} (h : Only ps s t) {x0}
    (hp : sub [.timing] ps = true := by rfl) :
    Only ps s { t with timing := x0 } :=
  Only.then h ⟨fun p hp => by cases p <;> first | exact rfl | exact ⟨rfl, rfl⟩ | exact ⟨rfl, rfl, rfl⟩ | exact absurd (by decide) hp⟩ hp

theorem Only.upd54 {ps : List Part} {s t : State} (h : Only ps s t) {x0} {x1}
    (hp : sub [.abacus, .mtest] ps = true := by rfl) :
    Only ps s { t with abacus := x0, mtest := x1 } :=
  Only.then h ⟨fun p hp => by cases p <;> first | exact rfl | exact ⟨rfl, rfl⟩ | exact ⟨rfl, rfl, rfl⟩ | exact absurd (by decide) hp⟩ hp

theorem Only.upd55 {ps : List Part} {s t : State} (h : Only ps s t) {x0} {x1}
    (hp : sub [.abacus, .prot] ps = true := by rfl) :
    Only ps s { t with abacus := x0, prot := x1 } :=
  Only.then h ⟨fun p hp => by cases p <;> first | exact rfl | exact ⟨rfl, rfl⟩ | exact ⟨rfl, rfl, rfl⟩ | exact absurd (by decide) hp⟩ hp

theorem Only.upd56 {ps : List Part} {s t : State} (h : Only ps s t) {x0} {x1}
    (hp : sub [.bank, .mtest] ps = true := by rfl) :
    Only ps s { t with bank := { t.bank with own := x0 }, mtest := x1 } :=
  Only.then h ⟨fun p hp => by cases p <;> first | exact rfl | exact ⟨rfl, rfl⟩ | exact ⟨rfl, rfl, rfl⟩ | exact absurd (by decide) hp⟩ hp

theorem Only.upd57 {ps : List Part} {s t : State} (h : Only ps s t) {x0} {x1}
    (hp : sub [.core, .abacus] ps = true := by rfl) :
    Only ps s { t with core := x0, abacus := x1 } :=
  Only.then h ⟨fun p hp => by cases p <;> first | exact rfl | exact ⟨rfl, rfl⟩ | exact ⟨rfl, rfl, rfl⟩ | exact absurd (by decide) hp⟩ hp

theorem Only.upd58 {ps : List Part} {s t : State} (h : Only ps s t) {x0} {x1}
    (hp : sub [.core, .mtest] ps = true := by rfl) :
    Only ps s { t with core := x0, mtest := x1 } :=
  Only.then h ⟨fun p hp => by cases p <;> first | exact rfl | exact ⟨rfl, rfl⟩ | exact ⟨rfl, rfl, rfl⟩ | exact absurd (by decide) hp⟩ hp

theorem Only.upd59 {ps : List Part} {s t : State} (h : Only ps s t) {x0} {x1}
    (hp : sub [.core, .prot] ps = true := by rfl) :
    Only ps s { t with core := x0, prot := x1 } :=
  Only.then h ⟨fun p hp => by cases p <;> first | exact rfl | exact ⟨rfl, rfl⟩ | exact ⟨rfl, rfl, rfl⟩ | exact absurd (by decide) hp⟩ hp

theorem Only.upd60 {ps : List Part} {s t : State} (h : Only ps s t) {x0} {x1}
    (hp : sub [.jtag, .otp] ps = true := by rfl) :
    Only ps s { t with jtag := x0, otp := x1 } :=
  Only.then h ⟨fun p hp => by cases p <;> first | exact rfl | exact ⟨rfl, rfl⟩ | exact ⟨rfl, rfl, rfl⟩ | exact absurd (by decide) hp⟩ hp

theorem Only.upd61 {ps : List Part} {s t : State} (h : Only ps s t) {x0} {x1} {x2}
    (hp : sub [.mgmt, .smb] ps = true := by rfl) :
    Only ps s { t with mgmt := { t.mgmt with restartAt := x0, halted := x1 }, smb := x2 } :=
  Only.then h ⟨fun p hp => by cases p <;> first | exact rfl | exact ⟨rfl, rfl⟩ | exact ⟨rfl, rfl, rfl⟩ | exact absurd (by decide) hp⟩ hp

theorem Only.upd62 {ps : List Part} {s t : State} (h : Only ps s t) {x0} {x1}
    (hp : sub [.page, .abacus] ps = true := by rfl) :
    Only ps s { t with page := x0, abacus := x1 } :=
  Only.then h ⟨fun p hp => by cases p <;> first | exact rfl | exact ⟨rfl, rfl⟩ | exact ⟨rfl, rfl, rfl⟩ | exact absurd (by decide) hp⟩ hp

theorem Only.upd63 {ps : List Part} {s t : State} (h : Only ps s t) {x0} {x1}
    (hp : sub [.sec, .otp] ps = true := by rfl) :
    Only ps s { t with sec := x0, otp := x1 } :=
  Only.then h ⟨fun p hp => by cases p <;> first | exact rfl | exact ⟨rfl, rfl⟩ | exact ⟨rfl, rfl, rfl⟩ | exact absurd (by decide) hp⟩ hp

theorem Only.upd64 {ps : List Part} {s t : State} (h : Only ps s t) {x0} {x1}
    (hp : sub [.tick, .cclk] ps = true := by rfl) :
    Only ps s { t with tick := x0, cclk := x1 } :=
  Only.then h ⟨fun p hp => by cases p <;> first | exact rfl | exact ⟨rfl, rfl⟩ | exact ⟨rfl, rfl, rfl⟩ | exact absurd (by decide) hp⟩ hp

theorem Only.upd65 {ps : List Part} {s t : State} (h : Only ps s t) {x0} {x1} {x2} {x3}
    (hp : sub [.link, .sec, .mgmt] ps = true := by rfl) :
    Only ps s { t with hif := { t.hif with ready := x0 }, sec := x1, mgmt := { t.mgmt with up := x2, recovery := x3 } } :=
  Only.then h ⟨fun p hp => by cases p <;> first | exact rfl | exact ⟨rfl, rfl⟩ | exact ⟨rfl, rfl, rfl⟩ | exact absurd (by decide) hp⟩ hp

theorem Only.upd66 {ps : List Part} {s t : State} (h : Only ps s t) {x0} {x1} {x2} {x3} {x4} {x5} {x6}
    (hp : sub [.rings, .hostOut, .mgmtLog, .log] ps = true := by rfl) :
    Only ps s { t with hif := { t.hif with rings := x0, seqs := x1, sent := x2, pba := x3, hostMem := x4 }, mgmt := { t.mgmt with logNext := x5 }, log := x6 } :=
  Only.then h ⟨fun p hp => by cases p <;> first | exact rfl | exact ⟨rfl, rfl⟩ | exact ⟨rfl, rfl, rfl⟩ | exact absurd (by decide) hp⟩ hp

theorem Only.upd67 {ps : List Part} {s t : State} (h : Only ps s t) {x0} {x1} {x2}
    (hp : sub [.latch, .timing, .bus] ps = true := by rfl) :
    Only ps s { t with latch := x0, timing := x1, hif := { t.hif with readData := x2 } } :=
  Only.then h ⟨fun p hp => by cases p <;> first | exact rfl | exact ⟨rfl, rfl⟩ | exact ⟨rfl, rfl, rfl⟩ | exact absurd (by decide) hp⟩ hp

theorem Only.upd68 {ps : List Part} {s t : State} (h : Only ps s t) {x0} {x1} {x2}
    (hp : sub [.page, .abacus, .prot] ps = true := by rfl) :
    Only ps s { t with page := x0, abacus := x1, prot := x2 } :=
  Only.then h ⟨fun p hp => by cases p <;> first | exact rfl | exact ⟨rfl, rfl⟩ | exact ⟨rfl, rfl, rfl⟩ | exact absurd (by decide) hp⟩ hp

theorem Only.upd69 {ps : List Part} {s t : State} (h : Only ps s t) {x0} {x1} {x2}
    (hp : sub [.regs, .rc, .hostOut] ps = true := by rfl) :
    Only ps s { t with regs := x0, rc := x1, hif := { t.hif with pba := x2 } } :=
  Only.then h ⟨fun p hp => by cases p <;> first | exact rfl | exact ⟨rfl, rfl⟩ | exact ⟨rfl, rfl, rfl⟩ | exact absurd (by decide) hp⟩ hp

theorem Only.upd70 {ps : List Part} {s t : State} (h : Only ps s t) {x0} {x1} {x2} {x3} {x4}
    (hp : sub [.link, .sec, .mgmt, .pwr] ps = true := by rfl) :
    Only ps s { t with hif := { t.hif with ready := x0 }, sec := x1, mgmt := { t.mgmt with up := x2, recovery := x3 }, pwr := x4 } :=
  Only.then h ⟨fun p hp => by cases p <;> first | exact rfl | exact ⟨rfl, rfl⟩ | exact ⟨rfl, rfl, rfl⟩ | exact absurd (by decide) hp⟩ hp

theorem Only.upd71 {ps : List Part} {s t : State} (h : Only ps s t) {x0} {x1} {x2} {x3}
    (hp : sub [.lanes, .ports, .core, .pm] ps = true := by rfl) :
    Only ps s { t with lanes := x0, ports := x1, core := x2, pm := x3 } :=
  Only.then h ⟨fun p hp => by cases p <;> first | exact rfl | exact ⟨rfl, rfl⟩ | exact ⟨rfl, rfl, rfl⟩ | exact absurd (by decide) hp⟩ hp

theorem Only.upd72 {ps : List Part} {s t : State} (h : Only ps s t) {x0} {x1} {x2} {x3} {x4} {x5}
    (hp : sub [.rc, .rings, .mgmtLog, .log] ps = true := by rfl) :
    Only ps s { t with rc := x0, hif := { t.hif with rings := x1, seqs := x2 }, mgmt := { t.mgmt with logNext := x3, held := x4 }, log := x5 } :=
  Only.then h ⟨fun p hp => by cases p <;> first | exact rfl | exact ⟨rfl, rfl⟩ | exact ⟨rfl, rfl, rfl⟩ | exact absurd (by decide) hp⟩ hp

theorem Only.upd73 {ps : List Part} {s t : State} (h : Only ps s t) {x0} {x1} {x2} {x3} {x4} {x5} {x6} {x7} {x8} {x9}
    (hp : sub [.rc, .rings, .hostOut, .mgmtLog, .jnl, .log] ps = true := by rfl) :
    Only ps s { t with rc := x0, hif := { t.hif with rings := x1, seqs := x2, sent := x3, pba := x4, hostMem := x5 }, mgmt := { t.mgmt with logNext := x6, crit := x7 }, jnl := x8, log := x9 } :=
  Only.then h ⟨fun p hp => by cases p <;> first | exact rfl | exact ⟨rfl, rfl⟩ | exact ⟨rfl, rfl, rfl⟩ | exact absurd (by decide) hp⟩ hp

theorem Only.upd74 {ps : List Part} {s t : State} (h : Only ps s t) {x0} {x1} {x2} {x3} {x4}
    (hp : sub [.tick, .mgmt, .smb, .ssw, .pwr] ps = true := by rfl) :
    Only ps s { t with tick := x0, mgmt := { t.mgmt with challenge := x1 }, smb := x2, ssw := x3, pwr := x4 } :=
  Only.then h ⟨fun p hp => by cases p <;> first | exact rfl | exact ⟨rfl, rfl⟩ | exact ⟨rfl, rfl, rfl⟩ | exact absurd (by decide) hp⟩ hp

theorem Only.upd75 {ps : List Part} {s t : State} (h : Only ps s t) {x0} {x1} {x2} {x3} {x4} {x5} {x6} {x7} {x8}
    (hp : sub [.tick, .regs, .rc, .mgmt, .sens, .smb, .ssw, .pwr] ps = true := by rfl) :
    Only ps s { t with tick := x0, regs := x1, rc := x2, mgmt := { t.mgmt with unlocked := x3, challenge := x4 }, sens := x5, smb := x6, ssw := x7, pwr := x8 } :=
  Only.then h ⟨fun p hp => by cases p <;> first | exact rfl | exact ⟨rfl, rfl⟩ | exact ⟨rfl, rfl, rfl⟩ | exact absurd (by decide) hp⟩ hp

theorem Only.upd76 {ps : List Part} {s t : State} (h : Only ps s t) {x0} {x1} {x2} {x3} {x4} {x5} {x6} {x7} {x8} {x9} {x10} {x11} {x12}
    (hp : sub [.pending, .free, .bank, .hostOut, .bus, .jtag, .otp, .image, .jnl, .ssw, .pwr] ps = true := by rfl) :
    Only ps s { t with pending := x0, free := x1, bank := { t.bank with answers := x2 }, hif := { t.hif with sent := x3, hostMem := x4, readData := x5, timingOut := x6 }, jtag := x7, otp := x8, image := x9, jnl := x10, ssw := x11, pwr := x12 } :=
  Only.then h ⟨fun p hp => by cases p <;> first | exact rfl | exact ⟨rfl, rfl⟩ | exact ⟨rfl, rfl, rfl⟩ | exact absurd (by decide) hp⟩ hp

theorem Only.upd77 {ps : List Part} {s t : State} (h : Only ps s t) {x0} {x1} {x2} {x3} {x4} {x5} {x6} {x7} {x8} {x9} {x10} {x11} {x12}
    (hp : sub [.regs, .lanes, .ports, .core, .page, .abacus, .prot, .pm, .eng, .bank, .sram, .mtest, .pwr, .frames] ps = true := by rfl) :
    Only ps s { t with regs := x0, lanes := x1, ports := x2, core := x3, page := x4, abacus := x5, prot := x6, pm := x7, eng := x8, bank := x9, mtest := x10, pwr := x11, frames := x12 } :=
  Only.then h ⟨fun p hp => by cases p <;> first | exact rfl | exact ⟨rfl, rfl⟩ | exact ⟨rfl, rfl, rfl⟩ | exact absurd (by decide) hp⟩ hp

theorem Only.upd78 {ps : List Part} {s t : State} (h : Only ps s t) {x0} {x1} {x2} {x3} {x4} {x5} {x6} {x7} {x8} {x9} {x10} {x11} {x12} {x13} {x14} {x15} {x16} {x17} {x18} {x19} {x20} {x21} {x22} {x23} {x24} {x25} {x26} {x27} {x28} {x29} {x30}
    (hp : sub [.regs, .rc, .rc64, .latch, .held, .lanes, .ports, .core, .page, .abacus, .prot, .pm, .timing, .eng, .bank, .sram, .mtest, .perf, .queues, .rings, .sec, .mgmtLog, .mgmt, .image, .jnl, .copy, .ssw, .frames] ps = true := by rfl) :
    Only ps s { t with regs := x0, rc := x1, rc64 := x2, latch := x3, held := x4, lanes := x5, ports := x6, core := x7, page := x8, abacus := x9, prot := x10, pm := x11, timing := x12, eng := x13, bank := x14, mtest := x15, perf := x16, hif := { t.hif with queues := x17, rings := x18, seqs := x19 }, sec := x20, mgmt := { t.mgmt with unlocked := x21, challenge := x22, logNext := x23, corrupt := x24, crit := x25 }, image := x26, jnl := x27, copy := x28, ssw := x29, frames := x30 } :=
  Only.then h ⟨fun p hp => by cases p <;> first | exact rfl | exact ⟨rfl, rfl⟩ | exact ⟨rfl, rfl, rfl⟩ | exact absurd (by decide) hp⟩ hp

end Sys2Proof.Laws
end

