-- ==== Sys2Proof/Laws/OpsFrame.lean ====
section
/-! SUPPORT. What the operations of Machine/Ops.lean leave as they are. -/

set_option Elab.async false

namespace Sys2Proof.Laws

open Sys2Proof Sys2Proof.Machine

theorem draw_only (s : State) :
    Only [.free] s (draw s).2 := by
  unfold draw
  refine Only.pair2 ?_
  refine Only.upd12 ?_
  exact Only.refl _ _

theorem draw_only' {s : State} {x : Nat} {post : State} (h : draw s = (x, post)) : Only [.free] s post := by
  have := draw_only s; rw [h] at this; exact this

theorem setReg_only (o : Nat) (v : Word) (s : State) :
    Only [.regs] s (setReg o v s) := by
  unfold setReg
  refine Only.upd47 ?_
  exact Only.refl _ _

theorem rcSet_only (o : Nat) (v : Word) (s : State) :
    Only [.rc] s (rcSet o v s) := by
  unfold rcSet
  refine Only.upd45 ?_
  exact Only.refl _ _

theorem countN_only (o n : Nat) (s : State) :
    Only [.rc] s (countN o n s) := by
  unfold countN
  refine Only.then ?_ (rcSet_only ..)
  exact Only.refl _ _

theorem count_only (o : Nat) (s : State) :
    Only [.rc] s (count o s) := by
  unfold count
  refine Only.then ?_ (countN_only ..)
  exact Only.refl _ _

theorem count64_only (o n : Nat) (s : State) :
    Only [.rc64] s (count64 o n s) := by
  unfold count64
  try dsimp -iota -proj only
  refine Only.upd46 ?_
  exact Only.refl _ _

theorem setLane_only (l : Nat) (x : Lane) (s : State) :
    Only [.lanes] s (setLane l x s) := by
  unfold setLane
  refine Only.upd31 ?_
  exact Only.refl _ _

theorem setPort_only (p : Nat) (x : Port) (s : State) :
    Only [.ports] s (setPort p x s) := by
  unfold setPort
  refine Only.upd42 ?_
  exact Only.refl _ _

theorem setQueue_only (q : Nat) (x : Queue) (s : State) :
    Only [.queues] s (setQueue q x s) := by
  unfold setQueue
  refine Only.upd18 ?_
  exact Only.refl _ _

theorem journal_only (p : JPay) (s : State) :
    Only [.jnl] s (journal p s) := by
  unfold journal
  try dsimp -iota -proj only
  refine Only.upd29 ?_
  exact Only.refl _ _

theorem deliver_only (e : EvRec) (s : State) :
    Only [.rc, .rings, .hostOut, .mgmtLog, .jnl, .log] s (deliver e s) := by
  unfold deliver
  try dsimp -iota -proj only
  refine Only.upd73 ?_
  exact Only.refl _ _

theorem holdBack_only (e : EvRec) (s : State) :
    Only [.rc, .rings, .mgmtLog, .log] s (holdBack e s) := by
  unfold holdBack
  try dsimp -iota -proj only
  refine Only.upd72 ?_
  exact Only.refl _ _

theorem deliverAll_only (n : Nat) (e : EvRec) (s : State) :
    Only [.rc, .rings, .hostOut, .mgmtLog, .smb, .jnl, .log] s (deliverAll n e s) := by
  induction n generalizing e s with
  | zero => exact Only.mono (deliver_only e s)
  | succ n ih =>
    unfold deliverAll
    refine Only.fold (Only.mono (deliver_only e s)) fun u x hu => ?_
    refine Only.then ?_ (ih ..)
    exact Only.upd50 hu

theorem raiseX_only (ev : Ev) (clear : Bool) (obj data : Nat) (s : State) :
    Only [.rc, .rings, .hostOut, .mgmtLog, .smb, .jnl, .log] s (raiseX ev clear obj data s) := by
  unfold raiseX
  try dsimp -iota -proj only
  refine Only.ite ?_ ?_
  · refine Only.then ?_ (deliverAll_only ..)
    refine Only.upd50 ?_
    exact Only.refl _ _
  · refine Only.then ?_ (holdBack_only ..)
    refine Only.upd50 ?_
    exact Only.refl _ _

theorem flushDrops_only (r : Nat) (s : State) :
    Only [.rings, .hostOut, .mgmtLog, .log] s (flushDrops r s) := by
  unfold flushDrops
  try dsimp -iota -proj only
  refine Only.ite ?_ ?_
  · exact Only.refl _ _
  · refine Only.upd66 ?_
    exact Only.refl _ _

theorem deliverHeld_only (s : State) :
    Only [.rc, .rings, .hostOut, .mgmtLog, .smb, .jnl, .log] s (deliverHeld s) := by
  unfold deliverHeld
  try dsimp -iota -proj only
  refine Only.ite ?_ ?_
  · refine Only.fold ?_ fun u x hu => ?_
    · refine Only.upd33 ?_
      exact Only.refl _ _
    · refine Only.then ?_ (deliverAll_only ..)
      assumption
  · refine Only.fold ?_ fun u x hu => ?_
    · refine Only.fold ?_ fun u x hu => ?_
      · refine Only.upd33 ?_
        exact Only.refl _ _
      · refine Only.then ?_ (deliverAll_only ..)
        assumption
    · refine Only.then ?_ (flushDrops_only ..)
      assumption

theorem raise_only (ev : Ev) (obj data : Nat) (s : State) :
    Only [.rc, .rings, .hostOut, .mgmtLog, .smb, .jnl, .log] s (raise ev obj data s) := by
  unfold raise
  refine Only.then ?_ (raiseX_only ..)
  exact Only.refl _ _

theorem perfEv_only (cls ev scope n : Nat) (s : State) :
    Only [.perf] s (perfEv cls ev scope n s) := by
  unfold perfEv
  try dsimp -iota -proj only
  refine Only.upd40 ?_
  exact Only.refl _ _

end Sys2Proof.Laws
end

