-- ==== Sys2Proof/Laws/HostCmdFrame.lean ====
section
/-! SUPPORT. What the operations of Machine/HostCmd.lean leave as they are. -/

set_option Elab.async false

namespace Sys2Proof.Laws

open Sys2Proof Sys2Proof.Machine

theorem fire_only (fn vec : Nat) (s : State) :
    Only [.hostOut] s (fire fn vec s) := by
  unfold fire
  try dsimp -iota -proj only
  refine Only.upd23 ?_
  exact Only.refl _ _

theorem queueError_only (q cause : Nat) (s : State) :
    Only [.rc, .queues, .rings, .hostOut, .mgmtLog, .smb, .jnl, .log] s (queueError q cause s) := by
  unfold queueError
  try dsimp -iota -proj only
  refine Only.then ?_ (raise_only ..)
  refine Only.then ?_ (fire_only ..)
  refine Only.then ?_ (setQueue_only ..)
  exact Only.refl _ _

theorem discardBatch_only (q : Nat) (s : State) :
    Only [.rc, .abacus, .rings, .hostOut, .mgmtLog, .smb, .jnl, .log] s (discardBatch q s) := by
  unfold discardBatch
  refine Only.ite ?_ ?_
  · refine Only.then ?_ (raise_only ..)
    refine Only.upd0 ?_
    exact Only.refl _ _
  · exact Only.refl _ _

theorem finishClosing_only (q : Nat) (s : State) :
    Only [.rc, .abacus, .queues, .rings, .hostOut, .mgmtLog, .smb, .jnl, .log] s (finishClosing q s) := by
  unfold finishClosing
  try dsimp -iota -proj only
  refine Only.ite ?_ ?_
  · refine Only.then ?_ (discardBatch_only ..)
    refine Only.then ?_ (setQueue_only ..)
    exact Only.refl _ _
  · exact Only.refl _ _

theorem signalCpl_only (q : Nat) (s : State) :
    Only [.queues, .hostOut] s (signalCpl q s) := by
  unfold signalCpl
  try dsimp -iota -proj only
  refine Only.ite ?_ ?_
  · refine Only.then ?_ (fire_only ..)
    refine Only.then ?_ (setQueue_only ..)
    exact Only.refl _ _
  · refine Only.then ?_ (setQueue_only ..)
    exact Only.refl _ _

theorem writeCpl_only (q : Nat) (desc : Bytes) (a : Answer) (s : State) :
    Only [.rc, .queues, .rings, .hostOut, .mgmtLog, .smb, .jnl, .log] s (writeCpl q desc a s) := by
  unfold writeCpl
  try dsimp -iota -proj only
  refine Only.ite ?_ ?_
  · refine Only.then ?_ (setQueue_only ..)
    exact Only.refl _ _
  · refine Only.ite ?_ ?_
    · refine Only.ite ?_ ?_
      · refine Only.then ?_ (setQueue_only ..)
        exact Only.refl _ _
      · refine Only.then ?_ (queueError_only ..)
        refine Only.then ?_ (setQueue_only ..)
        exact Only.refl _ _
    · refine Only.then ?_ (signalCpl_only ..)
      refine Only.upd14 ?_
      refine Only.then ?_ (setQueue_only ..)
      exact Only.refl _ _

theorem skipUndefined_only (fuel q : Nat) (s : State) :
    Only [.rc, .queues, .rings, .hostOut, .mgmtLog, .smb, .jnl, .log] s (skipUndefined fuel q s) := by
  induction fuel generalizing s with
  | zero => exact Only.refl _ _
  | succ n ih =>
    unfold skipUndefined
    dsimp -iota -proj only
    split
    · refine Only.ite (Only.refl _ _) (Only.ite ?_ (Only.ite (Only.refl _ _) ?_))
      · exact Only.then (Only.then (Only.mono (setQueue_only ..)) (writeCpl_only ..)) (ih ..)
      · exact Only.then (Only.then (Only.mono (setQueue_only ..)) (writeCpl_only ..)) (ih ..)
    · exact Only.refl _ _

theorem completeNow_only (q : Nat) (a : Answer) (s : State) :
    Only [.rc, .abacus, .queues, .rings, .hostOut, .mgmtLog, .smb, .jnl, .log] s (completeNow q a s) := by
  unfold completeNow
  try dsimp -iota -proj only
  split
  · exact Only.refl _ _
  · refine Only.then ?_ (finishClosing_only ..)
    refine Only.then ?_ (skipUndefined_only ..)
    refine Only.ite ?_ ?_
    · refine Only.then ?_ (setQueue_only ..)
      refine Only.then ?_ (writeCpl_only ..)
      refine Only.then ?_ (setQueue_only ..)
      exact Only.refl _ _
    · refine Only.then ?_ (writeCpl_only ..)
      refine Only.then ?_ (setQueue_only ..)
      exact Only.refl _ _

theorem completeAs_only (kept q : Nat) (a : Answer) (s : State) :
    Only [.rc, .abacus, .queues, .rings, .hostOut, .mgmtLog, .mgmt, .smb, .jnl, .log] s (completeAs kept q a s) := by
  unfold completeAs
  refine Only.ite ?_ ?_
  · refine Only.upd34 ?_
    exact Only.refl _ _
  · refine Only.then ?_ (completeNow_only ..)
    exact Only.refl _ _

theorem complete_only (q : Nat) (a : Answer) (s : State) :
    Only [.rc, .abacus, .queues, .rings, .hostOut, .mgmtLog, .mgmt, .smb, .jnl, .log] s (complete q a s) := by
  unfold complete
  refine Only.then ?_ (completeAs_only ..)
  exact Only.refl _ _

theorem completeOpt_only (q : Option Nat) (a : Answer) (s : State) :
    Only [.rc, .abacus, .queues, .rings, .hostOut, .mgmtLog, .mgmt, .smb, .jnl, .log] s (completeOpt q a s) := by
  unfold completeOpt
  split
  · exact Only.refl _ _
  · refine Only.then ?_ (complete_only ..)
    exact Only.refl _ _

end Sys2Proof.Laws
end

