-- ==== Sys2Proof/Laws/JournalFrame.lean ====
section
/-! SUPPORT. What the operations of Machine/Journal.lean leave as they are. -/

set_option Elab.async false

namespace Sys2Proof.Laws

open Sys2Proof Sys2Proof.Machine

theorem onRegions_only (f : Region → Region) (s : State) :
    Only [.jnl] s (onRegions f s) := by
  unfold onRegions
  try dsimp -iota -proj only
  refine Only.upd29 ?_
  exact Only.refl _ _

theorem journalAll_only (ps : List JPay) (s : State) :
    Only [.jnl] s (journalAll ps s) := by
  unfold journalAll
  refine Only.all ?_ fun x u hu => ?_
  · exact Only.refl _ _
  · refine Only.then ?_ (journal_only ..)
    assumption

theorem completePersisted_only (q : Nat) (shared : Bool) (a : Answer) (s : State) :
    Only [.rc, .abacus, .queues, .rings, .hostOut, .mgmtLog, .mgmt, .smb, .jnl, .log] s (completePersisted q shared a s) := by
  unfold completePersisted
  refine Only.ite ?_ ?_
  · refine Only.then ?_ (complete_only ..)
    refine Only.then ?_ (count_only ..)
    exact Only.refl _ _
  · refine Only.ite ?_ ?_
    · refine Only.then ?_ (complete_only ..)
      refine Only.then ?_ (raise_only ..)
      refine Only.then ?_ (count_only ..)
      exact Only.refl _ _
    · refine Only.upd29 ?_
      exact Only.refl _ _

theorem releaseWaiters_only (sel : Nat × Nat × List Nat × Bool → Bool) (status : Nat) (s : State) :
    Only [.rc, .abacus, .queues, .rings, .hostOut, .mgmtLog, .mgmt, .smb, .jnl, .log] s (releaseWaiters sel status s) := by
  unfold releaseWaiters
  try dsimp -iota -proj only
  refine Only.all ?_ fun x u hu => ?_
  · refine Only.upd29 ?_
    refine Only.ite ?_ ?_
    · refine Only.then ?_ (countN_only ..)
      exact Only.refl _ _
    · refine Only.ite ?_ ?_
      · refine Only.then ?_ (countN_only ..)
        exact Only.refl _ _
      · exact Only.refl _ _
  · refine Only.then ?_ (completeAs_only ..)
    assumption

end Sys2Proof.Laws
end

