-- ==== Sys2Proof/Laws/SecOpsFrame.lean ====
section
/-! SUPPORT. What the operations of Machine/SecOps.lean leave as they are. -/

set_option Elab.async false

namespace Sys2Proof.Laws

open Sys2Proof Sys2Proof.Machine

theorem setKeySlot_only (k : Nat) (x : KeySlot) (s : State) :
    Only [.sec] s (setKeySlot k x s) := by
  unfold setKeySlot
  refine Only.upd48 ?_
  exact Only.refl _ _

theorem setWindow_only (d : Nat) (w : Window) (s : State) :
    Only [.sec] s (setWindow d w s) := by
  unfold setWindow
  refine Only.upd48 ?_
  exact Only.refl _ _

theorem dpEnd_only (d : Nat) (s : State) :
    Only [.sec] s (dpEnd d s) := by
  unfold dpEnd
  refine Only.upd48 ?_
  exact Only.refl _ _

theorem opStart_only (k : Option Nat) (n : Nat) (s : State) :
    Only [.rc64, .sec] s (opStart k n s) := by
  unfold opStart
  try dsimp -iota -proj only
  split
  · refine Only.then ?_ (count64_only ..)
    exact Only.refl _ _
  · refine Only.then ?_ (setKeySlot_only ..)
    refine Only.then ?_ (count64_only ..)
    exact Only.refl _ _

theorem opStarts_only (k : Option Nat) (s : State) :
    Only [.rc64, .sec] s (opStarts k s) := by
  unfold opStarts
  refine Only.then ?_ (opStart_only ..)
  exact Only.refl _ _

theorem countOpens_only (k : Option Nat) (n : Nat) (bad : Bool) (s : State) :
    Only [.rc, .rc64, .sec] s (countOpens k n bad s) := by
  unfold countOpens
  refine Only.cond ?_ fun u hu => ?_
  · refine Only.ite ?_ ?_
    · exact Only.refl _ _
    · refine Only.then ?_ (opStart_only ..)
      exact Only.refl _ _
  · refine Only.then ?_ (count_only ..)
    assumption

theorem hostWrite_only (q a : Nat) (bs : Bytes) (s : State) :
    Only [.hostOut] s (hostWrite q a bs s) := by
  unfold hostWrite
  refine Only.cond ?_ fun u hu => ?_
  · refine Only.upd14 ?_
    exact Only.refl _ _
  · refine Only.then ?_ (fire_only ..)
    assumption

theorem leavePassed_only (x : DpRun) (last : Nat) (s : State) :
    Only [.free, .hostOut] s (leavePassed x last s) := by
  unfold leavePassed
  try dsimp -iota -proj only
  split
  · split
    · refine Only.ite ?_ ?_
      · refine Only.then ?_ (draw_only' ‹draw .. = (_, _)›)
        exact Only.refl _ _
      · refine Only.then ?_ (hostWrite_only ..)
        refine Only.then ?_ (draw_only' ‹draw .. = (_, _)›)
        exact Only.refl _ _
  · exact Only.refl _ _

theorem unload_only (j : CipherJob) (s : State) :
    Only [.sec] s (unload j s) := by
  unfold unload
  try dsimp -iota -proj only
  split
  · refine Only.ite ?_ ?_
    · refine Only.then ?_ (setKeySlot_only ..)
      exact Only.refl _ _
    · exact Only.refl _ _
  · exact Only.refl _ _

theorem lockCipher_only (s : State) :
    Only [.free, .rc, .abacus, .queues, .rings, .hostOut, .sec, .mgmtLog, .mgmt, .smb, .jnl, .log] s (lockCipher s) := by
  unfold lockCipher
  try dsimp -iota -proj only
  refine Only.then ?_ (releaseWaiters_only ..)
  refine Only.all ?_ fun x u hu => ?_
  · refine Only.then ?_ (raise_only ..)
    refine Only.then ?_ (count_only ..)
    refine Only.upd48 ?_
    refine Only.all ?_ fun x u hu => ?_
    · exact Only.refl _ _
    · refine Only.then ?_ (leavePassed_only ..)
      assumption
  · refine Only.then ?_ (completeOpt_only ..)
    refine Only.then ?_ (unload_only ..)
    assumption

theorem secFault_only (d : Nat) (slot : Option Nat) (gen : Nat) (dup : Bool) (s : State) :
    Only [.free, .rc, .abacus, .queues, .rings, .hostOut, .sec, .mgmtLog, .mgmt, .smb, .jnl, .log] s (secFault d slot gen dup s) := by
  unfold secFault
  try dsimp -iota -proj only
  refine Only.ite ?_ ?_
  · refine Only.then ?_ (lockCipher_only ..)
    refine Only.then ?_ (raise_only ..)
    refine Only.upd48 ?_
    refine Only.then ?_ (rcSet_only ..)
    refine Only.then ?_ (count_only ..)
    split
    · refine Only.then ?_ (setKeySlot_only ..)
      exact Only.refl _ _
    · exact Only.refl _ _
  · refine Only.then ?_ (raise_only ..)
    refine Only.upd48 ?_
    refine Only.then ?_ (rcSet_only ..)
    refine Only.then ?_ (count_only ..)
    split
    · refine Only.then ?_ (setKeySlot_only ..)
      exact Only.refl _ _
    · exact Only.refl _ _

theorem secDisarm_only (s : State) :
    Only [.regs] s (secDisarm s) := by
  unfold secDisarm
  refine Only.then ?_ (setReg_only ..)
  exact Only.refl _ _

theorem waitDp_only (j : CipherJob) (s : State) :
    Only [.sec] s (waitDp j s) := by
  unfold waitDp
  refine Only.upd48 ?_
  exact Only.refl _ _

theorem workFault_only (d : Nat) (w : DpWork) (s : State) :
    Only [.free, .rc, .abacus, .queues, .rings, .hostOut, .sec, .mgmtLog, .mgmt, .smb, .jnl, .log] s (workFault d w s) := by
  unfold workFault
  try dsimp -iota -proj only
  split
  · refine Only.then ?_ (secFault_only ..)
    refine Only.then ?_ (draw_only' ‹draw .. = (_, _)›)
    exact Only.refl _ _

theorem takeDp_only (w : DpWork) (s : State) :
    Only [.free, .regs, .rc, .abacus, .queues, .rings, .hostOut, .sec, .mgmtLog, .mgmt, .smb, .jnl, .log] s (takeDp w s).2 := by
  unfold takeDp
  split
  · refine Only.pair2 ?_
    refine Only.upd48 ?_
    exact Only.refl _ _
  · split
    · exact Only.refl _ _
    · split
      · exact Only.refl _ _
      · split
        · refine Only.pair2 ?_
          refine Only.then ?_ (waitDp_only ..)
          exact Only.refl _ _
        · split
          · refine Only.pair2 ?_
            refine Only.then ?_ (workFault_only ..)
            refine Only.then ?_ (secDisarm_only ..)
            exact Only.refl _ _
          · exact Only.refl _ _

theorem takeDp_only' {w : DpWork} {s : State} {x : Option Bool} {post : State} (h : takeDp w s = (x, post)) : Only [.free, .regs, .rc, .abacus, .queues, .rings, .hostOut, .sec, .mgmtLog, .mgmt, .smb, .jnl, .log] s post := by
  have := takeDp_only w s; rw [h] at this; exact this

theorem dpReady_only (w : DpWork) (s : State) :
    Only [.free, .regs, .rc, .abacus, .queues, .rings, .hostOut, .sec, .mgmtLog, .mgmt, .smb, .jnl, .log] s (dpReady w s).2 := by
  unfold dpReady
  try dsimp -iota -proj only
  refine Only.pair2 ?_
  refine Only.then ?_ (takeDp_only ..)
  exact Only.refl _ _

theorem dpReady_only' {w : DpWork} {s : State} {x : Bool} {post : State} (h : dpReady w s = (x, post)) : Only [.free, .regs, .rc, .abacus, .queues, .rings, .hostOut, .sec, .mgmtLog, .mgmt, .smb, .jnl, .log] s post := by
  have := dpReady_only w s; rw [h] at this; exact this

theorem resetCounters_only (k : Nat) (s : State) :
    Only [.queues] s (resetCounters k s) := by
  unfold resetCounters
  refine Only.upd18 ?_
  exact Only.refl _ _

end Sys2Proof.Laws
end

