-- ==== Sys2Proof/Laws/AuthFrame.lean ====
section
/-! SUPPORT. What the operations of Machine/Auth.lean leave as they are. -/

set_option Elab.async false

namespace Sys2Proof.Laws

open Sys2Proof Sys2Proof.Machine

theorem authFail_only (q cause : Nat) (s : State) :
    Only [.rc, .queues, .rings, .hostOut, .mgmtLog, .smb, .jnl, .log] s (authFail q cause s) := by
  unfold authFail
  try dsimp -iota -proj only
  refine Only.ite ?_ ?_
  · refine Only.then ?_ (queueError_only ..)
    refine Only.cond ?_ fun u hu => ?_
    · refine Only.then ?_ (setQueue_only ..)
      exact Only.refl _ _
    · refine Only.then ?_ (raise_only ..)
      refine Only.then ?_ (count_only ..)
      assumption
  · refine Only.cond ?_ fun u hu => ?_
    · refine Only.then ?_ (setQueue_only ..)
      exact Only.refl _ _
    · refine Only.then ?_ (raise_only ..)
      refine Only.then ?_ (count_only ..)
      assumption

theorem startCmd_only (q : Nat) (d : Fetched) (ds : List Fetched) (s : State) :
    Only [.queues] s (startCmd q d ds s) := by
  unfold startCmd
  refine Only.then ?_ (setQueue_only ..)
  exact Only.refl _ _

theorem workReady_only (o : Nat) (d : Fetched) (s : State) :
    Only [.free, .regs, .rc, .abacus, .queues, .rings, .hostOut, .sec, .mgmtLog, .mgmt, .smb, .jnl, .log] s (workReady o d s).2 := by
  unfold workReady
  split
  · exact Only.refl _ _
  · refine Only.then ?_ (dpReady_only ..)
    exact Only.refl _ _

theorem workReady_only' {o : Nat} {d : Fetched} {s : State} {x : Bool} {post : State} (h : workReady o d s = (x, post)) : Only [.free, .regs, .rc, .abacus, .queues, .rings, .hostOut, .sec, .mgmtLog, .mgmt, .smb, .jnl, .log] s post := by
  have := workReady_only o d s; rw [h] at this; exact this

theorem answerBuffer_only (q addr len addrOff lenOff : Nat) (bs : Bytes) (a : Answer) (s : State) :
    Only [.rc, .abacus, .queues, .rings, .hostOut, .mgmtLog, .mgmt, .smb, .jnl, .log] s (answerBuffer q addr len addrOff lenOff bs a s) := by
  unfold answerBuffer
  refine Only.ite ?_ ?_
  · refine Only.then ?_ (complete_only ..)
    exact Only.refl _ _
  · refine Only.ite ?_ ?_
    · refine Only.then ?_ (complete_only ..)
      exact Only.refl _ _
    · refine Only.then ?_ (complete_only ..)
      refine Only.then ?_ (hostWrite_only ..)
      exact Only.refl _ _

/-- The state a check leaves. -/
def stateOf : Admit → State
  | .pass t => t
  | .fail _ t => t
  | .wait t => t

/-- What a check leaves as it is, whatever it answers. -/
structure CheckOnly (ps : List Part) (s : State) (a : Admit) : Prop where
  keep : Only ps s (stateOf a)

theorem CheckOnly.mono {ps qs : List Part} {s : State} {a : Admit} (h : CheckOnly qs s a)
    (hp : sub qs ps = true := by rfl) : CheckOnly ps s a :=
  ⟨Only.mono h.keep hp⟩

theorem CheckOnly.then {ps qs : List Part} {s t : State} {a : Admit} (h : Only ps s t)
    (k : CheckOnly qs t a) (hp : sub qs ps = true := by rfl) : CheckOnly ps s a :=
  ⟨Only.then h k.keep hp⟩

theorem CheckOnly.ite {ps : List Part} {s : State} {a b : Admit} {c : Prop} [Decidable c]
    (h : CheckOnly ps s a) (k : CheckOnly ps s b) : CheckOnly ps s (if c then a else b) := by
  split <;> assumption

theorem CheckOnly.same {ps : List Part} (s : State) (a : Answer) : CheckOnly ps s (.fail a s) := ⟨Only.refl _ _⟩

theorem authStop_only (q cause : Nat) (s : State) : CheckOnly [.rc, .queues, .rings, .hostOut, .mgmtLog, .smb, .jnl, .log] s (authStop q cause s) :=
  ⟨authFail_only q cause s⟩

theorem CheckOnly.pass {ps : List Part} {s t : State} (h : Only ps s t) : CheckOnly ps s (.pass t) := ⟨h⟩

theorem CheckOnly.fail {ps : List Part} {s t : State} {a : Answer} (h : Only ps s t) :
    CheckOnly ps s (.fail a t) := ⟨h⟩

theorem CheckOnly.wait {ps : List Part} {s t : State} (h : Only ps s t) : CheckOnly ps s (.wait t) := ⟨h⟩

theorem checkCounter_only (q : Nat) (d : Bytes) (s : State) :
    CheckOnly [.rc, .queues, .rings, .hostOut, .mgmtLog, .smb, .jnl, .log] s (checkCounter q d s) := by
  unfold checkCounter
  dsimp -iota -proj only
  refine CheckOnly.ite ?_ (CheckOnly.ite ?_ (CheckOnly.ite ?_ ?_))
  · refine CheckOnly.fail ?_
    refine Only.then ?_ (raise_only ..)
    exact Only.mono (count_only ..)
  · refine CheckOnly.pass ?_
    exact Only.mono (setQueue_only ..)
  · refine CheckOnly.wait ?_
    refine Only.then ?_ (setQueue_only ..)
    exact Only.mono (journal_only ..)
  · refine CheckOnly.pass ?_
    exact Only.mono (setQueue_only ..)

theorem resumeCounter_only (q : Nat) (d : Bytes) (n : Nat) (s : State) :
    CheckOnly [.queues] s (resumeCounter q d n s) := by
  unfold resumeCounter
  dsimp -iota -proj only
  refine CheckOnly.ite ?_ (CheckOnly.ite ?_ (CheckOnly.ite ?_ ?_))
  · exact CheckOnly.fail (setQueue_only ..)
  · exact CheckOnly.pass (setQueue_only ..)
  · exact CheckOnly.wait (Only.refl _ _)
  · exact CheckOnly.pass (setQueue_only ..)

theorem checkTag_only (q : Nat) (d : Fetched) (s : State) :
    CheckOnly [.free, .regs, .rc, .rc64, .abacus, .queues, .rings, .hostOut, .sec, .mgmtLog, .mgmt, .smb, .jnl, .log] s (checkTag q d s) := by
  unfold checkTag
  dsimp -iota -proj only
  split
  · rename_i h; exact CheckOnly.wait (Only.mono (takeDp_only' h))
  · refine CheckOnly.ite ?_ ?_
    · refine CheckOnly.then ?_ (authStop_only ..)
      refine Only.then ?_ (opStarts_only ..)
      rename_i h; exact Only.mono (takeDp_only' h)
    · refine CheckOnly.then ?_ (checkCounter_only ..)
      refine Only.then ?_ (opStarts_only ..)
      rename_i h; exact Only.mono (takeDp_only' h)

theorem checkAuth_only (q : Nat) (d : Fetched) (s : State) :
    CheckOnly [.free, .regs, .rc, .rc64, .abacus, .queues, .rings, .hostOut, .sec, .mgmtLog, .mgmt, .smb, .jnl, .log] s (checkAuth q d s) := by
  unfold checkAuth
  dsimp -iota -proj only
  split
  · exact CheckOnly.mono (resumeCounter_only ..)
  · refine CheckOnly.ite (.same ..) (CheckOnly.ite ?_ (CheckOnly.ite ?_ (CheckOnly.ite ?_ ?_)))
    · exact CheckOnly.mono (authStop_only ..)
    · exact CheckOnly.mono (authStop_only ..)
    · exact CheckOnly.mono (authStop_only ..)
    · exact checkTag_only ..

theorem checkCmd_only (q : Nat) (d : Fetched) (s : State) :
    CheckOnly [.free, .regs, .rc, .rc64, .abacus, .queues, .rings, .hostOut, .sec, .mgmtLog, .mgmt, .smb, .jnl, .log] s (checkCmd q d s) := by
  unfold checkCmd
  dsimp -iota -proj only
  refine CheckOnly.ite (.same ..) (CheckOnly.ite (.same ..) (CheckOnly.ite ?_ ?_))
  · exact CheckOnly.ite (CheckOnly.ite (.same ..) (.pass (Only.refl _ _))) (.same ..)
  · refine CheckOnly.ite (.same ..) (CheckOnly.ite (.same ..) (CheckOnly.ite (.same ..) (CheckOnly.ite ?_ (CheckOnly.ite ?_ ?_))))
    · exact CheckOnly.mono (checkAuth_only ..)
    · exact .same ..
    · exact .pass (Only.refl _ _)

/-- A host command answers a next state, and touches what its checks, its completion and its own effect
touch. -/
theorem runCmd_only {ps : List Part} {o q : Nat} {body : Fetched → State → State} {s : State}
    (h : ∀ d u, Only ps u (body d u)) (hp : sub [.free, .regs, .rc, .rc64, .abacus, .queues, .rings, .hostOut, .sec, .mgmtLog, .mgmt, .smb, .jnl, .log] ps = true := by rfl) :
    NextOnly ps s (runCmd o q body s) := by
  unfold runCmd
  split
  · exact .of (Only.refl _ _)
  · rename_i d ds _
    have c := checkCmd_only q d s
    split
    · rename_i t hk; rw [hk] at c; replace c : Only _ s t := c.keep
      exact ⟨t, rfl, Only.mono (Only.mono (c) (ps := [.free, .regs, .rc, .rc64, .abacus, .queues, .rings, .hostOut, .sec, .mgmtLog, .mgmt, .smb, .jnl, .log])) hp⟩
    · rename_i a t hk; rw [hk] at c; replace c : Only _ s t := c.keep
      refine .of (Only.mono (ps := ps) (qs := [.free, .regs, .rc, .rc64, .abacus, .queues, .rings, .hostOut, .sec, .mgmtLog, .mgmt, .smb, .jnl, .log]) ?_ hp)
      refine Only.then ?_ (complete_only ..)
      refine Only.then ?_ (startCmd_only ..)
      exact Only.mono (c)
    · rename_i t hk; rw [hk] at c; replace c : Only _ s t := c.keep
      split
      · refine .of (Only.mono (ps := ps) (qs := [.free, .regs, .rc, .rc64, .abacus, .queues, .rings, .hostOut, .sec, .mgmtLog, .mgmt, .smb, .jnl, .log]) ?_ hp)
        refine Only.then ?_ (complete_only ..)
        refine Only.then ?_ (startCmd_only ..)
        exact Only.mono (c)
      · dsimp -iota -proj only
        refine .of (Only.ite (Only.then (Only.mono (qs := [.free, .regs, .rc, .rc64, .abacus, .queues, .rings, .hostOut, .sec, .mgmtLog, .mgmt, .smb, .jnl, .log]) ?_ hp) (h d _) (sub_refl _)) ?_)
        · refine Only.then ?_ (startCmd_only ..)
          refine Only.then ?_ (workReady_only ..)
          exact Only.mono (c)
        · exact Only.mono (Only.mono (workReady_only ..) (ps := [.free, .regs, .rc, .rc64, .abacus, .queues, .rings, .hostOut, .sec, .mgmtLog, .mgmt, .smb, .jnl, .log])) hp

end Sys2Proof.Laws
end

