-- ==== Sys2Proof/Laws/RefsFrame.lean ====
section
/-! SUPPORT. What the operations of Machine/Refs.lean leave as they are. -/

set_option Elab.async false

namespace Sys2Proof.Laws

open Sys2Proof Sys2Proof.Machine

theorem setRef_only (n : Nat) (r : Ref) (s : State) :
    Only [.timing] s (setRef n r s) := by
  unfold setRef
  refine Only.upd53 ?_
  exact Only.refl _ _

theorem disqualify_only (n : Nat) (s : State) :
    Only [.timing] s (disqualify n s) := by
  unfold disqualify
  try dsimp -iota -proj only
  refine Only.ite ?_ ?_
  · refine Only.upd53 ?_
    refine Only.then ?_ (setRef_only ..)
    exact Only.refl _ _
  · refine Only.then ?_ (setRef_only ..)
    exact Only.refl _ _

theorem loseRefs_only (l : Nat) (s : State) :
    Only [.timing] s (loseRefs l s) := by
  unfold loseRefs
  refine Only.all ?_ fun x u hu => ?_
  · exact Only.refl _ _
  · refine Only.then ?_ (disqualify_only ..)
    assumption

theorem checkRef_only (n : Nat) (s : State) :
    Only [.timing] s (checkRef n s) := by
  unfold checkRef
  try dsimp -iota -proj only
  refine Only.ite ?_ ?_
  · refine Only.ite ?_ ?_
    · exact Only.refl _ _
    · refine Only.then ?_ (setRef_only ..)
      exact Only.refl _ _
  · refine Only.then ?_ (setRef_only ..)
    exact Only.refl _ _

theorem refEdge_only (n : Nat) (d : Int) (s : State) :
    Only [.timing] s (refEdge n d s) := by
  unfold refEdge
  try dsimp -iota -proj only
  refine Only.ite ?_ ?_
  · refine Only.upd53 ?_
    refine Only.then ?_ (checkRef_only ..)
    refine Only.ite ?_ ?_
    · refine Only.then ?_ (setRef_only ..)
      exact Only.refl _ _
    · refine Only.then ?_ (disqualify_only ..)
      refine Only.then ?_ (setRef_only ..)
      exact Only.refl _ _
  · refine Only.then ?_ (checkRef_only ..)
    refine Only.ite ?_ ?_
    · refine Only.then ?_ (setRef_only ..)
      exact Only.refl _ _
    · refine Only.then ?_ (disqualify_only ..)
      refine Only.then ?_ (setRef_only ..)
      exact Only.refl _ _

theorem laneEdge_only (l : Nat) (s : State) :
    Only [.timing] s (laneEdge l s) := by
  unfold laneEdge
  refine Only.all ?_ fun x u hu => ?_
  · exact Only.refl _ _
  · refine Only.then ?_ (refEdge_only ..)
    assumption

theorem sendFrame_only (l : Nat) (type : Byte) (payload : Bytes) (s : State) :
    Only [.lanes] s (sendFrame l type payload s) := by
  unfold sendFrame
  try dsimp -iota -proj only
  refine Only.then ?_ (setLane_only ..)
  exact Only.refl _ _

theorem takeFrame_only {l : Nat} {type : Byte} {payload : Bytes} {s t : State}
    (h : takeFrame l type payload s = some t) : Only [.frames] s t := by
  unfold takeFrame at h
  split at h
  · cases h; refine Only.upd11 ?_; exact Only.refl _ _
  · cases h

theorem pxFrame_only {type : Byte} {payload : Bytes} {s t : State} {l : Nat}
    (h : pxFrame type payload s = some (l, t)) : Only [.frames] s t := by
  unfold pxFrame at h
  obtain ⟨k, _, hk⟩ := List.exists_of_findSome?_eq_some h
  obtain ⟨u, hu, he⟩ := Option.map_eq_some_iff.mp hk
  cases he; exact takeFrame_only hu

end Sys2Proof.Laws
end

