-- ==== Sys2Proof/Laws/LanesFrame.lean ====
section
/-! SUPPORT. What the operations of Machine/Lanes.lean leave as they are. -/

set_option Elab.async false

namespace Sys2Proof.Laws

open Sys2Proof Sys2Proof.Machine

theorem startTraining_only (l : Nat) (s : State) :
    Only [.lanes] s (startTraining l s) := by
  unfold startTraining
  try dsimp -iota -proj only
  refine Only.then ?_ (setLane_only ..)
  exact Only.refl _ _

theorem dropAlignment_only (l : Nat) (s : State) :
    Only [.lanes] s (dropAlignment l s) := by
  unfold dropAlignment
  try dsimp -iota -proj only
  refine Only.then ?_ (setLane_only ..)
  exact Only.refl _ _

theorem leaveBond_only (l cause : Nat) (s : State) :
    Only [.rc, .lanes, .ports, .perf, .rings, .hostOut, .mgmtLog, .smb, .jnl, .log] s (leaveBond l cause s) := by
  unfold leaveBond
  try dsimp -iota -proj only
  refine Only.ite ?_ ?_
  · refine Only.then ?_ (raise_only ..)
    refine Only.then ?_ (perfEv_only ..)
    refine Only.then ?_ (setPort_only ..)
    refine Only.then ?_ (count_only ..)
    refine Only.then ?_ (setLane_only ..)
    exact Only.refl _ _
  · refine Only.then ?_ (setLane_only ..)
    exact Only.refl _ _

theorem loseAlignment_only (l : Nat) (s : State) :
    Only [.rc, .lanes, .ports, .timing, .perf, .rings, .hostOut, .mgmtLog, .smb, .jnl, .log] s (loseAlignment l s) := by
  unfold loseAlignment
  refine Only.then ?_ (leaveBond_only ..)
  refine Only.then ?_ (loseRefs_only ..)
  refine Only.then ?_ (dropAlignment_only ..)
  exact Only.refl _ _

theorem laneOff_only (l : Nat) (s : State) :
    Only [.rc, .lanes, .ports, .timing, .perf, .rings, .hostOut, .mgmtLog, .smb, .jnl, .log] s (laneOff l s) := by
  unfold laneOff
  try dsimp -iota -proj only
  refine Only.then ?_ (setLane_only ..)
  refine Only.then ?_ (loseAlignment_only ..)
  exact Only.refl _ _

theorem trainFailure_only (l timer : Nat) (s : State) :
    Only [.rc, .lanes, .ports, .timing, .perf, .rings, .hostOut, .mgmtLog, .smb, .jnl, .log] s (trainFailure l timer s) := by
  unfold trainFailure
  try dsimp -iota -proj only
  refine Only.then ?_ (raise_only ..)
  refine Only.then ?_ (setLane_only ..)
  refine Only.then ?_ (loseAlignment_only ..)
  refine Only.then ?_ (count_only ..)
  exact Only.refl _ _

theorem restartTraining_only (l : Nat) (s : State) :
    Only [.rc, .lanes, .ports, .timing, .perf, .rings, .hostOut, .mgmtLog, .smb, .jnl, .log] s (restartTraining l s) := by
  unfold restartTraining
  refine Only.then ?_ (startTraining_only ..)
  refine Only.then ?_ (loseAlignment_only ..)
  exact Only.refl _ _

theorem tapValue_only (t : Training) (s : State) :
    Only [.free] s (tapValue t s).2 := by
  unfold tapValue
  split
  · refine Only.then ?_ (draw_only ..)
    exact Only.refl _ _
  · exact Only.refl _ _

theorem tapValue_only' {t : Training} {s : State} {x : Nat} {post : State} (h : tapValue t s = (x, post)) : Only [.free] s post := by
  have := tapValue_only t s; rw [h] at this; exact this

theorem gainLock_only (l : Nat) (c : Codeword) (s : State) :
    Only [.lanes] s (gainLock l c s) := by
  unfold gainLock
  try dsimp -iota -proj only
  refine Only.then ?_ (setLane_only ..)
  exact Only.refl _ _

theorem huntStep_only (l : Nat) (c : Codeword) (s : State) :
    Only [.lanes] s (huntStep l c s) := by
  unfold huntStep
  try dsimp -iota -proj only
  split
  · refine Only.then ?_ (setLane_only ..)
    exact Only.refl _ _
  · refine Only.ite ?_ ?_
    · refine Only.then ?_ (gainLock_only ..)
      exact Only.refl _ _
    · refine Only.ite ?_ ?_
      · refine Only.then ?_ (setLane_only ..)
        exact Only.refl _ _
      · refine Only.then ?_ (setLane_only ..)
        exact Only.refl _ _

theorem loseCodewordLock_only (l : Nat) (s : State) :
    Only [.rc, .lanes, .ports, .timing, .perf, .rings, .hostOut, .mgmtLog, .smb, .jnl, .log] s (loseCodewordLock l s) := by
  unfold loseCodewordLock
  try dsimp -iota -proj only
  refine Only.then ?_ (raise_only ..)
  refine Only.then ?_ (setLane_only ..)
  refine Only.then ?_ (loseAlignment_only ..)
  refine Only.then ?_ (count_only ..)
  exact Only.refl _ _

theorem countCodeword_only (l : Nat) (c : Codeword) (s : State) :
    Only [.rc, .rc64, .lanes, .rings, .hostOut, .mgmtLog, .smb, .jnl, .log] s (countCodeword l c s) := by
  unfold countCodeword
  try dsimp -iota -proj only
  refine Only.ite ?_ ?_
  · exact Only.refl _ _
  · refine Only.cond ?_ fun u hu => ?_
    · refine Only.then ?_ (setLane_only ..)
      refine Only.then ?_ (count_only ..)
      refine Only.then ?_ (countN_only ..)
      refine Only.then ?_ (count64_only ..)
      exact Only.refl _ _
    · refine Only.then ?_ (raise_only ..)
      assumption

theorem lockedStep_only (l : Nat) (c : Codeword) (s : State) :
    Only [.rc, .lanes, .ports, .timing, .perf, .rings, .hostOut, .mgmtLog, .smb, .jnl, .log] s (lockedStep l c s) := by
  unfold lockedStep
  try dsimp -iota -proj only
  refine Only.ite ?_ ?_
  · refine Only.then ?_ (loseCodewordLock_only ..)
    refine Only.then ?_ (setLane_only ..)
    refine Only.cond ?_ fun u hu => ?_
    · exact Only.refl _ _
    · refine Only.then ?_ (count_only ..)
      assumption
  · refine Only.then ?_ (setLane_only ..)
    refine Only.cond ?_ fun u hu => ?_
    · exact Only.refl _ _
    · refine Only.then ?_ (count_only ..)
      assumption

end Sys2Proof.Laws
end

