-- ==== Sys2Proof/Laws/PortsFrame.lean ====
section
/-! SUPPORT. What the operations of Machine/Ports.lean leave as they are. -/

set_option Elab.async false

namespace Sys2Proof.Laws

open Sys2Proof Sys2Proof.Machine

theorem bindPort_only (p : Nat) (s : State) :
    Only [.ports] s (bindPort p s) := by
  unfold bindPort
  try dsimp -iota -proj only
  split
  · exact Only.refl _ _
  · split
    · refine Only.then ?_ (setPort_only ..)
      exact Only.refl _ _

theorem unbindPort_only (p : Nat) (s : State) :
    Only [.ports] s (unbindPort p s) := by
  unfold unbindPort
  try dsimp -iota -proj only
  refine Only.then ?_ (setPort_only ..)
  exact Only.refl _ _

theorem rebindTo_only (p : Nat) (x : Nat) (k : Word) (s : State) :
    Only [.ports] s (rebindTo p x k s) := by
  unfold rebindTo
  try dsimp -iota -proj only
  refine Only.then ?_ (setPort_only ..)
  exact Only.refl _ _

theorem rebindInto_only (p mode : Nat) (x : Nat) (s : State) :
    Only [.ports] s (rebindInto p mode x s) := by
  unfold rebindInto
  try dsimp -iota -proj only
  split
  · exact Only.refl _ _
  · split
    · refine Only.then ?_ (setPort_only ..)
      refine Only.then ?_ (rebindTo_only ..)
      exact Only.refl _ _

theorem applyTdPending_only (p x : Nat) (s : State) :
    Only [.rc, .ports, .rings, .hostOut, .mgmtLog, .smb, .jnl, .log] s (applyTdPending p x s) := by
  unfold applyTdPending
  try dsimp -iota -proj only
  split
  · refine Only.then ?_ (setPort_only ..)
    exact Only.refl _ _
  · refine Only.ite ?_ ?_
    · refine Only.then ?_ (raise_only ..)
      refine Only.ite ?_ ?_
      · refine Only.then ?_ (rebindInto_only ..)
        refine Only.then ?_ (setPort_only ..)
        exact Only.refl _ _
      · refine Only.then ?_ (setPort_only ..)
        exact Only.refl _ _
    · refine Only.then ?_ (rebindInto_only ..)
      refine Only.then ?_ (setPort_only ..)
      exact Only.refl _ _

theorem rebindAtSwap_only (x : Nat) (p : Nat) (s : State) :
    Only [.rc, .ports, .rings, .hostOut, .mgmtLog, .smb, .jnl, .log] s (rebindAtSwap x p s) := by
  unfold rebindAtSwap
  try dsimp -iota -proj only
  refine Only.ite ?_ ?_
  · exact Only.refl _ _
  · refine Only.ite ?_ ?_
    · refine Only.then ?_ (applyTdPending_only ..)
      exact Only.refl _ _
    · refine Only.ite ?_ ?_
      · refine Only.then ?_ (rebindInto_only ..)
        exact Only.refl _ _
      · exact Only.refl _ _

theorem onPage_only (f : Page → Page) (s : State) :
    Only [.page] s (onPage f s) := by
  unfold onPage
  refine Only.upd38 ?_
  exact Only.refl _ _

theorem onAbacus_only (f : Abacus → Abacus) (s : State) :
    Only [.abacus] s (onAbacus f s) := by
  unfold onAbacus
  refine Only.upd0 ?_
  exact Only.refl _ _

theorem jobEnds_only (s : State) :
    Only [.abacus] s (jobEnds s) := by
  unfold jobEnds
  refine Only.then ?_ (onAbacus_only ..)
  exact Only.refl _ _

theorem resync_only (s : State) :
    Only [.page, .abacus] s (resync s) := by
  unfold resync
  refine Only.then ?_ (jobEnds_only ..)
  refine Only.then ?_ (onPage_only ..)
  exact Only.refl _ _

theorem abandonPageTest_only (s : State) :
    Only [.rc, .page, .abacus, .mtest] s (abandonPageTest s) := by
  unfold abandonPageTest
  refine Only.ite ?_ ?_
  · refine Only.then ?_ (resync_only ..)
    refine Only.upd36 ?_
    refine Only.then ?_ (count_only ..)
    exact Only.refl _ _
  · exact Only.refl _ _

theorem askRebind_only (p : Nat) (s : State) :
    Only [.rc, .page, .abacus, .mtest] s (askRebind p s) := by
  unfold askRebind
  refine Only.then ?_ (onPage_only ..)
  refine Only.then ?_ (abandonPageTest_only ..)
  exact Only.refl _ _

theorem slip_only (p : Nat) (x : Int) (d : Int) (s : State) :
    Only [.rc, .ports, .perf, .rings, .hostOut, .mgmtLog, .smb, .jnl, .log] s (slip p x d s) := by
  unfold slip
  try dsimp -iota -proj only
  refine Only.then ?_ (raise_only ..)
  refine Only.then ?_ (perfEv_only ..)
  refine Only.then ?_ (count_only ..)
  refine Only.then ?_ (setPort_only ..)
  exact Only.refl _ _

theorem watchPhase_only (p : Nat) (t : Nat) (x a : Int) (s : State) :
    Only [.rc, .ports, .page, .abacus, .mtest, .perf, .rings, .hostOut, .mgmtLog, .smb, .jnl, .log] s (watchPhase p t x a s) := by
  unfold watchPhase
  try dsimp -iota -proj only
  refine Only.ite ?_ ?_
  · exact Only.refl _ _
  · refine Only.ite ?_ ?_
    · refine Only.ite ?_ ?_
      · exact Only.refl _ _
      · refine Only.then ?_ (askRebind_only ..)
        refine Only.then ?_ (raise_only ..)
        refine Only.then ?_ (perfEv_only ..)
        refine Only.then ?_ (count_only ..)
        refine Only.then ?_ (setPort_only ..)
        exact Only.refl _ _
    · refine Only.ite ?_ ?_
      · refine Only.then ?_ (slip_only ..)
        exact Only.refl _ _
      · refine Only.then ?_ (slip_only ..)
        exact Only.refl _ _

theorem noteArrival_only (p : Nat) (seq : Word) (t : Nat) (s : State) :
    Only [.ports] s (noteArrival p seq t s) := by
  unfold noteArrival
  try dsimp -iota -proj only
  refine Only.then ?_ (setPort_only ..)
  exact Only.refl _ _

theorem measure_only (p : Nat) (seq : Word) (t : Nat) (skew latest : Nat) (s : State) :
    Only [.rc, .ports, .page, .abacus, .mtest, .perf, .rings, .hostOut, .mgmtLog, .smb, .jnl, .log] s (Machine.measure p seq t skew latest s) := by
  unfold Machine.measure
  try dsimp -iota -proj only
  refine Only.ite ?_ ?_
  · refine Only.then ?_ (setPort_only ..)
    exact Only.refl _ _
  · refine Only.then ?_ (watchPhase_only ..)
    refine Only.then ?_ (noteArrival_only ..)
    refine Only.then ?_ (setPort_only ..)
    refine Only.then ?_ (setPort_only ..)
    exact Only.refl _ _

theorem judgeLane_only (p : Nat) (g : List (Nat × Word × Nat)) (ref : Word) (t0 : Nat) (l : Nat)
    (s : State) :
    Only [.rc, .lanes, .ports, .perf, .rings, .hostOut, .mgmtLog, .smb, .jnl, .log] s (judgeLane p g ref t0 l s) := by
  unfold judgeLane
  try dsimp -iota -proj only
  refine Only.ite ?_ ?_
  · refine Only.then ?_ (leaveBond_only ..)
    exact Only.refl _ _
  · split
    · refine Only.then ?_ (leaveBond_only ..)
      exact Only.refl _ _
    · refine Only.ite ?_ ?_
      · refine Only.then ?_ (leaveBond_only ..)
        exact Only.refl _ _
      · refine Only.ite ?_ ?_
        · refine Only.then ?_ (leaveBond_only ..)
          exact Only.refl _ _
        · refine Only.then ?_ (setLane_only ..)
          exact Only.refl _ _

theorem judgeGroup_only (p : Nat) (s : State) :
    Only [.rc, .lanes, .ports, .page, .abacus, .mtest, .perf, .rings, .hostOut, .mgmtLog, .smb, .jnl, .log] s (judgeGroup p s) := by
  unfold judgeGroup
  try dsimp -iota -proj only
  split
  · refine Only.all ?_ fun x u hu => ?_
    · refine Only.then ?_ (setPort_only ..)
      exact Only.refl _ _
    · refine Only.then ?_ (judgeLane_only ..)
      assumption
  · refine Only.then ?_ (measure_only ..)
    refine Only.all ?_ fun x u hu => ?_
    · refine Only.then ?_ (setPort_only ..)
      exact Only.refl _ _
    · refine Only.then ?_ (judgeLane_only ..)
      assumption

theorem closeGroup_only (p : Nat) (s : State) :
    Only [.rc, .lanes, .ports, .page, .abacus, .mtest, .perf, .rings, .hostOut, .mgmtLog, .smb, .jnl, .log] s (closeGroup p s) := by
  unfold closeGroup
  try dsimp -iota -proj only
  refine Only.ite ?_ ?_
  · refine Only.then ?_ (judgeGroup_only ..)
    exact Only.refl _ _
  · exact Only.refl _ _

theorem fullGroup_only (p : Nat) (s : State) :
    Only [.rc, .lanes, .ports, .page, .abacus, .mtest, .perf, .rings, .hostOut, .mgmtLog, .smb, .jnl, .log] s (fullGroup p s) := by
  unfold fullGroup
  try dsimp -iota -proj only
  refine Only.ite ?_ ?_
  · refine Only.then ?_ (judgeGroup_only ..)
    exact Only.refl _ _
  · exact Only.refl _ _

theorem bondArrived_only (p : Nat) (s : State) :
    Only [.ports] s (bondArrived p s) := by
  unfold bondArrived
  try dsimp -iota -proj only
  refine Only.ite ?_ ?_
  · exact Only.refl _ _
  · refine Only.then ?_ (noteArrival_only ..)
    exact Only.refl _ _

theorem joinGroup_only (p l : Nat) (s : State) :
    Only [.rc, .lanes, .ports, .perf, .rings, .hostOut, .mgmtLog, .smb, .jnl, .log] s (joinGroup p l s) := by
  unfold joinGroup
  try dsimp -iota -proj only
  refine Only.then ?_ (judgeLane_only ..)
  refine Only.all ?_ fun x u hu => ?_
  · exact Only.refl _ _
  · refine Only.then ?_ (leaveBond_only ..)
    assumption

theorem row0Written_only (p l : Nat) (q : Word) (s : State) :
    Only [.rc, .lanes, .ports, .page, .abacus, .mtest, .perf, .rings, .hostOut, .mgmtLog, .smb, .jnl, .log] s (row0Written p l q s) := by
  unfold row0Written
  try dsimp -iota -proj only
  refine Only.ite ?_ ?_
  · exact Only.refl _ _
  · refine Only.ite ?_ ?_
    · refine Only.then ?_ (fullGroup_only ..)
      refine Only.then ?_ (leaveBond_only ..)
      exact Only.refl _ _
    · refine Only.ite ?_ ?_
      · refine Only.ite ?_ ?_
        · refine Only.then ?_ (joinGroup_only ..)
          refine Only.then ?_ (setPort_only ..)
          exact Only.refl _ _
        · refine Only.then ?_ (fullGroup_only ..)
          refine Only.then ?_ (bondArrived_only ..)
          refine Only.then ?_ (setPort_only ..)
          exact Only.refl _ _
      · refine Only.then ?_ (fullGroup_only ..)
        refine Only.then ?_ (bondArrived_only ..)
        refine Only.then ?_ (setPort_only ..)
        refine Only.ite ?_ ?_
        · exact Only.refl _ _
        · refine Only.then ?_ (judgeGroup_only ..)
          exact Only.refl _ _

theorem enterCapability_only (p : Nat) (s : State) :
    Only [.ports] s (enterCapability p s) := by
  unfold enterCapability
  try dsimp -iota -proj only
  refine Only.then ?_ (setPort_only ..)
  exact Only.refl _ _

theorem advanceOnce_only (p : Nat) (s : State) :
    Only [.ports] s (advanceOnce p s) := by
  unfold advanceOnce
  try dsimp -iota -proj only
  refine Only.ite ?_ ?_
  · refine Only.then ?_ (setPort_only ..)
    exact Only.refl _ _
  · refine Only.ite ?_ ?_
    · refine Only.then ?_ (setPort_only ..)
      exact Only.refl _ _
    · refine Only.ite ?_ ?_
      · refine Only.then ?_ (enterCapability_only ..)
        refine Only.then ?_ (setPort_only ..)
        exact Only.refl _ _
      · exact Only.refl _ _

theorem advancePort_only (p : Nat) (s : State) :
    Only [.ports] s (advancePort p s) := by
  unfold advancePort
  refine Only.then ?_ (advanceOnce_only ..)
  refine Only.then ?_ (advanceOnce_only ..)
  refine Only.then ?_ (advanceOnce_only ..)
  exact Only.refl _ _

theorem setFollow_only (p : Nat) (f : Follow) (s : State) :
    Only [.page] s (setFollow p f s) := by
  unfold setFollow
  refine Only.upd38 ?_
  exact Only.refl _ _

theorem followDecision_only (p l : Nat) (s : State) :
    Only [.rc, .page, .perf, .rings, .hostOut, .mgmtLog, .smb, .jnl, .log] s (followDecision p l s) := by
  unfold followDecision
  try dsimp -iota -proj only
  refine Only.ite ?_ ?_
  · exact Only.refl _ _
  · refine Only.ite ?_ ?_
    · refine Only.then ?_ (setFollow_only ..)
      exact Only.refl _ _
    · refine Only.ite ?_ ?_
      · exact Only.refl _ _
      · refine Only.ite ?_ ?_
        · refine Only.upd38 ?_
          refine Only.then ?_ (setFollow_only ..)
          exact Only.refl _ _
        · refine Only.then ?_ (raise_only ..)
          refine Only.then ?_ (perfEv_only ..)
          refine Only.then ?_ (count_only ..)
          refine Only.then ?_ (setFollow_only ..)
          exact Only.refl _ _

end Sys2Proof.Laws
end

