-- ==== Sys2Proof/Laws/FramerFrame.lean ====
section
/-! SUPPORT. What the operations of Machine/Framer.lean leave as they are. -/

set_option Elab.async false

namespace Sys2Proof.Laws

open Sys2Proof Sys2Proof.Machine

theorem strAdd_only (n bip2 cUp cSub : Nat) (s : State) :
    Only [.pm] s (strAdd n bip2 cUp cSub s) := by
  unfold strAdd
  try dsimp -iota -proj only
  refine Only.upd41 ?_
  exact Only.refl _ _

theorem strFill_only (n : Nat) (up : Bool) (s : State) :
    Only [.pm] s (strFill n up s) := by
  unfold strFill
  try dsimp -iota -proj only
  refine Only.upd41 ?_
  exact Only.refl _ _

theorem countSlot_only (l row : Nat) (e : Nat × SlotWord) (s : State) :
    Only [.rc, .lanes, .pm] s (countSlot l row e s) := by
  unfold countSlot
  try dsimp -iota -proj only
  refine Only.ite ?_ ?_
  · exact Only.refl _ _
  · split
    · refine Only.then ?_ (strAdd_only ..)
      refine Only.cond ?_ fun u hu => ?_
      · exact Only.refl _ _
      · refine Only.then ?_ (setLane_only ..)
        refine Only.then ?_ (count_only ..)
        assumption
    · refine Only.cond ?_ fun u hu => ?_
      · exact Only.refl _ _
      · refine Only.then ?_ (setLane_only ..)
        refine Only.then ?_ (count_only ..)
        assumption

theorem writeRow_only (l row : Nat) (seq : Word) (ws : List SlotWord) (s : State) :
    Only [.core] s (writeRow l row seq ws s) := by
  unfold writeRow
  try dsimp -iota -proj only
  refine Only.ite ?_ ?_
  · refine Only.upd9 ?_
    exact Only.refl _ _
  · exact Only.refl _ _

theorem srChannel_only (l : Nat) (bs : Bytes) (s : State) :
    Only [.rc, .lanes, .prot, .perf] s (srChannel l bs s) := by
  unfold srChannel
  try dsimp -iota -proj only
  refine Only.ite ?_ ?_
  · refine Only.then ?_ (count_only ..)
    exact Only.refl _ _
  · refine Only.then ?_ (perfEv_only ..)
    refine Only.upd43 ?_
    refine Only.then ?_ (setLane_only ..)
    exact Only.refl _ _

theorem endFrame_only (l : Nat) (esc : Bool) (body : Bytes) (s : State) :
    Only [.rc, .frames] s (endFrame l esc body s) := by
  unfold endFrame
  try dsimp -iota -proj only
  refine Only.ite ?_ ?_
  · exact Only.refl _ _
  · refine Only.ite ?_ ?_
    · refine Only.then ?_ (count_only ..)
      exact Only.refl _ _
    · refine Only.ite ?_ ?_
      · refine Only.upd11 ?_
        exact Only.refl _ _
      · refine Only.then ?_ (count_only ..)
        exact Only.refl _ _

theorem msgByte_only (l : Nat) (b : Byte) (s : State) :
    Only [.rc, .lanes, .frames] s (msgByte l b s) := by
  unfold msgByte
  try dsimp -iota -proj only
  refine Only.ite ?_ ?_
  · refine Only.then ?_ (setLane_only ..)
    refine Only.ite ?_ ?_
    · refine Only.then ?_ (endFrame_only ..)
      exact Only.refl _ _
    · exact Only.refl _ _
  · refine Only.ite ?_ ?_
    · exact Only.refl _ _
    · refine Only.ite ?_ ?_
      · refine Only.then ?_ (setLane_only ..)
        exact Only.refl _ _
      · refine Only.ite ?_ ?_
        · refine Only.then ?_ (setLane_only ..)
          exact Only.refl _ _
        · refine Only.ite ?_ ?_
          · exact Only.refl _ _
          · refine Only.then ?_ (setLane_only ..)
            exact Only.refl _ _

theorem abortFrame_only (l : Nat) (s : State) :
    Only [.lanes] s (abortFrame l s) := by
  unfold abortFrame
  try dsimp -iota -proj only
  refine Only.then ?_ (setLane_only ..)
  exact Only.refl _ _

theorem takeIdentity_only (l : Nat) (bs : Bytes) (s : State) :
    Only [.rc, .lanes, .rings, .hostOut, .mgmtLog, .smb, .jnl, .log] s (takeIdentity l bs s) := by
  unfold takeIdentity
  try dsimp -iota -proj only
  refine Only.cond ?_ fun u hu => ?_
  · refine Only.then ?_ (setLane_only ..)
    exact Only.refl _ _
  · refine Only.then ?_ (raise_only ..)
    assumption

theorem takeFlags_only (l : Nat) (bs : Bytes) (s : State) :
    Only [.rc, .lanes, .ports, .page, .perf, .rings, .hostOut, .mgmtLog, .smb, .jnl, .log] s (takeFlags l bs s) := by
  unfold takeFlags
  try dsimp -iota -proj only
  refine Only.cond ?_ fun u hu => ?_
  · refine Only.ite ?_ ?_
    · refine Only.then ?_ (raise_only ..)
      refine Only.then ?_ (setPort_only ..)
      refine Only.cond ?_ fun u hu => ?_
      · refine Only.then ?_ (setLane_only ..)
        exact Only.refl _ _
      · refine Only.then ?_ (raise_only ..)
        refine Only.then ?_ (count_only ..)
        assumption
    · refine Only.cond ?_ fun u hu => ?_
      · refine Only.then ?_ (setLane_only ..)
        exact Only.refl _ _
      · refine Only.then ?_ (raise_only ..)
        refine Only.then ?_ (count_only ..)
        assumption
  · refine Only.then ?_ (followDecision_only ..)
    assumption

theorem checkCycle_only (l pos : Nat) (s : State) :
    Only [.rc, .rings, .hostOut, .mgmtLog, .smb, .jnl, .log] s (checkCycle l pos s) := by
  unfold checkCycle
  try dsimp -iota -proj only
  split
  · refine Only.ite ?_ ?_
    · refine Only.then ?_ (raise_only ..)
      refine Only.then ?_ (count_only ..)
      exact Only.refl _ _
    · exact Only.refl _ _
  · exact Only.refl _ _

theorem checkBip_only (l : Nat) (aligned : Bool) (raw bs : Bytes) (s : State) :
    Only [.rc, .lanes] s (checkBip l aligned raw bs s) := by
  unfold checkBip
  try dsimp -iota -proj only
  refine Only.then ?_ (setLane_only ..)
  refine Only.then ?_ (countN_only ..)
  exact Only.refl _ _

theorem alignedRow_only (l row : Nat) (fits : Bool) (bs : Bytes) (s : State) :
    Only [.rc, .lanes, .ports, .core, .page, .abacus, .prot, .pm, .timing, .mtest, .perf, .rings, .hostOut, .mgmtLog, .smb, .jnl, .frames, .log] s (alignedRow l row fits bs s) := by
  unfold alignedRow
  try dsimp -iota -proj only
  refine Only.ite ?_ ?_
  · refine Only.then ?_ (row0Written_only ..)
    refine Only.then ?_ (setLane_only ..)
    refine Only.then ?_ (laneEdge_only ..)
    refine Only.all ?_ fun x u hu => ?_
    · refine Only.then ?_ (writeRow_only ..)
      exact Only.refl _ _
    · refine Only.then ?_ (countSlot_only ..)
      assumption
  · refine Only.ite ?_ ?_
    · refine Only.ite ?_ ?_
      · refine Only.then ?_ (srChannel_only ..)
        refine Only.all ?_ fun x u hu => ?_
        · refine Only.then ?_ (writeRow_only ..)
          exact Only.refl _ _
        · refine Only.then ?_ (countSlot_only ..)
          assumption
      · refine Only.all ?_ fun x u hu => ?_
        · refine Only.then ?_ (writeRow_only ..)
          exact Only.refl _ _
        · refine Only.then ?_ (countSlot_only ..)
          assumption
    · refine Only.ite ?_ ?_
      · refine Only.all ?_ fun x u hu => ?_
        · refine Only.all ?_ fun x u hu => ?_
          · refine Only.then ?_ (writeRow_only ..)
            exact Only.refl _ _
          · refine Only.then ?_ (countSlot_only ..)
            assumption
        · refine Only.then ?_ (msgByte_only ..)
          assumption
      · refine Only.then ?_ (abortFrame_only ..)
        refine Only.all ?_ fun x u hu => ?_
        · refine Only.then ?_ (writeRow_only ..)
          exact Only.refl _ _
        · refine Only.then ?_ (countSlot_only ..)
          assumption

theorem lostRow_only (l row : Nat) (s : State) :
    Only [.lanes] s (lostRow l row s) := by
  unfold lostRow
  refine Only.ite ?_ ?_
  · refine Only.then ?_ (abortFrame_only ..)
    exact Only.refl _ _
  · exact Only.refl _ _

theorem syncRow_only (l pos : Nat) (h : HeaderStep) (raw : Bytes) (s : State) :
    Only [.rc, .lanes, .ports, .core, .page, .abacus, .prot, .pm, .timing, .mtest, .perf, .rings, .hostOut, .mgmtLog, .smb, .jnl, .frames, .log] s (syncRow l pos h raw s) := by
  unfold syncRow
  try dsimp -iota -proj only
  split
  · refine Only.ite ?_ ?_
    · refine Only.then ?_ (alignedRow_only ..)
      refine Only.cond ?_ fun u hu => ?_
      · refine Only.then ?_ (checkBip_only ..)
        refine Only.cond ?_ fun u hu => ?_
        · refine Only.cond ?_ fun u hu => ?_
          · refine Only.cond ?_ fun u hu => ?_
            · refine Only.cond ?_ fun u hu => ?_
              · refine Only.cond ?_ fun u hu => ?_
                · refine Only.then ?_ (setLane_only ..)
                  refine Only.then ?_ (countN_only ..)
                  exact Only.refl _ _
                · refine Only.then ?_ (count_only ..)
                  assumption
              · refine Only.then ?_ (takeIdentity_only ..)
                assumption
            · refine Only.then ?_ (takeFlags_only ..)
              assumption
          · refine Only.then ?_ (leaveBond_only ..)
            refine Only.then ?_ (loseRefs_only ..)
            assumption
        · refine Only.then ?_ (perfEv_only ..)
          assumption
      · refine Only.then ?_ (checkCycle_only ..)
        assumption
    · refine Only.then ?_ (lostRow_only ..)
      refine Only.cond ?_ fun u hu => ?_
      · refine Only.cond ?_ fun u hu => ?_
        · refine Only.then ?_ (checkBip_only ..)
          refine Only.cond ?_ fun u hu => ?_
          · refine Only.cond ?_ fun u hu => ?_
            · refine Only.cond ?_ fun u hu => ?_
              · refine Only.cond ?_ fun u hu => ?_
                · refine Only.cond ?_ fun u hu => ?_
                  · refine Only.then ?_ (setLane_only ..)
                    refine Only.then ?_ (countN_only ..)
                    exact Only.refl _ _
                  · refine Only.then ?_ (count_only ..)
                    assumption
                · refine Only.then ?_ (takeIdentity_only ..)
                  assumption
              · refine Only.then ?_ (takeFlags_only ..)
                assumption
            · refine Only.then ?_ (leaveBond_only ..)
              refine Only.then ?_ (loseRefs_only ..)
              assumption
          · refine Only.then ?_ (perfEv_only ..)
            assumption
        · refine Only.then ?_ (checkCycle_only ..)
          assumption
      · refine Only.then ?_ (perfEv_only ..)
        assumption

end Sys2Proof.Laws
end

