-- ==== Sys2Proof/Laws/CoreStagesFrame.lean ====
section
/-! SUPPORT. What the operations of Machine/CoreStages.lean leave as they are. -/

set_option Elab.async false

namespace Sys2Proof.Laws

open Sys2Proof Sys2Proof.Machine

theorem readError_only (cause lane index : Nat) (s : State) :
    Only [.rc, .rings, .hostOut, .mgmtLog, .smb, .jnl, .log] s (readError cause lane index s) := by
  unfold readError
  refine Only.then ?_ (raise_only ..)
  refine Only.then ?_ (rcSet_only ..)
  exact Only.refl _ _

theorem condRead_only (l : Nat) (s : State) :
    Only [.rc64, .perf] s (condRead l s) := by
  unfold condRead
  refine Only.then ?_ (perfEv_only ..)
  refine Only.then ?_ (count64_only ..)
  exact Only.refl _ _

theorem noteRow_only (target lane index : Nat) (s : State) :
    Only [.mtest] s (noteRow target lane index s) := by
  unfold noteRow
  try dsimp -iota -proj only
  refine Only.ite ?_ ?_
  · exact Only.refl _ _
  · refine Only.upd36 ?_
    exact Only.refl _ _

theorem eccRead_only (target lane index : Nat) (s : State) :
    Only [.regs, .rc, .mtest, .perf] s (eccRead target lane index s).2 := by
  unfold eccRead
  try dsimp -iota -proj only
  split
  · refine Only.pair2 ?_
    refine Only.then ?_ (perfEv_only ..)
    refine Only.then ?_ (count_only ..)
    refine Only.then ?_ (setReg_only ..)
    refine Only.ite ?_ ?_
    · exact Only.refl _ _
    · refine Only.then ?_ (noteRow_only ..)
      exact Only.refl _ _
  · split
    · refine Only.pair2 ?_
      refine Only.then ?_ (perfEv_only ..)
      refine Only.then ?_ (count_only ..)
      refine Only.then ?_ (setReg_only ..)
      refine Only.ite ?_ ?_
      · exact Only.refl _ _
      · refine Only.then ?_ (noteRow_only ..)
        exact Only.refl _ _
    · refine Only.pair2 ?_
      refine Only.ite ?_ ?_
      · exact Only.refl _ _
      · refine Only.then ?_ (noteRow_only ..)
        exact Only.refl _ _

theorem eccRead_only' {target lane index : Nat} {s : State} {x : Bool} {post : State} (h : eccRead target lane index s = (x, post)) : Only [.regs, .rc, .mtest, .perf] s post := by
  have := eccRead_only target lane index s; rw [h] at this; exact this

theorem noteFill_only (l slot : Nat) (q : Word) (here : Bool) (s : State) :
    Only [.core, .pm] s (noteFill l slot q here s) := by
  unfold noteFill
  try dsimp -iota -proj only
  refine Only.ite ?_ ?_
  · exact Only.refl _ _
  · split
    · refine Only.then ?_ (strFill_only ..)
      refine Only.upd9 ?_
      exact Only.refl _ _
    · refine Only.upd9 ?_
      exact Only.refl _ _

theorem ingressFill_only (l e : Nat) (s : State) :
    Only [.rc64, .core, .pm, .perf] s (ingressFill l e s) := by
  unfold ingressFill
  try dsimp -iota -proj only
  refine Only.ite ?_ ?_
  · refine Only.then ?_ (noteFill_only ..)
    refine Only.then ?_ (condRead_only ..)
    exact Only.refl _ _
  · refine Only.then ?_ (condRead_only ..)
    exact Only.refl _ _

theorem ingressWord_only (pg : PageSet) (l k : Nat) (s : State) :
    Only [.regs, .rc, .rc64, .core, .pm, .mtest, .perf, .rings, .hostOut, .mgmtLog, .smb, .jnl, .log] s (ingressWord pg l k s).2 := by
  unfold ingressWord
  try dsimp -iota -proj only
  split
  · split
    · refine Only.pair2 ?_
      refine Only.then ?_ (ingressFill_only ..)
      refine Only.then ?_ (readError_only ..)
      refine Only.then ?_ (eccRead_only' ‹eccRead .. = (_, _)›)
      exact Only.refl _ _
    · split
      · refine Only.pair2 ?_
        refine Only.then ?_ (eccRead_only' ‹eccRead .. = (_, _)›)
        exact Only.refl _ _
      · split
        · split
          · refine Only.pair2 ?_
            refine Only.then ?_ (ingressFill_only ..)
            refine Only.then ?_ (readError_only ..)
            refine Only.then ?_ (eccRead_only' ‹eccRead .. = (_, _)›)
            refine Only.then ?_ (eccRead_only' ‹eccRead .. = (_, _)›)
            exact Only.refl _ _
          · split
            · refine Only.pair2 ?_
              refine Only.then ?_ (eccRead_only' ‹eccRead .. = (_, _)›)
              refine Only.then ?_ (eccRead_only' ‹eccRead .. = (_, _)›)
              exact Only.refl _ _
            · refine Only.pair2 ?_
              refine Only.then ?_ (ingressFill_only ..)
              refine Only.then ?_ (eccRead_only' ‹eccRead .. = (_, _)›)
              refine Only.then ?_ (eccRead_only' ‹eccRead .. = (_, _)›)
              exact Only.refl _ _
            · refine Only.pair2 ?_
              refine Only.then ?_ (ingressFill_only ..)
              refine Only.then ?_ (readError_only ..)
              refine Only.then ?_ (perfEv_only ..)
              refine Only.then ?_ (count_only ..)
              refine Only.then ?_ (eccRead_only' ‹eccRead .. = (_, _)›)
              refine Only.then ?_ (eccRead_only' ‹eccRead .. = (_, _)›)
              exact Only.refl _ _
            · refine Only.pair2 ?_
              refine Only.then ?_ (ingressFill_only ..)
              refine Only.then ?_ (readError_only ..)
              refine Only.then ?_ (perfEv_only ..)
              refine Only.then ?_ (count_only ..)
              refine Only.then ?_ (eccRead_only' ‹eccRead .. = (_, _)›)
              refine Only.then ?_ (eccRead_only' ‹eccRead .. = (_, _)›)
              exact Only.refl _ _

theorem ingressWord_only' {pg : PageSet} {l k : Nat} {s : State} {x : SlotWord} {post : State} (h : ingressWord pg l k s = (x, post)) : Only [.regs, .rc, .rc64, .core, .pm, .mtest, .perf, .rings, .hostOut, .mgmtLog, .smb, .jnl, .log] s post := by
  have := ingressWord_only pg l k s; rw [h] at this; exact this

theorem ingressAll_only (pg : PageSet) (k : Nat) (s : State) :
    Only [.regs, .rc, .rc64, .core, .pm, .mtest, .perf, .rings, .hostOut, .mgmtLog, .smb, .jnl, .log] s (ingressAll pg k s).2 := by
  unfold ingressAll
  try dsimp -iota -proj only
  refine Only.fold2 ?_ fun u x hu => ?_
  · exact Only.refl _ _
  · split
    · refine Only.pair2 ?_
      refine Only.then ?_ (ingressWord_only' ‹ingressWord .. = (_, _)›)
      assumption

theorem ingressAll_only' {pg : PageSet} {k : Nat} {s : State} {x : List (Nat × SlotWord)} {post : State} (h : ingressAll pg k s = (x, post)) : Only [.regs, .rc, .rc64, .core, .pm, .mtest, .perf, .rings, .hostOut, .mgmtLog, .smb, .jnl, .log] s post := by
  have := ingressAll_only pg k s; rw [h] at this; exact this

theorem spaceStep_only (pg : PageSet) (k : Nat) (ws : List (Nat × SlotWord)) (m : Nat) (s : State) :
    Only [.regs, .rc, .rc64, .core, .mtest, .perf, .rings, .hostOut, .mgmtLog, .smb, .jnl, .log] s (spaceStep pg k ws m s) := by
  unfold spaceStep
  try dsimp -iota -proj only
  split
  · refine Only.ite ?_ ?_
    · refine Only.then ?_ (eccRead_only' ‹eccRead .. = (_, _)›)
      exact Only.refl _ _
    · refine Only.upd9 ?_
      refine Only.cond ?_ fun u hu => ?_
      · refine Only.then ?_ (eccRead_only' ‹eccRead .. = (_, _)›)
        exact Only.refl _ _
      · refine Only.then ?_ (readError_only ..)
        refine Only.then ?_ (condRead_only ..)
        assumption

theorem outSlot_only (m q rowRead : Nat) (s : State) :
    Only [.regs, .rc, .rc64, .mtest, .perf, .rings, .hostOut, .mgmtLog, .smb, .jnl, .log] s (outSlot m q rowRead s).2 := by
  unfold outSlot
  try dsimp -iota -proj only
  split
  · exact Only.refl _ _
  · split
    · split
      · refine Only.pair2 ?_
        refine Only.then ?_ (readError_only ..)
        refine Only.then ?_ (condRead_only ..)
        refine Only.then ?_ (eccRead_only' ‹eccRead .. = (_, _)›)
        exact Only.refl _ _
      · split
        · refine Only.pair2 ?_
          refine Only.then ?_ (eccRead_only' ‹eccRead .. = (_, _)›)
          exact Only.refl _ _
        · refine Only.pair2 ?_
          refine Only.then ?_ (eccRead_only' ‹eccRead .. = (_, _)›)
          exact Only.refl _ _
        · refine Only.pair2 ?_
          refine Only.then ?_ (eccRead_only' ‹eccRead .. = (_, _)›)
          exact Only.refl _ _
        · refine Only.pair2 ?_
          refine Only.then ?_ (readError_only ..)
          refine Only.then ?_ (condRead_only ..)
          refine Only.then ?_ (perfEv_only ..)
          refine Only.then ?_ (count_only ..)
          refine Only.then ?_ (eccRead_only' ‹eccRead .. = (_, _)›)
          exact Only.refl _ _
        · refine Only.pair2 ?_
          refine Only.then ?_ (readError_only ..)
          refine Only.then ?_ (perfEv_only ..)
          refine Only.then ?_ (count_only ..)
          refine Only.then ?_ (eccRead_only' ‹eccRead .. = (_, _)›)
          exact Only.refl _ _

theorem outSlot_only' {m q rowRead : Nat} {s : State} {x : SlotWord} {post : State} (h : outSlot m q rowRead s = (x, post)) : Only [.regs, .rc, .rc64, .mtest, .perf, .rings, .hostOut, .mgmtLog, .smb, .jnl, .log] s post := by
  have := outSlot_only m q rowRead s; rw [h] at this; exact this

theorem outRow_only (m r rowRead : Nat) (s : State) :
    Only [.regs, .rc, .rc64, .mtest, .perf, .rings, .hostOut, .mgmtLog, .smb, .jnl, .log] s (outRow m r rowRead s).2 := by
  unfold outRow
  try dsimp -iota -proj only
  refine Only.fold2 ?_ fun u x hu => ?_
  · exact Only.refl _ _
  · split
    · refine Only.pair2 ?_
      refine Only.then ?_ (outSlot_only' ‹outSlot .. = (_, _)›)
      assumption

theorem outRow_only' {m r rowRead : Nat} {s : State} {x : List SlotWord} {post : State} (h : outRow m r rowRead s = (x, post)) : Only [.regs, .rc, .rc64, .mtest, .perf, .rings, .hostOut, .mgmtLog, .smb, .jnl, .log] s post := by
  have := outRow_only m r rowRead s; rw [h] at this; exact this

theorem latchFlags_only (l : Nat) (s : State) :
    Only [.lanes] s (latchFlags l s) := by
  unfold latchFlags
  try dsimp -iota -proj only
  refine Only.then ?_ (setLane_only ..)
  exact Only.refl _ _

theorem sendRow_only (l row start : Nat) (ws : List SlotWord) (s : State) :
    Only [.lanes] s (sendRow l row start ws s) := by
  unfold sendRow
  try dsimp -iota -proj only
  split
  · refine Only.then ?_ (setLane_only ..)
    exact Only.refl _ _

theorem emitRow_only (l row start : Nat) (s : State) :
    Only [.regs, .rc, .rc64, .lanes, .mtest, .perf, .rings, .hostOut, .mgmtLog, .smb, .jnl, .log] s (emitRow l row start s) := by
  unfold emitRow
  try dsimp -iota -proj only
  refine Only.ite ?_ ?_
  · refine Only.then ?_ (sendRow_only ..)
    exact Only.refl _ _
  · split
    · refine Only.then ?_ (sendRow_only ..)
      refine Only.then ?_ (outRow_only' ‹outRow .. = (_, _)›)
      exact Only.refl _ _

theorem rowReadLane_only (m : Nat) (l : Nat) (s : State) :
    Only [.regs, .rc, .rc64, .lanes, .mtest, .perf, .rings, .hostOut, .mgmtLog, .smb, .jnl, .log] s (rowReadLane m l s) := by
  unfold rowReadLane
  try dsimp -iota -proj only
  refine Only.ite ?_ ?_
  · refine Only.cond ?_ fun u hu => ?_
    · exact Only.refl _ _
    · refine Only.then ?_ (latchFlags_only ..)
      assumption
  · refine Only.then ?_ (emitRow_only ..)
    refine Only.cond ?_ fun u hu => ?_
    · exact Only.refl _ _
    · refine Only.then ?_ (latchFlags_only ..)
      assumption

theorem beginCodewords_only (l start : Nat) (s : State) :
    Only [.free, .regs, .rc, .rc64, .lanes, .mtest, .perf, .rings, .hostOut, .mgmtLog, .smb, .jnl, .log] s (beginCodewords l start s) := by
  unfold beginCodewords
  try dsimp -iota -proj only
  split
  · refine Only.cond ?_ fun u hu => ?_
    · refine Only.then ?_ (setLane_only ..)
      refine Only.then ?_ (draw_only' ‹draw .. = (_, _)›)
      exact Only.refl _ _
    · refine Only.then ?_ (emitRow_only ..)
      assumption

end Sys2Proof.Laws
end

