-- ==== Sys2Proof/Laws/PagesFrame.lean ====
section
/-! SUPPORT. What the operations of Machine/Pages.lean leave as they are. -/

set_option Elab.async false

namespace Sys2Proof.Laws

open Sys2Proof Sys2Proof.Machine

theorem setScen_only (n : Nat) (x : Scenario) (s : State) :
    Only [.page] s (setScen n x s) := by
  unfold setScen
  refine Only.then ?_ (onPage_only ..)
  exact Only.refl _ _

theorem writeStandby_only (ps : PageSet) (s : State) :
    Only [.page] s (writeStandby ps s) := by
  unfold writeStandby
  refine Only.then ?_ (onPage_only ..)
  exact Only.refl _ _

theorem dropBatch_only (q : Nat) (s : State) :
    Only [.abacus] s (dropBatch q s) := by
  unfold dropBatch
  split
  · exact Only.refl _ _
  · refine Only.then ?_ (onAbacus_only ..)
    exact Only.refl _ _

theorem dropWork_only (w : PageWork) (s : State) :
    Only [.abacus] s (dropWork w s) := by
  unfold dropWork
  split
  · refine Only.then ?_ (dropBatch_only ..)
    exact Only.refl _ _
  · exact Only.refl _ _

theorem restoreFail_only (g : Nat) (s : State) :
    Only [.rc, .rings, .hostOut, .mgmtLog, .smb, .jnl, .log] s (restoreFail g s) := by
  unfold restoreFail
  refine Only.then ?_ (raise_only ..)
  exact Only.refl _ _

theorem bridgeFail_only (g : Nat) (s : State) :
    Only [.rc, .rings, .hostOut, .mgmtLog, .smb, .jnl, .log] s (bridgeFail g s) := by
  unfold bridgeFail
  refine Only.then ?_ (raise_only ..)
  refine Only.then ?_ (count_only ..)
  exact Only.refl _ _

theorem endRebuild_only (n : Nat) (s : State) :
    Only [.abacus] s (endRebuild n s) := by
  unfold endRebuild
  refine Only.ite ?_ ?_
  · refine Only.then ?_ (onAbacus_only ..)
    exact Only.refl _ _
  · exact Only.refl _ _

theorem startWork_only (w : PageWork) (s : State) :
    Only [.rc, .page, .abacus, .queues, .rings, .hostOut, .mgmtLog, .mgmt, .smb, .jnl, .log] s (startWork w s) := by
  unfold startWork
  try dsimp -iota -proj only
  split
  · refine Only.ite ?_ ?_
    · refine Only.then ?_ (onPage_only ..)
      refine Only.then ?_ (setScen_only ..)
      exact Only.refl _ _
    · refine Only.then ?_ (complete_only ..)
      exact Only.refl _ _
  · refine Only.ite ?_ ?_
    · refine Only.ite ?_ ?_
      · refine Only.then ?_ (onPage_only ..)
        refine Only.then ?_ (setScen_only ..)
        exact Only.refl _ _
      · refine Only.then ?_ (restoreFail_only ..)
        exact Only.refl _ _
    · refine Only.then ?_ (restoreFail_only ..)
      exact Only.refl _ _
  · refine Only.then ?_ (onPage_only ..)
    refine Only.then ?_ (setScen_only ..)
    refine Only.then ?_ (onPage_only ..)
    refine Only.then ?_ (endRebuild_only ..)
    exact Only.refl _ _
  · refine Only.then ?_ (onPage_only ..)
    refine Only.then ?_ (onAbacus_only ..)
    exact Only.refl _ _

theorem kick_only (fuel : Nat) (s : State) :
    Only [.rc, .page, .abacus, .queues, .rings, .hostOut, .mgmtLog, .mgmt, .smb, .jnl, .log] s (kick fuel s) := by
  induction fuel generalizing s with
  | zero => exact Only.refl _ _
  | succ n ih =>
    unfold kick
    refine Only.ite (Only.refl _ _) ?_
    split
    · exact Only.refl _ _
    · exact Only.then (Only.then (Only.mono (onPage_only ..)) (startWork_only ..)) (ih ..)

theorem kickAll_only (s : State) :
    Only [.rc, .page, .abacus, .queues, .rings, .hostOut, .mgmtLog, .mgmt, .smb, .jnl, .log] s (kickAll s) := by
  unfold kickAll
  refine Only.then ?_ (kick_only ..)
  exact Only.refl _ _

theorem dropSave_only (n : Nat) (s : State) :
    Only [.free, .page] s (dropSave n s) := by
  unfold dropSave
  try dsimp -iota -proj only
  split
  · refine Only.ite ?_ ?_
    · refine Only.then ?_ (setScen_only ..)
      refine Only.then ?_ (draw_only' ‹draw .. = (_, _)›)
      exact Only.refl _ _
    · refine Only.then ?_ (setScen_only ..)
      refine Only.then ?_ (draw_only' ‹draw .. = (_, _)›)
      exact Only.refl _ _

theorem preempt_only (s : State) :
    Only [.free, .rc, .page, .abacus, .perf, .queues, .rings, .hostOut, .mgmtLog, .mgmt, .smb, .jnl, .log] s (preempt s) := by
  unfold preempt
  try dsimp -iota -proj only
  split
  · exact Only.refl _ _
  · refine Only.ite ?_ ?_
    · exact Only.refl _ _
    · split
      · refine Only.ite ?_ ?_
        · refine Only.then ?_ (resync_only ..)
          refine Only.then ?_ (dropSave_only ..)
          refine Only.then ?_ (completeOpt_only ..)
          refine Only.then ?_ (perfEv_only ..)
          refine Only.then ?_ (count_only ..)
          exact Only.refl _ _
        · refine Only.then ?_ (onPage_only ..)
          refine Only.then ?_ (dropSave_only ..)
          refine Only.then ?_ (completeOpt_only ..)
          refine Only.then ?_ (perfEv_only ..)
          refine Only.then ?_ (count_only ..)
          exact Only.refl _ _
      · refine Only.then ?_ (resync_only ..)
        refine Only.then ?_ (setScen_only ..)
        refine Only.then ?_ (completeOpt_only ..)
        refine Only.then ?_ (perfEv_only ..)
        refine Only.then ?_ (count_only ..)
        exact Only.refl _ _
      · refine Only.then ?_ (resync_only ..)
        refine Only.then ?_ (dropWork_only ..)
        refine Only.then ?_ (completeOpt_only ..)
        refine Only.then ?_ (perfEv_only ..)
        refine Only.then ?_ (count_only ..)
        exact Only.refl _ _
      · refine Only.then ?_ (resync_only ..)
        refine Only.then ?_ (dropWork_only ..)
        refine Only.then ?_ (completeOpt_only ..)
        refine Only.then ?_ (perfEv_only ..)
        refine Only.then ?_ (count_only ..)
        exact Only.refl _ _
      · refine Only.ite ?_ ?_
        · exact Only.refl _ _
        · refine Only.then ?_ (resync_only ..)
          refine Only.then ?_ (dropWork_only ..)
          refine Only.then ?_ (completeOpt_only ..)
          refine Only.then ?_ (perfEv_only ..)
          refine Only.then ?_ (count_only ..)
          exact Only.refl _ _
      · exact Only.refl _ _

theorem request_only (w : PageWork) (s : State) :
    Only [.free, .rc, .page, .abacus, .mtest, .perf, .queues, .rings, .hostOut, .mgmtLog, .mgmt, .smb, .jnl, .log] s (request w s) := by
  unfold request
  try dsimp -iota -proj only
  refine Only.then ?_ (kickAll_only ..)
  refine Only.then ?_ (onPage_only ..)
  refine Only.ite ?_ ?_
  · refine Only.then ?_ (preempt_only ..)
    refine Only.then ?_ (abandonPageTest_only ..)
    exact Only.refl _ _
  · refine Only.then ?_ (abandonPageTest_only ..)
    exact Only.refl _ _

theorem armPage_only (w : PageWork) (waiter : Option Nat) (fallback : Nat) (carries : List Nat) (req : Option Nat)
    (s : State) :
    Only [.page, .abacus, .perf] s (armPage w waiter fallback carries req s) := by
  unfold armPage
  try dsimp -iota -proj only
  refine Only.then ?_ (perfEv_only ..)
  refine Only.then ?_ (jobEnds_only ..)
  refine Only.then ?_ (onPage_only ..)
  exact Only.refl _ _

theorem reportUsable_only (before : Nat) (s : State) :
    Only [.rc, .rings, .hostOut, .mgmtLog, .smb, .jnl, .log] s (reportUsable before s) := by
  unfold reportUsable
  try dsimp -iota -proj only
  refine Only.cond ?_ fun u hu => ?_
  · refine Only.cond ?_ fun u hu => ?_
    · exact Only.refl _ _
    · refine Only.then ?_ (raise_only ..)
      assumption
  · refine Only.then ?_ (raise_only ..)
    assumption

theorem setLent_only (ks : List Nat) (s : State) :
    Only [.rc, .abacus, .rings, .hostOut, .mgmtLog, .smb, .jnl, .log] s (setLent ks s) := by
  unfold setLent
  refine Only.then ?_ (reportUsable_only ..)
  refine Only.then ?_ (onAbacus_only ..)
  exact Only.refl _ _

theorem retireStep_only (k : Nat) (s : State) :
    Only [.rc, .core, .abacus, .rings, .hostOut, .mgmtLog, .smb, .jnl, .log] s (retireStep k s) := by
  unfold retireStep
  try dsimp -iota -proj only
  refine Only.then ?_ (reportUsable_only ..)
  refine Only.then ?_ (raise_only ..)
  refine Only.then ?_ (journal_only ..)
  refine Only.upd57 ?_
  exact Only.refl _ _

theorem retireSteps_only (s : State) :
    Only [.rc, .core, .abacus, .rings, .hostOut, .mgmtLog, .smb, .jnl, .log] s (retireSteps s) := by
  unfold retireSteps
  refine Only.all ?_ fun x u hu => ?_
  · exact Only.refl _ _
  · refine Only.then ?_ (retireStep_only ..)
    assumption

theorem swapRecords_only (w : PageWork) (x : Nat) (old m : CMap) (s : State) :
    Only [.jnl] s (swapRecords w x old m s) := by
  unfold swapRecords
  try dsimp -iota -proj only
  refine Only.upd29 ?_
  refine Only.then ?_ (journalAll_only ..)
  exact Only.refl _ _

theorem freshHistory_only (ns : List Nat) (s : State) :
    Only [.pm] s (freshHistory ns s) := by
  unfold freshHistory
  refine Only.upd41 ?_
  exact Only.refl _ _

theorem takeBridge_only (g : Nat) (s : State) :
    Only [.prot, .jnl] s (takeBridge g s) := by
  unfold takeBridge
  try dsimp -iota -proj only
  split
  · exact Only.refl _ _
  · refine Only.ite ?_ ?_
    · exact Only.refl _ _
    · refine Only.then ?_ (journal_only ..)
      refine Only.upd43 ?_
      exact Only.refl _ _

theorem swapEffect_only (w : PageWork) (x : Nat) (s : State) :
    Only [.page, .abacus, .prot, .jnl] s (swapEffect w x s) := by
  unfold swapEffect
  try dsimp -iota -proj only
  split
  · refine Only.then ?_ (dropBatch_only ..)
    exact Only.refl _ _
  · refine Only.ite ?_ ?_
    · exact Only.refl _ _
    · refine Only.then ?_ (onAbacus_only ..)
      exact Only.refl _ _
  · refine Only.then ?_ (takeBridge_only ..)
    exact Only.refl _ _
  · refine Only.all ?_ fun x u hu => ?_
    · refine Only.then ?_ (onPage_only ..)
      exact Only.refl _ _
    · refine Only.then ?_ (takeBridge_only ..)
      assumption
  · refine Only.all ?_ fun x u hu => ?_
    · refine Only.then ?_ (onPage_only ..)
      exact Only.refl _ _
    · refine Only.then ?_ (takeBridge_only ..)
      assumption
  · exact Only.refl _ _

theorem doSwap_only (x : Nat) (a : Armed) (s : State) :
    Only [.rc, .ports, .core, .page, .abacus, .prot, .pm, .perf, .queues, .rings, .hostOut, .mgmtLog, .mgmt, .smb, .jnl, .log] s (doSwap x a s) := by
  unfold doSwap
  try dsimp -iota -proj only
  split
  · refine Only.then ?_ (raise_only ..)
    refine Only.then ?_ (perfEv_only ..)
    refine Only.then ?_ (count_only ..)
    refine Only.then ?_ (swapEffect_only ..)
    refine Only.then ?_ (swapRecords_only ..)
    refine Only.upd9 ?_
    refine Only.then ?_ (retireSteps_only ..)
    refine Only.all ?_ fun x u hu => ?_
    · refine Only.then ?_ (freshHistory_only ..)
      refine Only.upd62 ?_
      exact Only.refl _ _
    · refine Only.then ?_ (rebindAtSwap_only ..)
      assumption
  · refine Only.then ?_ (completePersisted_only ..)
    refine Only.then ?_ (raise_only ..)
    refine Only.then ?_ (perfEv_only ..)
    refine Only.then ?_ (count_only ..)
    refine Only.then ?_ (swapEffect_only ..)
    refine Only.then ?_ (swapRecords_only ..)
    refine Only.upd9 ?_
    refine Only.then ?_ (retireSteps_only ..)
    refine Only.all ?_ fun x u hu => ?_
    · refine Only.then ?_ (freshHistory_only ..)
      refine Only.upd62 ?_
      exact Only.refl _ _
    · refine Only.then ?_ (rebindAtSwap_only ..)
      assumption

theorem pageTick_only (s : State) :
    Only [.page] s (pageTick s) := by
  unfold pageTick
  split
  · refine Only.ite ?_ ?_
    · refine Only.then ?_ (onPage_only ..)
      exact Only.refl _ _
    · exact Only.refl _ _
  · exact Only.refl _ _

theorem startRebuild_only (s : State) :
    Only [.page, .abacus] s (startRebuild s) := by
  unfold startRebuild
  try dsimp -iota -proj only
  refine Only.ite ?_ ?_
  · exact Only.refl _ _
  · split
    · exact Only.refl _ _
    · refine Only.then ?_ (onAbacus_only ..)
      refine Only.then ?_ (setScen_only ..)
      exact Only.refl _ _

end Sys2Proof.Laws
end

