-- ==== Sys2Proof/Laws/StringsFrame.lean ====
section
/-! SUPPORT. What the operations of Machine/Strings.lean leave as they are. -/

set_option Elab.async false

namespace Sys2Proof.Laws

open Sys2Proof Sys2Proof.Machine

theorem joinBatch_only (q : Nat) (c : StrCmd) (s : State) :
    Only [.rc, .abacus, .queues, .rings, .hostOut, .mgmtLog, .mgmt, .smb, .jnl, .log] s (joinBatch q c s) := by
  unfold joinBatch
  split
  · refine Only.then ?_ (complete_only ..)
    refine Only.then ?_ (onAbacus_only ..)
    exact Only.refl _ _
  · refine Only.ite ?_ ?_
    · refine Only.then ?_ (complete_only ..)
      exact Only.refl _ _
    · refine Only.then ?_ (complete_only ..)
      refine Only.then ?_ (onAbacus_only ..)
      exact Only.refl _ _

theorem stringCmd_only (q : Nat) (parse : State → Nat → Fetched → Parsed) (d : Fetched) (s : State) :
    Only [.free, .rc, .page, .abacus, .mtest, .perf, .queues, .rings, .hostOut, .mgmtLog, .mgmt, .smb, .jnl, .log] s (stringCmd q parse d s) := by
  unfold stringCmd
  try dsimp -iota -proj only
  split
  · refine Only.then ?_ (complete_only ..)
    exact Only.refl _ _
  · refine Only.ite ?_ ?_
    · refine Only.then ?_ (complete_only ..)
      exact Only.refl _ _
    · split
      · refine Only.then ?_ (complete_only ..)
        exact Only.refl _ _
      · refine Only.ite ?_ ?_
        · refine Only.then ?_ (joinBatch_only ..)
          exact Only.refl _ _
        · refine Only.then ?_ (request_only ..)
          refine Only.then ?_ (onAbacus_only ..)
          exact Only.refl _ _

end Sys2Proof.Laws
end

