-- ==== Sys2Proof/Laws/PageRowsFrame.lean ====
section
/-! SUPPORT. What the operations of Machine/PageRows.lean leave as they are. -/

set_option Elab.async false

namespace Sys2Proof.Laws

open Sys2Proof Sys2Proof.Machine

theorem resyncEcc_only (s : State) :
    Only [.regs, .rc, .mtest, .perf, .rings, .hostOut, .mgmtLog, .smb, .jnl, .log] s (resyncEcc s) := by
  unfold resyncEcc
  try dsimp -iota -proj only
  refine Only.ite ?_ ?_
  · exact Only.refl _ _
  · refine Only.ite ?_ ?_
    · refine Only.then ?_ (raise_only ..)
      refine Only.then ?_ (count_only ..)
      refine Only.then ?_ (eccRead_only ..)
      exact Only.refl _ _
    · refine Only.then ?_ (eccRead_only ..)
      exact Only.refl _ _

theorem built_only (p : Placing) (unplaced : List Nat) (s : State) :
    Only [.rc, .page, .abacus, .rings, .hostOut, .mgmtLog, .smb, .jnl, .log] s (built p unplaced s) := by
  unfold built
  try dsimp -iota -proj only
  refine Only.then ?_ (writeStandby_only ..)
  refine Only.then ?_ (onPage_only ..)
  refine Only.all ?_ fun x u hu => ?_
  · refine Only.then ?_ (onAbacus_only ..)
    refine Only.then ?_ (countN_only ..)
    refine Only.then ?_ (countN_only ..)
    exact Only.refl _ _
  · refine Only.then ?_ (raise_only ..)
    assumption

theorem takeRebinds_only (s : State) :
    Only [.page] s (takeRebinds s).2 := by
  unfold takeRebinds
  refine Only.pair2 ?_
  refine Only.then ?_ (onPage_only ..)
  exact Only.refl _ _

theorem takeRebinds_only' {s : State} {x : List Nat} {post : State} (h : takeRebinds s = (x, post)) : Only [.page] s post := by
  have := takeRebinds_only s; rw [h] at this; exact this

theorem armBatch_only (q atTick : Nat) (follow : Option (Nat × BitVec 8)) (stage : Bool) (fallback : Nat)
    (ports : List Nat) (s : State) :
    Only [.rc, .page, .abacus, .perf, .queues, .rings, .hostOut, .mgmtLog, .mgmt, .smb, .jnl, .log] s (armBatch q atTick follow stage fallback ports s) := by
  unfold armBatch
  try dsimp -iota -proj only
  refine Only.ite ?_ ?_
  · refine Only.then ?_ (complete_only ..)
    refine Only.then ?_ (jobEnds_only ..)
    refine Only.then ?_ (onPage_only ..)
    exact Only.refl _ _
  · split
    · refine Only.then ?_ (complete_only ..)
      refine Only.then ?_ (armPage_only ..)
      refine Only.then ?_ (onPage_only ..)
      refine Only.then ?_ (count_only ..)
      exact Only.refl _ _
    · refine Only.then ?_ (armPage_only ..)
      refine Only.then ?_ (onPage_only ..)
      refine Only.then ?_ (count_only ..)
      exact Only.refl _ _

theorem noPlacement_only (q : Nat) (w : PageWork) (e : NoPlace) (s : State) :
    Only [.rc, .page, .abacus, .queues, .rings, .hostOut, .mgmtLog, .mgmt, .smb, .jnl, .log] s (noPlacement q w e s) := by
  unfold noPlacement
  refine Only.then ?_ (complete_only ..)
  refine Only.then ?_ (resync_only ..)
  refine Only.then ?_ (dropWork_only ..)
  refine Only.then ?_ (count_only ..)
  exact Only.refl _ _

theorem placeBatch_only (q atTick : Nat) (follow : Option (Nat × BitVec 8)) (stage : Bool) (s : State) :
    Only [.free, .rc, .page, .abacus, .perf, .queues, .rings, .hostOut, .mgmtLog, .mgmt, .smb, .jnl, .log] s (placeBatch q atTick follow stage s) := by
  unfold placeBatch
  try dsimp -iota -proj only
  split
  · split
    · refine Only.then ?_ (complete_only ..)
      refine Only.then ?_ (resync_only ..)
      refine Only.then ?_ (dropWork_only ..)
      refine Only.then ?_ (count_only ..)
      refine Only.then ?_ (draw_only' ‹draw .. = (_, _)›)
      exact Only.refl _ _
    · split
      · refine Only.then ?_ (armBatch_only ..)
        refine Only.then ?_ (built_only ..)
        refine Only.then ?_ (draw_only' ‹draw .. = (_, _)›)
        exact Only.refl _ _
      · refine Only.ite ?_ ?_
        · refine Only.then ?_ (onAbacus_only ..)
          refine Only.then ?_ (draw_only' ‹draw .. = (_, _)›)
          exact Only.refl _ _
        · refine Only.then ?_ (noPlacement_only ..)
          refine Only.then ?_ (draw_only' ‹draw .. = (_, _)›)
          exact Only.refl _ _

theorem placeRebind_only (s : State) :
    Only [.free, .rc, .page, .abacus, .perf, .rings, .hostOut, .mgmtLog, .smb, .jnl, .log] s (placeRebind s) := by
  unfold placeRebind
  try dsimp -iota -proj only
  split
  · split
    · refine Only.then ?_ (armPage_only ..)
      refine Only.then ?_ (built_only ..)
      refine Only.then ?_ (draw_only' ‹draw .. = (_, _)›)
      refine Only.then ?_ (takeRebinds_only' ‹takeRebinds .. = (_, _)›)
      exact Only.refl _ _

theorem placeVacate_only (k : Nat) (s : State) :
    Only [.free, .rc, .page, .abacus, .perf, .rings, .hostOut, .mgmtLog, .smb, .jnl, .log] s (placeVacate k s) := by
  unfold placeVacate
  try dsimp -iota -proj only
  split
  · split
    · refine Only.then ?_ (armPage_only ..)
      refine Only.then ?_ (built_only ..)
      refine Only.then ?_ (onPage_only ..)
      refine Only.then ?_ (draw_only' ‹draw .. = (_, _)›)
      exact Only.refl _ _
    · refine Only.ite ?_ ?_
      · refine Only.then ?_ (onAbacus_only ..)
        refine Only.then ?_ (draw_only' ‹draw .. = (_, _)›)
        exact Only.refl _ _
      · refine Only.then ?_ (resync_only ..)
        refine Only.then ?_ (draw_only' ‹draw .. = (_, _)›)
        exact Only.refl _ _

theorem recallLent_only (m : CMap) (s : State) :
    Only [.rc, .abacus, .mtest] s (recallLent m s) := by
  unfold recallLent
  try dsimp -iota -proj only
  refine Only.ite ?_ ?_
  · exact Only.refl _ _
  · refine Only.then ?_ (countN_only ..)
    refine Only.then ?_ (countN_only ..)
    refine Only.upd54 ?_
    exact Only.refl _ _

theorem placeBridge_only (g sig : Nat) (s : State) :
    Only [.free, .rc, .page, .abacus, .mtest, .perf, .rings, .hostOut, .mgmtLog, .smb, .jnl, .log] s (placeBridge g sig s) := by
  unfold placeBridge
  try dsimp -iota -proj only
  split
  · split
    · refine Only.then ?_ (armPage_only ..)
      refine Only.then ?_ (built_only ..)
      refine Only.then ?_ (onPage_only ..)
      refine Only.then ?_ (draw_only' ‹draw .. = (_, _)›)
      exact Only.refl _ _
    · split
      · refine Only.then ?_ (armPage_only ..)
        refine Only.then ?_ (built_only ..)
        refine Only.then ?_ (onPage_only ..)
        refine Only.then ?_ (recallLent_only ..)
        refine Only.then ?_ (draw_only' ‹draw .. = (_, _)›)
        exact Only.refl _ _
      · refine Only.then ?_ (bridgeFail_only ..)
        refine Only.then ?_ (resync_only ..)
        refine Only.then ?_ (draw_only' ‹draw .. = (_, _)›)
        exact Only.refl _ _

theorem placeFirst_only (s : State) :
    Only [.free, .rc, .page, .abacus, .perf, .rings, .hostOut, .mgmtLog, .smb, .jnl, .log] s (placeFirst s) := by
  unfold placeFirst
  try dsimp -iota -proj only
  split
  · refine Only.then ?_ (armPage_only ..)
    refine Only.then ?_ (built_only ..)
    refine Only.then ?_ (onPage_only ..)
    refine Only.all ?_ fun x u hu => ?_
    · refine Only.then ?_ (draw_only' ‹draw .. = (_, _)›)
      exact Only.refl _ _
    · refine Only.then ?_ (raise_only ..)
      assumption

theorem repacked_only (q : Nat) (w : PageWork) (v : PlaceEnv) (pick : Nat) (ports : List Nat) (cmds : Option (List StrCmd))
    (p : Placing) (colours : Option (List (Nat × Nat))) (lent : NoPlace → NoPlace) (s : State) :
    Only [.rc, .page, .abacus, .perf, .queues, .rings, .hostOut, .mgmtLog, .mgmt, .smb, .jnl, .log] s (repacked q w v pick ports cmds p colours lent s) := by
  unfold repacked
  try dsimp -iota -proj only
  split
  · refine Only.ite ?_ ?_
    · exact Only.refl _ _
    · refine Only.then ?_ (noPlacement_only ..)
      exact Only.refl _ _
  · refine Only.ite ?_ ?_
    · exact Only.refl _ _
    · split
      · refine Only.then ?_ (noPlacement_only ..)
        exact Only.refl _ _
      · split
        · refine Only.then ?_ (armBatch_only ..)
          refine Only.then ?_ (count_only ..)
          refine Only.then ?_ (built_only ..)
          exact Only.refl _ _
        · refine Only.then ?_ (armPage_only ..)
          refine Only.then ?_ (onPage_only ..)
          refine Only.then ?_ (count_only ..)
          refine Only.then ?_ (built_only ..)
          exact Only.refl _ _

theorem repackVacate_only (k : Nat) (v : PlaceEnv) (pick : Nat) (p : Placing) (colours : Option (List (Nat × Nat)))
    (s : State) :
    Only [.rc, .page, .abacus, .perf, .rings, .hostOut, .mgmtLog, .smb, .jnl, .log] s (repackVacate k v pick p colours s) := by
  unfold repackVacate
  try dsimp -iota -proj only
  split
  · refine Only.ite ?_ ?_
    · exact Only.refl _ _
    · refine Only.then ?_ (raise_only ..)
      refine Only.then ?_ (resync_only ..)
      exact Only.refl _ _
  · refine Only.ite ?_ ?_
    · exact Only.refl _ _
    · split
      · refine Only.then ?_ (raise_only ..)
        refine Only.then ?_ (resync_only ..)
        exact Only.refl _ _
      · refine Only.ite ?_ ?_
        · refine Only.then ?_ (raise_only ..)
          refine Only.then ?_ (resync_only ..)
          exact Only.refl _ _
        · refine Only.then ?_ (armPage_only ..)
          refine Only.then ?_ (onPage_only ..)
          refine Only.then ?_ (count_only ..)
          refine Only.then ?_ (built_only ..)
          exact Only.refl _ _

theorem loadFails_only (n cause : Nat) (s : State) :
    Only [.page, .abacus] s (loadFails n cause s) := by
  unfold loadFails
  refine Only.then ?_ (resync_only ..)
  refine Only.then ?_ (setScen_only ..)
  exact Only.refl _ _

theorem loadPasses_only (n : Nat) (s : State) :
    Only [.page, .perf] s (loadPasses n s) := by
  unfold loadPasses
  try dsimp -iota -proj only
  refine Only.then ?_ (perfEv_only ..)
  refine Only.then ?_ (writeStandby_only ..)
  refine Only.then ?_ (onPage_only ..)
  refine Only.then ?_ (setScen_only ..)
  exact Only.refl _ _

end Sys2Proof.Laws
end

