-- ==== Sys2Proof/Laws/RegMapFrame.lean ====
section
/-! SUPPORT. What the operations of Machine/RegMap.lean leave as they are. -/

set_option Elab.async false

namespace Sys2Proof.Laws

open Sys2Proof Sys2Proof.Machine

theorem putReg_only (o : Nat) (v : Word) (mask : Nat) (s : State) :
    Only [.regs] s (putReg o v mask s) := by
  unfold putReg
  refine Only.then ?_ (setReg_only ..)
  exact Only.refl _ _

end Sys2Proof.Laws
end

