-- ==== Sys2Proof/Laws/PerfFrame.lean ====
section
/-! SUPPORT. What the operations of Machine/Perf.lean leave as they are. -/

set_option Elab.async false

namespace Sys2Proof.Laws

open Sys2Proof Sys2Proof.Machine

theorem setEng_only (e : Nat) (x : Eng) (s : State) :
    Only [.eng] s (setEng e x s) := by
  unfold setEng
  refine Only.upd10 ?_
  exact Only.refl _ _

theorem engineEvs_only (e : Nat) (xs : List EngOccur) (s : State) :
    Only [.perf] s (engineEvs e xs s) := by
  unfold engineEvs
  try dsimp -iota -proj only
  refine Only.upd40 ?_
  exact Only.refl _ _

theorem engineEv_only (e cls ev n : Nat) (kernel : Bool) (place : Option (Nat × Nat)) (s : State) :
    Only [.perf] s (engineEv e cls ev n kernel place s) := by
  unfold engineEv
  refine Only.then ?_ (engineEvs_only ..)
  exact Only.refl _ _

theorem bankEvs_only (ev n : Nat) (m : Master) (kernel : Bool) (place : Option (Nat × Nat)) (s : State) :
    Only [.perf] s (bankEvs ev n m kernel place s) := by
  unfold bankEvs
  try dsimp -iota -proj only
  refine Only.upd40 ?_
  exact Only.refl _ _

theorem bankEv_only (ev : Nat) (m : Master) (kernel : Bool) (place : Option (Nat × Nat)) (s : State) :
    Only [.perf] s (bankEv ev m kernel place s) := by
  unfold bankEv
  refine Only.then ?_ (bankEvs_only ..)
  exact Only.refl _ _

theorem engineRun_only (t n e : Nat) (s : State) :
    Only [.eng, .perf] s (engineRun t n e s) := by
  unfold engineRun
  try dsimp -iota -proj only
  refine Only.ite ?_ ?_
  · refine Only.then ?_ (setEng_only ..)
    refine Only.then ?_ (engineEvs_only ..)
    exact Only.refl _ _
  · refine Only.upd40 ?_
    refine Only.then ?_ (setEng_only ..)
    refine Only.then ?_ (engineEvs_only ..)
    exact Only.refl _ _

theorem runEngines_only (tick c : Nat) (s : State) :
    Only [.eng, .perf] s (runEngines tick c s) := by
  unfold runEngines
  try dsimp -iota -proj only
  refine Only.upd40 ?_
  refine Only.ite ?_ ?_
  · exact Only.refl _ _
  · refine Only.all ?_ fun x u hu => ?_
    · exact Only.refl _ _
    · refine Only.then ?_ (engineRun_only ..)
      assumption

theorem perfCatch_only (s : State) :
    Only [.eng, .perf] s (perfCatch s) := by
  unfold perfCatch
  refine Only.then ?_ (runEngines_only ..)
  exact Only.refl _ _

theorem perfThrough_only (s : State) :
    Only [.eng, .perf] s (perfThrough s) := by
  unfold perfThrough
  refine Only.then ?_ (runEngines_only ..)
  exact Only.refl _ _

theorem keepSel_only (off : Nat) (s : State) :
    Only [.perf] s (keepSel off s) := by
  unfold keepSel
  refine Only.upd40 ?_
  exact Only.refl _ _

theorem engineTick_only (ended e : Nat) (s : State) :
    Only [.eng, .perf] s (engineTick ended e s) := by
  unfold engineTick
  try dsimp -iota -proj only
  refine Only.then ?_ (setEng_only ..)
  refine Only.cond ?_ fun u hu => ?_
  · exact Only.refl _ _
  · refine Only.then ?_ (engineEv_only ..)
    assumption

theorem enginesDone_only (ended : Nat) (s : State) :
    Only [.eng, .perf] s (enginesDone ended s) := by
  unfold enginesDone
  try dsimp -iota -proj only
  refine Only.upd40 ?_
  refine Only.all ?_ fun x u hu => ?_
  · refine Only.then ?_ (runEngines_only ..)
    exact Only.refl _ _
  · refine Only.then ?_ (engineTick_only ..)
    assumption

theorem shadowCopy_only (t : Nat) (s : State) :
    Only [.regs, .perf] s (shadowCopy t s) := by
  unfold shadowCopy
  try dsimp -iota -proj only
  refine Only.ite ?_ ?_
  · refine Only.then ?_ (setReg_only ..)
    refine Only.upd40 ?_
    exact Only.refl _ _
  · refine Only.upd40 ?_
    exact Only.refl _ _

theorem overflowEvent_only (i : Nat) (s : State) :
    Only [.rc, .perf, .rings, .hostOut, .mgmtLog, .smb, .jnl, .log] s (overflowEvent i s) := by
  unfold overflowEvent
  refine Only.ite ?_ ?_
  · refine Only.then ?_ (raise_only ..)
    refine Only.upd40 ?_
    exact Only.refl _ _
  · exact Only.refl _ _

theorem flushWraps_only (ended : Nat) (s : State) :
    Only [.tick, .rc, .perf, .rings, .hostOut, .mgmtLog, .smb, .jnl, .log] s (flushWraps ended s) := by
  unfold flushWraps
  try dsimp -iota -proj only
  refine Only.upd40 ?_
  refine Only.upd52 ?_
  refine Only.all ?_ fun x u hu => ?_
  · refine Only.upd52 ?_
    exact Only.refl _ _
  · refine Only.then ?_ (overflowEvent_only ..)
    assumption

end Sys2Proof.Laws
end

