-- ==== Sys2Proof/Laws/BanksFrame.lean ====
section
/-! SUPPORT. What the operations of Machine/Banks.lean leave as they are. -/

set_option Elab.async false

namespace Sys2Proof.Laws

open Sys2Proof Sys2Proof.Machine

theorem setBank_only (b : Nat) (x : Bank) (s : State) :
    Only [.bank] s (setBank b x s) := by
  unfold setBank
  refine Only.upd5 ?_
  exact Only.refl _ _

theorem setBankWord_only (b w : Nat) (v : DWord) (s : State) :
    Only [.sram] s (setBankWord b w v s) := by
  unfold setBankWord
  refine Only.upd4 ?_
  exact Only.refl _ _

theorem zeroBank_only (b : Nat) (s : State) :
    Only [.sram] s (zeroBank b s) := by
  unfold zeroBank
  refine Only.upd3 ?_
  exact Only.refl _ _

theorem scrambleBank_only (b : Nat) (s : State) :
    Only [.sram] s (scrambleBank b s) := by
  unfold scrambleBank
  refine Only.upd2 ?_
  exact Only.refl _ _

theorem answer_only (r : BankReq) (e : BankEnd) (s : State) :
    Only [.bank] s (answer r e s) := by
  unfold answer
  refine Only.upd1 ?_
  exact Only.refl _ _

theorem refused_only (cause b who code : Nat) (portB kernel : Bool) (place : Option (Nat × Nat)) (s : State) :
    Only [.rc, .perf, .rings, .hostOut, .mgmtLog, .smb, .jnl, .log] s (refused cause b who code portB kernel place s) := by
  unfold refused
  try dsimp -iota -proj only
  refine Only.ite ?_ ?_
  · refine Only.then ?_ (raise_only ..)
    refine Only.then ?_ (bankEv_only ..)
    refine Only.then ?_ (count_only ..)
    refine Only.then ?_ (rcSet_only ..)
    exact Only.refl _ _
  · refine Only.then ?_ (engineEvs_only ..)
    refine Only.then ?_ (raise_only ..)
    refine Only.then ?_ (bankEv_only ..)
    refine Only.then ?_ (count_only ..)
    refine Only.then ?_ (rcSet_only ..)
    exact Only.refl _ _

theorem stall_only (r : BankReq) (s : State) :
    Only [.bank] s (stall r s) := by
  unfold stall
  refine Only.upd6 ?_
  exact Only.refl _ _

theorem recallStall_only (r : BankReq) (s : State) :
    Only [.bank] s (recallStall r s) := by
  unfold recallStall
  refine Only.then ?_ (answer_only ..)
  refine Only.then ?_ (stall_only ..)
  exact Only.refl _ _

theorem stallOver_only (x : BankReq × Nat) (s : State) :
    Only [.eng, .perf] s (stallOver x s) := by
  unfold stallOver
  try dsimp -iota -proj only
  split
  · refine Only.ite ?_ ?_
    · refine Only.then ?_ (bankEvs_only ..)
      exact Only.refl _ _
    · refine Only.then ?_ (setEng_only ..)
      refine Only.then ?_ (engineEv_only ..)
      refine Only.then ?_ (bankEvs_only ..)
      exact Only.refl _ _

theorem sortOut_only (acc : List BankReq × State) (r : BankReq) :
    Only [.rc, .bank, .perf, .rings, .hostOut, .mgmtLog, .smb, .jnl, .log] acc.2 (sortOut acc r).2 := by
  obtain ⟨ok, s⟩ := acc
  unfold sortOut
  split
  rename_i h
  obtain ⟨rfl, rfl⟩ := Prod.mk.inj h
  split
  · exact Only.refl _ _
  · exact Only.then (Only.then (Only.refl _ _) (refused_only ..)) (answer_only ..)
  · exact Only.then (Only.refl _ _) (recallStall_only ..)
  · exact Only.then (Only.then (Only.then (Only.then (Only.refl _ _) (bankEv_only ..)) (count_only ..))
      (setBank_only ..)) (recallStall_only ..)

theorem conflictStall_only (r : BankReq) (s : State) :
    Only [.eng, .bank, .perf] s (conflictStall r s) := by
  unfold conflictStall
  try dsimp -iota -proj only
  refine Only.ite ?_ ?_
  · refine Only.then ?_ (answer_only ..)
    refine Only.then ?_ (stall_only ..)
    refine Only.then ?_ (bankEv_only ..)
    exact Only.refl _ _
  · refine Only.then ?_ (setEng_only ..)
    refine Only.then ?_ (engineEv_only ..)
    refine Only.then ?_ (answer_only ..)
    refine Only.then ?_ (stall_only ..)
    refine Only.then ?_ (bankEv_only ..)
    exact Only.refl _ _

theorem targeted_only (b row : Nat) (s : State) :
    Only [.rc, .mtest, .rings, .hostOut, .mgmtLog, .smb, .jnl, .log] s (targeted b row s) := by
  unfold targeted
  refine Only.ite ?_ ?_
  · refine Only.ite ?_ ?_
    · exact Only.refl _ _
    · refine Only.upd36 ?_
      exact Only.refl _ _
  · refine Only.then ?_ (raise_only ..)
    refine Only.ite ?_ ?_
    · exact Only.refl _ _
    · refine Only.upd36 ?_
      exact Only.refl _ _

theorem eccSeen_only (r : BankReq) (s : State) :
    Only [.rc, .bank, .mtest, .rings, .hostOut, .mgmtLog, .smb, .jnl, .log] s (eccSeen r s) := by
  unfold eccSeen
  try dsimp -iota -proj only
  refine Only.ite ?_ ?_
  · exact Only.refl _ _
  · refine Only.ite ?_ ?_
    · refine Only.then ?_ (targeted_only ..)
      refine Only.then ?_ (raise_only ..)
      refine Only.then ?_ (count_only ..)
      exact Only.refl _ _
    · refine Only.ite ?_ ?_
      · refine Only.then ?_ (targeted_only ..)
        refine Only.then ?_ (setBank_only ..)
        refine Only.then ?_ (count_only ..)
        exact Only.refl _ _
      · refine Only.then ?_ (setBank_only ..)
        refine Only.then ?_ (count_only ..)
        exact Only.refl _ _

theorem countGrant_only (r : BankReq) (s : State) :
    Only [.bank, .perf] s (countGrant r s) := by
  unfold countGrant
  try dsimp -iota -proj only
  refine Only.ite ?_ ?_
  · refine Only.then ?_ (bankEv_only ..)
    refine Only.ite ?_ ?_
    · refine Only.then ?_ (bankEv_only ..)
      refine Only.ite ?_ ?_
      · refine Only.then ?_ (setBank_only ..)
        exact Only.refl _ _
      · exact Only.refl _ _
    · refine Only.then ?_ (engineEv_only ..)
      refine Only.then ?_ (bankEv_only ..)
      refine Only.ite ?_ ?_
      · refine Only.then ?_ (setBank_only ..)
        exact Only.refl _ _
      · exact Only.refl _ _
  · refine Only.then ?_ (engineEv_only ..)
    refine Only.then ?_ (bankEv_only ..)
    refine Only.ite ?_ ?_
    · refine Only.then ?_ (bankEv_only ..)
      refine Only.ite ?_ ?_
      · refine Only.then ?_ (setBank_only ..)
        exact Only.refl _ _
      · exact Only.refl _ _
    · refine Only.then ?_ (engineEv_only ..)
      refine Only.then ?_ (bankEv_only ..)
      refine Only.ite ?_ ?_
      · refine Only.then ?_ (setBank_only ..)
        exact Only.refl _ _
      · exact Only.refl _ _

theorem serve1_only (s0 : State) (r : BankReq) (s : State) :
    Only [.rc, .bank, .sram, .mtest, .perf, .rings, .hostOut, .mgmtLog, .smb, .jnl, .log] s (serve1 s0 r s) := by
  unfold serve1
  try dsimp -iota -proj only
  refine Only.ite ?_ ?_
  · refine Only.then ?_ (answer_only ..)
    refine Only.ite ?_ ?_
    · refine Only.then ?_ (eccSeen_only ..)
      refine Only.then ?_ (countGrant_only ..)
      exact Only.refl _ _
    · refine Only.then ?_ (engineEv_only ..)
      refine Only.then ?_ (eccSeen_only ..)
      refine Only.then ?_ (countGrant_only ..)
      exact Only.refl _ _
  · refine Only.then ?_ (answer_only ..)
    refine Only.ite ?_ ?_
    · refine Only.then ?_ (setBankWord_only ..)
      refine Only.then ?_ (eccSeen_only ..)
      refine Only.then ?_ (countGrant_only ..)
      exact Only.refl _ _
    · refine Only.then ?_ (eccSeen_only ..)
      refine Only.then ?_ (countGrant_only ..)
      exact Only.refl _ _

theorem meetsWord_only (a b : Option BankReq) (s : State) :
    Only [.eng] s (meetsWord a b s) := by
  unfold meetsWord
  split
  · refine Only.ite ?_ ?_
    · refine Only.then ?_ (setEng_only ..)
      exact Only.refl _ _
    · exact Only.refl _ _
  · exact Only.refl _ _

theorem serveBank_only (s0 : State) (a b : Option BankReq) (s : State) :
    Only [.rc, .eng, .bank, .sram, .mtest, .perf, .rings, .hostOut, .mgmtLog, .smb, .jnl, .log] s (serveBank s0 a b s) := by
  unfold serveBank
  try dsimp -iota -proj only
  split
  · split
    · refine Only.then ?_ (serve1_only ..)
      refine Only.then ?_ (meetsWord_only ..)
      exact Only.refl _ _
    · refine Only.then ?_ (meetsWord_only ..)
      exact Only.refl _ _
  · refine Only.ite ?_ ?_
    · refine Only.then ?_ (answer_only ..)
      refine Only.then ?_ (bankEv_only ..)
      refine Only.then ?_ (rcSet_only ..)
      refine Only.then ?_ (count_only ..)
      refine Only.then ?_ (countGrant_only ..)
      split
      · refine Only.then ?_ (serve1_only ..)
        refine Only.then ?_ (meetsWord_only ..)
        exact Only.refl _ _
      · refine Only.then ?_ (meetsWord_only ..)
        exact Only.refl _ _
    · refine Only.then ?_ (serve1_only ..)
      split
      · refine Only.then ?_ (serve1_only ..)
        refine Only.then ?_ (meetsWord_only ..)
        exact Only.refl _ _
      · refine Only.then ?_ (meetsWord_only ..)
        exact Only.refl _ _

theorem accessStep_only (rs : List BankReq) (s : State) :
    Only [.rc, .eng, .bank, .sram, .mtest, .perf, .rings, .hostOut, .mgmtLog, .smb, .jnl, .log] s (accessStep rs s) := by
  unfold accessStep
  dsimp -iota -proj only
  refine Only.all (Only.all ?_ fun x u hu => ?_) fun x u hu => ?_
  · exact Only.fold2 (Only.refl _ _) fun u x hu => Only.then hu (sortOut_only ..)
  · exact Only.then hu (serveBank_only ..)
  · exact Only.then hu (conflictStall_only ..)

theorem takeRetries_only (s : State) :
    Only [.bank] s (takeRetries s) := by
  unfold takeRetries
  refine Only.upd6 ?_
  exact Only.refl _ _

theorem drain_only (n : Nat) (s : State) : Only [.rc, .eng, .bank, .sram, .mtest, .perf, .rings, .hostOut, .mgmtLog, .smb, .jnl, .log] s (drain n s) := by
  induction n generalizing s with
  | zero => exact Only.refl _ _
  | succ n ih =>
    unfold drain
    exact Only.ite (Only.refl _ _)
      (Only.then (Only.then (Only.mono (takeRetries_only ..)) (accessStep_only ..)) (ih ..))

theorem bankRun_only (b code row rows reads writes : Nat) (s : State) :
    Only [.perf] s (bankRun b code row rows reads writes s) := by
  unfold bankRun
  refine Only.ite ?_ ?_
  · exact Only.refl _ _
  · refine Only.all ?_ fun x u hu => ?_
    · exact Only.refl _ _
    · refine Only.then ?_ (bankEvs_only ..)
      refine Only.then ?_ (bankEvs_only ..)
      refine Only.then ?_ (bankEvs_only ..)
      assumption

theorem windowOwner_only (b owner : Nat) (s : State) :
    Only [.sec] s (windowOwner b owner s) := by
  unfold windowOwner
  refine Only.ite ?_ ?_
  · exact Only.refl _ _
  · refine Only.then ?_ (setWindow_only ..)
    exact Only.refl _ _

theorem handOver_only (b owner : Nat) (s : State) :
    Only [.rc, .bank, .perf, .sec] s (handOver b owner s) := by
  unfold handOver
  refine Only.then ?_ (windowOwner_only ..)
  refine Only.then ?_ (bankEv_only ..)
  refine Only.then ?_ (count_only ..)
  refine Only.then ?_ (setBank_only ..)
  exact Only.refl _ _

theorem endRelease_only (b st : Nat) (s : State) :
    Only [.rc, .abacus, .bank, .queues, .rings, .hostOut, .mgmtLog, .mgmt, .smb, .jnl, .log] s (endRelease b st s) := by
  unfold endRelease
  try dsimp -iota -proj only
  refine Only.then ?_ (completeOpt_only ..)
  refine Only.then ?_ (setBank_only ..)
  exact Only.refl _ _

theorem allocateBanks_only (s : State) :
    Only [.bank] s (allocateBanks s) := by
  unfold allocateBanks
  try dsimp -iota -proj only
  refine Only.all ?_ fun x u hu => ?_
  · exact Only.refl _ _
  · refine Only.ite ?_ ?_
    · assumption
    · refine Only.then ?_ (setBank_only ..)
      assumption

theorem reallocateBanks_only (s : State) :
    Only [.rc, .abacus, .bank, .perf, .queues, .rings, .hostOut, .sec, .mgmtLog, .mgmt, .smb, .jnl, .log] s (reallocateBanks s) := by
  unfold reallocateBanks
  try dsimp -iota -proj only
  refine Only.all ?_ fun x u hu => ?_
  · exact Only.refl _ _
  · refine Only.ite ?_ ?_
    · assumption
    · refine Only.ite ?_ ?_
      · refine Only.then ?_ (setBank_only ..)
        assumption
      · refine Only.then ?_ (handOver_only ..)
        refine Only.then ?_ (endRelease_only ..)
        assumption

end Sys2Proof.Laws
end

