-- ==== Sys2Proof/Laws/CipherFrame.lean ====
section
/-! SUPPORT. What the operations of Machine/Cipher.lean leave as they are. -/

set_option Elab.async false

namespace Sys2Proof.Laws

open Sys2Proof Sys2Proof.Machine

theorem genMismatch_only (q : Nat) (s : State) :
    Only [.rc, .abacus, .queues, .rings, .hostOut, .mgmtLog, .mgmt, .smb, .jnl, .log] s (genMismatch q s) := by
  unfold genMismatch
  refine Only.then ?_ (complete_only ..)
  refine Only.then ?_ (count_only ..)
  exact Only.refl _ _

theorem blobFails_only (q : Nat) (s : State) :
    Only [.rc, .abacus, .queues, .rings, .hostOut, .mgmtLog, .mgmt, .smb, .jnl, .log] s (blobFails q s) := by
  unfold blobFails
  refine Only.then ?_ (complete_only ..)
  refine Only.then ?_ (count_only ..)
  exact Only.refl _ _

theorem startUnwrap_only (q k expect : Nat) (b : Bytes) (s : State) :
    Only [.rc, .abacus, .queues, .rings, .hostOut, .sec, .mgmtLog, .mgmt, .smb, .jnl, .log] s (startUnwrap q k expect b s) := by
  unfold startUnwrap
  try dsimp -iota -proj only
  refine Only.ite ?_ ?_
  · refine Only.then ?_ (complete_only ..)
    exact Only.refl _ _
  · refine Only.ite ?_ ?_
    · refine Only.then ?_ (genMismatch_only ..)
      exact Only.refl _ _
    · refine Only.ite ?_ ?_
      · refine Only.then ?_ (complete_only ..)
        exact Only.refl _ _
      · refine Only.ite ?_ ?_
        · refine Only.then ?_ (blobFails_only ..)
          exact Only.refl _ _
        · refine Only.then ?_ (waitDp_only ..)
          refine Only.then ?_ (setKeySlot_only ..)
          exact Only.refl _ _

theorem refuseOp_only (q : Nat) (r : Answer) (s : State) :
    Only [.rc, .abacus, .queues, .rings, .hostOut, .mgmtLog, .mgmt, .smb, .jnl, .log] s (refuseOp q r s) := by
  unfold refuseOp
  refine Only.ite ?_ ?_
  · refine Only.then ?_ (genMismatch_only ..)
    exact Only.refl _ _
  · refine Only.then ?_ (complete_only ..)
    exact Only.refl _ _

theorem startDp_only (d : Nat) (x : DpRun) (s : State) :
    Only [.rc64, .sec] s (startDp d x s) := by
  unfold startDp
  try dsimp -iota -proj only
  split
  · refine Only.upd48 ?_
    exact Only.refl _ _
  · refine Only.then ?_ (opStarts_only ..)
    refine Only.upd48 ?_
    exact Only.refl _ _

theorem windowRun_only (d n reads writes : Nat) (s : State) :
    Only [.perf] s (windowRun d n reads writes s) := by
  unfold windowRun
  try dsimp -iota -proj only
  refine Only.then ?_ (bankRun_only ..)
  refine Only.then ?_ (bankRun_only ..)
  exact Only.refl _ _

theorem fillWindow_only (d : Nat) (pt : Bytes) (s : State) :
    Only [.sram, .perf] s (fillWindow d pt s) := by
  unfold fillWindow
  refine Only.all ?_ fun x u hu => ?_
  · refine Only.then ?_ (windowRun_only ..)
    exact Only.refl _ _
  · refine Only.then ?_ (setBankWord_only ..)
    assumption

theorem stirWindow_only (d : Nat) (s : State) :
    Only [.sram] s (stirWindow d s) := by
  unfold stirWindow
  refine Only.then ?_ (scrambleBank_only ..)
  exact Only.refl _ _

theorem dropWindow_only (d : Nat) (s : State) :
    Only [.sec] s (dropWindow d s) := by
  unfold dropWindow
  refine Only.then ?_ (setWindow_only ..)
  exact Only.refl _ _

theorem tagFails_only (q : Nat) (s : State) :
    Only [.rc, .abacus, .queues, .rings, .hostOut, .mgmtLog, .mgmt, .smb, .jnl, .log] s (tagFails q s) := by
  unfold tagFails
  refine Only.then ?_ (complete_only ..)
  refine Only.then ?_ (count_only ..)
  exact Only.refl _ _

theorem finishOp_only (d q : Nat) (x : DpRun) (s : State) :
    Only [.rc, .abacus, .sram, .perf, .queues, .rings, .hostOut, .sec, .mgmtLog, .mgmt, .smb, .jnl, .log] s (finishOp d q x s) := by
  unfold finishOp
  try dsimp -iota -proj only
  refine Only.ite ?_ ?_
  · refine Only.ite ?_ ?_
    · refine Only.ite ?_ ?_
      · refine Only.then ?_ (complete_only ..)
        refine Only.then ?_ (dpEnd_only ..)
        exact Only.refl _ _
      · refine Only.then ?_ (tagFails_only ..)
        refine Only.then ?_ (dpEnd_only ..)
        exact Only.refl _ _
    · refine Only.then ?_ (complete_only ..)
      refine Only.then ?_ (dpEnd_only ..)
      exact Only.refl _ _
  · refine Only.ite ?_ ?_
    · split
      · refine Only.then ?_ (complete_only ..)
        refine Only.then ?_ (dropWindow_only ..)
        refine Only.then ?_ (hostWrite_only ..)
        refine Only.then ?_ (windowRun_only ..)
        refine Only.then ?_ (fillWindow_only ..)
        refine Only.then ?_ (dpEnd_only ..)
        exact Only.refl _ _
      · refine Only.then ?_ (tagFails_only ..)
        refine Only.then ?_ (dropWindow_only ..)
        refine Only.then ?_ (fillWindow_only ..)
        refine Only.then ?_ (dpEnd_only ..)
        exact Only.refl _ _
    · refine Only.then ?_ (complete_only ..)
      refine Only.then ?_ (hostWrite_only ..)
      refine Only.then ?_ (dpEnd_only ..)
      exact Only.refl _ _

theorem recheck_only (k : Nat) (s : State) :
    Only [.rc, .abacus, .queues, .rings, .hostOut, .sec, .mgmtLog, .mgmt, .smb, .jnl, .log] s (recheck k s) := by
  unfold recheck
  refine Only.all ?_ fun x u hu => ?_
  · exact Only.refl _ _
  · split
    · split
      · refine Only.then ?_ (refuseOp_only ..)
        refine Only.upd48 ?_
        assumption
      · assumption
    · assumption

theorem finishUnwrap_only (d q : Nat) (slot : Option Nat) (x : DpRun) (s : State) :
    Only [.rc, .abacus, .sram, .perf, .queues, .rings, .hostOut, .sec, .mgmtLog, .mgmt, .smb, .jnl, .log] s (finishUnwrap d q slot x s) := by
  unfold finishUnwrap
  try dsimp -iota -proj only
  refine Only.ite ?_ ?_
  · refine Only.then ?_ (complete_only ..)
    refine Only.then ?_ (dropWindow_only ..)
    split
    · refine Only.then ?_ (fillWindow_only ..)
      refine Only.then ?_ (dpEnd_only ..)
      exact Only.refl _ _
    · refine Only.then ?_ (stirWindow_only ..)
      refine Only.then ?_ (dpEnd_only ..)
      exact Only.refl _ _
  · split
    · split
      · refine Only.then ?_ (recheck_only ..)
        refine Only.then ?_ (blobFails_only ..)
        refine Only.then ?_ (unload_only ..)
        refine Only.then ?_ (dropWindow_only ..)
        split
        · refine Only.then ?_ (fillWindow_only ..)
          refine Only.then ?_ (dpEnd_only ..)
          exact Only.refl _ _
        · refine Only.then ?_ (stirWindow_only ..)
          refine Only.then ?_ (dpEnd_only ..)
          exact Only.refl _ _
      · refine Only.then ?_ (blobFails_only ..)
        refine Only.then ?_ (unload_only ..)
        refine Only.then ?_ (dropWindow_only ..)
        split
        · refine Only.then ?_ (fillWindow_only ..)
          refine Only.then ?_ (dpEnd_only ..)
          exact Only.refl _ _
        · refine Only.then ?_ (stirWindow_only ..)
          refine Only.then ?_ (dpEnd_only ..)
          exact Only.refl _ _
    · refine Only.then ?_ (completePersisted_only ..)
      refine Only.then ?_ (journal_only ..)
      refine Only.then ?_ (count_only ..)
      refine Only.upd48 ?_
      refine Only.then ?_ (dropWindow_only ..)
      split
      · refine Only.then ?_ (fillWindow_only ..)
        refine Only.then ?_ (dpEnd_only ..)
        exact Only.refl _ _
      · refine Only.then ?_ (stirWindow_only ..)
        refine Only.then ?_ (dpEnd_only ..)
        exact Only.refl _ _
    · refine Only.then ?_ (completePersisted_only ..)
      refine Only.then ?_ (journal_only ..)
      refine Only.then ?_ (recheck_only ..)
      refine Only.then ?_ (count_only ..)
      refine Only.then ?_ (resetCounters_only ..)
      refine Only.then ?_ (setKeySlot_only ..)
      refine Only.then ?_ (dropWindow_only ..)
      split
      · refine Only.then ?_ (fillWindow_only ..)
        refine Only.then ?_ (dpEnd_only ..)
        exact Only.refl _ _
      · refine Only.then ?_ (stirWindow_only ..)
        refine Only.then ?_ (dpEnd_only ..)
        exact Only.refl _ _

theorem faultDp_only (d : Nat) (x : DpRun) (s : State) :
    Only [.free, .rc, .abacus, .sram, .queues, .rings, .hostOut, .sec, .mgmtLog, .mgmt, .smb, .jnl, .log] s (faultDp d x s) := by
  unfold faultDp
  try dsimp -iota -proj only
  split
  · split
    · refine Only.upd48 ?_
      refine Only.then ?_ (unload_only ..)
      refine Only.then ?_ (secFault_only ..)
      refine Only.cond ?_ fun u hu => ?_
      · refine Only.then ?_ (dpEnd_only ..)
        refine Only.then ?_ (draw_only' ‹draw .. = (_, _)›)
        refine Only.then ?_ (leavePassed_only ..)
        exact Only.refl _ _
      · refine Only.then ?_ (dropWindow_only ..)
        refine Only.then ?_ (stirWindow_only ..)
        assumption
    · refine Only.then ?_ (unload_only ..)
      refine Only.then ?_ (secFault_only ..)
      refine Only.cond ?_ fun u hu => ?_
      · refine Only.then ?_ (dpEnd_only ..)
        refine Only.then ?_ (draw_only' ‹draw .. = (_, _)›)
        refine Only.then ?_ (leavePassed_only ..)
        exact Only.refl _ _
      · refine Only.then ?_ (dropWindow_only ..)
        refine Only.then ?_ (stirWindow_only ..)
        assumption
    · refine Only.then ?_ (complete_only ..)
      split
      · refine Only.then ?_ (recheck_only ..)
        refine Only.then ?_ (unload_only ..)
        refine Only.then ?_ (secFault_only ..)
        refine Only.cond ?_ fun u hu => ?_
        · refine Only.then ?_ (dpEnd_only ..)
          refine Only.then ?_ (draw_only' ‹draw .. = (_, _)›)
          refine Only.then ?_ (leavePassed_only ..)
          exact Only.refl _ _
        · refine Only.then ?_ (dropWindow_only ..)
          refine Only.then ?_ (stirWindow_only ..)
          assumption
      · refine Only.then ?_ (unload_only ..)
        refine Only.then ?_ (secFault_only ..)
        refine Only.cond ?_ fun u hu => ?_
        · refine Only.then ?_ (dpEnd_only ..)
          refine Only.then ?_ (draw_only' ‹draw .. = (_, _)›)
          refine Only.then ?_ (leavePassed_only ..)
          exact Only.refl _ _
        · refine Only.then ?_ (dropWindow_only ..)
          refine Only.then ?_ (stirWindow_only ..)
          assumption
    · refine Only.then ?_ (complete_only ..)
      refine Only.then ?_ (unload_only ..)
      refine Only.then ?_ (secFault_only ..)
      refine Only.cond ?_ fun u hu => ?_
      · refine Only.then ?_ (dpEnd_only ..)
        refine Only.then ?_ (draw_only' ‹draw .. = (_, _)›)
        refine Only.then ?_ (leavePassed_only ..)
        exact Only.refl _ _
      · refine Only.then ?_ (dropWindow_only ..)
        refine Only.then ?_ (stirWindow_only ..)
        assumption

end Sys2Proof.Laws
end

