-- ==== Sys2Proof/Laws/GroupsFrame.lean ====
section
/-! SUPPORT. What the operations of Machine/Groups.lean leave as they are. -/

set_option Elab.async false

namespace Sys2Proof.Laws

open Sys2Proof Sys2Proof.Machine

theorem setGroup_only (g : Nat) (x : Group) (s : State) :
    Only [.prot] s (setGroup g x s) := by
  unfold setGroup
  refine Only.upd43 ?_
  exact Only.refl _ _

theorem onGroup_only (g : Nat) (f : Group → Group) (s : State) :
    Only [.prot] s (onGroup g f s) := by
  unfold onGroup
  split
  · exact Only.refl _ _
  · refine Only.then ?_ (setGroup_only ..)
    exact Only.refl _ _

theorem latchPortCfg_only (s : State) :
    Only [.prot] s (latchPortCfg s) := by
  unfold latchPortCfg
  try dsimp -iota -proj only
  refine Only.upd43 ?_
  exact Only.refl _ _

theorem setCalendar_only (l : Nat) (c : Calendar) (s : State) :
    Only [.prot] s (setCalendar l c s) := by
  unfold setCalendar
  refine Only.upd43 ?_
  exact Only.refl _ _

theorem urgent_only (l g : Nat) (s : State) :
    Only [.prot] s (urgent l g s) := by
  unfold urgent
  try dsimp -iota -proj only
  refine Only.then ?_ (setCalendar_only ..)
  exact Only.refl _ _

theorem layCalendar_only (l : Nat) (s : State) :
    Only [.rc, .lanes, .prot] s (layCalendar l s) := by
  unfold layCalendar
  try dsimp -iota -proj only
  refine Only.ite ?_ ?_
  · refine Only.then ?_ (setLane_only ..)
    exact Only.refl _ _
  · refine Only.ite ?_ ?_
    · refine Only.then ?_ (setLane_only ..)
      refine Only.then ?_ (setCalendar_only ..)
      exact Only.refl _ _
    · refine Only.then ?_ (count_only ..)
      refine Only.then ?_ (setLane_only ..)
      refine Only.then ?_ (setCalendar_only ..)
      exact Only.refl _ _

theorem takePosts_only (s : State) :
    Only [.prot] s (takePosts s) := by
  unfold takePosts
  try dsimp -iota -proj only
  refine Only.all ?_ fun x u hu => ?_
  · refine Only.upd43 ?_
    exact Only.refl _ _
  · split
    · assumption
    · split
      · refine Only.then ?_ (urgent_only ..)
        refine Only.then ?_ (setGroup_only ..)
        assumption
      · refine Only.then ?_ (setGroup_only ..)
        assumption

theorem layCalendars_only (s : State) :
    Only [.rc, .lanes, .prot] s (layCalendars s) := by
  unfold layCalendars
  try dsimp -iota -proj only
  refine Only.all ?_ fun x u hu => ?_
  · refine Only.all ?_ fun x u hu => ?_
    · exact Only.refl _ _
    · refine Only.then ?_ (setLane_only ..)
      assumption
  · refine Only.then ?_ (layCalendar_only ..)
    assumption

theorem chFail_only (g cause : Nat) (s : State) :
    Only [.rc, .prot, .rings, .hostOut, .mgmtLog, .smb, .jnl, .log] s (chFail g cause s) := by
  unfold chFail
  split
  · exact Only.refl _ _
  · refine Only.ite ?_ ?_
    · exact Only.refl _ _
    · refine Only.then ?_ (raise_only ..)
      refine Only.then ?_ (count_only ..)
      refine Only.then ?_ (setGroup_only ..)
      exact Only.refl _ _

theorem pinSel_only (i : Nat) (v : Bool) (s : State) :
    Only [.prot] s (pinSel i v s) := by
  unfold pinSel
  refine Only.ite ?_ ?_
  · exact Only.refl _ _
  · refine Only.upd43 ?_
    exact Only.refl _ _

theorem setSel_only (bs : List (Nat × Bool)) (s : State) :
    Only [.prot] s (setSel bs s) := by
  unfold setSel
  try dsimp -iota -proj only
  refine Only.upd43 ?_
  refine Only.ite ?_ ?_
  · exact Only.refl _ _
  · refine Only.all ?_ fun x u hu => ?_
    · exact Only.refl _ _
    · refine Only.then ?_ (pinSel_only ..)
      assumption

theorem writeSel_only (e g : Nat) (bs : List (Nat × Bool)) (s : State) :
    Only [.rc, .prot, .rings, .hostOut, .mgmtLog, .smb, .jnl, .log] s (writeSel e g bs s) := by
  unfold writeSel
  refine Only.ite ?_ ?_
  · refine Only.then ?_ (setSel_only ..)
    exact Only.refl _ _
  · refine Only.then ?_ (raise_only ..)
    exact Only.refl _ _

theorem askBridge_only (g want : Nat) (x : Group) (s : State) :
    Only [.free, .rc, .page, .abacus, .mtest, .perf, .queues, .rings, .hostOut, .mgmtLog, .mgmt, .smb, .jnl, .log] s (askBridge g want x s) := by
  unfold askBridge
  try dsimp -iota -proj only
  refine Only.ite ?_ ?_
  · exact Only.refl _ _
  · refine Only.then ?_ (request_only ..)
    exact Only.refl _ _

theorem answerAsks_only (xs : List (Nat × Nat)) (rec_ : Bool) (s : State) :
    Only [.rc, .abacus, .queues, .rings, .hostOut, .mgmtLog, .mgmt, .smb, .jnl, .log] s (answerAsks xs rec_ s) := by
  unfold answerAsks
  refine Only.all ?_ fun x u hu => ?_
  · exact Only.refl _ _
  · refine Only.ite ?_ ?_
    · refine Only.then ?_ (completePersisted_only ..)
      assumption
    · refine Only.then ?_ (complete_only ..)
      assumption

theorem forgetGroup_only (g : Nat) (s : State) :
    Only [.abacus, .prot] s (forgetGroup g s) := by
  unfold forgetGroup
  refine Only.upd55 ?_
  exact Only.refl _ _

theorem withdrawBridge_only (g : Nat) (s : State) :
    Only [.page, .abacus] s (withdrawBridge g s) := by
  unfold withdrawBridge
  try dsimp -iota -proj only
  refine Only.ite ?_ ?_
  · refine Only.then ?_ (resync_only ..)
    refine Only.then ?_ (onPage_only ..)
    exact Only.refl _ _
  · refine Only.then ?_ (onPage_only ..)
    exact Only.refl _ _

theorem deleteGroup_only (e g q : Nat) (x : Group) (s : State) :
    Only [.rc, .page, .abacus, .prot, .queues, .rings, .hostOut, .mgmtLog, .mgmt, .smb, .jnl, .log] s (deleteGroup e g q x s) := by
  unfold deleteGroup
  try dsimp -iota -proj only
  refine Only.then ?_ (completePersisted_only ..)
  refine Only.then ?_ (journal_only ..)
  refine Only.upd43 ?_
  refine Only.then ?_ (forgetGroup_only ..)
  refine Only.then ?_ (withdrawBridge_only ..)
  refine Only.then ?_ (writeSel_only ..)
  exact Only.refl _ _

theorem decideOn_only (e g : Nat) (asks : List (Nat × Nat × Nat × Nat)) (x : Group) (s : State) :
    Only [.free, .rc, .page, .abacus, .prot, .mtest, .perf, .queues, .rings, .hostOut, .mgmtLog, .mgmt, .smb, .jnl, .log] s (decideOn e g asks x s) := by
  unfold decideOn
  try dsimp -iota -proj only
  split
  · refine Only.then ?_ (askBridge_only ..)
    refine Only.then ?_ (answerAsks_only ..)
    refine Only.cond ?_ fun u hu => ?_
    · refine Only.ite ?_ ?_
      · refine Only.ite ?_ ?_
        · refine Only.then ?_ (setGroup_only ..)
          refine Only.then ?_ (countN_only ..)
          exact Only.refl _ _
        · refine Only.cond ?_ fun u hu => ?_
          · refine Only.then ?_ (writeSel_only ..)
            refine Only.then ?_ (setGroup_only ..)
            refine Only.then ?_ (countN_only ..)
            exact Only.refl _ _
          · refine Only.then ?_ (count_only ..)
            assumption
      · refine Only.upd43 ?_
        refine Only.ite ?_ ?_
        · refine Only.then ?_ (setGroup_only ..)
          refine Only.then ?_ (countN_only ..)
          exact Only.refl _ _
        · refine Only.cond ?_ fun u hu => ?_
          · refine Only.then ?_ (writeSel_only ..)
            refine Only.then ?_ (setGroup_only ..)
            refine Only.then ?_ (countN_only ..)
            exact Only.refl _ _
          · refine Only.then ?_ (count_only ..)
            assumption
    · refine Only.then ?_ (journal_only ..)
      assumption

theorem decide__only (e g : Nat) (s : State) :
    Only [.free, .rc, .page, .abacus, .prot, .mtest, .perf, .queues, .rings, .hostOut, .mgmtLog, .mgmt, .smb, .jnl, .log] s (decide_ e g s) := by
  unfold decide_
  try dsimp -iota -proj only
  split
  · exact Only.refl _ _
  · split
    · split
      · refine Only.then ?_ (decideOn_only ..)
        exact Only.refl _ _
      · refine Only.ite ?_ ?_
        · refine Only.then ?_ (answerAsks_only ..)
          refine Only.then ?_ (decideOn_only ..)
          exact Only.refl _ _
        · refine Only.then ?_ (answerAsks_only ..)
          refine Only.then ?_ (deleteGroup_only ..)
          refine Only.then ?_ (decideOn_only ..)
          exact Only.refl _ _

theorem decideEngine_only (e : Nat) (s : State) :
    Only [.free, .rc, .page, .abacus, .prot, .mtest, .perf, .queues, .rings, .hostOut, .mgmtLog, .mgmt, .smb, .jnl, .log] s (decideEngine e s) := by
  unfold decideEngine
  try dsimp -iota -proj only
  split
  · refine Only.all ?_ fun x u hu => ?_
    · refine Only.then ?_ (countN_only ..)
      refine Only.all ?_ fun x u hu => ?_
      · exact Only.refl _ _
      · refine Only.then ?_ (onGroup_only ..)
        assumption
    · refine Only.then ?_ (decide__only ..)
      assumption

theorem groupsPost_only (s : State) :
    Only [.prot] s (groupsPost s) := by
  unfold groupsPost
  refine Only.upd43 ?_
  exact Only.refl _ _

theorem groupsTick_only (s : State) :
    Only [.free, .rc, .page, .abacus, .prot, .mtest, .perf, .queues, .rings, .hostOut, .mgmtLog, .mgmt, .smb, .jnl, .log] s (groupsTick s) := by
  unfold groupsTick
  try dsimp -iota -proj only
  refine Only.ite ?_ ?_
  · exact Only.refl _ _
  · refine Only.all ?_ fun x u hu => ?_
    · refine Only.all ?_ fun x u hu => ?_
      · exact Only.refl _ _
      · refine Only.then ?_ (chFail_only ..)
        assumption
    · refine Only.then ?_ (decideEngine_only ..)
      assumption

theorem overrunGroups_only (e : Nat) (s : State) :
    Only [.prot] s (overrunGroups e s) := by
  unfold overrunGroups
  try dsimp -iota -proj only
  refine Only.upd43 ?_
  refine Only.all ?_ fun x u hu => ?_
  · exact Only.refl _ _
  · refine Only.then ?_ (pinSel_only ..)
    assumption

end Sys2Proof.Laws
end

