-- ==== Sys2Proof/Laws/GroupRowsFrame.lean ====
section
/-! SUPPORT. What the operations of Machine/GroupRows.lean leave as they are. -/

set_option Elab.async false

namespace Sys2Proof.Laws

open Sys2Proof Sys2Proof.Machine

theorem takeGroup_only (q g : Nat) (x : Group) (s : State) :
    Only [.rc, .abacus, .prot, .queues, .rings, .hostOut, .mgmtLog, .mgmt, .smb, .jnl, .log] s (takeGroup q g x s) := by
  unfold takeGroup
  refine Only.then ?_ (completePersisted_only ..)
  refine Only.then ?_ (journal_only ..)
  refine Only.then ?_ (setGroup_only ..)
  exact Only.refl _ _

theorem dropUrgent_only (g : Nat) (s : State) :
    Only [.prot] s (dropUrgent g s) := by
  unfold dropUrgent
  refine Only.upd43 ?_
  exact Only.refl _ _

theorem askGroup_only (g q req sig : Nat) (s : State) :
    Only [.prot] s (askGroup g q req sig s) := by
  unfold askGroup
  refine Only.then ?_ (onGroup_only ..)
  exact Only.refl _ _

theorem heardMsg_only (g n : Nat) (w : Word) (x : Group) (s : State) :
    Only [.rc, .prot, .rings, .hostOut, .mgmtLog, .smb, .jnl, .log] s (heardMsg g n w x s) := by
  unfold heardMsg
  try dsimp -iota -proj only
  split
  · refine Only.cond ?_ fun u hu => ?_
    · refine Only.all ?_ fun x u hu => ?_
      · refine Only.cond ?_ fun u hu => ?_
        · refine Only.then ?_ (setGroup_only ..)
          exact Only.refl _ _
        · refine Only.then ?_ (count_only ..)
          assumption
      · refine Only.then ?_ (raise_only ..)
        assumption
    · refine Only.then ?_ (chFail_only ..)
      assumption

theorem askLoad_only (g n : Nat) (s : State) :
    Only [.free, .rc, .page, .abacus, .mtest, .perf, .queues, .rings, .hostOut, .mgmtLog, .mgmt, .smb, .jnl, .log] s (askLoad g n s) := by
  unfold askLoad
  try dsimp -iota -proj only
  refine Only.ite ?_ ?_
  · exact Only.refl _ _
  · refine Only.ite ?_ ?_
    · refine Only.then ?_ (request_only ..)
      refine Only.then ?_ (count_only ..)
      exact Only.refl _ _
    · refine Only.then ?_ (restoreFail_only ..)
      refine Only.then ?_ (count_only ..)
      exact Only.refl _ _

end Sys2Proof.Laws
end

