-- ==== Sys2Proof/Laws/TimingFrame.lean ====
section
/-! SUPPORT. What the operations of Machine/Timing.lean leave as they are. -/

set_option Elab.async false

namespace Sys2Proof.Laws

open Sys2Proof Sys2Proof.Machine

theorem retarget_only (n : Nat) (f : Int) (s : State) :
    Only [.timing] s (retarget n f s) := by
  unfold retarget
  split
  · exact Only.refl _ _
  · refine Only.ite ?_ ?_
    · exact Only.refl _ _
    · refine Only.upd53 ?_
      exact Only.refl _ _

theorem refreshQl_only (s : State) :
    Only [.timing] s (refreshQl s) := by
  unfold refreshQl
  refine Only.upd53 ?_
  exact Only.refl _ _

theorem setMode_only (m : Nat) (s : State) :
    Only [.rc, .timing, .rings, .hostOut, .mgmtLog, .smb, .jnl, .log] s (setMode m s) := by
  unfold setMode
  try dsimp -iota -proj only
  refine Only.ite ?_ ?_
  · exact Only.refl _ _
  · refine Only.then ?_ (refreshQl_only ..)
    refine Only.then ?_ (raise_only ..)
    refine Only.cond ?_ fun u hu => ?_
    · refine Only.cond ?_ fun u hu => ?_
      · refine Only.upd53 ?_
        exact Only.refl _ _
      · refine Only.then ?_ (raise_only ..)
        assumption
    · refine Only.then ?_ (count_only ..)
      assumption

theorem enterHold_only (s : State) :
    Only [.rc, .timing, .rings, .hostOut, .mgmtLog, .smb, .jnl, .log] s (enterHold s) := by
  unfold enterHold
  refine Only.then ?_ (setMode_only ..)
  exact Only.refl _ _

theorem startPull_only (s : State) :
    Only [.timing] s (startPull s) := by
  unfold startPull
  split
  · exact Only.refl _ _
  · refine Only.upd53 ?_
    exact Only.refl _ _

theorem acquire_only (s : State) :
    Only [.rc, .timing, .rings, .hostOut, .mgmtLog, .smb, .jnl, .log] s (acquire s) := by
  unfold acquire
  try dsimp -iota -proj only
  refine Only.then ?_ (refreshQl_only ..)
  refine Only.cond ?_ fun u hu => ?_
  · refine Only.then ?_ (setMode_only ..)
    refine Only.upd53 ?_
    exact Only.refl _ _
  · refine Only.then ?_ (startPull_only ..)
    assumption

theorem modeEdge_only (s : State) :
    Only [.rc, .timing, .rings, .hostOut, .mgmtLog, .smb, .jnl, .log] s (modeEdge s) := by
  unfold modeEdge
  try dsimp -iota -proj only
  refine Only.ite ?_ ?_
  · refine Only.then ?_ (enterHold_only ..)
    refine Only.then ?_ (count_only ..)
    refine Only.upd53 ?_
    split
    · refine Only.then ?_ (setMode_only ..)
      refine Only.upd53 ?_
      exact Only.refl _ _
    · exact Only.refl _ _
  · split
    · refine Only.then ?_ (setMode_only ..)
      refine Only.upd53 ?_
      exact Only.refl _ _
    · exact Only.refl _ _

theorem pullEdge_only (s : State) :
    Only [.timing] s (pullEdge s) := by
  unfold pullEdge
  try dsimp -iota -proj only
  refine Only.cond ?_ fun u hu => ?_
  · refine Only.upd53 ?_
    exact Only.refl _ _
  · refine Only.then ?_ (startPull_only ..)
    assumption

theorem driftEdge_only (s : State) :
    Only [.timing] s (driftEdge s) := by
  unfold driftEdge
  refine Only.ite ?_ ?_
  · refine Only.upd53 ?_
    exact Only.refl _ _
  · exact Only.refl _ _

theorem gatherEdge_only (s : State) :
    Only [.timing] s (gatherEdge s) := by
  unfold gatherEdge
  try dsimp -iota -proj only
  refine Only.ite ?_ ?_
  · exact Only.refl _ _
  · refine Only.upd53 ?_
    exact Only.refl _ _

theorem setTodNs_only (x : Int) (s : State) :
    Only [.timing] s (setTodNs x s) := by
  unfold setTodNs
  refine Only.upd53 ?_
  exact Only.refl _ _

theorem todJump_only (d : Int) (s : State) :
    Only [.rc, .pm] s (todJump d s) := by
  unfold todJump
  refine Only.ite ?_ ?_
  · refine Only.then ?_ (count_only ..)
    refine Only.upd41 ?_
    exact Only.refl _ _
  · exact Only.refl _ _

theorem pulseOutputs_only (s : State) :
    Only [.timing] s (pulseOutputs s) := by
  unfold pulseOutputs
  try dsimp -iota -proj only
  refine Only.upd53 ?_
  exact Only.refl _ _

theorem todEdge_only (s : State) :
    Only [.rc, .pm, .timing] s (todEdge s) := by
  unfold todEdge
  try dsimp -iota -proj only
  refine Only.cond ?_ fun u hu => ?_
  · refine Only.then ?_ (todJump_only ..)
    refine Only.then ?_ (setTodNs_only ..)
    refine Only.upd53 ?_
    exact Only.refl _ _
  · refine Only.upd41 ?_
    assumption

theorem timingEdge_only (s : State) :
    Only [.rc, .pm, .timing, .rings, .hostOut, .mgmtLog, .smb, .jnl, .log] s (timingEdge s) := by
  unfold timingEdge
  try dsimp -iota -proj only
  refine Only.then ?_ (refreshQl_only ..)
  refine Only.cond ?_ fun u hu => ?_
  · refine Only.then ?_ (todEdge_only ..)
    refine Only.then ?_ (gatherEdge_only ..)
    refine Only.then ?_ (driftEdge_only ..)
    refine Only.then ?_ (pullEdge_only ..)
    refine Only.then ?_ (modeEdge_only ..)
    exact Only.refl _ _
  · refine Only.then ?_ (pulseOutputs_only ..)
    assumption

theorem judgeWander_only (n : Nat) (s : State) :
    Only [.timing] s (judgeWander n s) := by
  unfold judgeWander
  try dsimp -iota -proj only
  refine Only.ite ?_ ?_
  · refine Only.ite ?_ ?_
    · refine Only.then ?_ (setRef_only ..)
      refine Only.then ?_ (disqualify_only ..)
      exact Only.refl _ _
    · exact Only.refl _ _
  · refine Only.ite ?_ ?_
    · exact Only.refl _ _
    · refine Only.then ?_ (checkRef_only ..)
      refine Only.then ?_ (setRef_only ..)
      exact Only.refl _ _

theorem reportDisagreements_only (s : State) :
    Only [.rc, .timing, .rings, .hostOut, .mgmtLog, .smb, .jnl, .log] s (reportDisagreements s) := by
  unfold reportDisagreements
  try dsimp -iota -proj only
  refine Only.all ?_ fun x u hu => ?_
  · refine Only.all ?_ fun x u hu => ?_
    · refine Only.upd53 ?_
      exact Only.refl _ _
    · refine Only.then ?_ (raise_only ..)
      refine Only.then ?_ (count_only ..)
      assumption
  · refine Only.then ?_ (raiseX_only ..)
    assumption

theorem squelchOutputs_only (s : State) :
    Only [.timing] s (squelchOutputs s) := by
  unfold squelchOutputs
  try dsimp -iota -proj only
  refine Only.upd53 ?_
  exact Only.refl _ _

theorem steer_only (s : State) :
    Only [.rc, .timing, .rings, .hostOut, .mgmtLog, .smb, .jnl, .log] s (steer s) := by
  unfold steer
  try dsimp -iota -proj only
  split
  · refine Only.ite ?_ ?_
    · refine Only.then ?_ (enterHold_only ..)
      refine Only.ite ?_ ?_
      · refine Only.then ?_ (count_only ..)
        refine Only.upd53 ?_
        exact Only.refl _ _
      · exact Only.refl _ _
    · refine Only.then ?_ (refreshQl_only ..)
      refine Only.ite ?_ ?_
      · refine Only.then ?_ (count_only ..)
        refine Only.upd53 ?_
        exact Only.refl _ _
      · exact Only.refl _ _
  · refine Only.ite ?_ ?_
    · refine Only.then ?_ (acquire_only ..)
      refine Only.ite ?_ ?_
      · exact Only.refl _ _
      · refine Only.then ?_ (count_only ..)
        refine Only.upd53 ?_
        exact Only.refl _ _
    · refine Only.then ?_ (refreshQl_only ..)
      refine Only.ite ?_ ?_
      · exact Only.refl _ _
      · refine Only.then ?_ (count_only ..)
        refine Only.upd53 ?_
        exact Only.refl _ _
  · refine Only.ite ?_ ?_
    · refine Only.ite ?_ ?_
      · refine Only.then ?_ (acquire_only ..)
        exact Only.refl _ _
      · refine Only.then ?_ (refreshQl_only ..)
        exact Only.refl _ _
    · refine Only.ite ?_ ?_
      · refine Only.then ?_ (acquire_only ..)
        refine Only.ite ?_ ?_
        · exact Only.refl _ _
        · refine Only.then ?_ (count_only ..)
          refine Only.upd53 ?_
          exact Only.refl _ _
      · refine Only.then ?_ (refreshQl_only ..)
        refine Only.ite ?_ ?_
        · exact Only.refl _ _
        · refine Only.then ?_ (count_only ..)
          refine Only.upd53 ?_
          exact Only.refl _ _

theorem rephase_only (old : Nat → Int) (n : Nat) (s : State) :
    Only [.timing] s (rephase old n s) := by
  unfold rephase
  try dsimp -iota -proj only
  refine Only.ite ?_ ?_
  · exact Only.refl _ _
  · refine Only.then ?_ (setRef_only ..)
    exact Only.refl _ _

theorem takeConfig_only (s : State) :
    Only [.rc, .timing, .rings, .hostOut, .mgmtLog, .smb, .jnl, .log] s (takeConfig s) := by
  unfold takeConfig
  try dsimp -iota -proj only
  refine Only.ite ?_ ?_
  · refine Only.ite ?_ ?_
    · refine Only.then ?_ (startPull_only ..)
      refine Only.upd53 ?_
      refine Only.ite ?_ ?_
      · refine Only.upd53 ?_
        refine Only.all ?_ fun x u hu => ?_
        · refine Only.upd53 ?_
          exact Only.refl _ _
        · refine Only.then ?_ (rephase_only ..)
          assumption
      · refine Only.all ?_ fun x u hu => ?_
        · refine Only.upd53 ?_
          exact Only.refl _ _
        · refine Only.then ?_ (rephase_only ..)
          assumption
    · refine Only.ite ?_ ?_
      · refine Only.upd53 ?_
        refine Only.all ?_ fun x u hu => ?_
        · refine Only.upd53 ?_
          exact Only.refl _ _
        · refine Only.then ?_ (rephase_only ..)
          assumption
      · refine Only.all ?_ fun x u hu => ?_
        · refine Only.upd53 ?_
          exact Only.refl _ _
        · refine Only.then ?_ (rephase_only ..)
          assumption
  · split
    · refine Only.upd53 ?_
      refine Only.upd53 ?_
      refine Only.ite ?_ ?_
      · refine Only.then ?_ (startPull_only ..)
        refine Only.upd53 ?_
        refine Only.ite ?_ ?_
        · refine Only.upd53 ?_
          refine Only.all ?_ fun x u hu => ?_
          · refine Only.upd53 ?_
            exact Only.refl _ _
          · refine Only.then ?_ (rephase_only ..)
            assumption
        · refine Only.all ?_ fun x u hu => ?_
          · refine Only.upd53 ?_
            exact Only.refl _ _
          · refine Only.then ?_ (rephase_only ..)
            assumption
      · refine Only.ite ?_ ?_
        · refine Only.upd53 ?_
          refine Only.all ?_ fun x u hu => ?_
          · refine Only.upd53 ?_
            exact Only.refl _ _
          · refine Only.then ?_ (rephase_only ..)
            assumption
        · refine Only.all ?_ fun x u hu => ?_
          · refine Only.upd53 ?_
            exact Only.refl _ _
          · refine Only.then ?_ (rephase_only ..)
            assumption
    · refine Only.upd53 ?_
      refine Only.upd53 ?_
      refine Only.ite ?_ ?_
      · refine Only.then ?_ (startPull_only ..)
        refine Only.upd53 ?_
        refine Only.ite ?_ ?_
        · refine Only.upd53 ?_
          refine Only.all ?_ fun x u hu => ?_
          · refine Only.upd53 ?_
            exact Only.refl _ _
          · refine Only.then ?_ (rephase_only ..)
            assumption
        · refine Only.all ?_ fun x u hu => ?_
          · refine Only.upd53 ?_
            exact Only.refl _ _
          · refine Only.then ?_ (rephase_only ..)
            assumption
      · refine Only.ite ?_ ?_
        · refine Only.upd53 ?_
          refine Only.all ?_ fun x u hu => ?_
          · refine Only.upd53 ?_
            exact Only.refl _ _
          · refine Only.then ?_ (rephase_only ..)
            assumption
        · refine Only.all ?_ fun x u hu => ?_
          · refine Only.upd53 ?_
            exact Only.refl _ _
          · refine Only.then ?_ (rephase_only ..)
            assumption
    · refine Only.then ?_ (setMode_only ..)
      refine Only.upd53 ?_
      refine Only.ite ?_ ?_
      · refine Only.then ?_ (startPull_only ..)
        refine Only.upd53 ?_
        refine Only.ite ?_ ?_
        · refine Only.upd53 ?_
          refine Only.all ?_ fun x u hu => ?_
          · refine Only.upd53 ?_
            exact Only.refl _ _
          · refine Only.then ?_ (rephase_only ..)
            assumption
        · refine Only.all ?_ fun x u hu => ?_
          · refine Only.upd53 ?_
            exact Only.refl _ _
          · refine Only.then ?_ (rephase_only ..)
            assumption
      · refine Only.ite ?_ ?_
        · refine Only.upd53 ?_
          refine Only.all ?_ fun x u hu => ?_
          · refine Only.upd53 ?_
            exact Only.refl _ _
          · refine Only.then ?_ (rephase_only ..)
            assumption
        · refine Only.all ?_ fun x u hu => ?_
          · refine Only.upd53 ?_
            exact Only.refl _ _
          · refine Only.then ?_ (rephase_only ..)
            assumption
    · refine Only.upd53 ?_
      refine Only.ite ?_ ?_
      · refine Only.then ?_ (startPull_only ..)
        refine Only.upd53 ?_
        refine Only.ite ?_ ?_
        · refine Only.upd53 ?_
          refine Only.all ?_ fun x u hu => ?_
          · refine Only.upd53 ?_
            exact Only.refl _ _
          · refine Only.then ?_ (rephase_only ..)
            assumption
        · refine Only.all ?_ fun x u hu => ?_
          · refine Only.upd53 ?_
            exact Only.refl _ _
          · refine Only.then ?_ (rephase_only ..)
            assumption
      · refine Only.ite ?_ ?_
        · refine Only.upd53 ?_
          refine Only.all ?_ fun x u hu => ?_
          · refine Only.upd53 ?_
            exact Only.refl _ _
          · refine Only.then ?_ (rephase_only ..)
            assumption
        · refine Only.all ?_ fun x u hu => ?_
          · refine Only.upd53 ?_
            exact Only.refl _ _
          · refine Only.then ?_ (rephase_only ..)
            assumption

theorem turnAuto_only (turned : Bool) (s : State) :
    Only [.rc, .timing, .rings, .hostOut, .mgmtLog, .smb, .jnl, .log] s (turnAuto turned s) := by
  unfold turnAuto
  refine Only.ite ?_ ?_
  · refine Only.then ?_ (enterHold_only ..)
    exact Only.refl _ _
  · exact Only.refl _ _

end Sys2Proof.Laws
end

