-- ==== Sys2Proof/Laws/TimingCmdFrame.lean ====
section
/-! SUPPORT. What the operations of Machine/TimingCmd.lean leave as they are. -/

set_option Elab.async false

namespace Sys2Proof.Laws

open Sys2Proof Sys2Proof.Machine

theorem completeRegs_only (q : Nat) (s : State) :
    Only [.rc, .abacus, .queues, .rings, .hostOut, .mgmtLog, .mgmt, .smb, .jnl, .log] s (completeRegs q s) := by
  unfold completeRegs
  refine Only.then ?_ (completePersisted_only ..)
  refine Only.then ?_ (journal_only ..)
  exact Only.refl _ _

theorem configCmd_only {ps : List Part} (q base : Nat) (mask : Nat → Nat) (after : Nat → Nat → State → State)
    (d : Bytes) (s : State) (h : ∀ o m u, Only ps u (after o m u))
    (hp : sub [.regs, .rc, .abacus, .queues, .rings, .hostOut, .mgmtLog, .mgmt, .smb, .jnl, .log] ps = true := by rfl) : Only ps s (configCmd q base mask after d s) := by
  unfold configCmd
  dsimp -iota -proj only
  refine Only.ite (Only.mono (Only.mono (complete_only ..) (ps := [.regs, .rc, .abacus, .queues, .rings, .hostOut, .mgmtLog, .mgmt, .smb, .jnl, .log])) hp) ?_
  · have a := h (leAt d 16 2) (BitVec.ofNat 32 (leAt d 24 4) &&& BitVec.ofNat 32 (mask (leAt d 16 2))).toNat
      (putReg (base + leAt d 16 2) (BitVec.ofNat 32 (leAt d 20 4))
      (BitVec.ofNat 32 (leAt d 24 4) &&& BitVec.ofNat 32 (mask (leAt d 16 2))).toNat s)
    have b : Only ps s _ := Only.mono (Only.mono (putReg_only (base + leAt d 16 2) (BitVec.ofNat 32 (leAt d 20 4))
      (BitVec.ofNat 32 (leAt d 24 4) &&& BitVec.ofNat 32 (mask (leAt d 16 2))).toNat s) (ps := [.regs, .rc, .abacus, .queues, .rings, .hostOut, .mgmtLog, .mgmt, .smb, .jnl, .log])) hp
    exact Only.then (Only.then b a (sub_refl _)) (Only.mono (completeRegs_only ..) (ps := [.regs, .rc, .abacus, .queues, .rings, .hostOut, .mgmtLog, .mgmt, .smb, .jnl, .log])) hp

theorem modeWritten_only (o m : Nat) (s : State) :
    Only [.timing] s (modeWritten o m s) := by
  unfold modeWritten
  refine Only.ite ?_ ?_
  · refine Only.upd53 ?_
    exact Only.refl _ _
  · exact Only.refl _ _

end Sys2Proof.Laws
end

