-- ==== Sys2Proof/Laws/MtestFrame.lean ====
section
/-! SUPPORT. What the operations of Machine/Mtest.lean leave as they are. -/

set_option Elab.async false

namespace Sys2Proof.Laws

open Sys2Proof Sys2Proof.Machine

theorem onMtest_only (f : Mtest → Mtest) (s : State) :
    Only [.mtest] s (onMtest f s) := by
  unfold onMtest
  refine Only.upd36 ?_
  exact Only.refl _ _

theorem setMemBlock_only (m : Nat) (x : MemBlock) (s : State) :
    Only [.mtest] s (setMemBlock m x s) := by
  unfold setMemBlock
  refine Only.then ?_ (onMtest_only ..)
  exact Only.refl _ _

theorem softRepair_only (m kind spare index : Nat) (s : State) :
    Only [.rc, .mtest, .rings, .hostOut, .mgmtLog, .smb, .jnl, .log] s (softRepair m kind spare index s) := by
  unfold softRepair
  try dsimp -iota -proj only
  refine Only.ite ?_ ?_
  · refine Only.then ?_ (journal_only ..)
    refine Only.then ?_ (count_only ..)
    refine Only.then ?_ (onMtest_only ..)
    exact Only.refl _ _
  · refine Only.then ?_ (raise_only ..)
    refine Only.then ?_ (count_only ..)
    refine Only.then ?_ (onMtest_only ..)
    exact Only.refl _ _

theorem failBank_only (b : Nat) (s : State) :
    Only [.rc, .abacus, .bank, .queues, .rings, .hostOut, .mgmtLog, .mgmt, .smb, .jnl, .log] s (failBank b s) := by
  unfold failBank
  try dsimp -iota -proj only
  refine Only.then ?_ (raise_only ..)
  refine Only.then ?_ (setBank_only ..)
  refine Only.then ?_ (endRelease_only ..)
  exact Only.refl _ _

theorem failStep_only (k : Nat) (s : State) :
    Only [.free, .rc, .core, .page, .abacus, .mtest, .perf, .queues, .rings, .hostOut, .mgmtLog, .mgmt, .smb, .jnl, .log] s (failStep k s) := by
  unfold failStep
  refine Only.ite ?_ ?_
  · exact Only.refl _ _
  · refine Only.ite ?_ ?_
    · refine Only.then ?_ (retireStep_only ..)
      exact Only.refl _ _
    · refine Only.then ?_ (request_only ..)
      refine Only.upd9 ?_
      exact Only.refl _ _

theorem flagSlot_only (kind gs : Nat) (s : State) :
    Only [.core, .mtest] s (flagSlot kind gs s) := by
  unfold flagSlot
  try dsimp -iota -proj only
  refine Only.ite ?_ ?_
  · refine Only.upd58 ?_
    exact Only.refl _ _
  · refine Only.then ?_ (onMtest_only ..)
    exact Only.refl _ _

theorem failLane_only (l : Nat) (inSide outSide : Bool) (s : State) :
    Only [.rc, .mtest, .rings, .hostOut, .mgmtLog, .smb, .jnl, .log] s (failLane l inSide outSide s) := by
  unfold failLane
  refine Only.then ?_ (raise_only ..)
  refine Only.then ?_ (onMtest_only ..)
  exact Only.refl _ _

theorem failEngine_only (e : Nat) (s : State) :
    Only [.eng] s (failEngine e s) := by
  unfold failEngine
  refine Only.then ?_ (setEng_only ..)
  exact Only.refl _ _

theorem rowBeyond_only (m row : Nat) (s : State) :
    Only [.free, .rc, .core, .page, .abacus, .eng, .bank, .mtest, .perf, .queues, .rings, .hostOut, .mgmtLog, .mgmt, .smb, .jnl, .log] s (rowBeyond m row s) := by
  unfold rowBeyond
  try dsimp -iota -proj only
  split
  · refine Only.then ?_ (failBank_only ..)
    exact Only.refl _ _
  · refine Only.then ?_ (flagSlot_only ..)
    exact Only.refl _ _
  · refine Only.then ?_ (failStep_only ..)
    exact Only.refl _ _
  · refine Only.then ?_ (failStep_only ..)
    exact Only.refl _ _
  · refine Only.then ?_ (failStep_only ..)
    exact Only.refl _ _
  · refine Only.then ?_ (flagSlot_only ..)
    exact Only.refl _ _
  · refine Only.then ?_ (failEngine_only ..)
    exact Only.refl _ _
  · refine Only.then ?_ (failEngine_only ..)
    exact Only.refl _ _
  · exact Only.refl _ _

theorem colBeyond_only (m : Nat) (s : State) :
    Only [.rc, .abacus, .eng, .bank, .mtest, .queues, .rings, .hostOut, .mgmtLog, .mgmt, .smb, .jnl, .log] s (colBeyond m s) := by
  unfold colBeyond
  try dsimp -iota -proj only
  split
  · refine Only.then ?_ (failBank_only ..)
    exact Only.refl _ _
  · refine Only.then ?_ (failLane_only ..)
    exact Only.refl _ _
  · refine Only.then ?_ (failLane_only ..)
    exact Only.refl _ _
  · refine Only.then ?_ (failLane_only ..)
    exact Only.refl _ _
  · refine Only.then ?_ (failLane_only ..)
    exact Only.refl _ _
  · refine Only.then ?_ (failLane_only ..)
    exact Only.refl _ _
  · refine Only.then ?_ (failEngine_only ..)
    exact Only.refl _ _
  · refine Only.then ?_ (failEngine_only ..)
    exact Only.refl _ _
  · exact Only.refl _ _

theorem colFault_only (m col : Nat) (x : MemBlock) (s : State) :
    Only [.rc, .abacus, .eng, .bank, .mtest, .queues, .rings, .hostOut, .mgmtLog, .mgmt, .smb, .jnl, .log] s (colFault m col x s) := by
  unfold colFault
  try dsimp -iota -proj only
  refine Only.ite ?_ ?_
  · refine Only.then ?_ (softRepair_only ..)
    refine Only.then ?_ (setMemBlock_only ..)
    exact Only.refl _ _
  · refine Only.ite ?_ ?_
    · exact Only.refl _ _
    · refine Only.ite ?_ ?_
      · refine Only.then ?_ (raise_only ..)
        refine Only.then ?_ (setMemBlock_only ..)
        exact Only.refl _ _
      · refine Only.then ?_ (colBeyond_only ..)
        refine Only.then ?_ (setMemBlock_only ..)
        exact Only.refl _ _

theorem faultFound_only (f : MemFault) (s : State) :
    Only [.free, .rc, .core, .page, .abacus, .eng, .bank, .mtest, .perf, .queues, .rings, .hostOut, .mgmtLog, .mgmt, .smb, .jnl, .log] s (faultFound f s) := by
  unfold faultFound
  try dsimp -iota -proj only
  refine Only.ite ?_ ?_
  · refine Only.then ?_ (onMtest_only ..)
    refine Only.then ?_ (count_only ..)
    exact Only.refl _ _
  · refine Only.ite ?_ ?_
    · refine Only.then ?_ (colFault_only ..)
      refine Only.then ?_ (onMtest_only ..)
      refine Only.then ?_ (count_only ..)
      exact Only.refl _ _
    · refine Only.ite ?_ ?_
      · refine Only.then ?_ (softRepair_only ..)
        refine Only.then ?_ (setMemBlock_only ..)
        refine Only.then ?_ (onMtest_only ..)
        refine Only.then ?_ (count_only ..)
        exact Only.refl _ _
      · refine Only.then ?_ (rowBeyond_only ..)
        refine Only.then ?_ (setMemBlock_only ..)
        refine Only.then ?_ (onMtest_only ..)
        refine Only.then ?_ (count_only ..)
        exact Only.refl _ _

theorem takeTarget_only (target mode index segment : Nat) (s : State) :
    Only [.mtest] s (takeTarget target mode index segment s) := by
  unfold takeTarget
  try dsimp -iota -proj only
  refine Only.then ?_ (onMtest_only ..)
  exact Only.refl _ _

theorem lendBank_only (b segment : Nat) (s : State) :
    Only [.rc, .bank, .mtest, .perf, .sec] s (lendBank b segment s) := by
  unfold lendBank
  try dsimp -iota -proj only
  refine Only.then ?_ (handOver_only ..)
  refine Only.then ?_ (setBank_only ..)
  refine Only.then ?_ (takeTarget_only ..)
  exact Only.refl _ _

theorem takeFaults_only (inTarget : Nat → Bool) (fs : List MemFault) (s : State) :
    Only [.free, .rc, .core, .page, .abacus, .eng, .bank, .mtest, .perf, .queues, .rings, .hostOut, .mgmtLog, .mgmt, .smb, .jnl, .log] s (takeFaults inTarget fs s) := by
  unfold takeFaults
  refine Only.all ?_ fun x u hu => ?_
  · exact Only.refl _ _
  · refine Only.then ?_ (faultFound_only ..)
    assumption

theorem testedRows_only (covers : Nat × Nat → Bool) (s : State) :
    Only [.mtest] s (testedRows covers s) := by
  unfold testedRows
  refine Only.then ?_ (onMtest_only ..)
  exact Only.refl _ _

theorem targetDone_only (s : State) :
    Only [.rc, .mtest] s (targetDone s) := by
  unfold targetDone
  refine Only.then ?_ (count_only ..)
  refine Only.then ?_ (onMtest_only ..)
  exact Only.refl _ _

theorem returnBank_only (b : Nat) (s : State) :
    Only [.rc, .bank, .mtest, .perf, .sec] s (returnBank b s) := by
  unfold returnBank
  try dsimp -iota -proj only
  refine Only.then ?_ (onMtest_only ..)
  refine Only.ite ?_ ?_
  · refine Only.upd5 ?_
    refine Only.ite ?_ ?_
    · refine Only.then ?_ (setBank_only ..)
      exact Only.refl _ _
    · refine Only.then ?_ (handOver_only ..)
      refine Only.then ?_ (setBank_only ..)
      exact Only.refl _ _
  · refine Only.ite ?_ ?_
    · refine Only.then ?_ (setBank_only ..)
      exact Only.refl _ _
    · refine Only.then ?_ (handOver_only ..)
      refine Only.then ?_ (setBank_only ..)
      exact Only.refl _ _

theorem bankDone_only (b : Nat) (s : State) :
    Only [.rc, .abacus, .bank, .mtest, .perf, .queues, .rings, .hostOut, .sec, .mgmtLog, .mgmt, .smb, .jnl, .log] s (bankDone b s) := by
  unfold bankDone
  try dsimp -iota -proj only
  refine Only.then ?_ (completeOpt_only ..)
  refine Only.then ?_ (targetDone_only ..)
  refine Only.then ?_ (returnBank_only ..)
  exact Only.refl _ _

theorem testStep_only (k : Nat) (s : State) :
    Only [.core, .mtest] s (testStep k s) := by
  unfold testStep
  try dsimp -iota -proj only
  refine Only.then ?_ (onMtest_only ..)
  refine Only.then ?_ (takeTarget_only ..)
  refine Only.upd9 ?_
  exact Only.refl _ _

theorem lentTick_only (s : State) :
    Only [.core, .mtest] s (lentTick s) := by
  unfold lentTick
  split
  · exact Only.refl _ _
  · refine Only.ite ?_ ?_
    · refine Only.then ?_ (testStep_only ..)
      exact Only.refl _ _
    · exact Only.refl _ _

end Sys2Proof.Laws
end

