-- ==== Sys2Proof/Laws/ReplayFrame.lean ====
section
/-! SUPPORT. What the operations of Machine/Replay.lean leave as they are. -/

set_option Elab.async false

namespace Sys2Proof.Laws

open Sys2Proof Sys2Proof.Machine

theorem takeModel_only (keep : Bool) (m : Model) (s : State) :
    Only [.page, .abacus, .prot] s (takeModel keep m s) := by
  unfold takeModel
  try dsimp -iota -proj only
  refine Only.upd68 ?_
  exact Only.refl _ _

theorem refreshModel_only (s : State) :
    Only [.page, .abacus, .prot] s (refreshModel s) := by
  unfold refreshModel
  refine Only.then ?_ (takeModel_only ..)
  exact Only.refl _ _

theorem restoreRegs_only (s : State) :
    Only [.regs] s (restoreRegs s) := by
  unfold restoreRegs
  try dsimp -iota -proj only
  refine Only.all ?_ fun x u hu => ?_
  · refine Only.upd47 ?_
    exact Only.refl _ _
  · refine Only.then ?_ (setReg_only ..)
    assumption

theorem reapplyRepair_only (m kind spare : Nat) (s : State) :
    Only [.mtest] s (reapplyRepair m kind spare s) := by
  unfold reapplyRepair
  try dsimp -iota -proj only
  refine Only.then ?_ (setMemBlock_only ..)
  exact Only.refl _ _

theorem applyLocal_only (s : State) (r : JRec) :
    Only [.core, .timing, .mtest, .jnl] s (applyLocal s r) := by
  unfold applyLocal
  split
  · refine Only.then ?_ (reapplyRepair_only ..)
    exact Only.refl _ _
  · refine Only.upd9 ?_
    exact Only.refl _ _
  · refine Only.upd53 ?_
    exact Only.refl _ _
  · refine Only.upd29 ?_
    exact Only.refl _ _
  · exact Only.refl _ _

theorem restoreOwner_only (rs : List JRec) (s : State) :
    Only [.rc, .rc64, .rings, .hostOut, .sec, .mgmtLog, .smb, .jnl, .log] s (restoreOwner rs s) := by
  unfold restoreOwner
  try dsimp -iota -proj only
  split
  · split
    · refine Only.then ?_ (count_only ..)
      refine Only.upd48 ?_
      refine Only.cond ?_ fun u hu => ?_
      · exact Only.refl _ _
      · refine Only.then ?_ (opStart_only ..)
        assumption
    · refine Only.then ?_ (raise_only ..)
      refine Only.cond ?_ fun u hu => ?_
      · exact Only.refl _ _
      · refine Only.then ?_ (opStart_only ..)
        assumption
  · exact Only.refl _ _

theorem restoreSlot_only (rs : List JRec) (k : Nat) (s : State) :
    Only [.rc, .rc64, .rings, .hostOut, .sec, .mgmtLog, .smb, .jnl, .log] s (restoreSlot rs k s) := by
  unfold restoreSlot
  try dsimp -iota -proj only
  split
  · exact Only.refl _ _
  · refine Only.then ?_ (setKeySlot_only ..)
    exact Only.refl _ _
  · split
    · refine Only.then ?_ (count_only ..)
      refine Only.then ?_ (setKeySlot_only ..)
      refine Only.cond ?_ fun u hu => ?_
      · exact Only.refl _ _
      · refine Only.then ?_ (opStart_only ..)
        assumption
    · refine Only.then ?_ (raise_only ..)
      refine Only.then ?_ (setKeySlot_only ..)
      refine Only.cond ?_ fun u hu => ?_
      · exact Only.refl _ _
      · refine Only.then ?_ (opStart_only ..)
        assumption

theorem restoreCounter_only (e : Nat × Nat × Nat × Nat) (s : State) :
    Only [.regs, .queues] s (restoreCounter e s) := by
  unfold restoreCounter
  try dsimp -iota -proj only
  split
  · refine Only.ite ?_ ?_
    · refine Only.then ?_ (setQueue_only ..)
      refine Only.then ?_ (setReg_only ..)
      exact Only.refl _ _
    · exact Only.refl _ _

theorem restoreKeys_only (s : State) :
    Only [.regs, .rc, .rc64, .queues, .rings, .hostOut, .sec, .mgmtLog, .smb, .jnl, .log] s (restoreKeys s) := by
  unfold restoreKeys
  try dsimp -iota -proj only
  refine Only.ite ?_ ?_
  · exact Only.refl _ _
  · refine Only.all ?_ fun x u hu => ?_
    · refine Only.all ?_ fun x u hu => ?_
      · refine Only.then ?_ (restoreOwner_only ..)
        exact Only.refl _ _
      · refine Only.then ?_ (restoreSlot_only ..)
        assumption
    · refine Only.then ?_ (restoreCounter_only ..)
      assumption

theorem randomBytes_only (n : Nat) (s : State) :
    Only [.free] s (randomBytes n s).2 := by
  unfold randomBytes
  refine Only.pair2 ?_
  refine Only.upd12 ?_
  exact Only.refl _ _

theorem randomBytes_only' {n : Nat} {s : State} {x : Bytes} {post : State} (h : randomBytes n s = (x, post)) : Only [.free] s post := by
  have := randomBytes_only n s; rw [h] at this; exact this

theorem setJnlState_only (st : Nat) (s : State) :
    Only [.rc, .rings, .hostOut, .mgmtLog, .smb, .jnl, .log] s (setJnlState st s) := by
  unfold setJnlState
  try dsimp -iota -proj only
  refine Only.ite ?_ ?_
  · exact Only.refl _ _
  · refine Only.ite ?_ ?_
    · refine Only.then ?_ (raise_only ..)
      refine Only.then ?_ (raise_only ..)
      refine Only.upd29 ?_
      exact Only.refl _ _
    · refine Only.ite ?_ ?_
      · refine Only.then ?_ (raise_only ..)
        refine Only.then ?_ (raise_only ..)
        refine Only.upd29 ?_
        exact Only.refl _ _
      · refine Only.then ?_ (raise_only ..)
        refine Only.upd29 ?_
        exact Only.refl _ _

theorem newEpoch_only (cause : Nat) (s : State) :
    Only [.free, .jnl] s (newEpoch cause s) := by
  unfold newEpoch
  try dsimp -iota -proj only
  split
  · refine Only.then ?_ (journal_only ..)
    refine Only.then ?_ (onRegions_only ..)
    refine Only.upd29 ?_
    refine Only.then ?_ (randomBytes_only' ‹randomBytes .. = (_, _)›)
    exact Only.refl _ _

theorem startRegions_only (a b : Bool) (s : State) :
    Only [.rc, .rings, .hostOut, .mgmtLog, .smb, .jnl, .log] s (startRegions a b s) := by
  unfold startRegions
  try dsimp -iota -proj only
  refine Only.then ?_ (setJnlState_only ..)
  refine Only.upd29 ?_
  exact Only.refl _ _

theorem resumeSeq_only (s : State) :
    Only [.jnl] s (resumeSeq s) := by
  unfold resumeSeq
  try dsimp -iota -proj only
  refine Only.upd29 ?_
  exact Only.refl _ _

theorem forgetLearning_only (s : State) :
    Only [.timing] s (forgetLearning s) := by
  unfold forgetLearning
  refine Only.upd53 ?_
  exact Only.refl _ _

theorem replay_only (cause : Nat) (a b : Bool) (s : State) :
    Only [.free, .regs, .rc, .rc64, .core, .page, .abacus, .prot, .timing, .mtest, .queues, .rings, .hostOut, .sec, .mgmtLog, .smb, .jnl, .log] s (replay cause a b s) := by
  unfold replay
  try dsimp -iota -proj only
  refine Only.ite ?_ ?_
  · refine Only.then ?_ (raise_only ..)
    refine Only.then ?_ (startRegions_only ..)
    refine Only.then ?_ (forgetLearning_only ..)
    exact Only.refl _ _
  · refine Only.then ?_ (newEpoch_only ..)
    refine Only.then ?_ (restoreKeys_only ..)
    refine Only.then ?_ (takeModel_only ..)
    refine Only.fold ?_ fun u x hu => ?_
    · refine Only.then ?_ (restoreRegs_only ..)
      refine Only.then ?_ (countN_only ..)
      refine Only.then ?_ (countOpens_only ..)
      refine Only.cond ?_ fun u hu => ?_
      · refine Only.then ?_ (resumeSeq_only ..)
        refine Only.then ?_ (startRegions_only ..)
        refine Only.then ?_ (forgetLearning_only ..)
        exact Only.refl _ _
      · refine Only.then ?_ (raise_only ..)
        assumption
    · refine Only.then ?_ (applyLocal_only ..)
      assumption

end Sys2Proof.Laws
end

