-- ==== Sys2Proof/Laws/JnlRowsFrame.lean ====
section
/-! SUPPORT. What the operations of Machine/JnlRows.lean leave as they are. -/

set_option Elab.async false

namespace Sys2Proof.Laws

open Sys2Proof Sys2Proof.Machine

theorem setRegion_only (d : Nat) (r : Region) (s : State) :
    Only [.jnl] s (setRegion d r s) := by
  unfold setRegion
  refine Only.upd29 ?_
  exact Only.refl _ _

theorem takeCommit_only (id cs : Nat) (rs : List JRec) (s : State) :
    Only [.jnl] s (takeCommit id cs rs s) := by
  unfold takeCommit
  refine Only.then ?_ (onRegions_only ..)
  refine Only.upd29 ?_
  exact Only.refl _ _

theorem settleWaiters_only (s : State) :
    Only [.rc, .abacus, .queues, .rings, .hostOut, .mgmtLog, .mgmt, .smb, .jnl, .log] s (settleWaiters s) := by
  unfold settleWaiters
  try dsimp -iota -proj only
  refine Only.upd29 ?_
  refine Only.ite ?_ ?_
  · refine Only.then ?_ (releaseWaiters_only ..)
    exact Only.refl _ _
  · refine Only.then ?_ (releaseWaiters_only ..)
    refine Only.then ?_ (releaseWaiters_only ..)
    exact Only.refl _ _

theorem persistOne_only (s : State) :
    Only [.rc, .rc64, .sec, .jnl] s (persistOne s) := by
  unfold persistOne
  split
  · exact Only.refl _ _
  · refine Only.then ?_ (countN_only ..)
    refine Only.then ?_ (opStart_only ..)
    refine Only.upd29 ?_
    exact Only.refl _ _

theorem persistAll_only (n : Nat) (s : State) : Only [.rc, .rc64, .sec, .jnl] s (persistAll n s) := by
  induction n generalizing s with
  | zero => exact Only.refl _ _
  | succ n ih => exact Only.then (Only.mono (persistOne_only ..)) (ih ..)

theorem autoCompact_only (s : State) :
    Only [.jnl] s (autoCompact s) := by
  unfold autoCompact
  try dsimp -iota -proj only
  refine Only.ite ?_ ?_
  · refine Only.upd29 ?_
    exact Only.refl _ _
  · exact Only.refl _ _

theorem abandonCompaction_only (st : Nat) (s : State) :
    Only [.rc, .abacus, .queues, .rings, .hostOut, .mgmtLog, .mgmt, .smb, .jnl, .log] s (abandonCompaction st s) := by
  unfold abandonCompaction
  split
  · exact Only.refl _ _
  · refine Only.then ?_ (completeOpt_only ..)
    refine Only.upd29 ?_
    exact Only.refl _ _

theorem commitCompaction_only (cs : Nat) (s : State) :
    Only [.rc, .rc64, .sec, .jnl] s (commitCompaction cs s) := by
  unfold commitCompaction
  try dsimp -iota -proj only
  refine Only.then ?_ (count_only ..)
  refine Only.then ?_ (takeCommit_only ..)
  refine Only.upd29 ?_
  refine Only.then ?_ (persistAll_only ..)
  refine Only.then ?_ (opStart_only ..)
  refine Only.then ?_ (journal_only ..)
  refine Only.then ?_ (onRegions_only ..)
  exact Only.refl _ _

theorem regionLeaves_only (d : Nat) (s : State) :
    Only [.rc, .abacus, .queues, .rings, .hostOut, .mgmtLog, .mgmt, .smb, .jnl, .log] s (regionLeaves d s) := by
  unfold regionLeaves
  try dsimp -iota -proj only
  refine Only.ite ?_ ?_
  · refine Only.then ?_ (setJnlState_only ..)
    refine Only.then ?_ (setRegion_only ..)
    exact Only.refl _ _
  · refine Only.then ?_ (releaseWaiters_only ..)
    refine Only.then ?_ (abandonCompaction_only ..)
    refine Only.then ?_ (setJnlState_only ..)
    refine Only.then ?_ (setRegion_only ..)
    exact Only.refl _ _

end Sys2Proof.Laws
end

