-- ==== Sys2Proof/Laws/PortRowsFrame.lean ====
section
/-! SUPPORT. What the operations of Machine/PortRows.lean leave as they are. -/

set_option Elab.async false

namespace Sys2Proof.Laws

open Sys2Proof Sys2Proof.Machine

theorem leaveService_only (p : Nat) (s : State) :
    Only [.ports] s (leaveService p s) := by
  unfold leaveService
  refine Only.ite ?_ ?_
  · refine Only.then ?_ (unbindPort_only ..)
    exact Only.refl _ _
  · exact Only.refl _ _

theorem fallTo_only (p : Nat) (st : BitVec 3) (s : State) :
    Only [.ports] s (fallTo p st s) := by
  unfold fallTo
  try dsimp -iota -proj only
  refine Only.then ?_ (advancePort_only ..)
  refine Only.then ?_ (setPort_only ..)
  refine Only.then ?_ (leaveService_only ..)
  exact Only.refl _ _

theorem enterService_only (p : Nat) (s : State) :
    Only [.rc, .ports, .page, .abacus, .mtest, .rings, .hostOut, .mgmtLog, .smb, .jnl, .log] s (enterService p s) := by
  unfold enterService
  try dsimp -iota -proj only
  refine Only.cond ?_ fun u hu => ?_
  · refine Only.cond ?_ fun u hu => ?_
    · refine Only.cond ?_ fun u hu => ?_
      · refine Only.then ?_ (bindPort_only ..)
        refine Only.then ?_ (setPort_only ..)
        exact Only.refl _ _
      · refine Only.then ?_ (setFollow_only ..)
        assumption
    · refine Only.then ?_ (raise_only ..)
      assumption
  · refine Only.then ?_ (askRebind_only ..)
    assumption

theorem enterAgreed_only (p : Nat) (s : State) :
    Only [.rc, .ports, .page, .abacus, .mtest, .rings, .hostOut, .mgmtLog, .smb, .jnl, .log] s (enterAgreed p s) := by
  unfold enterAgreed
  try dsimp -iota -proj only
  refine Only.ite ?_ ?_
  · refine Only.then ?_ (enterService_only ..)
    refine Only.then ?_ (setPort_only ..)
    exact Only.refl _ _
  · refine Only.then ?_ (setPort_only ..)
    exact Only.refl _ _

theorem portBack_only (p : Nat) (s : State) :
    Only [.ports] s (portBack p s) := by
  unfold portBack
  try dsimp -iota -proj only
  refine Only.ite ?_ ?_
  · exact Only.refl _ _
  · refine Only.ite ?_ ?_
    · refine Only.then ?_ (fallTo_only ..)
      exact Only.refl _ _
    · refine Only.ite ?_ ?_
      · refine Only.ite ?_ ?_
        · exact Only.refl _ _
        · refine Only.then ?_ (fallTo_only ..)
          exact Only.refl _ _
      · refine Only.ite ?_ ?_
        · refine Only.then ?_ (fallTo_only ..)
          exact Only.refl _ _
        · refine Only.ite ?_ ?_
          · refine Only.then ?_ (enterCapability_only ..)
            refine Only.then ?_ (leaveService_only ..)
            exact Only.refl _ _
          · refine Only.ite ?_ ?_
            · refine Only.then ?_ (setPort_only ..)
              refine Only.then ?_ (leaveService_only ..)
              exact Only.refl _ _
            · exact Only.refl _ _

theorem portForward_only (p : Nat) (s : State) :
    Only [.rc, .ports, .page, .abacus, .mtest, .rings, .hostOut, .mgmtLog, .smb, .jnl, .log] s (portForward p s) := by
  unfold portForward
  try dsimp -iota -proj only
  refine Only.ite ?_ ?_
  · refine Only.then ?_ (enterAgreed_only ..)
    exact Only.refl _ _
  · refine Only.ite ?_ ?_
    · refine Only.then ?_ (enterService_only ..)
      exact Only.refl _ _
    · exact Only.refl _ _

theorem portSlip_only (p : Nat) (s : State) :
    Only [.ports] s (portSlip p s) := by
  unfold portSlip
  split
  · refine Only.ite ?_ ?_
    · refine Only.then ?_ (rebindTo_only ..)
      exact Only.refl _ _
    · exact Only.refl _ _
  · exact Only.refl _ _

theorem portCond_only (p : Nat) (s : State) :
    Only [.rc, .ports, .perf] s (portCond p s) := by
  unfold portCond
  try dsimp -iota -proj only
  refine Only.ite ?_ ?_
  · refine Only.then ?_ (perfEv_only ..)
    refine Only.then ?_ (count_only ..)
    refine Only.then ?_ (setPort_only ..)
    exact Only.refl _ _
  · exact Only.refl _ _

theorem portTick_only (p : Nat) (s : State) :
    Only [.rc, .lanes, .ports, .page, .abacus, .mtest, .perf, .rings, .hostOut, .mgmtLog, .smb, .jnl, .log] s (portTick p s) := by
  unfold portTick
  refine Only.then ?_ (portSlip_only ..)
  refine Only.then ?_ (portForward_only ..)
  refine Only.then ?_ (portBack_only ..)
  refine Only.then ?_ (closeGroup_only ..)
  exact Only.refl _ _

theorem condsTick_only (s : State) :
    Only [.rc, .ports, .perf] s (condsTick s) := by
  unfold condsTick
  refine Only.all ?_ fun x u hu => ?_
  · exact Only.refl _ _
  · refine Only.then ?_ (portCond_only ..)
    assumption

theorem portsTick_only (s : State) :
    Only [.rc, .lanes, .ports, .page, .abacus, .mtest, .perf, .rings, .hostOut, .mgmtLog, .smb, .jnl, .log] s (portsTick s) := by
  unfold portsTick
  refine Only.all ?_ fun x u hu => ?_
  · exact Only.refl _ _
  · refine Only.then ?_ (portTick_only ..)
    assumption

theorem capTake_only (p : Nat) (b : Bytes) (s : State) :
    Only [.rc, .ports, .rings, .hostOut, .mgmtLog, .smb, .jnl, .log] s (capTake p b s) := by
  unfold capTake
  try dsimp -iota -proj only
  refine Only.ite ?_ ?_
  · refine Only.then ?_ (setPort_only ..)
    exact Only.refl _ _
  · refine Only.cond ?_ fun u hu => ?_
    · refine Only.then ?_ (setPort_only ..)
      exact Only.refl _ _
    · refine Only.then ?_ (raise_only ..)
      assumption

theorem nameMismatched_only (p : Nat) (ls : List Nat) (s : State) :
    Only [.rc, .rings, .hostOut, .mgmtLog, .smb, .jnl, .log] s (nameMismatched p ls s) := by
  unfold nameMismatched
  refine Only.all ?_ fun x u hu => ?_
  · exact Only.refl _ _
  · refine Only.then ?_ (raise_only ..)
    assumption

theorem startPort_only (p : Nat) (s : State) :
    Only [.rc, .lanes, .ports, .rings, .hostOut, .mgmtLog, .smb, .jnl, .log] s (startPort p s) := by
  unfold startPort
  try dsimp -iota -proj only
  refine Only.ite ?_ ?_
  · refine Only.then ?_ (advancePort_only ..)
    refine Only.then ?_ (nameMismatched_only ..)
    refine Only.then ?_ (setPort_only ..)
    refine Only.all ?_ fun x u hu => ?_
    · exact Only.refl _ _
    · refine Only.then ?_ (setLane_only ..)
      assumption
  · exact Only.refl _ _

theorem writePortCfg_only (p : Nat) (v : Word) (s : State) :
    Only [.regs, .rc, .lanes, .ports, .page, .rings, .hostOut, .mgmtLog, .smb, .jnl, .log] s (writePortCfg p v s) := by
  unfold writePortCfg
  try dsimp -iota -proj only
  refine Only.then ?_ (startPort_only ..)
  refine Only.then ?_ (putReg_only ..)
  refine Only.cond ?_ fun u hu => ?_
  · refine Only.cond ?_ fun u hu => ?_
    · exact Only.refl _ _
    · refine Only.then ?_ (setFollow_only ..)
      assumption
  · refine Only.then ?_ (setPort_only ..)
    assumption

theorem writeLnCfg_only (l : Nat) (v : Word) (s : State) :
    Only [.regs, .rc, .lanes, .ports, .timing, .perf, .rings, .hostOut, .mgmtLog, .smb, .jnl, .log] s (writeLnCfg l v s) := by
  unfold writeLnCfg
  try dsimp -iota -proj only
  refine Only.ite ?_ ?_
  · refine Only.all ?_ fun x u hu => ?_
    · refine Only.ite ?_ ?_
      · refine Only.then ?_ (putReg_only ..)
        exact Only.refl _ _
      · refine Only.ite ?_ ?_
        · refine Only.ite ?_ ?_
          · refine Only.then ?_ (startTraining_only ..)
            refine Only.then ?_ (putReg_only ..)
            exact Only.refl _ _
          · refine Only.then ?_ (putReg_only ..)
            exact Only.refl _ _
        · refine Only.ite ?_ ?_
          · refine Only.then ?_ (putReg_only ..)
            exact Only.refl _ _
          · refine Only.then ?_ (laneOff_only ..)
            refine Only.then ?_ (putReg_only ..)
            exact Only.refl _ _
    · refine Only.then ?_ (leaveBond_only ..)
      assumption
  · refine Only.then ?_ (nameMismatched_only ..)
    refine Only.all ?_ fun x u hu => ?_
    · refine Only.ite ?_ ?_
      · refine Only.then ?_ (putReg_only ..)
        exact Only.refl _ _
      · refine Only.ite ?_ ?_
        · refine Only.ite ?_ ?_
          · refine Only.then ?_ (startTraining_only ..)
            refine Only.then ?_ (putReg_only ..)
            exact Only.refl _ _
          · refine Only.then ?_ (putReg_only ..)
            exact Only.refl _ _
        · refine Only.ite ?_ ?_
          · refine Only.then ?_ (putReg_only ..)
            exact Only.refl _ _
          · refine Only.then ?_ (laneOff_only ..)
            refine Only.then ?_ (putReg_only ..)
            exact Only.refl _ _
    · refine Only.then ?_ (leaveBond_only ..)
      assumption

theorem writeTdCfg_only (p : Nat) (v : Word) (s : State) :
    Only [.regs, .rc, .ports, .page, .abacus, .mtest] s (writeTdCfg p v s) := by
  unfold writeTdCfg
  try dsimp -iota -proj only
  refine Only.ite ?_ ?_
  · refine Only.then ?_ (putReg_only ..)
    exact Only.refl _ _
  · refine Only.ite ?_ ?_
    · refine Only.then ?_ (askRebind_only ..)
      refine Only.then ?_ (setPort_only ..)
      refine Only.then ?_ (putReg_only ..)
      exact Only.refl _ _
    · refine Only.then ?_ (setPort_only ..)
      refine Only.then ?_ (putReg_only ..)
      exact Only.refl _ _

theorem idleTick_only (s : State) :
    Only [.pwr] s (idleTick s) := by
  unfold idleTick
  try dsimp -iota -proj only
  refine Only.all ?_ fun x u hu => ?_
  · exact Only.refl _ _
  · refine Only.upd44 ?_
    assumption

theorem domainOff_only (d : Nat) (s : State) :
    Only [.rc, .lanes, .ports, .timing, .perf, .rings, .hostOut, .mgmtLog, .smb, .jnl, .pwr, .log] s (domainOff d s) := by
  unfold domainOff
  try dsimp -iota -proj only
  refine Only.then ?_ (setPort_only ..)
  refine Only.upd44 ?_
  refine Only.all ?_ fun x u hu => ?_
  · exact Only.refl _ _
  · refine Only.then ?_ (setLane_only ..)
    refine Only.then ?_ (loseAlignment_only ..)
    assumption

theorem domainOn_only (d : Nat) (s : State) :
    Only [.rc, .lanes, .ports, .rings, .hostOut, .mgmtLog, .smb, .jnl, .pwr, .log] s (domainOn d s) := by
  unfold domainOn
  try dsimp -iota -proj only
  refine Only.then ?_ (startPort_only ..)
  refine Only.all ?_ fun x u hu => ?_
  · refine Only.upd44 ?_
    exact Only.refl _ _
  · refine Only.then ?_ (startTraining_only ..)
    assumption

end Sys2Proof.Laws
end

