-- ==== Sys2Proof/Laws/CopyFrame.lean ====
section
/-! SUPPORT. What the operations of Machine/Copy.lean leave as they are. -/

set_option Elab.async false

namespace Sys2Proof.Laws

open Sys2Proof Sys2Proof.Machine

theorem onCopy_only (f : Copy → Copy) (s : State) :
    Only [.copy] s (onCopy f s) := by
  unfold onCopy
  refine Only.upd8 ?_
  exact Only.refl _ _

theorem setClaimEn_only (b : Bool) (s : State) :
    Only [.ssw] s (setClaimEn b s) := by
  unfold setClaimEn
  try dsimp -iota -proj only
  refine Only.ite ?_ ?_
  · exact Only.refl _ _
  · refine Only.upd51 ?_
    exact Only.refl _ _

theorem setCopySt_only (st : Nat) (s : State) :
    Only [.rc, .rings, .hostOut, .mgmtLog, .smb, .jnl, .copy, .ssw, .log] s (setCopySt st s) := by
  unfold setCopySt
  try dsimp -iota -proj only
  refine Only.ite ?_ ?_
  · exact Only.refl _ _
  · refine Only.ite ?_ ?_
    · refine Only.then ?_ (raise_only ..)
      refine Only.then ?_ (onCopy_only ..)
      exact Only.refl _ _
    · refine Only.ite ?_ ?_
      · refine Only.then ?_ (setClaimEn_only ..)
        refine Only.then ?_ (raise_only ..)
        refine Only.then ?_ (onCopy_only ..)
        exact Only.refl _ _
      · refine Only.ite ?_ ?_
        · refine Only.then ?_ (setClaimEn_only ..)
          refine Only.then ?_ (raise_only ..)
          refine Only.then ?_ (onCopy_only ..)
          exact Only.refl _ _
        · refine Only.then ?_ (raise_only ..)
          refine Only.then ?_ (onCopy_only ..)
          exact Only.refl _ _

theorem sendPx_only (type : Byte) (payload : Bytes) (s : State) :
    Only [.lanes] s (sendPx type payload s) := by
  unfold sendPx
  split
  · refine Only.then ?_ (sendFrame_only ..)
    exact Only.refl _ _
  · exact Only.refl _ _

theorem copyOps_only (n : Nat) (bad : Bool) (s : State) :
    Only [.rc, .rc64, .sec] s (copyOps n bad s) := by
  unfold copyOps
  refine Only.then ?_ (countOpens_only ..)
  exact Only.refl _ _

theorem dropItems_only (s : State) :
    Only [.jnl, .copy] s (dropItems s) := by
  unfold dropItems
  refine Only.then ?_ (onRegions_only ..)
  refine Only.then ?_ (onCopy_only ..)
  exact Only.refl _ _

theorem stopCopy_only (st : Nat) (s : State) :
    Only [.rc, .rings, .hostOut, .mgmtLog, .smb, .jnl, .copy, .ssw, .log] s (stopCopy st s) := by
  unfold stopCopy
  refine Only.then ?_ (setCopySt_only ..)
  refine Only.then ?_ (dropItems_only ..)
  refine Only.then ?_ (onCopy_only ..)
  exact Only.refl _ _

theorem streamPut_only (b : Bytes) (s : State) :
    Only [.copy] s (streamPut b s) := by
  unfold streamPut
  refine Only.then ?_ (onCopy_only ..)
  exact Only.refl _ _

theorem putRecord_only (r : JRec) (s : State) :
    Only [.rc, .rc64, .sec, .copy] s (putRecord r s) := by
  unfold putRecord
  try dsimp -iota -proj only
  refine Only.then ?_ (onCopy_only ..)
  refine Only.then ?_ (streamPut_only ..)
  refine Only.then ?_ (copyOps_only ..)
  exact Only.refl _ _

theorem putCkpt_only (s : State) :
    Only [.rc, .rc64, .sec, .copy] s (putCkpt s) := by
  unfold putCkpt
  try dsimp -iota -proj only
  refine Only.then ?_ (streamPut_only ..)
  refine Only.then ?_ (copyOps_only ..)
  exact Only.refl _ _

theorem startStream_only (first : Nat) (s : State) :
    Only [.copy] s (startStream first s) := by
  unfold startStream
  refine Only.then ?_ (streamPut_only ..)
  refine Only.then ?_ (onCopy_only ..)
  exact Only.refl _ _

theorem chooseCopy_only (s : State) :
    Only [.free, .regs, .rc, .rc64, .abacus, .queues, .rings, .hostOut, .sec, .mgmtLog, .mgmt, .smb, .jnl, .copy, .ssw, .log] s (chooseCopy s) := by
  unfold chooseCopy
  try dsimp -iota -proj only
  refine Only.ite ?_ ?_
  · refine Only.then ?_ (setCopySt_only ..)
    refine Only.then ?_ (startStream_only ..)
    exact Only.refl _ _
  · refine Only.ite ?_ ?_
    · refine Only.ite ?_ ?_
      · exact Only.refl _ _
      · refine Only.upd29 ?_
        exact Only.refl _ _
    · refine Only.ite ?_ ?_
      · refine Only.then ?_ (stopCopy_only ..)
        exact Only.refl _ _
      · refine Only.ite ?_ ?_
        · refine Only.then ?_ (setCopySt_only ..)
          refine Only.then ?_ (putCkpt_only ..)
          refine Only.then ?_ (startStream_only ..)
          refine Only.then ?_ (dpReady_only ..)
          exact Only.refl _ _
        · refine Only.then ?_ (dpReady_only ..)
          exact Only.refl _ _

theorem putRecords_only (rs : List JRec) (s : State) : Only [.free, .regs, .rc, .rc64, .abacus, .queues, .rings, .hostOut, .sec, .mgmtLog, .mgmt, .smb, .jnl, .copy, .log] s (putRecords rs s) := by
  induction rs generalizing s with
  | nil => exact Only.refl _ _
  | cons r rs ih =>
    unfold putRecords
    dsimp -iota -proj only
    refine Only.ite (Only.refl _ _) (Only.ite ?_ ?_)
    · refine Only.then (Only.then ?_ (putRecord_only ..)) (ih ..)
      exact Only.mono (dpReady_only ..)
    · exact Only.mono (dpReady_only ..)

theorem formStream_only (s : State) :
    Only [.free, .regs, .rc, .rc64, .abacus, .queues, .rings, .hostOut, .sec, .mgmtLog, .mgmt, .smb, .jnl, .copy, .log] s (formStream s) := by
  unfold formStream
  refine Only.then ?_ (putRecords_only ..)
  exact Only.refl _ _

theorem sendCopy_only (l : Nat) (s : State) :
    Only [.lanes, .copy] s (sendCopy l s) := by
  unfold sendCopy
  try dsimp -iota -proj only
  refine Only.ite ?_ ?_
  · exact Only.refl _ _
  · refine Only.then ?_ (onCopy_only ..)
    refine Only.then ?_ (sendFrame_only ..)
    exact Only.refl _ _

theorem copyTick_only (s : State) :
    Only [.free, .regs, .rc, .rc64, .lanes, .abacus, .queues, .rings, .hostOut, .sec, .mgmtLog, .mgmt, .smb, .jnl, .copy, .ssw, .log] s (copyTick s) := by
  unfold copyTick
  try dsimp -iota -proj only
  refine Only.ite ?_ ?_
  · refine Only.then ?_ (settleWaiters_only ..)
    refine Only.ite ?_ ?_
    · refine Only.ite ?_ ?_
      · exact Only.refl _ _
      · refine Only.then ?_ (stopCopy_only ..)
        exact Only.refl _ _
    · refine Only.ite ?_ ?_
      · refine Only.ite ?_ ?_
        · exact Only.refl _ _
        · refine Only.then ?_ (stopCopy_only ..)
          exact Only.refl _ _
      · refine Only.ite ?_ ?_
        · refine Only.then ?_ (stopCopy_only ..)
          exact Only.refl _ _
        · exact Only.refl _ _
  · refine Only.ite ?_ ?_
    · refine Only.all ?_ fun x u hu => ?_
      · refine Only.then ?_ (formStream_only ..)
        refine Only.ite ?_ ?_
        · refine Only.then ?_ (chooseCopy_only ..)
          refine Only.ite ?_ ?_
          · refine Only.ite ?_ ?_
            · exact Only.refl _ _
            · refine Only.then ?_ (stopCopy_only ..)
              exact Only.refl _ _
          · refine Only.ite ?_ ?_
            · refine Only.ite ?_ ?_
              · exact Only.refl _ _
              · refine Only.then ?_ (stopCopy_only ..)
                exact Only.refl _ _
            · refine Only.ite ?_ ?_
              · refine Only.then ?_ (stopCopy_only ..)
                exact Only.refl _ _
              · exact Only.refl _ _
        · refine Only.ite ?_ ?_
          · refine Only.ite ?_ ?_
            · exact Only.refl _ _
            · refine Only.then ?_ (stopCopy_only ..)
              exact Only.refl _ _
          · refine Only.ite ?_ ?_
            · refine Only.ite ?_ ?_
              · exact Only.refl _ _
              · refine Only.then ?_ (stopCopy_only ..)
                exact Only.refl _ _
            · refine Only.ite ?_ ?_
              · refine Only.then ?_ (stopCopy_only ..)
                exact Only.refl _ _
              · exact Only.refl _ _
      · refine Only.then ?_ (sendCopy_only ..)
        assumption
    · refine Only.then ?_ (settleWaiters_only ..)
      refine Only.ite ?_ ?_
      · refine Only.then ?_ (chooseCopy_only ..)
        refine Only.ite ?_ ?_
        · refine Only.ite ?_ ?_
          · exact Only.refl _ _
          · refine Only.then ?_ (stopCopy_only ..)
            exact Only.refl _ _
        · refine Only.ite ?_ ?_
          · refine Only.ite ?_ ?_
            · exact Only.refl _ _
            · refine Only.then ?_ (stopCopy_only ..)
              exact Only.refl _ _
          · refine Only.ite ?_ ?_
            · refine Only.then ?_ (stopCopy_only ..)
              exact Only.refl _ _
            · exact Only.refl _ _
      · refine Only.ite ?_ ?_
        · refine Only.ite ?_ ?_
          · exact Only.refl _ _
          · refine Only.then ?_ (stopCopy_only ..)
            exact Only.refl _ _
        · refine Only.ite ?_ ?_
          · refine Only.ite ?_ ?_
            · exact Only.refl _ _
            · refine Only.then ?_ (stopCopy_only ..)
              exact Only.refl _ _
          · refine Only.ite ?_ ?_
            · refine Only.then ?_ (stopCopy_only ..)
              exact Only.refl _ _
            · exact Only.refl _ _

theorem journalPeer_only (p : JPay) (origin : Nat) (s : State) :
    Only [.jnl] s (journalPeer p origin s) := by
  unfold journalPeer
  try dsimp -iota -proj only
  refine Only.ite ?_ ?_
  · exact Only.refl _ _
  · refine Only.upd29 ?_
    exact Only.refl _ _

theorem takeTerm_only (t : Nat) (s : State) :
    Only [.rc, .rings, .hostOut, .mgmtLog, .smb, .jnl, .copy, .ssw, .log] s (takeTerm t s) := by
  unfold takeTerm
  try dsimp -iota -proj only
  refine Only.ite ?_ ?_
  · refine Only.then ?_ (setCopySt_only ..)
    refine Only.then ?_ (onCopy_only ..)
    refine Only.upd29 ?_
    exact Only.refl _ _
  · refine Only.then ?_ (onCopy_only ..)
    refine Only.upd29 ?_
    exact Only.refl _ _

theorem takePeer_only (p : JPay) (origin pos : Nat) (s : State) :
    Only [.rc, .page, .abacus, .prot, .rings, .hostOut, .mgmtLog, .smb, .jnl, .copy, .ssw, .log] s (takePeer p origin pos s) := by
  unfold takePeer
  try dsimp -iota -proj only
  refine Only.then ?_ (refreshModel_only ..)
  split
  · refine Only.then ?_ (takeTerm_only ..)
    refine Only.then ?_ (onCopy_only ..)
    refine Only.then ?_ (journalPeer_only ..)
    exact Only.refl _ _
  · refine Only.then ?_ (onCopy_only ..)
    refine Only.then ?_ (journalPeer_only ..)
    exact Only.refl _ _

theorem takeRecord_only (b : Bytes) (pos : Nat) (s : State) :
    Only [.rc, .rc64, .page, .abacus, .prot, .rings, .hostOut, .sec, .mgmtLog, .smb, .jnl, .copy, .ssw, .log] s (takeRecord b pos s) := by
  unfold takeRecord
  try dsimp -iota -proj only
  split
  · refine Only.then ?_ (copyOps_only ..)
    exact Only.refl _ _
  · refine Only.ite ?_ ?_
    · refine Only.then ?_ (onCopy_only ..)
      refine Only.then ?_ (copyOps_only ..)
      exact Only.refl _ _
    · split
      · refine Only.then ?_ (takePeer_only ..)
        refine Only.then ?_ (onCopy_only ..)
        refine Only.then ?_ (copyOps_only ..)
        exact Only.refl _ _
      · refine Only.then ?_ (onCopy_only ..)
        refine Only.then ?_ (copyOps_only ..)
        exact Only.refl _ _

theorem takeCkpt_only (id term origin : Nat) (sha : Bytes) (pays : List JPay) (pos : Nat) (s : State) :
    Only [.rc, .page, .abacus, .prot, .rings, .hostOut, .mgmtLog, .smb, .jnl, .copy, .ssw, .log] s (takeCkpt id term origin sha pays pos s) := by
  unfold takeCkpt
  try dsimp -iota -proj only
  refine Only.then ?_ (takeTerm_only ..)
  refine Only.then ?_ (refreshModel_only ..)
  refine Only.then ?_ (onCopy_only ..)
  refine Only.then ?_ (onRegions_only ..)
  refine Only.then ?_ (journalPeer_only ..)
  refine Only.upd29 ?_
  split
  · refine Only.then ?_ (raise_only ..)
    exact Only.refl _ _
  · exact Only.refl _ _

theorem takeCommitItem_only (b : Bytes) (pos : Nat) (s : State) :
    Only [.rc, .rc64, .page, .abacus, .prot, .rings, .hostOut, .sec, .mgmtLog, .smb, .jnl, .copy, .ssw, .log] s (takeCommitItem b pos s) := by
  unfold takeCommitItem
  try dsimp -iota -proj only
  split
  · refine Only.ite ?_ ?_
    · refine Only.then ?_ (dropItems_only ..)
      refine Only.then ?_ (copyOps_only ..)
      exact Only.refl _ _
    · refine Only.then ?_ (takeCkpt_only ..)
      refine Only.then ?_ (copyOps_only ..)
      exact Only.refl _ _
  · refine Only.then ?_ (dropItems_only ..)
    refine Only.then ?_ (copyOps_only ..)
    exact Only.refl _ _

theorem takeStart_only (b : Bytes) (pos : Nat) (s : State) :
    Only [.rc, .rings, .hostOut, .mgmtLog, .smb, .jnl, .copy, .ssw, .log] s (takeStart b pos s) := by
  unfold takeStart
  try dsimp -iota -proj only
  refine Only.then ?_ (setCopySt_only ..)
  refine Only.then ?_ (dropItems_only ..)
  refine Only.then ?_ (onCopy_only ..)
  exact Only.refl _ _

theorem takeItem_only (kind : Nat) (b : Bytes) (pos : Nat) (s : State) :
    Only [.rc, .rc64, .page, .abacus, .prot, .rings, .hostOut, .sec, .mgmtLog, .smb, .jnl, .copy, .ssw, .log] s (takeItem kind b pos s) := by
  unfold takeItem
  refine Only.ite ?_ ?_
  · refine Only.then ?_ (takeRecord_only ..)
    exact Only.refl _ _
  · refine Only.ite ?_ ?_
    · refine Only.then ?_ (onRegions_only ..)
      refine Only.then ?_ (onCopy_only ..)
      exact Only.refl _ _
    · refine Only.ite ?_ ?_
      · refine Only.then ?_ (takeCommitItem_only ..)
        exact Only.refl _ _
      · refine Only.ite ?_ ?_
        · refine Only.then ?_ (takeStart_only ..)
          exact Only.refl _ _
        · exact Only.refl _ _

theorem itemReady_only (kind : Nat) (s : State) :
    Only [.free, .regs, .rc, .abacus, .queues, .rings, .hostOut, .sec, .mgmtLog, .mgmt, .smb, .jnl, .log] s (itemReady kind s).2 := by
  unfold itemReady
  split
  · refine Only.then ?_ (dpReady_only ..)
    exact Only.refl _ _
  · exact Only.refl _ _

theorem itemReady_only' {kind : Nat} {s : State} {x : Bool} {post : State} (h : itemReady kind s = (x, post)) : Only [.free, .regs, .rc, .abacus, .queues, .rings, .hostOut, .sec, .mgmtLog, .mgmt, .smb, .jnl, .log] s post := by
  have := itemReady_only kind s; rw [h] at this; exact this

theorem takeItems_only (n : Nat) (s : State) : Only [.free, .regs, .rc, .rc64, .page, .abacus, .prot, .queues, .rings, .hostOut, .sec, .mgmtLog, .mgmt, .smb, .jnl, .copy, .ssw, .log] s (takeItems n s) := by
  induction n generalizing s with
  | zero => exact Only.refl _ _
  | succ n ih =>
    unfold takeItems
    dsimp -iota -proj only
    refine Only.ite (Only.refl _ _) (Only.ite (Only.mono (itemReady_only ..)) ?_)
    refine Only.then (Only.then (Only.then ?_ (onCopy_only ..)) (takeItem_only ..)) (ih ..)
    exact Only.mono (itemReady_only ..)

theorem streamTake_only (p : Nat) (b : Bytes) (s : State) :
    Only [.copy] s (streamTake p b s) := by
  unfold streamTake
  refine Only.then ?_ (onCopy_only ..)
  exact Only.refl _ _

theorem drainHeld_only (n : Nat) (s : State) : Only [.copy] s (drainHeld n s) := by
  induction n generalizing s with
  | zero => exact Only.refl _ _
  | succ n ih =>
    unfold drainHeld
    split
    · exact Only.refl _ _
    · exact Only.then (Only.then (Only.mono (onCopy_only ..)) (streamTake_only ..)) (ih ..)

theorem askResend_only (s : State) :
    Only [.rc, .lanes, .copy] s (askResend s) := by
  unfold askResend
  refine Only.then ?_ (sendPx_only ..)
  refine Only.then ?_ (count_only ..)
  refine Only.then ?_ (onCopy_only ..)
  exact Only.refl _ _

theorem sendAck_only (s : State) :
    Only [.lanes, .copy] s (sendAck s) := by
  unfold sendAck
  try dsimp -iota -proj only
  refine Only.then ?_ (sendPx_only ..)
  refine Only.then ?_ (onCopy_only ..)
  exact Only.refl _ _

theorem takeReady_only (s : State) :
    Only [.free, .regs, .rc, .rc64, .lanes, .page, .abacus, .prot, .queues, .rings, .hostOut, .sec, .mgmtLog, .mgmt, .smb, .jnl, .copy, .ssw, .log] s (takeReady s) := by
  unfold takeReady
  try dsimp -iota -proj only
  refine Only.ite ?_ ?_
  · refine Only.then ?_ (sendAck_only ..)
    refine Only.then ?_ (takeItems_only ..)
    exact Only.refl _ _
  · refine Only.then ?_ (takeItems_only ..)
    exact Only.refl _ _

theorem copyData_only (p : Nat) (b : Bytes) (s : State) :
    Only [.free, .regs, .rc, .rc64, .lanes, .page, .abacus, .prot, .queues, .rings, .hostOut, .sec, .mgmtLog, .mgmt, .smb, .jnl, .copy, .ssw, .log] s (copyData p b s) := by
  unfold copyData
  try dsimp -iota -proj only
  refine Only.ite ?_ ?_
  · refine Only.then ?_ (askResend_only ..)
    refine Only.ite ?_ ?_
    · refine Only.then ?_ (dropItems_only ..)
      refine Only.then ?_ (onCopy_only ..)
      exact Only.refl _ _
    · exact Only.refl _ _
  · refine Only.ite ?_ ?_
    · refine Only.then ?_ (onCopy_only ..)
      refine Only.ite ?_ ?_
      · refine Only.then ?_ (dropItems_only ..)
        refine Only.then ?_ (onCopy_only ..)
        exact Only.refl _ _
      · exact Only.refl _ _
    · refine Only.then ?_ (takeReady_only ..)
      refine Only.then ?_ (onCopy_only ..)
      refine Only.then ?_ (drainHeld_only ..)
      refine Only.then ?_ (streamTake_only ..)
      refine Only.ite ?_ ?_
      · refine Only.then ?_ (dropItems_only ..)
        refine Only.then ?_ (onCopy_only ..)
        exact Only.refl _ _
      · exact Only.refl _ _

theorem marksTick_only (s : State) :
    Only [.free, .regs, .rc, .rc64, .lanes, .page, .abacus, .prot, .queues, .rings, .hostOut, .sec, .mgmtLog, .mgmt, .smb, .jnl, .copy, .ssw, .log] s (marksTick s) := by
  unfold marksTick
  try dsimp -iota -proj only
  split
  · refine Only.ite ?_ ?_
    · refine Only.then ?_ (takeReady_only ..)
      exact Only.refl _ _
    · exact Only.refl _ _
  · refine Only.then ?_ (onCopy_only ..)
    refine Only.ite ?_ ?_
    · refine Only.then ?_ (takeReady_only ..)
      exact Only.refl _ _
    · exact Only.refl _ _

end Sys2Proof.Laws
end

