-- ==== Sys2Proof/Laws/EnginesFrame.lean ====
section
/-! SUPPORT. What the operations of Machine/Engines.lean leave as they are. -/

set_option Elab.async false

namespace Sys2Proof.Laws

open Sys2Proof Sys2Proof.Machine

theorem onEngines_only (f : Engines → Engines) (s : State) :
    Only [.eng] s (onEngines f s) := by
  unfold onEngines
  refine Only.upd10 ?_
  exact Only.refl _ _

theorem setCl_only (c st : Nat) (s : State) :
    Only [.eng] s (setCl c st s) := by
  unfold setCl
  refine Only.then ?_ (onEngines_only ..)
  exact Only.refl _ _

theorem mapCluster_only (c : Nat) (f : Eng → Eng) (s : State) :
    Only [.eng] s (mapCluster c f s) := by
  unfold mapCluster
  try dsimp -iota -proj only
  refine Only.all ?_ fun x u hu => ?_
  · exact Only.refl _ _
  · refine Only.ite ?_ ?_
    · assumption
    · refine Only.then ?_ (setEng_only ..)
      assumption

theorem beginRestart_only (r : Restart) (s : State) :
    Only [.rc, .eng] s (beginRestart r s) := by
  unfold beginRestart
  try dsimp -iota -proj only
  refine Only.cond ?_ fun u hu => ?_
  · refine Only.then ?_ (setCl_only ..)
    refine Only.then ?_ (onEngines_only ..)
    exact Only.refl _ _
  · refine Only.then ?_ (count_only ..)
    assumption

theorem askRestart_only (r : Restart) (s : State) :
    Only [.rc, .eng] s (askRestart r s) := by
  unfold askRestart
  split
  · refine Only.then ?_ (beginRestart_only ..)
    exact Only.refl _ _
  · refine Only.ite ?_ ?_
    · refine Only.then ?_ (beginRestart_only ..)
      refine Only.then ?_ (setCl_only ..)
      refine Only.then ?_ (onEngines_only ..)
      exact Only.refl _ _
    · refine Only.then ?_ (onEngines_only ..)
      exact Only.refl _ _

theorem haltEngine_only (e : Nat) (s : State) :
    Only [.rc, .eng, .perf, .rings, .hostOut, .mgmtLog, .smb, .jnl, .log] s (haltEngine e s) := by
  unfold haltEngine
  try dsimp -iota -proj only
  refine Only.ite ?_ ?_
  · refine Only.then ?_ (raise_only ..)
    refine Only.then ?_ (count_only ..)
    refine Only.then ?_ (setEng_only ..)
    refine Only.then ?_ (perfCatch_only ..)
    exact Only.refl _ _
  · refine Only.then ?_ (askRestart_only ..)
    refine Only.then ?_ (raise_only ..)
    refine Only.then ?_ (count_only ..)
    refine Only.then ?_ (setEng_only ..)
    refine Only.then ?_ (perfCatch_only ..)
    exact Only.refl _ _

theorem takeMessages_only (s : State) :
    Only [.eng, .perf] s (takeMessages s) := by
  unfold takeMessages
  try dsimp -iota -proj only
  refine Only.all ?_ fun x u hu => ?_
  · exact Only.refl _ _
  · refine Only.then ?_ (engineEv_only ..)
    refine Only.then ?_ (setEng_only ..)
    assumption

theorem moveBanks_only (bs : List Nat) (c : Nat) (s : State) :
    Only [.rc, .bank, .perf, .sec] s (moveBanks bs c s) := by
  unfold moveBanks
  try dsimp -iota -proj only
  refine Only.all ?_ fun x u hu => ?_
  · exact Only.refl _ _
  · refine Only.ite ?_ ?_
    · assumption
    · refine Only.ite ?_ ?_
      · refine Only.then ?_ (setBank_only ..)
        assumption
      · refine Only.then ?_ (handOver_only ..)
        assumption

theorem nextRestart_only (xs : List Restart) (s : State) : Only [.rc, .abacus, .eng, .queues, .rings, .hostOut, .mgmtLog, .mgmt, .smb, .jnl, .log] s (nextRestart xs s) := by
  induction xs generalizing s with
  | nil => exact Only.mono (onEngines_only ..)
  | cons x xs ih =>
    unfold nextRestart
    refine Only.ite ?_ ?_
    · exact Only.then (Only.mono (completeOpt_only ..)) (ih ..)
    · refine Only.then ?_ (beginRestart_only ..)
      exact Only.mono (onEngines_only ..)

theorem unfitRestart_only (r : Restart) (s : State) :
    Only [.rc, .abacus, .eng, .queues, .rings, .hostOut, .mgmtLog, .mgmt, .smb, .jnl, .log] s (unfitRestart r s) := by
  unfold unfitRestart
  try dsimp -iota -proj only
  refine Only.then ?_ (completeOpt_only ..)
  refine Only.then ?_ (nextRestart_only ..)
  refine Only.then ?_ (setCl_only ..)
  refine Only.then ?_ (onEngines_only ..)
  exact Only.refl _ _

theorem restartTick_only (s : State) :
    Only [.rc, .abacus, .eng, .mtest, .queues, .rings, .hostOut, .mgmtLog, .mgmt, .smb, .jnl, .log] s (restartTick s) := by
  unfold restartTick
  try dsimp -iota -proj only
  split
  · exact Only.refl _ _
  · split
    · refine Only.ite ?_ ?_
      · refine Only.then ?_ (unfitRestart_only ..)
        exact Only.refl _ _
      · refine Only.ite ?_ ?_
        · refine Only.then ?_ (takeTarget_only ..)
          exact Only.refl _ _
        · exact Only.refl _ _
    · refine Only.ite ?_ ?_
      · exact Only.refl _ _
      · refine Only.then ?_ (completeOpt_only ..)
        refine Only.then ?_ (nextRestart_only ..)
        refine Only.cond ?_ fun u hu => ?_
        · refine Only.then ?_ (setCl_only ..)
          refine Only.then ?_ (onEngines_only ..)
          exact Only.refl _ _
        · refine Only.then ?_ (count_only ..)
          assumption

theorem clearOverruns_only (s : State) :
    Only [.eng] s (clearOverruns s) := by
  unfold clearOverruns
  try dsimp -iota -proj only
  refine Only.upd10 ?_
  exact Only.refl _ _

theorem enginesTick_only (ended : Nat) (s : State) :
    Only [.tick, .regs, .rc, .eng, .perf, .rings, .hostOut, .mgmtLog, .smb, .jnl, .log] s (enginesTick ended s) := by
  unfold enginesTick
  refine Only.then ?_ (takeMessages_only ..)
  refine Only.then ?_ (clearOverruns_only ..)
  refine Only.then ?_ (flushWraps_only ..)
  refine Only.then ?_ (shadowCopy_only ..)
  refine Only.then ?_ (enginesDone_only ..)
  exact Only.refl _ _

end Sys2Proof.Laws
end

