-- ==== Sys2Proof/Laws/ImagesFrame.lean ====
section
/-! SUPPORT. What the operations of Machine/Images.lean leave as they are. -/

set_option Elab.async false

namespace Sys2Proof.Laws

open Sys2Proof Sys2Proof.Machine

theorem onBootRec_only (f : Image → Image) (s : State) :
    Only [.image] s (onBootRec f s) := by
  unfold onBootRec
  refine Only.upd28 ?_
  exact Only.refl _ _

theorem boot_only (s : State) :
    Only [.image] s (boot s).1 := by
  unfold boot
  try dsimp -iota -proj only
  refine Only.pair1 ?_
  refine Only.upd28 ?_
  exact Only.refl _ _

theorem boot_only' {s : State} {x : Bool} {post : State} (h : boot s = (post, x)) : Only [.image] s post := by
  have := boot_only s; rw [h] at this; exact this

end Sys2Proof.Laws
end

