-- ==== Sys2Proof/Laws/MonitorFrame.lean ====
section
/-! SUPPORT. What the operations of Machine/Monitor.lean leave as they are. -/

set_option Elab.async false

namespace Sys2Proof.Laws

open Sys2Proof Sys2Proof.Machine

theorem setHist_only (o : Nat) (h : Hist) (s : State) :
    Only [.pm] s (setHist o h s) := by
  unfold setHist
  refine Only.upd41 ?_
  exact Only.refl _ _

theorem mapHist_only (f : Nat → Hist → Hist) (s : State) :
    Only [.pm] s (mapHist f s) := by
  unfold mapHist
  refine Only.upd41 ?_
  exact Only.refl _ _

theorem latchPm_only (day : Bool) (s : State) :
    Only [.pm] s (latchPm day s) := by
  unfold latchPm
  refine Only.upd41 ?_
  exact Only.refl _ _

theorem reportDefects_only (o : Nat) (s : State) :
    Only [.rc, .pm, .rings, .hostOut, .mgmtLog, .smb, .jnl, .log] s (reportDefects o s) := by
  unfold reportDefects
  try dsimp -iota -proj only
  refine Only.all ?_ fun x u hu => ?_
  · exact Only.refl _ _
  · split
    · assumption
    · refine Only.then ?_ (raise_only ..)
      refine Only.then ?_ (setHist_only ..)
      assumption

theorem endMonitor_only (o : Nat) (s : State) :
    Only [.rc, .pm, .rings, .hostOut, .mgmtLog, .smb, .jnl, .log] s (endMonitor o s) := by
  unfold endMonitor
  try dsimp -iota -proj only
  refine Only.all ?_ fun x u hu => ?_
  · refine Only.then ?_ (setHist_only ..)
    exact Only.refl _ _
  · split
    · assumption
    · refine Only.then ?_ (raiseX_only ..)
      assumption

theorem tallyAdd_only (o : Nat) (counts : List Nat) (s : State) :
    Only [.rc, .eng, .bank, .sram, .mtest, .perf, .rings, .hostOut, .mgmtLog, .smb, .jnl, .log] s (tallyAdd o counts s) := by
  unfold tallyAdd
  try dsimp -iota -proj only
  refine Only.upd1 ?_
  refine Only.all ?_ fun x u hu => ?_
  · exact Only.refl _ _
  · refine Only.then ?_ (accessStep_only ..)
    assumption

theorem tally_only (o : Nat) (dropped : Bool) (s : State) :
    Only [.rc, .pm, .eng, .bank, .sram, .mtest, .perf, .rings, .hostOut, .mgmtLog, .smb, .jnl, .log] s (tally o dropped s) := by
  unfold tally
  try dsimp -iota -proj only
  split
  · refine Only.ite ?_ ?_
    · exact Only.refl _ _
    · refine Only.cond ?_ fun u hu => ?_
      · refine Only.then ?_ (setHist_only ..)
        exact Only.refl _ _
      · refine Only.then ?_ (tallyAdd_only ..)
        assumption

theorem noteShape_only (o : Nat) (s : State) :
    Only [.pm] s (noteShape o s) := by
  unfold noteShape
  try dsimp -iota -proj only
  refine Only.ite ?_ ?_
  · exact Only.refl _ _
  · refine Only.ite ?_ ?_
    · refine Only.then ?_ (setHist_only ..)
      exact Only.refl _ _
    · refine Only.then ?_ (setHist_only ..)
      exact Only.refl _ _

theorem beginMonitor_only (o : Nat) (s : State) :
    Only [.pm] s (beginMonitor o s) := by
  unfold beginMonitor
  try dsimp -iota -proj only
  refine Only.then ?_ (setHist_only ..)
  exact Only.refl _ _

theorem monitorObj_only (o : Nat) (on_ : Bool) (dropped : Bool) (s : State) :
    Only [.rc, .pm, .eng, .bank, .sram, .mtest, .perf, .rings, .hostOut, .mgmtLog, .smb, .jnl, .log] s (monitorObj o on_ dropped s) := by
  unfold monitorObj
  try dsimp -iota -proj only
  refine Only.ite ?_ ?_
  · refine Only.ite ?_ ?_
    · refine Only.then ?_ (endMonitor_only ..)
      exact Only.refl _ _
    · exact Only.refl _ _
  · refine Only.then ?_ (tally_only ..)
    refine Only.then ?_ (reportDefects_only ..)
    refine Only.then ?_ (setHist_only ..)
    refine Only.then ?_ (noteShape_only ..)
    refine Only.ite ?_ ?_
    · exact Only.refl _ _
    · refine Only.then ?_ (beginMonitor_only ..)
      exact Only.refl _ _

theorem monitorCut_only (o : Nat) (off on_ dropped : Bool) (s : State) :
    Only [.rc, .pm, .eng, .bank, .sram, .mtest, .perf, .rings, .hostOut, .mgmtLog, .smb, .jnl, .log] s (monitorCut o off on_ dropped s) := by
  unfold monitorCut
  refine Only.then ?_ (monitorObj_only ..)
  refine Only.cond ?_ fun u hu => ?_
  · exact Only.refl _ _
  · refine Only.then ?_ (endMonitor_only ..)
    assumption

theorem monitorLane_only (l : Nat) (s : State) :
    Only [.rc, .pm, .eng, .bank, .sram, .mtest, .perf, .rings, .hostOut, .mgmtLog, .smb, .jnl, .log] s (monitorLane l s) := by
  unfold monitorLane
  refine Only.then ?_ (monitorCut_only ..)
  exact Only.refl _ _

theorem windowOverflow_only (s : State) :
    Only [.rc, .pm] s (windowOverflow s).2 := by
  unfold windowOverflow
  try dsimp -iota -proj only
  refine Only.pair2 ?_
  refine Only.cond ?_ fun u hu => ?_
  · refine Only.then ?_ (mapHist_only ..)
    exact Only.refl _ _
  · refine Only.then ?_ (count_only ..)
    assumption

theorem windowOverflow_only' {s : State} {x : List Nat} {post : State} (h : windowOverflow s = (x, post)) : Only [.rc, .pm] s post := by
  have := windowOverflow_only s; rw [h] at this; exact this

theorem asOf_only {ps : List Part} (t : Nat) (f : State → State) (s : State)
    (h : ∀ u, Only ps u (f u)) : Only ps s (asOf t f s) :=
  ⟨fun p hp => by cases p <;> first | exact rfl | exact (h _).same _ hp⟩

theorem monitorAll_only (s : State) :
    Only [.rc, .pm, .eng, .bank, .sram, .mtest, .perf, .rings, .hostOut, .mgmtLog, .smb, .jnl, .log] s (monitorAll s) := by
  unfold monitorAll
  try dsimp -iota -proj only
  split
  · refine Only.all ?_ fun x u hu => ?_
    · refine Only.then ?_ (windowOverflow_only' ‹windowOverflow .. = (_, _)›)
      refine Only.all ?_ fun x u hu => ?_
      · refine Only.all ?_ fun x u hu => ?_
        · refine Only.ite ?_ ?_
          · exact Only.refl _ _
          · refine Only.then ?_ (latchPm_only ..)
            exact Only.refl _ _
        · refine Only.then ?_ (monitorLane_only ..)
          assumption
      · refine Only.ite ?_ ?_
        · refine Only.then ?_ (monitorCut_only ..)
          assumption
        · assumption
    · refine Only.then ?_ (monitorCut_only ..)
      assumption

theorem monitorTick_only (s : State) : Only [.rc, .pm, .eng, .bank, .sram, .mtest, .perf, .rings, .hostOut, .mgmtLog, .smb, .jnl, .log] s (monitorTick s) :=
  asOf_only _ _ s monitorAll_only

theorem clearTickCounts_only (s : State) :
    Only [.lanes, .ports, .core, .pm] s (clearTickCounts s) := by
  unfold clearTickCounts
  refine Only.upd71 ?_
  exact Only.refl _ _

theorem closeBins_only (day : Bool) (flag : BitVec 8) (newFlag : BitVec 8) (s : State) :
    Only [.pm] s (closeBins day flag newFlag s) := by
  unfold closeBins
  try dsimp -iota -proj only
  refine Only.upd41 ?_
  refine Only.then ?_ (mapHist_only ..)
  exact Only.refl _ _

theorem flagBins_only (day : Bool) (flag : BitVec 8) (s : State) :
    Only [.pm] s (flagBins day flag s) := by
  unfold flagBins
  refine Only.then ?_ (mapHist_only ..)
  exact Only.refl _ _

theorem turnBins_only (day change : Bool) (s : State) :
    Only [.pm] s (turnBins day change s) := by
  unfold turnBins
  try dsimp -iota -proj only
  refine Only.ite ?_ ?_
  · refine Only.ite ?_ ?_
    · refine Only.then ?_ (flagBins_only ..)
      exact Only.refl _ _
    · refine Only.then ?_ (closeBins_only ..)
      exact Only.refl _ _
  · refine Only.ite ?_ ?_
    · refine Only.then ?_ (closeBins_only ..)
      exact Only.refl _ _
    · exact Only.refl _ _

theorem turnDay_only (change : Bool) (s : State) :
    Only [.pm] s (turnDay change s) := by
  unfold turnDay
  refine Only.ite ?_ ?_
  · refine Only.then ?_ (closeBins_only ..)
    exact Only.refl _ _
  · refine Only.then ?_ (turnBins_only ..)
    exact Only.refl _ _

theorem countInfo_only (s : State) :
    Only [.pm] s (countInfo s) := by
  unfold countInfo
  try dsimp -iota -proj only
  refine Only.upd41 ?_
  exact Only.refl _ _

theorem nextSecond_only (s : State) :
    Only [.pm] s (nextSecond s) := by
  unfold nextSecond
  refine Only.upd41 ?_
  exact Only.refl _ _

theorem startMonitor_only (s : State) :
    Only [.pm] s (startMonitor s) := by
  unfold startMonitor
  try dsimp -iota -proj only
  refine Only.then ?_ (nextSecond_only ..)
  refine Only.then ?_ (latchPm_only ..)
  refine Only.upd41 ?_
  refine Only.then ?_ (mapHist_only ..)
  exact Only.refl _ _

theorem endSecond_only (s : State) :
    Only [.rc, .pm] s (endSecond s) := by
  unfold endSecond
  try dsimp -iota -proj only
  refine Only.then ?_ (nextSecond_only ..)
  refine Only.upd41 ?_
  refine Only.then ?_ (latchPm_only ..)
  refine Only.then ?_ (turnDay_only ..)
  refine Only.then ?_ (turnBins_only ..)
  refine Only.then ?_ (countInfo_only ..)
  refine Only.then ?_ (mapHist_only ..)
  refine Only.then ?_ (countN_only ..)
  exact Only.refl _ _

theorem setHalves_only (p : Nat) (h : Halves) (s : State) :
    Only [.pm] s (setHalves p h s) := by
  unfold setHalves
  refine Only.upd41 ?_
  exact Only.refl _ _

theorem giveHalf_only (p n owner : Nat) (s : State) :
    Only [.rc, .bank, .perf, .sec] s (giveHalf p n owner s) := by
  unfold giveHalf
  try dsimp -iota -proj only
  refine Only.all ?_ fun x u hu => ?_
  · exact Only.refl _ _
  · refine Only.ite ?_ ?_
    · assumption
    · refine Only.ite ?_ ?_
      · refine Only.then ?_ (setBank_only ..)
        assumption
      · refine Only.then ?_ (handOver_only ..)
        assumption

theorem foldPort_only (p n : Nat) (s : State) :
    Only [.pm] s (foldPort p n s) := by
  unfold foldPort
  refine Only.then ?_ (mapHist_only ..)
  exact Only.refl _ _

theorem clearRecords_only (p n : Nat) (s : State) :
    Only [.sram] s (clearRecords p n s) := by
  unfold clearRecords
  try dsimp -iota -proj only
  refine Only.upd4 ?_
  refine Only.all ?_ fun x u hu => ?_
  · exact Only.refl _ _
  · refine Only.then ?_ (zeroBank_only ..)
    assumption

end Sys2Proof.Laws
end

