-- ==== Sys2Proof/Laws/RingsFrame.lean ====
section
/-! SUPPORT. What the operations of Machine/Rings.lean leave as they are. -/

set_option Elab.async false

namespace Sys2Proof.Laws

open Sys2Proof Sys2Proof.Machine

theorem setRing_only (r : Nat) (x : EvRing) (s : State) :
    Only [.rings] s (setRing r x s) := by
  unfold setRing
  refine Only.upd22 ?_
  exact Only.refl _ _

theorem ringError_only (r cause : Nat) (s : State) :
    Only [.rc, .rings, .hostOut, .mgmtLog, .smb, .jnl, .log] s (ringError r cause s) := by
  unfold ringError
  try dsimp -iota -proj only
  refine Only.then ?_ (raise_only ..)
  refine Only.then ?_ (fire_only ..)
  refine Only.then ?_ (setRing_only ..)
  exact Only.refl _ _

theorem doorbell_only {ps : List Part} (b : Bell) (f : Nat) (v : Word) (move : Nat → State → State)
    (range : State → State) (s : State) (hm : ∀ i u, Only ps u (move i u)) (hr : ∀ u, Only ps u (range u))
    (hp : sub [.rc] ps = true := by rfl) : Only ps s (doorbell b f v move range s) := by
  unfold doorbell
  dsimp -iota -proj only
  refine Only.ite (Only.mono (count_only ..) hp) (Only.ite ?_ (Only.ite (Only.refl _ _) (hm ..)))
  exact Only.then (Only.mono (count_only ..) hp) (hr _) (sub_refl _)

theorem queueRange_only (q : Nat) (s : State) :
    Only [.rc, .abacus, .queues, .rings, .hostOut, .mgmtLog, .smb, .jnl, .log] s (queueRange q s) := by
  unfold queueRange
  try dsimp -iota -proj only
  refine Only.ite ?_ ?_
  · exact Only.refl _ _
  · refine Only.ite ?_ ?_
    · refine Only.then ?_ (finishClosing_only ..)
      refine Only.then ?_ (setQueue_only ..)
      refine Only.then ?_ (queueError_only ..)
      exact Only.refl _ _
    · refine Only.then ?_ (queueError_only ..)
      exact Only.refl _ _

theorem setQcfg_only (q : Nat) (v : Word) (s : State) :
    Only [.regs, .queues] s (setQcfg q v s) := by
  unfold setQcfg
  try dsimp -iota -proj only
  refine Only.ite ?_ ?_
  · refine Only.then ?_ (setQueue_only ..)
    refine Only.then ?_ (setReg_only ..)
    exact Only.refl _ _
  · refine Only.then ?_ (setReg_only ..)
    exact Only.refl _ _

theorem openQueue_only (q : Nat) (s : State) :
    Only [.queues] s (openQueue q s) := by
  unfold openQueue
  try dsimp -iota -proj only
  refine Only.then ?_ (setQueue_only ..)
  exact Only.refl _ _

theorem closeQueue_only (q : Nat) (s : State) :
    Only [.regs, .rc, .abacus, .queues, .rings, .hostOut, .mgmtLog, .smb, .jnl, .log] s (closeQueue q s) := by
  unfold closeQueue
  try dsimp -iota -proj only
  refine Only.then ?_ (finishClosing_only ..)
  refine Only.then ?_ (setQueue_only ..)
  refine Only.then ?_ (setReg_only ..)
  exact Only.refl _ _

theorem writeQcfg_only (q : Nat) (v : Word) (s : State) :
    Only [.regs, .rc, .abacus, .queues, .rings, .hostOut, .mgmtLog, .smb, .jnl, .log] s (writeQcfg q v s) := by
  unfold writeQcfg
  refine Only.ite ?_ ?_
  · refine Only.ite ?_ ?_
    · exact Only.refl _ _
    · refine Only.then ?_ (closeQueue_only ..)
      exact Only.refl _ _
  · refine Only.ite ?_ ?_
    · refine Only.then ?_ (setQcfg_only ..)
      exact Only.refl _ _
    · refine Only.ite ?_ ?_
      · exact Only.refl _ _
      · refine Only.then ?_ (openQueue_only ..)
        refine Only.then ?_ (setQcfg_only ..)
        exact Only.refl _ _

theorem writeEqcfg_only (r : Nat) (v : Word) (s : State) :
    Only [.regs, .rings, .hostOut, .mgmtLog, .log] s (writeEqcfg r v s) := by
  unfold writeEqcfg
  try dsimp -iota -proj only
  refine Only.ite ?_ ?_
  · refine Only.ite ?_ ?_
    · exact Only.refl _ _
    · refine Only.then ?_ (setRing_only ..)
      refine Only.then ?_ (setReg_only ..)
      exact Only.refl _ _
  · refine Only.ite ?_ ?_
    · refine Only.then ?_ (setReg_only ..)
      exact Only.refl _ _
    · refine Only.ite ?_ ?_
      · exact Only.refl _ _
      · refine Only.then ?_ (flushDrops_only ..)
        refine Only.then ?_ (setRing_only ..)
        refine Only.then ?_ (setReg_only ..)
        exact Only.refl _ _

theorem fetchEach_only (q : Nat) (ds : List (Option Fetched)) (s : State) :
    Only [.rc, .queues, .rings, .hostOut, .mgmtLog, .smb, .jnl, .log] s (fetchEach q ds s) := by
  induction ds generalizing s with
  | nil => exact Only.refl _ _
  | cons d rest ih =>
    unfold fetchEach
    split
    · exact Only.refl _ _
    · rename_i h; cases h; exact Only.mono (queueError_only ..)
    · rename_i h; cases h
      dsimp -iota -proj only
      refine Only.then ?_ (ih ..)
      exact Only.ite (Only.then (Only.then (Only.refl _ _) (setQueue_only ..)) (fire_only ..))
        (Only.then (Only.refl _ _) (setQueue_only ..))

theorem resetQueue_only (q : Nat) (s : State) :
    Only [.regs, .rc, .abacus, .queues, .rings, .hostOut, .mgmtLog, .smb, .jnl, .log] s (resetQueue q s) := by
  unfold resetQueue
  try dsimp -iota -proj only
  refine Only.ite ?_ ?_
  · refine Only.then ?_ (setReg_only ..)
    exact Only.refl _ _
  · refine Only.then ?_ (closeQueue_only ..)
    refine Only.then ?_ (setQueue_only ..)
    refine Only.cond ?_ fun u hu => ?_
    · exact Only.refl _ _
    · refine Only.then ?_ (queueError_only ..)
      assumption

theorem resetRing_only (r : Nat) (s : State) :
    Only [.regs, .rings] s (resetRing r s) := by
  unfold resetRing
  try dsimp -iota -proj only
  refine Only.then ?_ (setRing_only ..)
  refine Only.then ?_ (setReg_only ..)
  exact Only.refl _ _

theorem resetFunction_only (f : Nat) (s : State) :
    Only [.regs, .rc, .abacus, .queues, .rings, .hostOut, .mgmtLog, .smb, .jnl, .log] s (resetFunction f s) := by
  unfold resetFunction
  try dsimp -iota -proj only
  refine Only.all ?_ fun x u hu => ?_
  · refine Only.all ?_ fun x u hu => ?_
    · exact Only.refl _ _
    · refine Only.then ?_ (resetRing_only ..)
      assumption
  · refine Only.then ?_ (resetQueue_only ..)
    assumption

theorem resetConfig_only (f : Nat) (s : State) :
    Only [.hostOut, .link] s (resetConfig f s) := by
  unfold resetConfig
  try dsimp -iota -proj only
  refine Only.upd27 ?_
  exact Only.refl _ _

theorem hostReset_only (s : State) :
    Only [.regs, .rc, .abacus, .queues, .rings, .hostOut, .link, .mgmtLog, .smb, .jnl, .log] s (hostReset s) := by
  unfold hostReset
  try dsimp -iota -proj only
  refine Only.upd69 ?_
  refine Only.then ?_ (resetFunction_only ..)
  refine Only.upd20 ?_
  exact Only.refl _ _

end Sys2Proof.Laws
end

