-- ==== Sys2Proof/Laws/SeesawFrame.lean ====
section
/-! SUPPORT. What the operations of Machine/Seesaw.lean leave as they are. -/

set_option Elab.async false

namespace Sys2Proof.Laws

open Sys2Proof Sys2Proof.Machine

theorem onSsw_only (f : Seesaw → Seesaw) (s : State) :
    Only [.ssw] s (onSsw f s) := by
  unfold onSsw
  refine Only.upd51 ?_
  exact Only.refl _ _

theorem setRole_only (r : Nat) (s : State) :
    Only [.ssw, .pwr] s (setRole r s) := by
  unfold setRole
  try dsimp -iota -proj only
  refine Only.ite ?_ ?_
  · refine Only.upd44 ?_
    refine Only.then ?_ (onSsw_only ..)
    exact Only.refl _ _
  · refine Only.then ?_ (onSsw_only ..)
    exact Only.refl _ _

theorem holdStandbyOnly_only (s : State) :
    Only [.regs, .ssw] s (holdStandbyOnly s) := by
  unfold holdStandbyOnly
  refine Only.all ?_ fun x u hu => ?_
  · refine Only.then ?_ (onSsw_only ..)
    exact Only.refl _ _
  · refine Only.then ?_ (setReg_only ..)
    assumption

theorem restoreStandbyOnly_only (s : State) :
    Only [.regs, .ssw] s (restoreStandbyOnly s) := by
  unfold restoreStandbyOnly
  refine Only.all ?_ fun x u hu => ?_
  · refine Only.then ?_ (onSsw_only ..)
    exact Only.refl _ _
  · refine Only.then ?_ (setReg_only ..)
    assumption

theorem release_only (cause : Nat) (s : State) :
    Only [.regs, .rc, .rings, .hostOut, .mgmtLog, .smb, .jnl, .copy, .ssw, .pwr, .log] s (release cause s) := by
  unfold release
  try dsimp -iota -proj only
  refine Only.ite ?_ ?_
  · exact Only.refl _ _
  · refine Only.then ?_ (holdStandbyOnly_only ..)
    refine Only.then ?_ (raise_only ..)
    refine Only.then ?_ (stopCopy_only ..)
    refine Only.then ?_ (setRole_only ..)
    refine Only.ite ?_ ?_
    · refine Only.then ?_ (setClaimEn_only ..)
      refine Only.then ?_ (onSsw_only ..)
      refine Only.then ?_ (count_only ..)
      exact Only.refl _ _
    · refine Only.then ?_ (onSsw_only ..)
      refine Only.then ?_ (count_only ..)
      exact Only.refl _ _

theorem abandonPages_only (s : State) :
    Only [.free, .rc, .page, .abacus, .queues, .rings, .hostOut, .mgmtLog, .mgmt, .smb, .jnl, .log] s (abandonPages s) := by
  unfold abandonPages
  try dsimp -iota -proj only
  refine Only.all ?_ fun x u hu => ?_
  · refine Only.then ?_ (onPage_only ..)
    refine Only.all ?_ fun x u hu => ?_
    · refine Only.then ?_ (jobEnds_only ..)
      split
      · refine Only.then ?_ (dropSave_only ..)
        exact Only.refl _ _
      · refine Only.then ?_ (setScen_only ..)
        exact Only.refl _ _
      · refine Only.then ?_ (setScen_only ..)
        exact Only.refl _ _
      · exact Only.refl _ _
    · refine Only.then ?_ (dropWork_only ..)
      assumption
  · refine Only.then ?_ (complete_only ..)
    assumption

theorem zeroPages_only (s : State) :
    Only [.page] s (zeroPages s) := by
  unfold zeroPages
  refine Only.then ?_ (onPage_only ..)
  exact Only.refl _ _

theorem restoreSelectors_only (s : State) :
    Only [.rc, .prot, .rings, .hostOut, .mgmtLog, .smb, .jnl, .log] s (restoreSelectors s) := by
  unfold restoreSelectors
  refine Only.all ?_ fun x u hu => ?_
  · exact Only.refl _ _
  · refine Only.then ?_ (writeSel_only ..)
    assumption

theorem becomeActive_only (s : State) :
    Only [.free, .rc, .page, .abacus, .prot, .mtest, .perf, .queues, .rings, .hostOut, .mgmtLog, .mgmt, .smb, .jnl, .copy, .ssw, .log] s (becomeActive s) := by
  unfold becomeActive
  try dsimp -iota -proj only
  refine Only.then ?_ (request_only ..)
  refine Only.then ?_ (restoreSelectors_only ..)
  refine Only.then ?_ (journal_only ..)
  refine Only.upd29 ?_
  refine Only.then ?_ (stopCopy_only ..)
  exact Only.refl _ _

theorem loadGroups_only (s : State) :
    Only [.prot] s (loadGroups s) := by
  unfold loadGroups
  refine Only.upd43 ?_
  exact Only.refl _ _

theorem claimLine_only (s : State) :
    Only [.free, .regs, .rc, .page, .abacus, .prot, .bank, .mtest, .perf, .queues, .rings, .hostOut, .sec, .mgmtLog, .mgmt, .smb, .jnl, .copy, .ssw, .pwr, .log] s (claimLine s) := by
  unfold claimLine
  try dsimp -iota -proj only
  refine Only.then ?_ (becomeActive_only ..)
  refine Only.cond ?_ fun u hu => ?_
  · refine Only.then ?_ (raise_only ..)
    refine Only.then ?_ (setRole_only ..)
    refine Only.ite ?_ ?_
    · refine Only.then ?_ (setReg_only ..)
      refine Only.then ?_ (onSsw_only ..)
      refine Only.then ?_ (count_only ..)
      exact Only.refl _ _
    · refine Only.then ?_ (onSsw_only ..)
      refine Only.then ?_ (count_only ..)
      exact Only.refl _ _
  · refine Only.then ?_ (loadGroups_only ..)
    refine Only.then ?_ (refreshModel_only ..)
    refine Only.then ?_ (reallocateBanks_only ..)
    assumption

theorem stepNine_only (s : State) :
    Only [.regs, .rc, .lanes, .ports, .rings, .hostOut, .mgmtLog, .smb, .jnl, .ssw, .pwr, .log] s (stepNine s) := by
  unfold stepNine
  try dsimp -iota -proj only
  refine Only.all ?_ fun x u hu => ?_
  · refine Only.then ?_ (holdStandbyOnly_only ..)
    refine Only.then ?_ (onSsw_only ..)
    refine Only.upd44 ?_
    exact Only.refl _ _
  · refine Only.then ?_ (domainOn_only ..)
    assumption

theorem decideClaim_only (may : Bool) (s : State) :
    Only [.regs, .rc, .lanes, .ports, .rings, .hostOut, .mgmtLog, .smb, .jnl, .ssw, .pwr, .log] s (decideClaim may s) := by
  unfold decideClaim
  try dsimp -iota -proj only
  refine Only.then ?_ (stepNine_only ..)
  refine Only.ite ?_ ?_
  · refine Only.then ?_ (setClaimEn_only ..)
    exact Only.refl _ _
  · refine Only.then ?_ (setRole_only ..)
    refine Only.then ?_ (setClaimEn_only ..)
    exact Only.refl _ _

theorem pathAlive_only (px : Bool) (s : State) :
    Only [.rc, .rings, .hostOut, .mgmtLog, .smb, .jnl, .ssw, .log] s (pathAlive px s) := by
  unfold pathAlive
  try dsimp -iota -proj only
  refine Only.ite ?_ ?_
  · refine Only.then ?_ (onSsw_only ..)
    exact Only.refl _ _
  · refine Only.then ?_ (raiseX_only ..)
    refine Only.then ?_ (onSsw_only ..)
    exact Only.refl _ _

theorem takeHeartbeat_only (b : Bytes) (s : State) :
    Only [.regs, .rc, .lanes, .ports, .rings, .hostOut, .mgmtLog, .smb, .jnl, .ssw, .pwr, .log] s (takeHeartbeat b s) := by
  unfold takeHeartbeat
  try dsimp -iota -proj only
  refine Only.ite ?_ ?_
  · refine Only.then ?_ (decideClaim_only ..)
    refine Only.cond ?_ fun u hu => ?_
    · refine Only.then ?_ (pathAlive_only ..)
      refine Only.then ?_ (onSsw_only ..)
      exact Only.refl _ _
    · refine Only.then ?_ (raise_only ..)
      assumption
  · refine Only.cond ?_ fun u hu => ?_
    · refine Only.then ?_ (pathAlive_only ..)
      refine Only.then ?_ (onSsw_only ..)
      exact Only.refl _ _
    · refine Only.then ?_ (raise_only ..)
      assumption

theorem modeClaim_only (old : Nat) (s : State) :
    Only [.ssw] s (modeClaim old s) := by
  unfold modeClaim
  split
  · refine Only.then ?_ (setClaimEn_only ..)
    exact Only.refl _ _
  · refine Only.ite ?_ ?_
    · exact Only.refl _ _
    · refine Only.then ?_ (setClaimEn_only ..)
      exact Only.refl _ _
  · refine Only.ite ?_ ?_
    · exact Only.refl _ _
    · refine Only.then ?_ (setClaimEn_only ..)
      exact Only.refl _ _

theorem sswTick_only (s : State) :
    Only [.regs, .ssw, .pwr] s (sswTick s) := by
  unfold sswTick
  try dsimp -iota -proj only
  refine Only.ite ?_ ?_
  · refine Only.ite ?_ ?_
    · refine Only.then ?_ (setRole_only ..)
      refine Only.ite ?_ ?_
      · refine Only.then ?_ (onSsw_only ..)
        exact Only.refl _ _
      · exact Only.refl _ _
    · refine Only.ite ?_ ?_
      · refine Only.then ?_ (onSsw_only ..)
        exact Only.refl _ _
      · exact Only.refl _ _
  · refine Only.ite ?_ ?_
    · refine Only.ite ?_ ?_
      · refine Only.then ?_ (restoreStandbyOnly_only ..)
        refine Only.ite ?_ ?_
        · refine Only.then ?_ (setRole_only ..)
          refine Only.ite ?_ ?_
          · refine Only.then ?_ (onSsw_only ..)
            exact Only.refl _ _
          · exact Only.refl _ _
        · refine Only.ite ?_ ?_
          · refine Only.then ?_ (onSsw_only ..)
            exact Only.refl _ _
          · exact Only.refl _ _
      · refine Only.ite ?_ ?_
        · refine Only.then ?_ (setRole_only ..)
          refine Only.ite ?_ ?_
          · refine Only.then ?_ (onSsw_only ..)
            exact Only.refl _ _
          · exact Only.refl _ _
        · refine Only.ite ?_ ?_
          · refine Only.then ?_ (onSsw_only ..)
            exact Only.refl _ _
          · exact Only.refl _ _
    · refine Only.ite ?_ ?_
      · refine Only.then ?_ (restoreStandbyOnly_only ..)
        refine Only.ite ?_ ?_
        · refine Only.then ?_ (setRole_only ..)
          refine Only.ite ?_ ?_
          · refine Only.then ?_ (onSsw_only ..)
            exact Only.refl _ _
          · exact Only.refl _ _
        · refine Only.ite ?_ ?_
          · refine Only.then ?_ (onSsw_only ..)
            exact Only.refl _ _
          · exact Only.refl _ _
      · refine Only.ite ?_ ?_
        · refine Only.then ?_ (setRole_only ..)
          refine Only.ite ?_ ?_
          · refine Only.then ?_ (onSsw_only ..)
            exact Only.refl _ _
          · exact Only.refl _ _
        · refine Only.ite ?_ ?_
          · refine Only.then ?_ (onSsw_only ..)
            exact Only.refl _ _
          · exact Only.refl _ _

end Sys2Proof.Laws
end

