-- ==== Sys2Proof/Laws/PowerOpsFrame.lean ====
section
/-! SUPPORT. What the operations of Machine/PowerOps.lean leave as they are. -/

set_option Elab.async false

namespace Sys2Proof.Laws

open Sys2Proof Sys2Proof.Machine

theorem onPwr_only (f : Pwr → Pwr) (s : State) :
    Only [.pwr] s (onPwr f s) := by
  unfold onPwr
  refine Only.upd44 ?_
  exact Only.refl _ _

theorem dropRestarts_only (s : State) :
    Only [.rc, .abacus, .eng, .queues, .rings, .hostOut, .mgmtLog, .mgmt, .smb, .jnl, .log] s (dropRestarts s) := by
  unfold dropRestarts
  try dsimp -iota -proj only
  refine Only.all ?_ fun x u hu => ?_
  · refine Only.then ?_ (onEngines_only ..)
    exact Only.refl _ _
  · refine Only.then ?_ (complete_only ..)
    assumption

theorem dropBankWork_only (s : State) :
    Only [.rc, .abacus, .bank, .mtest, .queues, .rings, .hostOut, .mgmtLog, .mgmt, .smb, .jnl, .log] s (dropBankWork s) := by
  unfold dropBankWork
  try dsimp -iota -proj only
  refine Only.all ?_ fun x u hu => ?_
  · refine Only.upd56 ?_
    exact Only.refl _ _
  · refine Only.then ?_ (complete_only ..)
    assumption

theorem dropGroupAsks_only (s : State) :
    Only [.rc, .abacus, .prot, .queues, .rings, .hostOut, .mgmtLog, .mgmt, .smb, .jnl, .log] s (dropGroupAsks s) := by
  unfold dropGroupAsks
  try dsimp -iota -proj only
  refine Only.all ?_ fun x u hu => ?_
  · refine Only.upd43 ?_
    exact Only.refl _ _
  · refine Only.then ?_ (complete_only ..)
    assumption

theorem dropWindowOps_only (s : State) :
    Only [.rc, .abacus, .queues, .rings, .hostOut, .sec, .mgmtLog, .mgmt, .smb, .jnl, .log] s (dropWindowOps s) := by
  unfold dropWindowOps
  try dsimp -iota -proj only
  refine Only.all ?_ fun x u hu => ?_
  · refine Only.upd48 ?_
    exact Only.refl _ _
  · refine Only.then ?_ (completeOpt_only ..)
    refine Only.then ?_ (unload_only ..)
    assumption

theorem dropCoreWork_only (s : State) :
    Only [.free, .rc, .page, .abacus, .prot, .eng, .bank, .mtest, .queues, .rings, .hostOut, .sec, .mgmtLog, .mgmt, .smb, .jnl, .log] s (dropCoreWork s) := by
  unfold dropCoreWork
  refine Only.then ?_ (dropWindowOps_only ..)
  refine Only.then ?_ (dropGroupAsks_only ..)
  refine Only.then ?_ (dropBankWork_only ..)
  refine Only.then ?_ (dropRestarts_only ..)
  refine Only.then ?_ (abandonPages_only ..)
  exact Only.refl _ _

theorem coreOff_only (s : State) :
    Only [.free, .regs, .rc, .lanes, .ports, .core, .page, .abacus, .prot, .pm, .timing, .eng, .bank, .sram, .mtest, .perf, .queues, .rings, .hostOut, .sec, .mgmtLog, .mgmt, .smb, .jnl, .copy, .ssw, .pwr, .frames, .log] s (coreOff s) := by
  unfold coreOff
  try dsimp -iota -proj only
  refine Only.upd77 ?_
  refine Only.then ?_ (perfCatch_only ..)
  refine Only.all ?_ fun x u hu => ?_
  · refine Only.then ?_ (stopCopy_only ..)
    refine Only.then ?_ (dropCoreWork_only ..)
    exact Only.refl _ _
  · refine Only.then ?_ (loseRefs_only ..)
    assumption

theorem trip_only (s : State) :
    Only [.free, .regs, .rc, .lanes, .ports, .core, .page, .abacus, .prot, .pm, .timing, .eng, .bank, .sram, .mtest, .perf, .queues, .rings, .hostOut, .sec, .mgmtLog, .mgmt, .sens, .smb, .jnl, .copy, .ssw, .pwr, .frames, .log] s (trip s) := by
  unfold trip
  try dsimp -iota -proj only
  refine Only.ite ?_ ?_
  · refine Only.then ?_ (onPwr_only ..)
    refine Only.then ?_ (onSsw_only ..)
    refine Only.then ?_ (coreOff_only ..)
    refine Only.then ?_ (raise_only ..)
    refine Only.upd49 ?_
    refine Only.then ?_ (release_only ..)
    exact Only.refl _ _
  · refine Only.then ?_ (raise_only ..)
    refine Only.upd49 ?_
    refine Only.then ?_ (release_only ..)
    exact Only.refl _ _

end Sys2Proof.Laws
end

