-- ==== Sys2Proof/Laws/BootFrame.lean ====
section
/-! SUPPORT. What the operations of Machine/Boot.lean leave as they are. -/

set_option Elab.async false

namespace Sys2Proof.Laws

open Sys2Proof Sys2Proof.Machine

theorem fusedRepairs_only (s : State) :
    Only [.mtest] s (fusedRepairs s) := by
  unfold fusedRepairs
  refine Only.all ?_ fun x u hu => ?_
  · exact Only.refl _ _
  · refine Only.then ?_ (reapplyRepair_only ..)
    assumption

theorem fullReset_only (s : State) :
    Only [.tick, .cclk, .regs, .rc, .rc64, .latch, .held, .lanes, .ports, .core, .page, .abacus, .prot, .pm, .timing, .eng, .bank, .sram, .mtest, .perf, .queues, .rings, .hostOut, .link, .bus, .sec, .mgmtLog, .mgmt, .sens, .smb, .jtag, .image, .jnl, .copy, .ssw, .pwr, .frames, .log] s (fullReset s) :=
  ⟨fun p hp => by cases p <;> first | exact rfl | exact absurd (mem_of_sub (qs := [_]) rfl (List.mem_singleton.mpr rfl)) hp⟩

theorem resetFlash_only (s : State) :
    Only [.pwr] s (resetFlash s) := by
  unfold resetFlash
  refine Only.ite ?_ ?_
  · refine Only.then ?_ (onPwr_only ..)
    exact Only.refl _ _
  · exact Only.refl _ _

theorem stepTime_only (k : Nat) (s : State) :
    Only [.free, .pwr] s (stepTime k s) := by
  unfold stepTime
  try dsimp -iota -proj only
  split
  · refine Only.then ?_ (onPwr_only ..)
    refine Only.then ?_ (draw_only' ‹draw .. = (_, _)›)
    exact Only.refl _ _

theorem toStep_only (k : Nat) (s : State) :
    Only [.free, .pwr] s (toStep k s) := by
  unfold toStep
  refine Only.then ?_ (onPwr_only ..)
  refine Only.then ?_ (stepTime_only ..)
  exact Only.refl _ _

theorem spanTime_only (k : Nat) (s : State) :
    Only [.pwr] s (spanTime k s) := by
  unfold spanTime
  refine Only.then ?_ (onPwr_only ..)
  exact Only.refl _ _

theorem powerOn_only (m : Nat) (s : State) :
    Only [.pwr] s (powerOn m s) := by
  unfold powerOn
  refine Only.then ?_ (onPwr_only ..)
  exact Only.refl _ _

theorem bootFlash_only (s : State) :
    Only [.image] s (bootFlash s).1 := by
  unfold bootFlash
  try dsimp -iota -proj only
  refine Only.pair1 ?_
  refine Only.upd28 ?_
  refine Only.then ?_ (boot_only ..)
  refine Only.upd28 ?_
  exact Only.refl _ _

theorem bootFlash_only' {s : State} {x : Bool} {post : State} (h : bootFlash s = (post, x)) : Only [.image] s post := by
  have := bootFlash_only s; rw [h] at this; exact this

theorem recover_only (s : State) :
    Only [.rc, .rings, .hostOut, .link, .sec, .mgmtLog, .mgmt, .smb, .jnl, .pwr, .log] s (recover s) := by
  unfold recover
  try dsimp -iota -proj only
  refine Only.then ?_ (deliverHeld_only ..)
  refine Only.upd70 ?_
  refine Only.then ?_ (powerOn_only ..)
  exact Only.refl _ _

theorem stepThree_only (s : State) :
    Only [.free, .link, .sec, .mgmt, .pwr] s (stepThree s) := by
  unfold stepThree
  try dsimp -iota -proj only
  refine Only.upd65 ?_
  refine Only.then ?_ (powerOn_only ..)
  refine Only.then ?_ (toStep_only ..)
  exact Only.refl _ _

theorem stepsFourFive_only (cause : Nat) (s : State) :
    Only [.free, .regs, .rc, .rc64, .core, .page, .abacus, .prot, .timing, .mtest, .queues, .rings, .hostOut, .sec, .mgmtLog, .smb, .jnl, .copy, .pwr, .log] s (stepsFourFive cause s) := by
  unfold stepsFourFive
  try dsimp -iota -proj only
  refine Only.upd8 ?_
  refine Only.then ?_ (replay_only ..)
  refine Only.then ?_ (deliverHeld_only ..)
  refine Only.then ?_ (toStep_only ..)
  refine Only.then ?_ (toStep_only ..)
  exact Only.refl _ _

theorem beginSix_only (faults : List MemFault) (s : State) :
    Only [.bank, .mtest, .pwr] s (beginSix faults s) := by
  unfold beginSix
  try dsimp -iota -proj only
  refine Only.all ?_ fun x u hu => ?_
  · refine Only.then ?_ (onPwr_only ..)
    refine Only.then ?_ (onMtest_only ..)
    refine Only.then ?_ (takeTarget_only ..)
    refine Only.then ?_ (powerOn_only ..)
    exact Only.refl _ _
  · refine Only.then ?_ (setBank_only ..)
    assumption

theorem endSix_only (faults : List MemFault) (s : State) :
    Only [.free, .rc, .core, .page, .abacus, .eng, .bank, .mtest, .perf, .queues, .rings, .hostOut, .mgmtLog, .mgmt, .smb, .jnl, .log] s (endSix faults s) := by
  unfold endSix
  try dsimp -iota -proj only
  refine Only.upd9 ?_
  refine Only.then ?_ (zeroPages_only ..)
  refine Only.then ?_ (allocateBanks_only ..)
  refine Only.then ?_ (testedRows_only ..)
  refine Only.all ?_ fun x u hu => ?_
  · refine Only.then ?_ (targetDone_only ..)
    refine Only.then ?_ (takeFaults_only ..)
    exact Only.refl _ _
  · refine Only.then ?_ (setBank_only ..)
    assumption

theorem startCluster_only (c : Nat) (s : State) :
    Only [.rc, .rc64, .eng, .perf, .sec] s (startCluster c s) := by
  unfold startCluster
  try dsimp -iota -proj only
  split
  · refine Only.then ?_ (countOpens_only ..)
    exact Only.refl _ _
  · refine Only.then ?_ (setCl_only ..)
    refine Only.then ?_ (onEngines_only ..)
    refine Only.then ?_ (mapCluster_only ..)
    refine Only.then ?_ (perfCatch_only ..)
    refine Only.then ?_ (countOpens_only ..)
    exact Only.refl _ _

theorem stepsSevenEight_only (s : State) :
    Only [.free, .rc, .rc64, .prot, .eng, .perf, .sec, .ssw, .pwr] s (stepsSevenEight s) := by
  unfold stepsSevenEight
  try dsimp -iota -proj only
  refine Only.then ?_ (onSsw_only ..)
  refine Only.then ?_ (toStep_only ..)
  refine Only.then ?_ (loadGroups_only ..)
  refine Only.all ?_ fun x u hu => ?_
  · refine Only.then ?_ (onPwr_only ..)
    refine Only.then ?_ (spanTime_only ..)
    exact Only.refl _ _
  · refine Only.then ?_ (startCluster_only ..)
    assumption

theorem laterSteps_only (faults : List MemFault) (s : State) :
    Only [.rc, .lanes, .ports, .bank, .mtest, .rings, .hostOut, .mgmtLog, .smb, .jnl, .pwr, .log] s (laterSteps faults s) := by
  unfold laterSteps
  refine Only.then ?_ (beginSix_only ..)
  refine Only.then ?_ (domainOn_only ..)
  exact Only.refl _ _

theorem reportDebug_only (s : State) :
    Only [.rc, .rings, .hostOut, .mgmtLog, .smb, .jnl, .log] s (reportDebug s) := by
  unfold reportDebug
  refine Only.cond ?_ fun u hu => ?_
  · exact Only.refl _ _
  · refine Only.then ?_ (raise_only ..)
    assumption

theorem startFromTwo_only (cause : Nat) (b : BootInput) (s : State) :
    Only [.free, .regs, .rc, .rc64, .lanes, .ports, .core, .page, .abacus, .prot, .timing, .bank, .mtest, .queues, .rings, .hostOut, .link, .sec, .mgmtLog, .mgmt, .smb, .image, .jnl, .copy, .pwr, .log] s (startFromTwo cause b s) := by
  unfold startFromTwo
  try dsimp -iota -proj only
  refine Only.ite ?_ ?_
  · refine Only.then ?_ (reportDebug_only ..)
    refine Only.then ?_ (recover_only ..)
    refine Only.then ?_ (bootFlash_only ..)
    refine Only.then ?_ (powerOn_only ..)
    refine Only.then ?_ (onPwr_only ..)
    refine Only.then ?_ (fusedRepairs_only ..)
    exact Only.refl _ _
  · refine Only.ite ?_ ?_
    · refine Only.then ?_ (onPwr_only ..)
      refine Only.then ?_ (reportDebug_only ..)
      refine Only.then ?_ (stepsFourFive_only ..)
      refine Only.then ?_ (stepThree_only ..)
      refine Only.then ?_ (bootFlash_only ..)
      refine Only.then ?_ (powerOn_only ..)
      refine Only.then ?_ (onPwr_only ..)
      refine Only.then ?_ (fusedRepairs_only ..)
      exact Only.refl _ _
    · refine Only.then ?_ (laterSteps_only ..)
      refine Only.then ?_ (toStep_only ..)
      refine Only.then ?_ (reportDebug_only ..)
      refine Only.then ?_ (stepsFourFive_only ..)
      refine Only.then ?_ (stepThree_only ..)
      refine Only.then ?_ (bootFlash_only ..)
      refine Only.then ?_ (powerOn_only ..)
      refine Only.then ?_ (onPwr_only ..)
      refine Only.then ?_ (fusedRepairs_only ..)
      exact Only.refl _ _

theorem startUp_only (b : BootInput) (s : State) :
    Only [.tick, .free, .regs, .rc, .rc64, .lanes, .ports, .core, .page, .abacus, .prot, .timing, .bank, .mtest, .queues, .rings, .hostOut, .link, .sec, .mgmtLog, .mgmt, .smb, .image, .jnl, .copy, .ssw, .pwr, .log] s (startUp b s) := by
  unfold startUp
  try dsimp -iota -proj only
  split
  · refine Only.ite ?_ ?_
    · refine Only.upd74 ?_
      refine Only.then ?_ (randomBytes_only' ‹randomBytes .. = (_, _)›)
      exact Only.refl _ _
    · refine Only.then ?_ (startFromTwo_only ..)
      refine Only.then ?_ (stepTime_only ..)
      refine Only.upd74 ?_
      refine Only.then ?_ (randomBytes_only' ‹randomBytes .. = (_, _)›)
      exact Only.refl _ _

theorem startUpFresh_only (b : BootInput) (s : State) :
    Only [.tick, .free, .regs, .rc, .rc64, .lanes, .ports, .core, .page, .abacus, .prot, .timing, .bank, .mtest, .queues, .rings, .hostOut, .link, .sec, .mgmtLog, .mgmt, .smb, .image, .jnl, .copy, .ssw, .pwr, .log] s (startUpFresh b s) := by
  unfold startUpFresh
  try dsimp -iota -proj only
  refine Only.cond ?_ fun u hu => ?_
  · refine Only.then ?_ (startUp_only ..)
    exact Only.refl _ _
  · refine Only.then ?_ (raise_only ..)
    assumption

theorem clusterTested_only (c : Nat) (s : State) :
    Only [.eng] s (clusterTested c s) := by
  unfold clusterTested
  refine Only.upd10 ?_
  exact Only.refl _ _

theorem loseVin_only (s : State) :
    Only [.tick, .cclk, .regs, .rc, .rc64, .latch, .held, .lanes, .ports, .core, .page, .abacus, .prot, .pm, .timing, .eng, .bank, .sram, .mtest, .perf, .queues, .rings, .hostOut, .link, .bus, .sec, .mgmtLog, .mgmt, .sens, .smb, .jtag, .image, .jnl, .copy, .ssw, .pwr, .frames, .log] s (loseVin s) := by
  unfold loseVin
  try dsimp -iota -proj only
  refine Only.upd44 ?_
  refine Only.then ?_ (fullReset_only ..)
  refine Only.then ?_ (resetFlash_only ..)
  exact Only.refl _ _

theorem beginTen_only (s : State) :
    Only [.pwr] s (beginTen s) := by
  unfold beginTen
  refine Only.then ?_ (onPwr_only ..)
  refine Only.then ?_ (spanTime_only ..)
  exact Only.refl _ _

theorem stepTick_only (s : State) :
    Only [.pwr] s (stepTick s) := by
  unfold stepTick
  refine Only.ite ?_ ?_
  · refine Only.then ?_ (beginTen_only ..)
    exact Only.refl _ _
  · refine Only.ite ?_ ?_
    · refine Only.then ?_ (onPwr_only ..)
      refine Only.then ?_ (spanTime_only ..)
      exact Only.refl _ _
    · exact Only.refl _ _

theorem warmWipe_only (s : State) :
    Only [.regs, .rc, .rc64, .latch, .held, .lanes, .ports, .core, .page, .abacus, .prot, .pm, .timing, .eng, .bank, .sram, .mtest, .perf, .queues, .rings, .hostOut, .link, .sec, .mgmtLog, .mgmt, .smb, .image, .jnl, .copy, .ssw, .frames, .log] s (warmWipe s) := by
  unfold warmWipe
  have h : Only [.regs, .rc, .rc64, .latch, .held, .lanes, .ports, .core, .page, .abacus, .prot, .pm, .timing, .eng, .bank, .sram, .mtest, .perf, .queues, .rings, .hostOut, .link, .sec, .mgmtLog, .mgmt, .smb, .image, .jnl, .copy, .ssw, .frames, .log] s (forAll (s.lanes.map (·.1)) loseRefs (hostReset s)) :=
    Only.all (Only.mono (hostReset_only s)) fun x u hu => Only.then hu (loseRefs_only ..)
  dsimp -iota -proj only
  generalize forAll (s.lanes.map (·.1)) loseRefs (hostReset s) = u at h ⊢
  refine Only.then (Only.mono h) (qs := [.regs, .rc, .rc64, .latch, .held, .lanes, .ports, .core, .page, .abacus, .prot, .pm, .timing, .eng, .bank, .sram, .mtest, .perf, .queues, .rings, .hostOut, .link, .sec, .mgmtLog, .mgmt, .smb, .image, .jnl, .copy, .ssw, .frames, .log]) ?_ (sub_refl _)
  exact ⟨fun p hp => by
    cases p <;> first
      | exact absurd (mem_of_sub (qs := [_]) rfl (List.mem_singleton.mpr rfl)) hp
      | exact rfl
      | exact ⟨rfl, rfl⟩⟩

theorem badMagic_only (s : State) :
    Only [.rc] s (badMagic s) := by
  unfold badMagic
  refine Only.then ?_ (count_only ..)
  exact Only.refl _ _

theorem refuseFetched_only (q : Nat) (s : State) :
    Only [.rc, .queues, .rings, .hostOut, .mgmtLog, .smb, .jnl, .log] s (refuseFetched q s) := by
  unfold refuseFetched
  try dsimp -iota -proj only
  refine Only.all ?_ fun x u hu => ?_
  · refine Only.then ?_ (setQueue_only ..)
    exact Only.refl _ _
  · refine Only.then ?_ (writeCpl_only ..)
    assumption

theorem quiesce_only (s : State) :
    Only [.free, .regs, .rc, .rc64, .page, .abacus, .prot, .eng, .bank, .mtest, .queues, .rings, .hostOut, .sec, .mgmtLog, .mgmt, .smb, .jnl, .copy, .ssw, .pwr, .log] s (quiesce s) := by
  unfold quiesce
  try dsimp -iota -proj only
  refine Only.all ?_ fun x u hu => ?_
  · refine Only.then ?_ (releaseWaiters_only ..)
    refine Only.then ?_ (dropCoreWork_only ..)
    refine Only.ite ?_ ?_
    · refine Only.then ?_ (settleWaiters_only ..)
      refine Only.then ?_ (persistAll_only ..)
      refine Only.then ?_ (release_only ..)
      refine Only.then ?_ (abandonCompaction_only ..)
      refine Only.all ?_ fun x u hu => ?_
      · exact Only.refl _ _
      · refine Only.then ?_ (refuseFetched_only ..)
        assumption
    · refine Only.then ?_ (release_only ..)
      refine Only.then ?_ (abandonCompaction_only ..)
      refine Only.all ?_ fun x u hu => ?_
      · exact Only.refl _ _
      · refine Only.then ?_ (refuseFetched_only ..)
        assumption
  · refine Only.then ?_ (refuseFetched_only ..)
    refine Only.then ?_ (completeNow_only ..)
    assumption

theorem powerDown_only (s : State) :
    Only [.tick, .cclk, .regs, .rc, .rc64, .latch, .held, .lanes, .ports, .core, .page, .abacus, .prot, .pm, .timing, .eng, .bank, .sram, .mtest, .perf, .queues, .rings, .hostOut, .link, .bus, .sec, .mgmtLog, .mgmt, .sens, .smb, .jtag, .image, .jnl, .copy, .ssw, .pwr, .frames, .log] s (powerDown s) := by
  unfold powerDown
  try dsimp -iota -proj only
  refine Only.upd75 ?_
  refine Only.then ?_ (fullReset_only ..)
  exact Only.refl _ _

end Sys2Proof.Laws
end

