-- ==== Sys2Proof/Laws/MgmtFrame.lean ====
section
/-! SUPPORT. What the operations of Machine/Mgmt.lean leave as they are. -/

set_option Elab.async false

namespace Sys2Proof.Laws

open Sys2Proof Sys2Proof.Machine

theorem onMgmt_only (f : Mgmt → Mgmt) (s : State) :
    Only [.mgmtLog, .mgmt] s (onMgmt f s) := by
  unfold onMgmt
  refine Only.upd35 ?_
  exact Only.refl _ _

theorem onImage_only (f : Image → Image) (s : State) :
    Only [.image] s (onImage f s) := by
  unfold onImage
  refine Only.upd28 ?_
  exact Only.refl _ _

theorem dropRecords_only (s : State) :
    Only [.rc, .abacus, .queues, .rings, .hostOut, .mgmtLog, .mgmt, .smb, .jnl, .log] s (dropRecords s) := by
  unfold dropRecords
  try dsimp -iota -proj only
  refine Only.then ?_ (releaseWaiters_only ..)
  refine Only.upd29 ?_
  exact Only.refl _ _

theorem dropStaging_only (s : State) :
    Only [.free, .rc, .abacus, .queues, .rings, .hostOut, .mgmtLog, .mgmt, .smb, .image, .jnl, .log] s (dropStaging s) := by
  unfold dropStaging
  try dsimp -iota -proj only
  split
  · exact Only.refl _ _
  · split
    · refine Only.then ?_ (complete_only ..)
      refine Only.then ?_ (onImage_only ..)
      refine Only.then ?_ (draw_only' ‹draw .. = (_, _)›)
      exact Only.refl _ _

theorem dropBlowing_only (s : State) :
    Only [.rc, .abacus, .queues, .rings, .hostOut, .mgmtLog, .mgmt, .smb, .image, .jnl, .log] s (dropBlowing s) := by
  unfold dropBlowing
  split
  · exact Only.refl _ _
  · refine Only.then ?_ (complete_only ..)
    refine Only.then ?_ (onImage_only ..)
    exact Only.refl _ _

theorem doomFetched_only (s : State) :
    Only [.queues] s (doomFetched s) := by
  unfold doomFetched
  refine Only.upd18 ?_
  exact Only.refl _ _

theorem startRestart_only (s : State) :
    Only [.free, .rc, .abacus, .queues, .rings, .hostOut, .mgmtLog, .mgmt, .smb, .image, .jnl, .copy, .ssw, .log] s (startRestart s) := by
  unfold startRestart
  try dsimp -iota -proj only
  refine Only.then ?_ (doomFetched_only ..)
  refine Only.then ?_ (dropRecords_only ..)
  refine Only.then ?_ (dropBlowing_only ..)
  refine Only.then ?_ (dropStaging_only ..)
  refine Only.then ?_ (abandonCompaction_only ..)
  refine Only.then ?_ (stopCopy_only ..)
  refine Only.then ?_ (count_only ..)
  refine Only.then ?_ (onMgmt_only ..)
  exact Only.refl _ _

theorem emptyHistory_only (s : State) :
    Only [.pm] s (emptyHistory s) := by
  unfold emptyHistory
  try dsimp -iota -proj only
  refine Only.ite ?_ ?_
  · exact Only.refl _ _
  · refine Only.upd41 ?_
    refine Only.then ?_ (mapHist_only ..)
    exact Only.refl _ _

theorem replayAgain_only (s : State) :
    Only [.rc, .rc64, .core, .timing, .mtest, .sec, .jnl] s (replayAgain s) := by
  unfold replayAgain
  try dsimp -iota -proj only
  refine Only.fold ?_ fun u x hu => ?_
  · refine Only.then ?_ (countN_only ..)
    refine Only.then ?_ (countOpens_only ..)
    refine Only.then ?_ (forgetLearning_only ..)
    exact Only.refl _ _
  · split
    · refine Only.then ?_ (applyLocal_only ..)
      assumption
    · assumption

theorem raiseKept_only (s : State) :
    Only [.free, .jnl] s (raiseKept s) := by
  unfold raiseKept
  try dsimp -iota -proj only
  refine Only.fold ?_ fun u x hu => ?_
  · refine Only.then ?_ (newEpoch_only ..)
    refine Only.upd29 ?_
    exact Only.refl _ _
  · refine Only.upd29 ?_
    refine Only.then ?_ (journal_only ..)
    assumption

theorem completePast_only (s : State) :
    Only [.rc, .abacus, .queues, .rings, .hostOut, .mgmtLog, .mgmt, .smb, .jnl, .log] s (completePast s) := by
  unfold completePast
  refine Only.all ?_ fun x u hu => ?_
  · refine Only.then ?_ (onMgmt_only ..)
    exact Only.refl _ _
  · refine Only.then ?_ (completeNow_only ..)
    assumption

theorem completeActivate_only (s : State) :
    Only [.rc, .abacus, .queues, .rings, .hostOut, .mgmtLog, .mgmt, .smb, .image, .jnl, .log] s (completeActivate s) := by
  unfold completeActivate
  try dsimp -iota -proj only
  split
  · exact Only.refl _ _
  · refine Only.then ?_ (complete_only ..)
    refine Only.then ?_ (onImage_only ..)
    exact Only.refl _ _

theorem resumeService_only (s : State) :
    Only [.rc, .abacus, .queues, .rings, .hostOut, .mgmtLog, .mgmt, .smb, .image, .jnl, .log] s (resumeService s) := by
  unfold resumeService
  try dsimp -iota -proj only
  refine Only.all ?_ fun x u hu => ?_
  · refine Only.then ?_ (completeActivate_only ..)
    refine Only.then ?_ (completePast_only ..)
    refine Only.then ?_ (deliverHeld_only ..)
    exact Only.refl _ _
  · refine Only.then ?_ (finishClosing_only ..)
    refine Only.then ?_ (skipUndefined_only ..)
    assumption

theorem leaveRecovery_only (faults : List MemFault) (s : State) :
    Only [.free, .regs, .rc, .rc64, .lanes, .ports, .core, .page, .abacus, .prot, .pm, .timing, .bank, .mtest, .queues, .rings, .hostOut, .link, .sec, .mgmtLog, .mgmt, .smb, .image, .jnl, .copy, .pwr, .log] s (leaveRecovery faults s) := by
  unfold leaveRecovery
  try dsimp -iota -proj only
  refine Only.then ?_ (laterSteps_only ..)
  refine Only.then ?_ (toStep_only ..)
  refine Only.then ?_ (stepsFourFive_only ..)
  refine Only.then ?_ (resumeService_only ..)
  refine Only.then ?_ (stepThree_only ..)
  refine Only.then ?_ (onPwr_only ..)
  refine Only.then ?_ (emptyHistory_only ..)
  exact Only.refl _ _

theorem enterRecovery_only (s : State) :
    Only [.free, .regs, .rc, .lanes, .ports, .core, .page, .abacus, .prot, .pm, .timing, .eng, .bank, .sram, .mtest, .perf, .queues, .rings, .hostOut, .link, .sec, .mgmtLog, .mgmt, .smb, .image, .jnl, .copy, .ssw, .pwr, .frames, .log] s (enterRecovery s) := by
  unfold enterRecovery
  try dsimp -iota -proj only
  refine Only.then ?_ (resumeService_only ..)
  refine Only.then ?_ (onSsw_only ..)
  refine Only.then ?_ (recover_only ..)
  refine Only.then ?_ (coreOff_only ..)
  refine Only.then ?_ (release_only ..)
  exact Only.refl _ _

theorem restartImage_only (s : State) :
    Only [.rc, .rc64, .sec, .image] s (restartImage s).1 := by
  unfold restartImage
  try dsimp -iota -proj only
  split
  · refine Only.pair1 ?_
    refine Only.then ?_ (countOpens_only ..)
    refine Only.then ?_ (bootFlash_only ..)
    exact Only.refl _ _
  · split
    · exact Only.refl _ _
    · split
      · refine Only.pair1 ?_
        refine Only.then ?_ (countOpens_only ..)
        exact Only.refl _ _
      · refine Only.pair1 ?_
        refine Only.then ?_ (countOpens_only ..)
        refine Only.then ?_ (bootFlash_only ..)
        exact Only.refl _ _

theorem restartImage_only' {s : State} {x : Bool} {post : State} (h : restartImage s = (post, x)) : Only [.rc, .rc64, .sec, .image] s post := by
  have := restartImage_only s; rw [h] at this; exact this

theorem holdComplex_only (s : State) :
    Only [.free, .regs, .rc, .abacus, .queues, .rings, .hostOut, .mgmtLog, .mgmt, .smb, .image, .jnl, .copy, .ssw, .pwr, .log] s (holdComplex s) := by
  unfold holdComplex
  try dsimp -iota -proj only
  refine Only.cond ?_ fun u hu => ?_
  · refine Only.upd61 ?_
    refine Only.then ?_ (startRestart_only ..)
    exact Only.refl _ _
  · refine Only.then ?_ (release_only ..)
    assumption

theorem countAttempt_only (s : State) :
    Only [.image] s (countAttempt s) := by
  unfold countAttempt
  try dsimp -iota -proj only
  refine Only.ite ?_ ?_
  · exact Only.refl _ _
  · refine Only.ite ?_ ?_
    · refine Only.then ?_ (onBootRec_only ..)
      exact Only.refl _ _
    · refine Only.then ?_ (onBootRec_only ..)
      exact Only.refl _ _

theorem scenLost_only (n : Nat) (s : State) :
    Only [.page, .abacus] s (scenLost n s) := by
  unfold scenLost
  try dsimp -iota -proj only
  refine Only.ite ?_ ?_
  · exact Only.refl _ _
  · refine Only.then ?_ (endRebuild_only ..)
    refine Only.then ?_ (setScen_only ..)
    exact Only.refl _ _

theorem lpddrLost_only (region : LpddrRegion) (s : State) :
    Only [.free, .rc, .page, .abacus, .pm, .queues, .rings, .hostOut, .mgmtLog, .mgmt, .smb, .image, .jnl, .copy, .ssw, .log] s (lpddrLost region s) := by
  unfold lpddrLost
  try dsimp -iota -proj only
  split
  · refine Only.ite ?_ ?_
    · refine Only.then ?_ (raise_only ..)
      refine Only.then ?_ (count_only ..)
      exact Only.refl _ _
    · refine Only.then ?_ (startRestart_only ..)
      refine Only.then ?_ (raise_only ..)
      refine Only.then ?_ (count_only ..)
      exact Only.refl _ _
  · refine Only.then ?_ (scenLost_only ..)
    refine Only.then ?_ (raise_only ..)
    refine Only.then ?_ (count_only ..)
    exact Only.refl _ _
  · refine Only.then ?_ (mapHist_only ..)
    refine Only.then ?_ (raise_only ..)
    refine Only.then ?_ (count_only ..)
    exact Only.refl _ _
  · refine Only.then ?_ (onMgmt_only ..)
    refine Only.then ?_ (raise_only ..)
    refine Only.then ?_ (count_only ..)
    exact Only.refl _ _
  · refine Only.then ?_ (raise_only ..)
    refine Only.then ?_ (count_only ..)
    exact Only.refl _ _
  · refine Only.then ?_ (raise_only ..)
    refine Only.then ?_ (count_only ..)
    exact Only.refl _ _

theorem startTrial_only (q : Nat) (s : State) :
    Only [.free, .rc, .abacus, .queues, .rings, .hostOut, .mgmtLog, .mgmt, .smb, .image, .jnl, .copy, .ssw, .log] s (startTrial q s) := by
  unfold startTrial
  refine Only.then ?_ (startRestart_only ..)
  refine Only.then ?_ (onBootRec_only ..)
  exact Only.refl _ _

theorem abandonTrial_only (q : Option Nat) (s : State) :
    Only [.free, .rc, .abacus, .queues, .rings, .hostOut, .mgmtLog, .mgmt, .smb, .image, .jnl, .copy, .ssw, .log] s (abandonTrial q s) := by
  unfold abandonTrial
  refine Only.then ?_ (startRestart_only ..)
  refine Only.then ?_ (onBootRec_only ..)
  exact Only.refl _ _

theorem confirmTrial_only (q : Nat) (s : State) :
    Only [.rc, .abacus, .queues, .rings, .hostOut, .mgmtLog, .mgmt, .smb, .image, .jnl, .log] s (confirmTrial q s) := by
  unfold confirmTrial
  try dsimp -iota -proj only
  refine Only.ite ?_ ?_
  · refine Only.then ?_ (complete_only ..)
    refine Only.then ?_ (onBootRec_only ..)
    exact Only.refl _ _
  · refine Only.then ?_ (onImage_only ..)
    refine Only.then ?_ (onBootRec_only ..)
    exact Only.refl _ _

theorem blowTick_only (s : State) :
    Only [.rc, .abacus, .queues, .rings, .hostOut, .mgmtLog, .mgmt, .smb, .otp, .image, .jnl, .log] s (blowTick s) := by
  unfold blowTick
  try dsimp -iota -proj only
  split
  · exact Only.refl _ _
  · refine Only.ite ?_ ?_
    · exact Only.refl _ _
    · refine Only.ite ?_ ?_
      · refine Only.then ?_ (complete_only ..)
        refine Only.then ?_ (onImage_only ..)
        refine Only.upd37 ?_
        exact Only.refl _ _
      · refine Only.upd37 ?_
        exact Only.refl _ _

theorem newChallenge_only (s : State) :
    Only [.free, .mgmtLog, .mgmt] s (newChallenge s) := by
  unfold newChallenge
  try dsimp -iota -proj only
  split
  · refine Only.then ?_ (onMgmt_only ..)
    refine Only.then ?_ (randomBytes_only' ‹randomBytes .. = (_, _)›)
    exact Only.refl _ _

theorem enterReturn_only (s : State) :
    Only [.sec, .otp] s (enterReturn s) := by
  unfold enterReturn
  refine Only.upd63 ?_
  exact Only.refl _ _

theorem useToken_only (t : Bytes) (s : State) :
    Only [.sec, .jtag, .otp] s (useToken t s) := by
  unfold useToken
  split
  · refine Only.upd60 ?_
    exact Only.refl _ _
  · refine Only.then ?_ (enterReturn_only ..)
    exact Only.refl _ _
  · refine Only.upd37 ?_
    exact Only.refl _ _

theorem openBytes_only (n : Nat) (s : State) :
    Only [.free] s (openBytes n s).2 := by
  unfold openBytes
  refine Only.pair2 ?_
  refine Only.upd12 ?_
  exact Only.refl _ _

theorem openBytes_only' {n : Nat} {s : State} {x : Bytes} {post : State} (h : openBytes n s = (x, post)) : Only [.free] s post := by
  have := openBytes_only n s; rw [h] at this; exact this

theorem mgmtMeas_only (s : State) :
    Only [.free] s (mgmtMeas s).2 := by
  unfold mgmtMeas
  split
  · refine Only.then ?_ (openBytes_only ..)
    exact Only.refl _ _
  · exact Only.refl _ _

theorem mgmtMeas_only' {s : State} {x : Bytes} {post : State} (h : mgmtMeas s = (x, post)) : Only [.free] s post := by
  have := mgmtMeas_only s; rw [h] at this; exact this

theorem engMeas_only (s : State) :
    Only [.free] s (engMeas s).2 := by
  unfold engMeas
  try dsimp -iota -proj only
  refine Only.fold2 ?_ fun u x hu => ?_
  · exact Only.refl _ _
  · split
    · assumption
    · refine Only.pair2 ?_
      refine Only.then ?_ (openBytes_only ..)
      assumption

theorem engMeas_only' {s : State} {x : Bytes} {post : State} (h : engMeas s = (x, post)) : Only [.free] s post := by
  have := engMeas_only s; rw [h] at this; exact this

theorem attestReport_only (nonce : Bytes) (s : State) :
    Only [.free] s (attestReport nonce s).2 := by
  unfold attestReport
  try dsimp -iota -proj only
  refine Only.pair2 ?_
  refine Only.upd12 ?_
  refine Only.then ?_ (engMeas_only ..)
  refine Only.then ?_ (mgmtMeas_only ..)
  exact Only.refl _ _

theorem attestReport_only' {nonce : Bytes} {s : State} {x : Bytes} {post : State} (h : attestReport nonce s = (x, post)) : Only [.free] s post := by
  have := attestReport_only nonce s; rw [h] at this; exact this

theorem takeReading_only (ts : List Int) (i : Nat) (s : State) :
    Only [.rc, .rings, .hostOut, .mgmtLog, .sens, .smb, .jnl, .log] s (takeReading ts i s) := by
  unfold takeReading
  try dsimp -iota -proj only
  refine Only.ite ?_ ?_
  · refine Only.then ?_ (raise_only ..)
    refine Only.then ?_ (count_only ..)
    refine Only.upd49 ?_
    exact Only.refl _ _
  · refine Only.upd49 ?_
    exact Only.refl _ _

theorem takeMax_only (ts : List Int) (s : State) :
    Only [.free, .sens] s (takeMax ts s) := by
  unfold takeMax
  try dsimp -iota -proj only
  refine Only.upd49 ?_
  split
  · exact Only.refl _ _
  · refine Only.pair2 ?_
    refine Only.then ?_ (draw_only ..)
    exact Only.refl _ _

theorem warnStep_only (s : State) :
    Only [.rc, .rings, .hostOut, .mgmtLog, .sens, .smb, .jnl, .log] s (warnStep s) := by
  unfold warnStep
  try dsimp -iota -proj only
  refine Only.ite ?_ ?_
  · refine Only.then ?_ (raise_only ..)
    refine Only.upd49 ?_
    refine Only.ite ?_ ?_
    · refine Only.upd50 ?_
      exact Only.refl _ _
    · exact Only.refl _ _
  · refine Only.ite ?_ ?_
    · refine Only.then ?_ (raiseX_only ..)
      refine Only.upd49 ?_
      refine Only.ite ?_ ?_
      · refine Only.upd50 ?_
        exact Only.refl _ _
      · exact Only.refl _ _
    · refine Only.ite ?_ ?_
      · refine Only.upd50 ?_
        exact Only.refl _ _
      · exact Only.refl _ _

theorem logRecord_only (k : Nat) (s : State) :
    Only [.free] s (logRecord k s).2 := by
  unfold logRecord
  try dsimp -iota -proj only
  split
  · split
    · split
      · split
        · refine Only.pair2 ?_
          refine Only.then ?_ (draw_only' ‹draw .. = (_, _)›)
          refine Only.then ?_ (draw_only' ‹draw .. = (_, _)›)
          refine Only.then ?_ (draw_only' ‹draw .. = (_, _)›)
          exact Only.refl _ _
        · refine Only.pair2 ?_
          refine Only.then ?_ (draw_only' ‹draw .. = (_, _)›)
          refine Only.then ?_ (draw_only' ‹draw .. = (_, _)›)
          refine Only.then ?_ (draw_only' ‹draw .. = (_, _)›)
          exact Only.refl _ _

theorem logRecord_only' {k : Nat} {s : State} {x : Bytes} {post : State} (h : logRecord k s = (x, post)) : Only [.free] s post := by
  have := logRecord_only k s; rw [h] at this; exact this

theorem logRecords_only (first n : Nat) (s : State) :
    Only [.free] s (logRecords first n s).2 := by
  unfold logRecords
  try dsimp -iota -proj only
  refine Only.fold2 ?_ fun u x hu => ?_
  · exact Only.refl _ _
  · refine Only.pair2 ?_
    refine Only.then ?_ (logRecord_only ..)
    assumption

theorem logRecords_only' {first n : Nat} {s : State} {x : Bytes} {post : State} (h : logRecords first n s = (x, post)) : Only [.free] s post := by
  have := logRecords_only first n s; rw [h] at this; exact this

end Sys2Proof.Laws
end

