-- ==== Sys2Proof/Laws/PerfRowsFrame.lean ====
section
/-! SUPPORT. What the operations of Machine/PerfRows.lean leave as they are. -/

set_option Elab.async false

namespace Sys2Proof.Laws

open Sys2Proof Sys2Proof.Machine

theorem writePerfCtrl_only (v : Word) (s : State) :
    Only [.regs, .eng, .perf] s (writePerfCtrl v s) := by
  unfold writePerfCtrl
  refine Only.ite ?_ ?_
  · refine Only.then ?_ (putReg_only ..)
    refine Only.then ?_ (keepSel_only ..)
    refine Only.then ?_ (perfThrough_only ..)
    exact Only.refl _ _
  · exact Only.refl _ _

end Sys2Proof.Laws
end

