-- ==== Sys2Proof/Laws/RegistersFrame.lean ====
section
/-! SUPPORT. What the operations of Machine/Registers.lean leave as they are. -/

set_option Elab.async false

namespace Sys2Proof.Laws

open Sys2Proof Sys2Proof.Machine

theorem onBus_only (v : Nat) (s : State) :
    Only [.bus] s (onBus v s) := by
  unfold onBus
  refine Only.upd19 ?_
  exact Only.refl _ _

theorem clearRc_only (o : Nat) (s : State) :
    Only [.rc, .ports] s (clearRc o s) := by
  unfold clearRc
  try dsimp -iota -proj only
  split
  · refine Only.then ?_ (setPort_only ..)
    exact Only.refl _ _
  · refine Only.then ?_ (rcSet_only ..)
    exact Only.refl _ _

theorem readLow_only (o : Nat) (s : State) :
    Only [.rc64, .latch, .bus] s (readLow o s) := by
  unfold readLow
  try dsimp -iota -proj only
  refine Only.then ?_ (onBus_only ..)
  refine Only.cond ?_ fun u hu => ?_
  · refine Only.upd32 ?_
    exact Only.refl _ _
  · refine Only.upd46 ?_
    assumption

theorem latchTod_only (s : State) :
    Only [.timing] s (latchTod s) := by
  unfold latchTod
  refine Only.upd53 ?_
  exact Only.refl _ _

theorem caughtUp_only (o : Nat) (s : State) :
    Only [.eng, .perf] s (caughtUp o s) := by
  unfold caughtUp
  refine Only.cond ?_ fun u hu => ?_
  · exact Only.refl _ _
  · refine Only.then ?_ (perfCatch_only ..)
    assumption

theorem hostRead_only (o : Nat) (s : State) :
    Only [.rc, .rc64, .latch, .ports, .timing, .eng, .perf, .bus] s (hostRead o s) := by
  unfold hostRead
  try dsimp -iota -proj only
  refine Only.ite ?_ ?_
  · refine Only.then ?_ (caughtUp_only ..)
    exact Only.refl _ _
  · refine Only.ite ?_ ?_
    · refine Only.then ?_ (readLow_only ..)
      refine Only.then ?_ (latchTod_only ..)
      refine Only.then ?_ (caughtUp_only ..)
      exact Only.refl _ _
    · refine Only.ite ?_ ?_
      · refine Only.then ?_ (readLow_only ..)
        refine Only.then ?_ (caughtUp_only ..)
        exact Only.refl _ _
      · refine Only.then ?_ (onBus_only ..)
        refine Only.cond ?_ fun u hu => ?_
        · refine Only.then ?_ (caughtUp_only ..)
          exact Only.refl _ _
        · refine Only.then ?_ (clearRc_only ..)
          assumption

theorem applyHigh_only (o : Nat) (v : Word) (s : State) :
    Only [.regs] s (applyHigh o v s) := by
  unfold applyHigh
  refine Only.ite ?_ ?_
  · exact Only.refl _ _
  · refine Only.then ?_ (setReg_only ..)
    refine Only.then ?_ (setReg_only ..)
    exact Only.refl _ _

theorem holdLow_only (o : Nat) (v : Word) (s : State) :
    Only [.held] s (holdLow o v s) := by
  unfold holdLow
  refine Only.upd13 ?_
  exact Only.refl _ _

theorem clearOvf_only (f : Nat → Nat) (n : Nat) (v : Word) (s : State) :
    Only [.perf] s (clearOvf f n v s) := by
  unfold clearOvf
  try dsimp -iota -proj only
  refine Only.upd40 ?_
  exact Only.refl _ _

theorem setLock_only (v : Word) (s : State) :
    Only [.regs] s (setLock v s) := by
  unfold setLock
  refine Only.then ?_ (setReg_only ..)
  exact Only.refl _ _

theorem writeLk_only (o : Nat) (v : Word) (s : State) :
    Only [.regs, .timing] s (writeLk o v s) := by
  unfold writeLk
  try dsimp -iota -proj only
  refine Only.ite ?_ ?_
  · exact Only.refl _ _
  · refine Only.ite ?_ ?_
    · refine Only.then ?_ (modeWritten_only ..)
      refine Only.then ?_ (putReg_only ..)
      exact Only.refl _ _
    · refine Only.then ?_ (putReg_only ..)
      exact Only.refl _ _

theorem unmask_only (fn vec : Nat) (s : State) :
    Only [.hostOut] s (unmask fn vec s) := by
  unfold unmask
  try dsimp -iota -proj only
  refine Only.ite ?_ ?_
  · refine Only.then ?_ (fire_only ..)
    refine Only.upd17 ?_
    exact Only.refl _ _
  · exact Only.refl _ _

theorem writeRw_only (o : Nat) (v : Word) (s : State) :
    Only [.regs, .hostOut] s (writeRw o v s) := by
  unfold writeRw
  try dsimp -iota -proj only
  refine Only.ite ?_ ?_
  · refine Only.then ?_ (unmask_only ..)
    refine Only.then ?_ (putReg_only ..)
    exact Only.refl _ _
  · refine Only.then ?_ (putReg_only ..)
    exact Only.refl _ _

theorem writeVfMsix_only (f o : Nat) (v : Word) (s : State) :
    Only [.hostOut, .link] s (writeVfMsix f o v s) := by
  unfold writeVfMsix
  try dsimp -iota -proj only
  refine Only.ite ?_ ?_
  · refine Only.then ?_ (unmask_only ..)
    refine Only.upd26 ?_
    exact Only.refl _ _
  · refine Only.upd26 ?_
    exact Only.refl _ _

theorem writeBar0_only (off : Nat) (v : Word) (s : State) :
    Only [.regs, .held, .timing, .eng, .perf, .hostOut] s (writeBar0 off v s) := by
  unfold writeBar0
  refine Only.ite ?_ ?_
  · exact Only.refl _ _
  · refine Only.ite ?_ ?_
    · refine Only.then ?_ (holdLow_only ..)
      exact Only.refl _ _
    · refine Only.ite ?_ ?_
      · refine Only.then ?_ (applyHigh_only ..)
        exact Only.refl _ _
      · split
        · refine Only.then ?_ (clearOvf_only ..)
          refine Only.then ?_ (perfCatch_only ..)
          exact Only.refl _ _
        · refine Only.ite ?_ ?_
          · refine Only.then ?_ (writeLk_only ..)
            exact Only.refl _ _
          · refine Only.ite ?_ ?_
            · refine Only.then ?_ (writeRw_only ..)
              exact Only.refl _ _
            · exact Only.refl _ _

end Sys2Proof.Laws
end

