-- ==== Sys2Proof/Laws/SidebandFrame.lean ====
section
/-! SUPPORT. What the operations of Machine/Sideband.lean leave as they are. -/

set_option Elab.async false

namespace Sys2Proof.Laws

open Sys2Proof Sys2Proof.Machine

theorem smbReply_only (bs : Bytes) (s : State) :
    Only [.smb] s (smbReply bs s) := by
  unfold smbReply
  refine Only.upd50 ?_
  exact Only.refl _ _

theorem smbWord_only (w : BitVec 16) (s : State) :
    Only [.smb] s (smbWord w s) := by
  unfold smbWord
  refine Only.then ?_ (smbReply_only ..)
  exact Only.refl _ _

theorem jtagLoad_only (ir : JInstr) (dr : List Bool) (s : State) :
    Only [.jtag] s (jtagLoad ir dr s) := by
  unfold jtagLoad
  refine Only.ite ?_ ?_
  · refine Only.upd30 ?_
    exact Only.refl _ _
  · exact Only.refl _ _

end Sys2Proof.Laws
end

