-- ==== Sys2Proof/Laws/Sparse.lean ====
section
/-! SUPPORT. Laws of sparse maps and byte memories: reading after a write, and the canonical form that
every operation keeps. -/

set_option Elab.async false

namespace Sys2Proof.Laws

open Sys2Proof Sys2Proof.Machine

variable {α : Type}

/-- Reading after an entry is put in. -/
theorem spGet_spIns (d : Nat → α) (m : List (Nat × α)) (k j : Nat) (v : α) :
    spGet d (spIns k v m) j = if j = k then v else spGet d m j := by
  induction m with
  | nil => simp only [spIns, spGet, eq_comm]
  | cons e m ih =>
    obtain ⟨a, w⟩ := e
    simp only [spIns]
    split
    · simp only [spGet, eq_comm]
    · split
      · rename_i h1 h2; subst h2; simp only [spGet]
        by_cases h : k = j
        · rw [if_pos h, if_pos h.symm]
        · rw [if_neg h, if_neg (fun e => h e.symm), if_neg h]
      · simp only [spGet, ih]; split
        · rename_i h; subst h; rw [if_neg (by omega)]
        · rfl

theorem spGet_spDel (d : Nat → α) (m : List (Nat × α)) (k j : Nat) :
    spGet d (spDel k m) j = if j = k then d j else spGet d m j := by
  induction m with
  | nil => simp [spDel, spGet]
  | cons e m ih =>
    obtain ⟨a, w⟩ := e
    simp only [spDel]
    split
    · rename_i h; subst h; rw [ih]; simp only [spGet]; split
      · rfl
      · rename_i h; rw [if_neg (fun e => h e.symm)]
    · simp only [spGet, ih]; split
      · rename_i h1 h2; subst h2; rw [if_neg (by omega)]
      · rfl

/-- Reading after a write. -/
@[simp] theorem spGet_spSet [DecidableEq α] (d : Nat → α) (m : List (Nat × α)) (k j : Nat) (v : α) :
    spGet d (spSet d k v m) j = if j = k then v else spGet d m j := by
  unfold spSet
  split
  · rename_i h; rw [spGet_spDel]; split
    · rename_i e; rw [e, h]
    · rfl
  · exact spGet_spIns ..

/-- Reading after every value is mapped by a function that keeps the default. -/
theorem spGet_spMap [DecidableEq α] (d : Nat → α) (f : Nat → α → α) (m : List (Nat × α)) (k : Nat)
    (h : f k (d k) = d k) : spGet d (spMap d f m) k = f k (spGet d m k) := by
  induction m with
  | nil => exact h.symm
  | cons e m ih =>
    rw [spMap, spGet_spSet, ih, spGet]
    by_cases c : k = e.1
    · rw [if_pos c, if_pos c.symm, c]
    · rw [if_neg c, if_neg (fun x => c x.symm)]

/-- Looking up an entry after one is put in. -/
theorem find_spIns (m : List (Nat × α)) (k j : Nat) (v : α) :
    ((spIns k v m).find? (·.1 = j)).map (·.2) = if j = k then some v else (m.find? (·.1 = j)).map (·.2) := by
  induction m with
  | nil =>
    by_cases h : k = j
    · subst h; simp [spIns]
    · rw [if_neg (fun e => h e.symm)]; simp [spIns, h]
  | cons e m ih =>
    obtain ⟨a, w⟩ := e
    by_cases h : k = j
    · subst h
      simp only [if_true] at ih ⊢
      simp only [spIns]
      split
      · simp
      · split
        · simp
        · rename_i h2
          rw [List.find?_cons_of_neg (by simpa using fun e : a = k => h2 e.symm)]; exact ih
    · have hj : ¬ j = k := fun e => h e.symm
      simp only [hj, if_false] at ih ⊢
      simp only [spIns]
      split
      · rw [List.find?_cons_of_neg (by simpa using h)]
      · split
        · rename_i h2; subst h2
          rw [List.find?_cons_of_neg (by simpa using h), List.find?_cons_of_neg (by simpa using h)]
        · simp only [List.find?_cons]; split
          · rfl
          · exact ih

/-- The keys of a changed map were keys before, or are the one written. -/
theorem mem_spIns {m : List (Nat × α)} {k : Nat} {v : α} {e : Nat × α} (h : e ∈ spIns k v m) :
    e = (k, v) ∨ e ∈ m := by
  induction m with
  | nil => exact .inl (by simpa [spIns] using h)
  | cons x m ih =>
    obtain ⟨a, w⟩ := x
    simp only [spIns] at h
    split at h
    · rcases List.mem_cons.mp h with h | h
      · exact .inl h
      · exact .inr h
    · split at h
      · rcases List.mem_cons.mp h with h | h
        · exact .inl h
        · exact .inr (List.mem_cons_of_mem _ h)
      · rcases List.mem_cons.mp h with h | h
        · exact .inr (h ▸ List.mem_cons_self ..)
        · rcases ih h with h | h
          · exact .inl h
          · exact .inr (List.mem_cons_of_mem _ h)

theorem mem_spDel {m : List (Nat × α)} {k : Nat} {e : Nat × α} (h : e ∈ spDel k m) : e ∈ m ∧ e.1 ≠ k := by
  induction m with
  | nil => simp [spDel] at h
  | cons x m ih =>
    obtain ⟨a, w⟩ := x
    simp only [spDel] at h
    split at h
    · exact ⟨List.mem_cons_of_mem _ (ih h).1, (ih h).2⟩
    · rename_i hn
      rcases List.mem_cons.mp h with h | h
      · exact ⟨h ▸ List.mem_cons_self .., by rw [h]; exact hn⟩
      · exact ⟨List.mem_cons_of_mem _ (ih h).1, (ih h).2⟩

/-- Writing keeps the addresses rising. -/
theorem wf_spIns {m : List (Nat × α)} (h : Memory.wf m) (k : Nat) (v : α) : Memory.wf (spIns k v m) := by
  induction m with
  | nil => simp [spIns, Memory.wf]
  | cons x m ih =>
    obtain ⟨a, w⟩ := x
    obtain ⟨hx, hm⟩ := List.pairwise_cons.mp h
    simp only [spIns]
    split
    · rename_i hk
      refine List.pairwise_cons.mpr ⟨fun e he => ?_, h⟩
      rcases List.mem_cons.mp he with he | he
      · rw [he]; exact hk
      · exact Nat.lt_trans hk (hx e he)
    · split
      · rename_i hk; exact List.pairwise_cons.mpr ⟨fun e he => by simpa [hk] using hx e he, hm⟩
      · refine List.pairwise_cons.mpr ⟨fun e he => ?_, ih hm⟩
        rcases mem_spIns he with he | he
        · rw [he]; show a < k; omega
        · exact hx e he

theorem wf_spDel {m : List (Nat × α)} (h : Memory.wf m) (k : Nat) : Memory.wf (spDel k m) := by
  induction m with
  | nil => exact h
  | cons x m ih =>
    obtain ⟨a, w⟩ := x
    obtain ⟨hx, hm⟩ := List.pairwise_cons.mp h
    simp only [spDel]
    split
    · exact ih hm
    · exact List.pairwise_cons.mpr ⟨fun e he => hx e (mem_spDel he).1, ih hm⟩

theorem wf_filter {m : List (Nat × α)} (h : Memory.wf m) (p : Nat × α → Bool) : Memory.wf (m.filter p) :=
  List.Pairwise.sublist List.filter_sublist h

theorem wf_memPut {m : List (Nat × Byte)} (h : Memory.wf m) (a : Nat) (bs : Bytes) :
    Memory.wf (memPut a bs m) := by
  induction bs generalizing a m with
  | nil => exact h
  | cons b bs ih => exact ih (wf_spIns h a b) (a + 1)

/-- Writing keeps the canonical form of a map with a default. -/
theorem spWf_spSet [DecidableEq α] {d : Nat → α} {m : List (Nat × α)} (h : spWf d m) (k : Nat) (v : α) :
    spWf d (spSet d k v m) := by
  unfold spSet
  split
  · exact ⟨wf_spDel h.1 k, fun e he => h.2 e (mem_spDel he).1⟩
  · rename_i hv
    refine ⟨wf_spIns h.1 k v, fun e he => ?_⟩
    rcases mem_spIns he with he | he
    · rw [he]; exact hv
    · exact h.2 e he

theorem memGet_spIns (m : List (Nat × Byte)) (k j : Nat) (v : Byte) :
    memGet (spIns k v m) j = if j = k then some v else memGet m j := by
  induction m with
  | nil => simp only [spIns, memGet, eq_comm]
  | cons e m ih =>
    obtain ⟨a, w⟩ := e
    simp only [spIns]
    split
    · simp only [memGet, eq_comm]
    · split
      · rename_i h1 h2; subst h2; simp only [memGet]
        by_cases h : k = j
        · rw [if_pos h, if_pos h.symm]
        · rw [if_neg h, if_neg (fun e => h e.symm), if_neg h]
      · simp only [memGet, ih]; split
        · rename_i h; subst h; rw [if_neg (by omega)]
        · rfl

/-- What a byte memory holds after bytes are written from `a`. -/
theorem memGet_memPut (m : List (Nat × Byte)) (a j : Nat) (bs : Bytes) :
    memGet (memPut a bs m) j = if a ≤ j ∧ j < a + bs.length then bs[j - a]? else memGet m j := by
  induction bs generalizing a m with
  | nil => simp only [memPut, List.length_nil]; rw [if_neg (by omega)]
  | cons b bs ih =>
    simp only [memPut, ih, memGet_spIns, List.length_cons]
    by_cases h : j = a
    · subst h; rw [if_neg (by omega), if_pos rfl, if_pos (by omega)]; simp
    · rw [if_neg h]
      by_cases h2 : a + 1 ≤ j ∧ j < a + 1 + bs.length
      · rw [if_pos h2, if_pos (by omega)]
        have : j - a = (j - (a + 1)) + 1 := by omega
        rw [this, List.getElem?_cons_succ]
      · rw [if_neg h2, if_neg (by omega)]

end Sys2Proof.Laws
end

