-- ==== Sys2Proof/Laws/State.lean ====
section
/-! SUPPORT. What each basic update of the state leaves of every field, and reading an object after it has
been written. -/

set_option Elab.async false

namespace Sys2Proof.Laws

open Sys2Proof Sys2Proof.Machine

/-! `setReg` -/

@[simp] theorem setReg_pending (o : Nat) (v : Word) (s : State) : (setReg o v s).pending = s.pending := rfl
@[simp] theorem setReg_tick (o : Nat) (v : Word) (s : State) : (setReg o v s).tick = s.tick := rfl
@[simp] theorem setReg_cclk (o : Nat) (v : Word) (s : State) : (setReg o v s).cclk = s.cclk := rfl
@[simp] theorem setReg_free (o : Nat) (v : Word) (s : State) : (setReg o v s).free = s.free := rfl
@[simp] theorem setReg_rc (o : Nat) (v : Word) (s : State) : (setReg o v s).rc = s.rc := rfl
@[simp] theorem setReg_rc64 (o : Nat) (v : Word) (s : State) : (setReg o v s).rc64 = s.rc64 := rfl
@[simp] theorem setReg_latch (o : Nat) (v : Word) (s : State) : (setReg o v s).latch = s.latch := rfl
@[simp] theorem setReg_held (o : Nat) (v : Word) (s : State) : (setReg o v s).held = s.held := rfl
@[simp] theorem setReg_lanes (o : Nat) (v : Word) (s : State) : (setReg o v s).lanes = s.lanes := rfl
@[simp] theorem setReg_ports (o : Nat) (v : Word) (s : State) : (setReg o v s).ports = s.ports := rfl
@[simp] theorem setReg_core (o : Nat) (v : Word) (s : State) : (setReg o v s).core = s.core := rfl
@[simp] theorem setReg_page (o : Nat) (v : Word) (s : State) : (setReg o v s).page = s.page := rfl
@[simp] theorem setReg_abacus (o : Nat) (v : Word) (s : State) : (setReg o v s).abacus = s.abacus := rfl
@[simp] theorem setReg_prot (o : Nat) (v : Word) (s : State) : (setReg o v s).prot = s.prot := rfl
@[simp] theorem setReg_pm (o : Nat) (v : Word) (s : State) : (setReg o v s).pm = s.pm := rfl
@[simp] theorem setReg_timing (o : Nat) (v : Word) (s : State) : (setReg o v s).timing = s.timing := rfl
@[simp] theorem setReg_eng (o : Nat) (v : Word) (s : State) : (setReg o v s).eng = s.eng := rfl
@[simp] theorem setReg_bank (o : Nat) (v : Word) (s : State) : (setReg o v s).bank = s.bank := rfl
@[simp] theorem setReg_mtest (o : Nat) (v : Word) (s : State) : (setReg o v s).mtest = s.mtest := rfl
@[simp] theorem setReg_perf (o : Nat) (v : Word) (s : State) : (setReg o v s).perf = s.perf := rfl
@[simp] theorem setReg_hif (o : Nat) (v : Word) (s : State) : (setReg o v s).hif = s.hif := rfl
@[simp] theorem setReg_sec (o : Nat) (v : Word) (s : State) : (setReg o v s).sec = s.sec := rfl
@[simp] theorem setReg_mgmt (o : Nat) (v : Word) (s : State) : (setReg o v s).mgmt = s.mgmt := rfl
@[simp] theorem setReg_sens (o : Nat) (v : Word) (s : State) : (setReg o v s).sens = s.sens := rfl
@[simp] theorem setReg_smb (o : Nat) (v : Word) (s : State) : (setReg o v s).smb = s.smb := rfl
@[simp] theorem setReg_jtag (o : Nat) (v : Word) (s : State) : (setReg o v s).jtag = s.jtag := rfl
@[simp] theorem setReg_otp (o : Nat) (v : Word) (s : State) : (setReg o v s).otp = s.otp := rfl
@[simp] theorem setReg_image (o : Nat) (v : Word) (s : State) : (setReg o v s).image = s.image := rfl
@[simp] theorem setReg_jnl (o : Nat) (v : Word) (s : State) : (setReg o v s).jnl = s.jnl := rfl
@[simp] theorem setReg_copy (o : Nat) (v : Word) (s : State) : (setReg o v s).copy = s.copy := rfl
@[simp] theorem setReg_ssw (o : Nat) (v : Word) (s : State) : (setReg o v s).ssw = s.ssw := rfl
@[simp] theorem setReg_pwr (o : Nat) (v : Word) (s : State) : (setReg o v s).pwr = s.pwr := rfl
@[simp] theorem setReg_frames (o : Nat) (v : Word) (s : State) : (setReg o v s).frames = s.frames := rfl
@[simp] theorem setReg_log (o : Nat) (v : Word) (s : State) : (setReg o v s).log = s.log := rfl

/-! `rcSet` -/

@[simp] theorem rcSet_pending (o : Nat) (v : Word) (s : State) : (rcSet o v s).pending = s.pending := rfl
@[simp] theorem rcSet_tick (o : Nat) (v : Word) (s : State) : (rcSet o v s).tick = s.tick := rfl
@[simp] theorem rcSet_cclk (o : Nat) (v : Word) (s : State) : (rcSet o v s).cclk = s.cclk := rfl
@[simp] theorem rcSet_free (o : Nat) (v : Word) (s : State) : (rcSet o v s).free = s.free := rfl
@[simp] theorem rcSet_regs (o : Nat) (v : Word) (s : State) : (rcSet o v s).regs = s.regs := rfl
@[simp] theorem rcSet_rc64 (o : Nat) (v : Word) (s : State) : (rcSet o v s).rc64 = s.rc64 := rfl
@[simp] theorem rcSet_latch (o : Nat) (v : Word) (s : State) : (rcSet o v s).latch = s.latch := rfl
@[simp] theorem rcSet_held (o : Nat) (v : Word) (s : State) : (rcSet o v s).held = s.held := rfl
@[simp] theorem rcSet_lanes (o : Nat) (v : Word) (s : State) : (rcSet o v s).lanes = s.lanes := rfl
@[simp] theorem rcSet_ports (o : Nat) (v : Word) (s : State) : (rcSet o v s).ports = s.ports := rfl
@[simp] theorem rcSet_core (o : Nat) (v : Word) (s : State) : (rcSet o v s).core = s.core := rfl
@[simp] theorem rcSet_page (o : Nat) (v : Word) (s : State) : (rcSet o v s).page = s.page := rfl
@[simp] theorem rcSet_abacus (o : Nat) (v : Word) (s : State) : (rcSet o v s).abacus = s.abacus := rfl
@[simp] theorem rcSet_prot (o : Nat) (v : Word) (s : State) : (rcSet o v s).prot = s.prot := rfl
@[simp] theorem rcSet_pm (o : Nat) (v : Word) (s : State) : (rcSet o v s).pm = s.pm := rfl
@[simp] theorem rcSet_timing (o : Nat) (v : Word) (s : State) : (rcSet o v s).timing = s.timing := rfl
@[simp] theorem rcSet_eng (o : Nat) (v : Word) (s : State) : (rcSet o v s).eng = s.eng := rfl
@[simp] theorem rcSet_bank (o : Nat) (v : Word) (s : State) : (rcSet o v s).bank = s.bank := rfl
@[simp] theorem rcSet_mtest (o : Nat) (v : Word) (s : State) : (rcSet o v s).mtest = s.mtest := rfl
@[simp] theorem rcSet_perf (o : Nat) (v : Word) (s : State) : (rcSet o v s).perf = s.perf := rfl
@[simp] theorem rcSet_hif (o : Nat) (v : Word) (s : State) : (rcSet o v s).hif = s.hif := rfl
@[simp] theorem rcSet_sec (o : Nat) (v : Word) (s : State) : (rcSet o v s).sec = s.sec := rfl
@[simp] theorem rcSet_mgmt (o : Nat) (v : Word) (s : State) : (rcSet o v s).mgmt = s.mgmt := rfl
@[simp] theorem rcSet_sens (o : Nat) (v : Word) (s : State) : (rcSet o v s).sens = s.sens := rfl
@[simp] theorem rcSet_smb (o : Nat) (v : Word) (s : State) : (rcSet o v s).smb = s.smb := rfl
@[simp] theorem rcSet_jtag (o : Nat) (v : Word) (s : State) : (rcSet o v s).jtag = s.jtag := rfl
@[simp] theorem rcSet_otp (o : Nat) (v : Word) (s : State) : (rcSet o v s).otp = s.otp := rfl
@[simp] theorem rcSet_image (o : Nat) (v : Word) (s : State) : (rcSet o v s).image = s.image := rfl
@[simp] theorem rcSet_jnl (o : Nat) (v : Word) (s : State) : (rcSet o v s).jnl = s.jnl := rfl
@[simp] theorem rcSet_copy (o : Nat) (v : Word) (s : State) : (rcSet o v s).copy = s.copy := rfl
@[simp] theorem rcSet_ssw (o : Nat) (v : Word) (s : State) : (rcSet o v s).ssw = s.ssw := rfl
@[simp] theorem rcSet_pwr (o : Nat) (v : Word) (s : State) : (rcSet o v s).pwr = s.pwr := rfl
@[simp] theorem rcSet_frames (o : Nat) (v : Word) (s : State) : (rcSet o v s).frames = s.frames := rfl
@[simp] theorem rcSet_log (o : Nat) (v : Word) (s : State) : (rcSet o v s).log = s.log := rfl

/-! `setLane` -/

@[simp] theorem setLane_pending (l : Nat) (x : Lane) (s : State) : (setLane l x s).pending = s.pending := rfl
@[simp] theorem setLane_tick (l : Nat) (x : Lane) (s : State) : (setLane l x s).tick = s.tick := rfl
@[simp] theorem setLane_cclk (l : Nat) (x : Lane) (s : State) : (setLane l x s).cclk = s.cclk := rfl
@[simp] theorem setLane_free (l : Nat) (x : Lane) (s : State) : (setLane l x s).free = s.free := rfl
@[simp] theorem setLane_regs (l : Nat) (x : Lane) (s : State) : (setLane l x s).regs = s.regs := rfl
@[simp] theorem setLane_rc (l : Nat) (x : Lane) (s : State) : (setLane l x s).rc = s.rc := rfl
@[simp] theorem setLane_rc64 (l : Nat) (x : Lane) (s : State) : (setLane l x s).rc64 = s.rc64 := rfl
@[simp] theorem setLane_latch (l : Nat) (x : Lane) (s : State) : (setLane l x s).latch = s.latch := rfl
@[simp] theorem setLane_held (l : Nat) (x : Lane) (s : State) : (setLane l x s).held = s.held := rfl
@[simp] theorem setLane_ports (l : Nat) (x : Lane) (s : State) : (setLane l x s).ports = s.ports := rfl
@[simp] theorem setLane_core (l : Nat) (x : Lane) (s : State) : (setLane l x s).core = s.core := rfl
@[simp] theorem setLane_page (l : Nat) (x : Lane) (s : State) : (setLane l x s).page = s.page := rfl
@[simp] theorem setLane_abacus (l : Nat) (x : Lane) (s : State) : (setLane l x s).abacus = s.abacus := rfl
@[simp] theorem setLane_prot (l : Nat) (x : Lane) (s : State) : (setLane l x s).prot = s.prot := rfl
@[simp] theorem setLane_pm (l : Nat) (x : Lane) (s : State) : (setLane l x s).pm = s.pm := rfl
@[simp] theorem setLane_timing (l : Nat) (x : Lane) (s : State) : (setLane l x s).timing = s.timing := rfl
@[simp] theorem setLane_eng (l : Nat) (x : Lane) (s : State) : (setLane l x s).eng = s.eng := rfl
@[simp] theorem setLane_bank (l : Nat) (x : Lane) (s : State) : (setLane l x s).bank = s.bank := rfl
@[simp] theorem setLane_mtest (l : Nat) (x : Lane) (s : State) : (setLane l x s).mtest = s.mtest := rfl
@[simp] theorem setLane_perf (l : Nat) (x : Lane) (s : State) : (setLane l x s).perf = s.perf := rfl
@[simp] theorem setLane_hif (l : Nat) (x : Lane) (s : State) : (setLane l x s).hif = s.hif := rfl
@[simp] theorem setLane_sec (l : Nat) (x : Lane) (s : State) : (setLane l x s).sec = s.sec := rfl
@[simp] theorem setLane_mgmt (l : Nat) (x : Lane) (s : State) : (setLane l x s).mgmt = s.mgmt := rfl
@[simp] theorem setLane_sens (l : Nat) (x : Lane) (s : State) : (setLane l x s).sens = s.sens := rfl
@[simp] theorem setLane_smb (l : Nat) (x : Lane) (s : State) : (setLane l x s).smb = s.smb := rfl
@[simp] theorem setLane_jtag (l : Nat) (x : Lane) (s : State) : (setLane l x s).jtag = s.jtag := rfl
@[simp] theorem setLane_otp (l : Nat) (x : Lane) (s : State) : (setLane l x s).otp = s.otp := rfl
@[simp] theorem setLane_image (l : Nat) (x : Lane) (s : State) : (setLane l x s).image = s.image := rfl
@[simp] theorem setLane_jnl (l : Nat) (x : Lane) (s : State) : (setLane l x s).jnl = s.jnl := rfl
@[simp] theorem setLane_copy (l : Nat) (x : Lane) (s : State) : (setLane l x s).copy = s.copy := rfl
@[simp] theorem setLane_ssw (l : Nat) (x : Lane) (s : State) : (setLane l x s).ssw = s.ssw := rfl
@[simp] theorem setLane_pwr (l : Nat) (x : Lane) (s : State) : (setLane l x s).pwr = s.pwr := rfl
@[simp] theorem setLane_frames (l : Nat) (x : Lane) (s : State) : (setLane l x s).frames = s.frames := rfl
@[simp] theorem setLane_log (l : Nat) (x : Lane) (s : State) : (setLane l x s).log = s.log := rfl

/-! `setPort` -/

@[simp] theorem setPort_pending (p : Nat) (x : Port) (s : State) : (setPort p x s).pending = s.pending := rfl
@[simp] theorem setPort_tick (p : Nat) (x : Port) (s : State) : (setPort p x s).tick = s.tick := rfl
@[simp] theorem setPort_cclk (p : Nat) (x : Port) (s : State) : (setPort p x s).cclk = s.cclk := rfl
@[simp] theorem setPort_free (p : Nat) (x : Port) (s : State) : (setPort p x s).free = s.free := rfl
@[simp] theorem setPort_regs (p : Nat) (x : Port) (s : State) : (setPort p x s).regs = s.regs := rfl
@[simp] theorem setPort_rc (p : Nat) (x : Port) (s : State) : (setPort p x s).rc = s.rc := rfl
@[simp] theorem setPort_rc64 (p : Nat) (x : Port) (s : State) : (setPort p x s).rc64 = s.rc64 := rfl
@[simp] theorem setPort_latch (p : Nat) (x : Port) (s : State) : (setPort p x s).latch = s.latch := rfl
@[simp] theorem setPort_held (p : Nat) (x : Port) (s : State) : (setPort p x s).held = s.held := rfl
@[simp] theorem setPort_lanes (p : Nat) (x : Port) (s : State) : (setPort p x s).lanes = s.lanes := rfl
@[simp] theorem setPort_core (p : Nat) (x : Port) (s : State) : (setPort p x s).core = s.core := rfl
@[simp] theorem setPort_page (p : Nat) (x : Port) (s : State) : (setPort p x s).page = s.page := rfl
@[simp] theorem setPort_abacus (p : Nat) (x : Port) (s : State) : (setPort p x s).abacus = s.abacus := rfl
@[simp] theorem setPort_prot (p : Nat) (x : Port) (s : State) : (setPort p x s).prot = s.prot := rfl
@[simp] theorem setPort_pm (p : Nat) (x : Port) (s : State) : (setPort p x s).pm = s.pm := rfl
@[simp] theorem setPort_timing (p : Nat) (x : Port) (s : State) : (setPort p x s).timing = s.timing := rfl
@[simp] theorem setPort_eng (p : Nat) (x : Port) (s : State) : (setPort p x s).eng = s.eng := rfl
@[simp] theorem setPort_bank (p : Nat) (x : Port) (s : State) : (setPort p x s).bank = s.bank := rfl
@[simp] theorem setPort_mtest (p : Nat) (x : Port) (s : State) : (setPort p x s).mtest = s.mtest := rfl
@[simp] theorem setPort_perf (p : Nat) (x : Port) (s : State) : (setPort p x s).perf = s.perf := rfl
@[simp] theorem setPort_hif (p : Nat) (x : Port) (s : State) : (setPort p x s).hif = s.hif := rfl
@[simp] theorem setPort_sec (p : Nat) (x : Port) (s : State) : (setPort p x s).sec = s.sec := rfl
@[simp] theorem setPort_mgmt (p : Nat) (x : Port) (s : State) : (setPort p x s).mgmt = s.mgmt := rfl
@[simp] theorem setPort_sens (p : Nat) (x : Port) (s : State) : (setPort p x s).sens = s.sens := rfl
@[simp] theorem setPort_smb (p : Nat) (x : Port) (s : State) : (setPort p x s).smb = s.smb := rfl
@[simp] theorem setPort_jtag (p : Nat) (x : Port) (s : State) : (setPort p x s).jtag = s.jtag := rfl
@[simp] theorem setPort_otp (p : Nat) (x : Port) (s : State) : (setPort p x s).otp = s.otp := rfl
@[simp] theorem setPort_image (p : Nat) (x : Port) (s : State) : (setPort p x s).image = s.image := rfl
@[simp] theorem setPort_jnl (p : Nat) (x : Port) (s : State) : (setPort p x s).jnl = s.jnl := rfl
@[simp] theorem setPort_copy (p : Nat) (x : Port) (s : State) : (setPort p x s).copy = s.copy := rfl
@[simp] theorem setPort_ssw (p : Nat) (x : Port) (s : State) : (setPort p x s).ssw = s.ssw := rfl
@[simp] theorem setPort_pwr (p : Nat) (x : Port) (s : State) : (setPort p x s).pwr = s.pwr := rfl
@[simp] theorem setPort_frames (p : Nat) (x : Port) (s : State) : (setPort p x s).frames = s.frames := rfl
@[simp] theorem setPort_log (p : Nat) (x : Port) (s : State) : (setPort p x s).log = s.log := rfl

/-! `setQueue` -/

@[simp] theorem setQueue_pending (q : Nat) (x : Queue) (s : State) : (setQueue q x s).pending = s.pending := rfl
@[simp] theorem setQueue_tick (q : Nat) (x : Queue) (s : State) : (setQueue q x s).tick = s.tick := rfl
@[simp] theorem setQueue_cclk (q : Nat) (x : Queue) (s : State) : (setQueue q x s).cclk = s.cclk := rfl
@[simp] theorem setQueue_free (q : Nat) (x : Queue) (s : State) : (setQueue q x s).free = s.free := rfl
@[simp] theorem setQueue_regs (q : Nat) (x : Queue) (s : State) : (setQueue q x s).regs = s.regs := rfl
@[simp] theorem setQueue_rc (q : Nat) (x : Queue) (s : State) : (setQueue q x s).rc = s.rc := rfl
@[simp] theorem setQueue_rc64 (q : Nat) (x : Queue) (s : State) : (setQueue q x s).rc64 = s.rc64 := rfl
@[simp] theorem setQueue_latch (q : Nat) (x : Queue) (s : State) : (setQueue q x s).latch = s.latch := rfl
@[simp] theorem setQueue_held (q : Nat) (x : Queue) (s : State) : (setQueue q x s).held = s.held := rfl
@[simp] theorem setQueue_lanes (q : Nat) (x : Queue) (s : State) : (setQueue q x s).lanes = s.lanes := rfl
@[simp] theorem setQueue_ports (q : Nat) (x : Queue) (s : State) : (setQueue q x s).ports = s.ports := rfl
@[simp] theorem setQueue_core (q : Nat) (x : Queue) (s : State) : (setQueue q x s).core = s.core := rfl
@[simp] theorem setQueue_page (q : Nat) (x : Queue) (s : State) : (setQueue q x s).page = s.page := rfl
@[simp] theorem setQueue_abacus (q : Nat) (x : Queue) (s : State) : (setQueue q x s).abacus = s.abacus := rfl
@[simp] theorem setQueue_prot (q : Nat) (x : Queue) (s : State) : (setQueue q x s).prot = s.prot := rfl
@[simp] theorem setQueue_pm (q : Nat) (x : Queue) (s : State) : (setQueue q x s).pm = s.pm := rfl
@[simp] theorem setQueue_timing (q : Nat) (x : Queue) (s : State) : (setQueue q x s).timing = s.timing := rfl
@[simp] theorem setQueue_eng (q : Nat) (x : Queue) (s : State) : (setQueue q x s).eng = s.eng := rfl
@[simp] theorem setQueue_bank (q : Nat) (x : Queue) (s : State) : (setQueue q x s).bank = s.bank := rfl
@[simp] theorem setQueue_mtest (q : Nat) (x : Queue) (s : State) : (setQueue q x s).mtest = s.mtest := rfl
@[simp] theorem setQueue_perf (q : Nat) (x : Queue) (s : State) : (setQueue q x s).perf = s.perf := rfl
@[simp] theorem setQueue_sec (q : Nat) (x : Queue) (s : State) : (setQueue q x s).sec = s.sec := rfl
@[simp] theorem setQueue_mgmt (q : Nat) (x : Queue) (s : State) : (setQueue q x s).mgmt = s.mgmt := rfl
@[simp] theorem setQueue_sens (q : Nat) (x : Queue) (s : State) : (setQueue q x s).sens = s.sens := rfl
@[simp] theorem setQueue_smb (q : Nat) (x : Queue) (s : State) : (setQueue q x s).smb = s.smb := rfl
@[simp] theorem setQueue_jtag (q : Nat) (x : Queue) (s : State) : (setQueue q x s).jtag = s.jtag := rfl
@[simp] theorem setQueue_otp (q : Nat) (x : Queue) (s : State) : (setQueue q x s).otp = s.otp := rfl
@[simp] theorem setQueue_image (q : Nat) (x : Queue) (s : State) : (setQueue q x s).image = s.image := rfl
@[simp] theorem setQueue_jnl (q : Nat) (x : Queue) (s : State) : (setQueue q x s).jnl = s.jnl := rfl
@[simp] theorem setQueue_copy (q : Nat) (x : Queue) (s : State) : (setQueue q x s).copy = s.copy := rfl
@[simp] theorem setQueue_ssw (q : Nat) (x : Queue) (s : State) : (setQueue q x s).ssw = s.ssw := rfl
@[simp] theorem setQueue_pwr (q : Nat) (x : Queue) (s : State) : (setQueue q x s).pwr = s.pwr := rfl
@[simp] theorem setQueue_frames (q : Nat) (x : Queue) (s : State) : (setQueue q x s).frames = s.frames := rfl
@[simp] theorem setQueue_log (q : Nat) (x : Queue) (s : State) : (setQueue q x s).log = s.log := rfl
@[simp] theorem setQueue_hif_ready (q : Nat) (x : Queue) (s : State) : (setQueue q x s).hif.ready = s.hif.ready := rfl
@[simp] theorem setQueue_hif_link (q : Nat) (x : Queue) (s : State) : (setQueue q x s).hif.link = s.hif.link := rfl
@[simp] theorem setQueue_hif_speed (q : Nat) (x : Queue) (s : State) : (setQueue q x s).hif.speed = s.hif.speed := rfl
@[simp] theorem setQueue_hif_width (q : Nat) (x : Queue) (s : State) : (setQueue q x s).hif.width = s.hif.width := rfl
@[simp] theorem setQueue_hif_flit (q : Nat) (x : Queue) (s : State) : (setQueue q x s).hif.flit = s.hif.flit := rfl
@[simp] theorem setQueue_hif_vfs (q : Nat) (x : Queue) (s : State) : (setQueue q x s).hif.vfs = s.hif.vfs := rfl
@[simp] theorem setQueue_hif_mps (q : Nat) (x : Queue) (s : State) : (setQueue q x s).hif.mps = s.hif.mps := rfl
@[simp] theorem setQueue_hif_mrrs (q : Nat) (x : Queue) (s : State) : (setQueue q x s).hif.mrrs = s.hif.mrrs := rfl
@[simp] theorem setQueue_hif_rings (q : Nat) (x : Queue) (s : State) : (setQueue q x s).hif.rings = s.hif.rings := rfl
@[simp] theorem setQueue_hif_seqs (q : Nat) (x : Queue) (s : State) : (setQueue q x s).hif.seqs = s.hif.seqs := rfl
@[simp] theorem setQueue_hif_turn (q : Nat) (x : Queue) (s : State) : (setQueue q x s).hif.turn = s.hif.turn := rfl
@[simp] theorem setQueue_hif_vfTable (q : Nat) (x : Queue) (s : State) : (setQueue q x s).hif.vfTable = s.hif.vfTable := rfl
@[simp] theorem setQueue_hif_sent (q : Nat) (x : Queue) (s : State) : (setQueue q x s).hif.sent = s.hif.sent := rfl
@[simp] theorem setQueue_hif_pba (q : Nat) (x : Queue) (s : State) : (setQueue q x s).hif.pba = s.hif.pba := rfl
@[simp] theorem setQueue_hif_hostMem (q : Nat) (x : Queue) (s : State) : (setQueue q x s).hif.hostMem = s.hif.hostMem := rfl
@[simp] theorem setQueue_hif_readData (q : Nat) (x : Queue) (s : State) : (setQueue q x s).hif.readData = s.hif.readData := rfl
@[simp] theorem setQueue_hif_timingOut (q : Nat) (x : Queue) (s : State) : (setQueue q x s).hif.timingOut = s.hif.timingOut := rfl

/-! `setRing` -/

@[simp] theorem setRing_pending (r : Nat) (x : EvRing) (s : State) : (setRing r x s).pending = s.pending := rfl
@[simp] theorem setRing_tick (r : Nat) (x : EvRing) (s : State) : (setRing r x s).tick = s.tick := rfl
@[simp] theorem setRing_cclk (r : Nat) (x : EvRing) (s : State) : (setRing r x s).cclk = s.cclk := rfl
@[simp] theorem setRing_free (r : Nat) (x : EvRing) (s : State) : (setRing r x s).free = s.free := rfl
@[simp] theorem setRing_regs (r : Nat) (x : EvRing) (s : State) : (setRing r x s).regs = s.regs := rfl
@[simp] theorem setRing_rc (r : Nat) (x : EvRing) (s : State) : (setRing r x s).rc = s.rc := rfl
@[simp] theorem setRing_rc64 (r : Nat) (x : EvRing) (s : State) : (setRing r x s).rc64 = s.rc64 := rfl
@[simp] theorem setRing_latch (r : Nat) (x : EvRing) (s : State) : (setRing r x s).latch = s.latch := rfl
@[simp] theorem setRing_held (r : Nat) (x : EvRing) (s : State) : (setRing r x s).held = s.held := rfl
@[simp] theorem setRing_lanes (r : Nat) (x : EvRing) (s : State) : (setRing r x s).lanes = s.lanes := rfl
@[simp] theorem setRing_ports (r : Nat) (x : EvRing) (s : State) : (setRing r x s).ports = s.ports := rfl
@[simp] theorem setRing_core (r : Nat) (x : EvRing) (s : State) : (setRing r x s).core = s.core := rfl
@[simp] theorem setRing_page (r : Nat) (x : EvRing) (s : State) : (setRing r x s).page = s.page := rfl
@[simp] theorem setRing_abacus (r : Nat) (x : EvRing) (s : State) : (setRing r x s).abacus = s.abacus := rfl
@[simp] theorem setRing_prot (r : Nat) (x : EvRing) (s : State) : (setRing r x s).prot = s.prot := rfl
@[simp] theorem setRing_pm (r : Nat) (x : EvRing) (s : State) : (setRing r x s).pm = s.pm := rfl
@[simp] theorem setRing_timing (r : Nat) (x : EvRing) (s : State) : (setRing r x s).timing = s.timing := rfl
@[simp] theorem setRing_eng (r : Nat) (x : EvRing) (s : State) : (setRing r x s).eng = s.eng := rfl
@[simp] theorem setRing_bank (r : Nat) (x : EvRing) (s : State) : (setRing r x s).bank = s.bank := rfl
@[simp] theorem setRing_mtest (r : Nat) (x : EvRing) (s : State) : (setRing r x s).mtest = s.mtest := rfl
@[simp] theorem setRing_perf (r : Nat) (x : EvRing) (s : State) : (setRing r x s).perf = s.perf := rfl
@[simp] theorem setRing_sec (r : Nat) (x : EvRing) (s : State) : (setRing r x s).sec = s.sec := rfl
@[simp] theorem setRing_mgmt (r : Nat) (x : EvRing) (s : State) : (setRing r x s).mgmt = s.mgmt := rfl
@[simp] theorem setRing_sens (r : Nat) (x : EvRing) (s : State) : (setRing r x s).sens = s.sens := rfl
@[simp] theorem setRing_smb (r : Nat) (x : EvRing) (s : State) : (setRing r x s).smb = s.smb := rfl
@[simp] theorem setRing_jtag (r : Nat) (x : EvRing) (s : State) : (setRing r x s).jtag = s.jtag := rfl
@[simp] theorem setRing_otp (r : Nat) (x : EvRing) (s : State) : (setRing r x s).otp = s.otp := rfl
@[simp] theorem setRing_image (r : Nat) (x : EvRing) (s : State) : (setRing r x s).image = s.image := rfl
@[simp] theorem setRing_jnl (r : Nat) (x : EvRing) (s : State) : (setRing r x s).jnl = s.jnl := rfl
@[simp] theorem setRing_copy (r : Nat) (x : EvRing) (s : State) : (setRing r x s).copy = s.copy := rfl
@[simp] theorem setRing_ssw (r : Nat) (x : EvRing) (s : State) : (setRing r x s).ssw = s.ssw := rfl
@[simp] theorem setRing_pwr (r : Nat) (x : EvRing) (s : State) : (setRing r x s).pwr = s.pwr := rfl
@[simp] theorem setRing_frames (r : Nat) (x : EvRing) (s : State) : (setRing r x s).frames = s.frames := rfl
@[simp] theorem setRing_log (r : Nat) (x : EvRing) (s : State) : (setRing r x s).log = s.log := rfl
@[simp] theorem setRing_hif_ready (r : Nat) (x : EvRing) (s : State) : (setRing r x s).hif.ready = s.hif.ready := rfl
@[simp] theorem setRing_hif_link (r : Nat) (x : EvRing) (s : State) : (setRing r x s).hif.link = s.hif.link := rfl
@[simp] theorem setRing_hif_speed (r : Nat) (x : EvRing) (s : State) : (setRing r x s).hif.speed = s.hif.speed := rfl
@[simp] theorem setRing_hif_width (r : Nat) (x : EvRing) (s : State) : (setRing r x s).hif.width = s.hif.width := rfl
@[simp] theorem setRing_hif_flit (r : Nat) (x : EvRing) (s : State) : (setRing r x s).hif.flit = s.hif.flit := rfl
@[simp] theorem setRing_hif_vfs (r : Nat) (x : EvRing) (s : State) : (setRing r x s).hif.vfs = s.hif.vfs := rfl
@[simp] theorem setRing_hif_mps (r : Nat) (x : EvRing) (s : State) : (setRing r x s).hif.mps = s.hif.mps := rfl
@[simp] theorem setRing_hif_mrrs (r : Nat) (x : EvRing) (s : State) : (setRing r x s).hif.mrrs = s.hif.mrrs := rfl
@[simp] theorem setRing_hif_queues (r : Nat) (x : EvRing) (s : State) : (setRing r x s).hif.queues = s.hif.queues := rfl
@[simp] theorem setRing_hif_seqs (r : Nat) (x : EvRing) (s : State) : (setRing r x s).hif.seqs = s.hif.seqs := rfl
@[simp] theorem setRing_hif_turn (r : Nat) (x : EvRing) (s : State) : (setRing r x s).hif.turn = s.hif.turn := rfl
@[simp] theorem setRing_hif_vfTable (r : Nat) (x : EvRing) (s : State) : (setRing r x s).hif.vfTable = s.hif.vfTable := rfl
@[simp] theorem setRing_hif_sent (r : Nat) (x : EvRing) (s : State) : (setRing r x s).hif.sent = s.hif.sent := rfl
@[simp] theorem setRing_hif_pba (r : Nat) (x : EvRing) (s : State) : (setRing r x s).hif.pba = s.hif.pba := rfl
@[simp] theorem setRing_hif_hostMem (r : Nat) (x : EvRing) (s : State) : (setRing r x s).hif.hostMem = s.hif.hostMem := rfl
@[simp] theorem setRing_hif_readData (r : Nat) (x : EvRing) (s : State) : (setRing r x s).hif.readData = s.hif.readData := rfl
@[simp] theorem setRing_hif_timingOut (r : Nat) (x : EvRing) (s : State) : (setRing r x s).hif.timingOut = s.hif.timingOut := rfl

/-! `onBus` -/

@[simp] theorem onBus_pending (v : Nat) (s : State) : (onBus v s).pending = s.pending := rfl
@[simp] theorem onBus_tick (v : Nat) (s : State) : (onBus v s).tick = s.tick := rfl
@[simp] theorem onBus_cclk (v : Nat) (s : State) : (onBus v s).cclk = s.cclk := rfl
@[simp] theorem onBus_free (v : Nat) (s : State) : (onBus v s).free = s.free := rfl
@[simp] theorem onBus_regs (v : Nat) (s : State) : (onBus v s).regs = s.regs := rfl
@[simp] theorem onBus_rc (v : Nat) (s : State) : (onBus v s).rc = s.rc := rfl
@[simp] theorem onBus_rc64 (v : Nat) (s : State) : (onBus v s).rc64 = s.rc64 := rfl
@[simp] theorem onBus_latch (v : Nat) (s : State) : (onBus v s).latch = s.latch := rfl
@[simp] theorem onBus_held (v : Nat) (s : State) : (onBus v s).held = s.held := rfl
@[simp] theorem onBus_lanes (v : Nat) (s : State) : (onBus v s).lanes = s.lanes := rfl
@[simp] theorem onBus_ports (v : Nat) (s : State) : (onBus v s).ports = s.ports := rfl
@[simp] theorem onBus_core (v : Nat) (s : State) : (onBus v s).core = s.core := rfl
@[simp] theorem onBus_page (v : Nat) (s : State) : (onBus v s).page = s.page := rfl
@[simp] theorem onBus_abacus (v : Nat) (s : State) : (onBus v s).abacus = s.abacus := rfl
@[simp] theorem onBus_prot (v : Nat) (s : State) : (onBus v s).prot = s.prot := rfl
@[simp] theorem onBus_pm (v : Nat) (s : State) : (onBus v s).pm = s.pm := rfl
@[simp] theorem onBus_timing (v : Nat) (s : State) : (onBus v s).timing = s.timing := rfl
@[simp] theorem onBus_eng (v : Nat) (s : State) : (onBus v s).eng = s.eng := rfl
@[simp] theorem onBus_bank (v : Nat) (s : State) : (onBus v s).bank = s.bank := rfl
@[simp] theorem onBus_mtest (v : Nat) (s : State) : (onBus v s).mtest = s.mtest := rfl
@[simp] theorem onBus_perf (v : Nat) (s : State) : (onBus v s).perf = s.perf := rfl
@[simp] theorem onBus_sec (v : Nat) (s : State) : (onBus v s).sec = s.sec := rfl
@[simp] theorem onBus_mgmt (v : Nat) (s : State) : (onBus v s).mgmt = s.mgmt := rfl
@[simp] theorem onBus_sens (v : Nat) (s : State) : (onBus v s).sens = s.sens := rfl
@[simp] theorem onBus_smb (v : Nat) (s : State) : (onBus v s).smb = s.smb := rfl
@[simp] theorem onBus_jtag (v : Nat) (s : State) : (onBus v s).jtag = s.jtag := rfl
@[simp] theorem onBus_otp (v : Nat) (s : State) : (onBus v s).otp = s.otp := rfl
@[simp] theorem onBus_image (v : Nat) (s : State) : (onBus v s).image = s.image := rfl
@[simp] theorem onBus_jnl (v : Nat) (s : State) : (onBus v s).jnl = s.jnl := rfl
@[simp] theorem onBus_copy (v : Nat) (s : State) : (onBus v s).copy = s.copy := rfl
@[simp] theorem onBus_ssw (v : Nat) (s : State) : (onBus v s).ssw = s.ssw := rfl
@[simp] theorem onBus_pwr (v : Nat) (s : State) : (onBus v s).pwr = s.pwr := rfl
@[simp] theorem onBus_frames (v : Nat) (s : State) : (onBus v s).frames = s.frames := rfl
@[simp] theorem onBus_log (v : Nat) (s : State) : (onBus v s).log = s.log := rfl
@[simp] theorem onBus_hif_ready (v : Nat) (s : State) : (onBus v s).hif.ready = s.hif.ready := rfl
@[simp] theorem onBus_hif_link (v : Nat) (s : State) : (onBus v s).hif.link = s.hif.link := rfl
@[simp] theorem onBus_hif_speed (v : Nat) (s : State) : (onBus v s).hif.speed = s.hif.speed := rfl
@[simp] theorem onBus_hif_width (v : Nat) (s : State) : (onBus v s).hif.width = s.hif.width := rfl
@[simp] theorem onBus_hif_flit (v : Nat) (s : State) : (onBus v s).hif.flit = s.hif.flit := rfl
@[simp] theorem onBus_hif_vfs (v : Nat) (s : State) : (onBus v s).hif.vfs = s.hif.vfs := rfl
@[simp] theorem onBus_hif_mps (v : Nat) (s : State) : (onBus v s).hif.mps = s.hif.mps := rfl
@[simp] theorem onBus_hif_mrrs (v : Nat) (s : State) : (onBus v s).hif.mrrs = s.hif.mrrs := rfl
@[simp] theorem onBus_hif_queues (v : Nat) (s : State) : (onBus v s).hif.queues = s.hif.queues := rfl
@[simp] theorem onBus_hif_rings (v : Nat) (s : State) : (onBus v s).hif.rings = s.hif.rings := rfl
@[simp] theorem onBus_hif_seqs (v : Nat) (s : State) : (onBus v s).hif.seqs = s.hif.seqs := rfl
@[simp] theorem onBus_hif_turn (v : Nat) (s : State) : (onBus v s).hif.turn = s.hif.turn := rfl
@[simp] theorem onBus_hif_vfTable (v : Nat) (s : State) : (onBus v s).hif.vfTable = s.hif.vfTable := rfl
@[simp] theorem onBus_hif_sent (v : Nat) (s : State) : (onBus v s).hif.sent = s.hif.sent := rfl
@[simp] theorem onBus_hif_pba (v : Nat) (s : State) : (onBus v s).hif.pba = s.hif.pba := rfl
@[simp] theorem onBus_hif_hostMem (v : Nat) (s : State) : (onBus v s).hif.hostMem = s.hif.hostMem := rfl
@[simp] theorem onBus_hif_timingOut (v : Nat) (s : State) : (onBus v s).hif.timingOut = s.hif.timingOut := rfl

/-! `setRef` -/

@[simp] theorem setRef_pending (n : Nat) (r : Ref) (s : State) : (setRef n r s).pending = s.pending := rfl
@[simp] theorem setRef_tick (n : Nat) (r : Ref) (s : State) : (setRef n r s).tick = s.tick := rfl
@[simp] theorem setRef_cclk (n : Nat) (r : Ref) (s : State) : (setRef n r s).cclk = s.cclk := rfl
@[simp] theorem setRef_free (n : Nat) (r : Ref) (s : State) : (setRef n r s).free = s.free := rfl
@[simp] theorem setRef_regs (n : Nat) (r : Ref) (s : State) : (setRef n r s).regs = s.regs := rfl
@[simp] theorem setRef_rc (n : Nat) (r : Ref) (s : State) : (setRef n r s).rc = s.rc := rfl
@[simp] theorem setRef_rc64 (n : Nat) (r : Ref) (s : State) : (setRef n r s).rc64 = s.rc64 := rfl
@[simp] theorem setRef_latch (n : Nat) (r : Ref) (s : State) : (setRef n r s).latch = s.latch := rfl
@[simp] theorem setRef_held (n : Nat) (r : Ref) (s : State) : (setRef n r s).held = s.held := rfl
@[simp] theorem setRef_lanes (n : Nat) (r : Ref) (s : State) : (setRef n r s).lanes = s.lanes := rfl
@[simp] theorem setRef_ports (n : Nat) (r : Ref) (s : State) : (setRef n r s).ports = s.ports := rfl
@[simp] theorem setRef_core (n : Nat) (r : Ref) (s : State) : (setRef n r s).core = s.core := rfl
@[simp] theorem setRef_page (n : Nat) (r : Ref) (s : State) : (setRef n r s).page = s.page := rfl
@[simp] theorem setRef_abacus (n : Nat) (r : Ref) (s : State) : (setRef n r s).abacus = s.abacus := rfl
@[simp] theorem setRef_prot (n : Nat) (r : Ref) (s : State) : (setRef n r s).prot = s.prot := rfl
@[simp] theorem setRef_pm (n : Nat) (r : Ref) (s : State) : (setRef n r s).pm = s.pm := rfl
@[simp] theorem setRef_eng (n : Nat) (r : Ref) (s : State) : (setRef n r s).eng = s.eng := rfl
@[simp] theorem setRef_bank (n : Nat) (r : Ref) (s : State) : (setRef n r s).bank = s.bank := rfl
@[simp] theorem setRef_mtest (n : Nat) (r : Ref) (s : State) : (setRef n r s).mtest = s.mtest := rfl
@[simp] theorem setRef_perf (n : Nat) (r : Ref) (s : State) : (setRef n r s).perf = s.perf := rfl
@[simp] theorem setRef_hif (n : Nat) (r : Ref) (s : State) : (setRef n r s).hif = s.hif := rfl
@[simp] theorem setRef_sec (n : Nat) (r : Ref) (s : State) : (setRef n r s).sec = s.sec := rfl
@[simp] theorem setRef_mgmt (n : Nat) (r : Ref) (s : State) : (setRef n r s).mgmt = s.mgmt := rfl
@[simp] theorem setRef_sens (n : Nat) (r : Ref) (s : State) : (setRef n r s).sens = s.sens := rfl
@[simp] theorem setRef_smb (n : Nat) (r : Ref) (s : State) : (setRef n r s).smb = s.smb := rfl
@[simp] theorem setRef_jtag (n : Nat) (r : Ref) (s : State) : (setRef n r s).jtag = s.jtag := rfl
@[simp] theorem setRef_otp (n : Nat) (r : Ref) (s : State) : (setRef n r s).otp = s.otp := rfl
@[simp] theorem setRef_image (n : Nat) (r : Ref) (s : State) : (setRef n r s).image = s.image := rfl
@[simp] theorem setRef_jnl (n : Nat) (r : Ref) (s : State) : (setRef n r s).jnl = s.jnl := rfl
@[simp] theorem setRef_copy (n : Nat) (r : Ref) (s : State) : (setRef n r s).copy = s.copy := rfl
@[simp] theorem setRef_ssw (n : Nat) (r : Ref) (s : State) : (setRef n r s).ssw = s.ssw := rfl
@[simp] theorem setRef_pwr (n : Nat) (r : Ref) (s : State) : (setRef n r s).pwr = s.pwr := rfl
@[simp] theorem setRef_frames (n : Nat) (r : Ref) (s : State) : (setRef n r s).frames = s.frames := rfl
@[simp] theorem setRef_log (n : Nat) (r : Ref) (s : State) : (setRef n r s).log = s.log := rfl

/-! `setKeySlot` -/

@[simp] theorem setKeySlot_pending (k : Nat) (x : KeySlot) (s : State) : (setKeySlot k x s).pending = s.pending := rfl
@[simp] theorem setKeySlot_tick (k : Nat) (x : KeySlot) (s : State) : (setKeySlot k x s).tick = s.tick := rfl
@[simp] theorem setKeySlot_cclk (k : Nat) (x : KeySlot) (s : State) : (setKeySlot k x s).cclk = s.cclk := rfl
@[simp] theorem setKeySlot_free (k : Nat) (x : KeySlot) (s : State) : (setKeySlot k x s).free = s.free := rfl
@[simp] theorem setKeySlot_regs (k : Nat) (x : KeySlot) (s : State) : (setKeySlot k x s).regs = s.regs := rfl
@[simp] theorem setKeySlot_rc (k : Nat) (x : KeySlot) (s : State) : (setKeySlot k x s).rc = s.rc := rfl
@[simp] theorem setKeySlot_rc64 (k : Nat) (x : KeySlot) (s : State) : (setKeySlot k x s).rc64 = s.rc64 := rfl
@[simp] theorem setKeySlot_latch (k : Nat) (x : KeySlot) (s : State) : (setKeySlot k x s).latch = s.latch := rfl
@[simp] theorem setKeySlot_held (k : Nat) (x : KeySlot) (s : State) : (setKeySlot k x s).held = s.held := rfl
@[simp] theorem setKeySlot_lanes (k : Nat) (x : KeySlot) (s : State) : (setKeySlot k x s).lanes = s.lanes := rfl
@[simp] theorem setKeySlot_ports (k : Nat) (x : KeySlot) (s : State) : (setKeySlot k x s).ports = s.ports := rfl
@[simp] theorem setKeySlot_core (k : Nat) (x : KeySlot) (s : State) : (setKeySlot k x s).core = s.core := rfl
@[simp] theorem setKeySlot_page (k : Nat) (x : KeySlot) (s : State) : (setKeySlot k x s).page = s.page := rfl
@[simp] theorem setKeySlot_abacus (k : Nat) (x : KeySlot) (s : State) : (setKeySlot k x s).abacus = s.abacus := rfl
@[simp] theorem setKeySlot_prot (k : Nat) (x : KeySlot) (s : State) : (setKeySlot k x s).prot = s.prot := rfl
@[simp] theorem setKeySlot_pm (k : Nat) (x : KeySlot) (s : State) : (setKeySlot k x s).pm = s.pm := rfl
@[simp] theorem setKeySlot_timing (k : Nat) (x : KeySlot) (s : State) : (setKeySlot k x s).timing = s.timing := rfl
@[simp] theorem setKeySlot_eng (k : Nat) (x : KeySlot) (s : State) : (setKeySlot k x s).eng = s.eng := rfl
@[simp] theorem setKeySlot_bank (k : Nat) (x : KeySlot) (s : State) : (setKeySlot k x s).bank = s.bank := rfl
@[simp] theorem setKeySlot_mtest (k : Nat) (x : KeySlot) (s : State) : (setKeySlot k x s).mtest = s.mtest := rfl
@[simp] theorem setKeySlot_perf (k : Nat) (x : KeySlot) (s : State) : (setKeySlot k x s).perf = s.perf := rfl
@[simp] theorem setKeySlot_hif (k : Nat) (x : KeySlot) (s : State) : (setKeySlot k x s).hif = s.hif := rfl
@[simp] theorem setKeySlot_mgmt (k : Nat) (x : KeySlot) (s : State) : (setKeySlot k x s).mgmt = s.mgmt := rfl
@[simp] theorem setKeySlot_sens (k : Nat) (x : KeySlot) (s : State) : (setKeySlot k x s).sens = s.sens := rfl
@[simp] theorem setKeySlot_smb (k : Nat) (x : KeySlot) (s : State) : (setKeySlot k x s).smb = s.smb := rfl
@[simp] theorem setKeySlot_jtag (k : Nat) (x : KeySlot) (s : State) : (setKeySlot k x s).jtag = s.jtag := rfl
@[simp] theorem setKeySlot_otp (k : Nat) (x : KeySlot) (s : State) : (setKeySlot k x s).otp = s.otp := rfl
@[simp] theorem setKeySlot_image (k : Nat) (x : KeySlot) (s : State) : (setKeySlot k x s).image = s.image := rfl
@[simp] theorem setKeySlot_jnl (k : Nat) (x : KeySlot) (s : State) : (setKeySlot k x s).jnl = s.jnl := rfl
@[simp] theorem setKeySlot_copy (k : Nat) (x : KeySlot) (s : State) : (setKeySlot k x s).copy = s.copy := rfl
@[simp] theorem setKeySlot_ssw (k : Nat) (x : KeySlot) (s : State) : (setKeySlot k x s).ssw = s.ssw := rfl
@[simp] theorem setKeySlot_pwr (k : Nat) (x : KeySlot) (s : State) : (setKeySlot k x s).pwr = s.pwr := rfl
@[simp] theorem setKeySlot_frames (k : Nat) (x : KeySlot) (s : State) : (setKeySlot k x s).frames = s.frames := rfl
@[simp] theorem setKeySlot_log (k : Nat) (x : KeySlot) (s : State) : (setKeySlot k x s).log = s.log := rfl

/-! `setWindow` -/

@[simp] theorem setWindow_pending (d : Nat) (w : Window) (s : State) : (setWindow d w s).pending = s.pending := rfl
@[simp] theorem setWindow_tick (d : Nat) (w : Window) (s : State) : (setWindow d w s).tick = s.tick := rfl
@[simp] theorem setWindow_cclk (d : Nat) (w : Window) (s : State) : (setWindow d w s).cclk = s.cclk := rfl
@[simp] theorem setWindow_free (d : Nat) (w : Window) (s : State) : (setWindow d w s).free = s.free := rfl
@[simp] theorem setWindow_regs (d : Nat) (w : Window) (s : State) : (setWindow d w s).regs = s.regs := rfl
@[simp] theorem setWindow_rc (d : Nat) (w : Window) (s : State) : (setWindow d w s).rc = s.rc := rfl
@[simp] theorem setWindow_rc64 (d : Nat) (w : Window) (s : State) : (setWindow d w s).rc64 = s.rc64 := rfl
@[simp] theorem setWindow_latch (d : Nat) (w : Window) (s : State) : (setWindow d w s).latch = s.latch := rfl
@[simp] theorem setWindow_held (d : Nat) (w : Window) (s : State) : (setWindow d w s).held = s.held := rfl
@[simp] theorem setWindow_lanes (d : Nat) (w : Window) (s : State) : (setWindow d w s).lanes = s.lanes := rfl
@[simp] theorem setWindow_ports (d : Nat) (w : Window) (s : State) : (setWindow d w s).ports = s.ports := rfl
@[simp] theorem setWindow_core (d : Nat) (w : Window) (s : State) : (setWindow d w s).core = s.core := rfl
@[simp] theorem setWindow_page (d : Nat) (w : Window) (s : State) : (setWindow d w s).page = s.page := rfl
@[simp] theorem setWindow_abacus (d : Nat) (w : Window) (s : State) : (setWindow d w s).abacus = s.abacus := rfl
@[simp] theorem setWindow_prot (d : Nat) (w : Window) (s : State) : (setWindow d w s).prot = s.prot := rfl
@[simp] theorem setWindow_pm (d : Nat) (w : Window) (s : State) : (setWindow d w s).pm = s.pm := rfl
@[simp] theorem setWindow_timing (d : Nat) (w : Window) (s : State) : (setWindow d w s).timing = s.timing := rfl
@[simp] theorem setWindow_eng (d : Nat) (w : Window) (s : State) : (setWindow d w s).eng = s.eng := rfl
@[simp] theorem setWindow_bank (d : Nat) (w : Window) (s : State) : (setWindow d w s).bank = s.bank := rfl
@[simp] theorem setWindow_mtest (d : Nat) (w : Window) (s : State) : (setWindow d w s).mtest = s.mtest := rfl
@[simp] theorem setWindow_perf (d : Nat) (w : Window) (s : State) : (setWindow d w s).perf = s.perf := rfl
@[simp] theorem setWindow_hif (d : Nat) (w : Window) (s : State) : (setWindow d w s).hif = s.hif := rfl
@[simp] theorem setWindow_mgmt (d : Nat) (w : Window) (s : State) : (setWindow d w s).mgmt = s.mgmt := rfl
@[simp] theorem setWindow_sens (d : Nat) (w : Window) (s : State) : (setWindow d w s).sens = s.sens := rfl
@[simp] theorem setWindow_smb (d : Nat) (w : Window) (s : State) : (setWindow d w s).smb = s.smb := rfl
@[simp] theorem setWindow_jtag (d : Nat) (w : Window) (s : State) : (setWindow d w s).jtag = s.jtag := rfl
@[simp] theorem setWindow_otp (d : Nat) (w : Window) (s : State) : (setWindow d w s).otp = s.otp := rfl
@[simp] theorem setWindow_image (d : Nat) (w : Window) (s : State) : (setWindow d w s).image = s.image := rfl
@[simp] theorem setWindow_jnl (d : Nat) (w : Window) (s : State) : (setWindow d w s).jnl = s.jnl := rfl
@[simp] theorem setWindow_copy (d : Nat) (w : Window) (s : State) : (setWindow d w s).copy = s.copy := rfl
@[simp] theorem setWindow_ssw (d : Nat) (w : Window) (s : State) : (setWindow d w s).ssw = s.ssw := rfl
@[simp] theorem setWindow_pwr (d : Nat) (w : Window) (s : State) : (setWindow d w s).pwr = s.pwr := rfl
@[simp] theorem setWindow_frames (d : Nat) (w : Window) (s : State) : (setWindow d w s).frames = s.frames := rfl
@[simp] theorem setWindow_log (d : Nat) (w : Window) (s : State) : (setWindow d w s).log = s.log := rfl

/-! `setEng` -/

@[simp] theorem setEng_pending (e : Nat) (x : Eng) (s : State) : (setEng e x s).pending = s.pending := rfl
@[simp] theorem setEng_tick (e : Nat) (x : Eng) (s : State) : (setEng e x s).tick = s.tick := rfl
@[simp] theorem setEng_cclk (e : Nat) (x : Eng) (s : State) : (setEng e x s).cclk = s.cclk := rfl
@[simp] theorem setEng_free (e : Nat) (x : Eng) (s : State) : (setEng e x s).free = s.free := rfl
@[simp] theorem setEng_regs (e : Nat) (x : Eng) (s : State) : (setEng e x s).regs = s.regs := rfl
@[simp] theorem setEng_rc (e : Nat) (x : Eng) (s : State) : (setEng e x s).rc = s.rc := rfl
@[simp] theorem setEng_rc64 (e : Nat) (x : Eng) (s : State) : (setEng e x s).rc64 = s.rc64 := rfl
@[simp] theorem setEng_latch (e : Nat) (x : Eng) (s : State) : (setEng e x s).latch = s.latch := rfl
@[simp] theorem setEng_held (e : Nat) (x : Eng) (s : State) : (setEng e x s).held = s.held := rfl
@[simp] theorem setEng_lanes (e : Nat) (x : Eng) (s : State) : (setEng e x s).lanes = s.lanes := rfl
@[simp] theorem setEng_ports (e : Nat) (x : Eng) (s : State) : (setEng e x s).ports = s.ports := rfl
@[simp] theorem setEng_core (e : Nat) (x : Eng) (s : State) : (setEng e x s).core = s.core := rfl
@[simp] theorem setEng_page (e : Nat) (x : Eng) (s : State) : (setEng e x s).page = s.page := rfl
@[simp] theorem setEng_abacus (e : Nat) (x : Eng) (s : State) : (setEng e x s).abacus = s.abacus := rfl
@[simp] theorem setEng_prot (e : Nat) (x : Eng) (s : State) : (setEng e x s).prot = s.prot := rfl
@[simp] theorem setEng_pm (e : Nat) (x : Eng) (s : State) : (setEng e x s).pm = s.pm := rfl
@[simp] theorem setEng_timing (e : Nat) (x : Eng) (s : State) : (setEng e x s).timing = s.timing := rfl
@[simp] theorem setEng_bank (e : Nat) (x : Eng) (s : State) : (setEng e x s).bank = s.bank := rfl
@[simp] theorem setEng_mtest (e : Nat) (x : Eng) (s : State) : (setEng e x s).mtest = s.mtest := rfl
@[simp] theorem setEng_perf (e : Nat) (x : Eng) (s : State) : (setEng e x s).perf = s.perf := rfl
@[simp] theorem setEng_hif (e : Nat) (x : Eng) (s : State) : (setEng e x s).hif = s.hif := rfl
@[simp] theorem setEng_sec (e : Nat) (x : Eng) (s : State) : (setEng e x s).sec = s.sec := rfl
@[simp] theorem setEng_mgmt (e : Nat) (x : Eng) (s : State) : (setEng e x s).mgmt = s.mgmt := rfl
@[simp] theorem setEng_sens (e : Nat) (x : Eng) (s : State) : (setEng e x s).sens = s.sens := rfl
@[simp] theorem setEng_smb (e : Nat) (x : Eng) (s : State) : (setEng e x s).smb = s.smb := rfl
@[simp] theorem setEng_jtag (e : Nat) (x : Eng) (s : State) : (setEng e x s).jtag = s.jtag := rfl
@[simp] theorem setEng_otp (e : Nat) (x : Eng) (s : State) : (setEng e x s).otp = s.otp := rfl
@[simp] theorem setEng_image (e : Nat) (x : Eng) (s : State) : (setEng e x s).image = s.image := rfl
@[simp] theorem setEng_jnl (e : Nat) (x : Eng) (s : State) : (setEng e x s).jnl = s.jnl := rfl
@[simp] theorem setEng_copy (e : Nat) (x : Eng) (s : State) : (setEng e x s).copy = s.copy := rfl
@[simp] theorem setEng_ssw (e : Nat) (x : Eng) (s : State) : (setEng e x s).ssw = s.ssw := rfl
@[simp] theorem setEng_pwr (e : Nat) (x : Eng) (s : State) : (setEng e x s).pwr = s.pwr := rfl
@[simp] theorem setEng_frames (e : Nat) (x : Eng) (s : State) : (setEng e x s).frames = s.frames := rfl
@[simp] theorem setEng_log (e : Nat) (x : Eng) (s : State) : (setEng e x s).log = s.log := rfl

/-! `setBank` -/

@[simp] theorem setBank_pending (b : Nat) (x : Bank) (s : State) : (setBank b x s).pending = s.pending := rfl
@[simp] theorem setBank_tick (b : Nat) (x : Bank) (s : State) : (setBank b x s).tick = s.tick := rfl
@[simp] theorem setBank_cclk (b : Nat) (x : Bank) (s : State) : (setBank b x s).cclk = s.cclk := rfl
@[simp] theorem setBank_free (b : Nat) (x : Bank) (s : State) : (setBank b x s).free = s.free := rfl
@[simp] theorem setBank_regs (b : Nat) (x : Bank) (s : State) : (setBank b x s).regs = s.regs := rfl
@[simp] theorem setBank_rc (b : Nat) (x : Bank) (s : State) : (setBank b x s).rc = s.rc := rfl
@[simp] theorem setBank_rc64 (b : Nat) (x : Bank) (s : State) : (setBank b x s).rc64 = s.rc64 := rfl
@[simp] theorem setBank_latch (b : Nat) (x : Bank) (s : State) : (setBank b x s).latch = s.latch := rfl
@[simp] theorem setBank_held (b : Nat) (x : Bank) (s : State) : (setBank b x s).held = s.held := rfl
@[simp] theorem setBank_lanes (b : Nat) (x : Bank) (s : State) : (setBank b x s).lanes = s.lanes := rfl
@[simp] theorem setBank_ports (b : Nat) (x : Bank) (s : State) : (setBank b x s).ports = s.ports := rfl
@[simp] theorem setBank_core (b : Nat) (x : Bank) (s : State) : (setBank b x s).core = s.core := rfl
@[simp] theorem setBank_page (b : Nat) (x : Bank) (s : State) : (setBank b x s).page = s.page := rfl
@[simp] theorem setBank_abacus (b : Nat) (x : Bank) (s : State) : (setBank b x s).abacus = s.abacus := rfl
@[simp] theorem setBank_prot (b : Nat) (x : Bank) (s : State) : (setBank b x s).prot = s.prot := rfl
@[simp] theorem setBank_pm (b : Nat) (x : Bank) (s : State) : (setBank b x s).pm = s.pm := rfl
@[simp] theorem setBank_timing (b : Nat) (x : Bank) (s : State) : (setBank b x s).timing = s.timing := rfl
@[simp] theorem setBank_eng (b : Nat) (x : Bank) (s : State) : (setBank b x s).eng = s.eng := rfl
@[simp] theorem setBank_mtest (b : Nat) (x : Bank) (s : State) : (setBank b x s).mtest = s.mtest := rfl
@[simp] theorem setBank_perf (b : Nat) (x : Bank) (s : State) : (setBank b x s).perf = s.perf := rfl
@[simp] theorem setBank_hif (b : Nat) (x : Bank) (s : State) : (setBank b x s).hif = s.hif := rfl
@[simp] theorem setBank_sec (b : Nat) (x : Bank) (s : State) : (setBank b x s).sec = s.sec := rfl
@[simp] theorem setBank_mgmt (b : Nat) (x : Bank) (s : State) : (setBank b x s).mgmt = s.mgmt := rfl
@[simp] theorem setBank_sens (b : Nat) (x : Bank) (s : State) : (setBank b x s).sens = s.sens := rfl
@[simp] theorem setBank_smb (b : Nat) (x : Bank) (s : State) : (setBank b x s).smb = s.smb := rfl
@[simp] theorem setBank_jtag (b : Nat) (x : Bank) (s : State) : (setBank b x s).jtag = s.jtag := rfl
@[simp] theorem setBank_otp (b : Nat) (x : Bank) (s : State) : (setBank b x s).otp = s.otp := rfl
@[simp] theorem setBank_image (b : Nat) (x : Bank) (s : State) : (setBank b x s).image = s.image := rfl
@[simp] theorem setBank_jnl (b : Nat) (x : Bank) (s : State) : (setBank b x s).jnl = s.jnl := rfl
@[simp] theorem setBank_copy (b : Nat) (x : Bank) (s : State) : (setBank b x s).copy = s.copy := rfl
@[simp] theorem setBank_ssw (b : Nat) (x : Bank) (s : State) : (setBank b x s).ssw = s.ssw := rfl
@[simp] theorem setBank_pwr (b : Nat) (x : Bank) (s : State) : (setBank b x s).pwr = s.pwr := rfl
@[simp] theorem setBank_frames (b : Nat) (x : Bank) (s : State) : (setBank b x s).frames = s.frames := rfl
@[simp] theorem setBank_log (b : Nat) (x : Bank) (s : State) : (setBank b x s).log = s.log := rfl

/-! `setBankWord` -/

@[simp] theorem setBankWord_pending (b w : Nat) (v : DWord) (s : State) : (setBankWord b w v s).pending = s.pending := rfl
@[simp] theorem setBankWord_tick (b w : Nat) (v : DWord) (s : State) : (setBankWord b w v s).tick = s.tick := rfl
@[simp] theorem setBankWord_cclk (b w : Nat) (v : DWord) (s : State) : (setBankWord b w v s).cclk = s.cclk := rfl
@[simp] theorem setBankWord_free (b w : Nat) (v : DWord) (s : State) : (setBankWord b w v s).free = s.free := rfl
@[simp] theorem setBankWord_regs (b w : Nat) (v : DWord) (s : State) : (setBankWord b w v s).regs = s.regs := rfl
@[simp] theorem setBankWord_rc (b w : Nat) (v : DWord) (s : State) : (setBankWord b w v s).rc = s.rc := rfl
@[simp] theorem setBankWord_rc64 (b w : Nat) (v : DWord) (s : State) : (setBankWord b w v s).rc64 = s.rc64 := rfl
@[simp] theorem setBankWord_latch (b w : Nat) (v : DWord) (s : State) : (setBankWord b w v s).latch = s.latch := rfl
@[simp] theorem setBankWord_held (b w : Nat) (v : DWord) (s : State) : (setBankWord b w v s).held = s.held := rfl
@[simp] theorem setBankWord_lanes (b w : Nat) (v : DWord) (s : State) : (setBankWord b w v s).lanes = s.lanes := rfl
@[simp] theorem setBankWord_ports (b w : Nat) (v : DWord) (s : State) : (setBankWord b w v s).ports = s.ports := rfl
@[simp] theorem setBankWord_core (b w : Nat) (v : DWord) (s : State) : (setBankWord b w v s).core = s.core := rfl
@[simp] theorem setBankWord_page (b w : Nat) (v : DWord) (s : State) : (setBankWord b w v s).page = s.page := rfl
@[simp] theorem setBankWord_abacus (b w : Nat) (v : DWord) (s : State) : (setBankWord b w v s).abacus = s.abacus := rfl
@[simp] theorem setBankWord_prot (b w : Nat) (v : DWord) (s : State) : (setBankWord b w v s).prot = s.prot := rfl
@[simp] theorem setBankWord_pm (b w : Nat) (v : DWord) (s : State) : (setBankWord b w v s).pm = s.pm := rfl
@[simp] theorem setBankWord_timing (b w : Nat) (v : DWord) (s : State) : (setBankWord b w v s).timing = s.timing := rfl
@[simp] theorem setBankWord_eng (b w : Nat) (v : DWord) (s : State) : (setBankWord b w v s).eng = s.eng := rfl
@[simp] theorem setBankWord_mtest (b w : Nat) (v : DWord) (s : State) : (setBankWord b w v s).mtest = s.mtest := rfl
@[simp] theorem setBankWord_perf (b w : Nat) (v : DWord) (s : State) : (setBankWord b w v s).perf = s.perf := rfl
@[simp] theorem setBankWord_hif (b w : Nat) (v : DWord) (s : State) : (setBankWord b w v s).hif = s.hif := rfl
@[simp] theorem setBankWord_sec (b w : Nat) (v : DWord) (s : State) : (setBankWord b w v s).sec = s.sec := rfl
@[simp] theorem setBankWord_mgmt (b w : Nat) (v : DWord) (s : State) : (setBankWord b w v s).mgmt = s.mgmt := rfl
@[simp] theorem setBankWord_sens (b w : Nat) (v : DWord) (s : State) : (setBankWord b w v s).sens = s.sens := rfl
@[simp] theorem setBankWord_smb (b w : Nat) (v : DWord) (s : State) : (setBankWord b w v s).smb = s.smb := rfl
@[simp] theorem setBankWord_jtag (b w : Nat) (v : DWord) (s : State) : (setBankWord b w v s).jtag = s.jtag := rfl
@[simp] theorem setBankWord_otp (b w : Nat) (v : DWord) (s : State) : (setBankWord b w v s).otp = s.otp := rfl
@[simp] theorem setBankWord_image (b w : Nat) (v : DWord) (s : State) : (setBankWord b w v s).image = s.image := rfl
@[simp] theorem setBankWord_jnl (b w : Nat) (v : DWord) (s : State) : (setBankWord b w v s).jnl = s.jnl := rfl
@[simp] theorem setBankWord_copy (b w : Nat) (v : DWord) (s : State) : (setBankWord b w v s).copy = s.copy := rfl
@[simp] theorem setBankWord_ssw (b w : Nat) (v : DWord) (s : State) : (setBankWord b w v s).ssw = s.ssw := rfl
@[simp] theorem setBankWord_pwr (b w : Nat) (v : DWord) (s : State) : (setBankWord b w v s).pwr = s.pwr := rfl
@[simp] theorem setBankWord_frames (b w : Nat) (v : DWord) (s : State) : (setBankWord b w v s).frames = s.frames := rfl
@[simp] theorem setBankWord_log (b w : Nat) (v : DWord) (s : State) : (setBankWord b w v s).log = s.log := rfl

/-! `setGroup` -/

@[simp] theorem setGroup_pending (g : Nat) (x : Group) (s : State) : (setGroup g x s).pending = s.pending := rfl
@[simp] theorem setGroup_tick (g : Nat) (x : Group) (s : State) : (setGroup g x s).tick = s.tick := rfl
@[simp] theorem setGroup_cclk (g : Nat) (x : Group) (s : State) : (setGroup g x s).cclk = s.cclk := rfl
@[simp] theorem setGroup_free (g : Nat) (x : Group) (s : State) : (setGroup g x s).free = s.free := rfl
@[simp] theorem setGroup_regs (g : Nat) (x : Group) (s : State) : (setGroup g x s).regs = s.regs := rfl
@[simp] theorem setGroup_rc (g : Nat) (x : Group) (s : State) : (setGroup g x s).rc = s.rc := rfl
@[simp] theorem setGroup_rc64 (g : Nat) (x : Group) (s : State) : (setGroup g x s).rc64 = s.rc64 := rfl
@[simp] theorem setGroup_latch (g : Nat) (x : Group) (s : State) : (setGroup g x s).latch = s.latch := rfl
@[simp] theorem setGroup_held (g : Nat) (x : Group) (s : State) : (setGroup g x s).held = s.held := rfl
@[simp] theorem setGroup_lanes (g : Nat) (x : Group) (s : State) : (setGroup g x s).lanes = s.lanes := rfl
@[simp] theorem setGroup_ports (g : Nat) (x : Group) (s : State) : (setGroup g x s).ports = s.ports := rfl
@[simp] theorem setGroup_core (g : Nat) (x : Group) (s : State) : (setGroup g x s).core = s.core := rfl
@[simp] theorem setGroup_page (g : Nat) (x : Group) (s : State) : (setGroup g x s).page = s.page := rfl
@[simp] theorem setGroup_abacus (g : Nat) (x : Group) (s : State) : (setGroup g x s).abacus = s.abacus := rfl
@[simp] theorem setGroup_pm (g : Nat) (x : Group) (s : State) : (setGroup g x s).pm = s.pm := rfl
@[simp] theorem setGroup_timing (g : Nat) (x : Group) (s : State) : (setGroup g x s).timing = s.timing := rfl
@[simp] theorem setGroup_eng (g : Nat) (x : Group) (s : State) : (setGroup g x s).eng = s.eng := rfl
@[simp] theorem setGroup_bank (g : Nat) (x : Group) (s : State) : (setGroup g x s).bank = s.bank := rfl
@[simp] theorem setGroup_mtest (g : Nat) (x : Group) (s : State) : (setGroup g x s).mtest = s.mtest := rfl
@[simp] theorem setGroup_perf (g : Nat) (x : Group) (s : State) : (setGroup g x s).perf = s.perf := rfl
@[simp] theorem setGroup_hif (g : Nat) (x : Group) (s : State) : (setGroup g x s).hif = s.hif := rfl
@[simp] theorem setGroup_sec (g : Nat) (x : Group) (s : State) : (setGroup g x s).sec = s.sec := rfl
@[simp] theorem setGroup_mgmt (g : Nat) (x : Group) (s : State) : (setGroup g x s).mgmt = s.mgmt := rfl
@[simp] theorem setGroup_sens (g : Nat) (x : Group) (s : State) : (setGroup g x s).sens = s.sens := rfl
@[simp] theorem setGroup_smb (g : Nat) (x : Group) (s : State) : (setGroup g x s).smb = s.smb := rfl
@[simp] theorem setGroup_jtag (g : Nat) (x : Group) (s : State) : (setGroup g x s).jtag = s.jtag := rfl
@[simp] theorem setGroup_otp (g : Nat) (x : Group) (s : State) : (setGroup g x s).otp = s.otp := rfl
@[simp] theorem setGroup_image (g : Nat) (x : Group) (s : State) : (setGroup g x s).image = s.image := rfl
@[simp] theorem setGroup_jnl (g : Nat) (x : Group) (s : State) : (setGroup g x s).jnl = s.jnl := rfl
@[simp] theorem setGroup_copy (g : Nat) (x : Group) (s : State) : (setGroup g x s).copy = s.copy := rfl
@[simp] theorem setGroup_ssw (g : Nat) (x : Group) (s : State) : (setGroup g x s).ssw = s.ssw := rfl
@[simp] theorem setGroup_pwr (g : Nat) (x : Group) (s : State) : (setGroup g x s).pwr = s.pwr := rfl
@[simp] theorem setGroup_frames (g : Nat) (x : Group) (s : State) : (setGroup g x s).frames = s.frames := rfl
@[simp] theorem setGroup_log (g : Nat) (x : Group) (s : State) : (setGroup g x s).log = s.log := rfl

/-! `setHist` -/

@[simp] theorem setHist_pending (o : Nat) (h : Hist) (s : State) : (setHist o h s).pending = s.pending := rfl
@[simp] theorem setHist_tick (o : Nat) (h : Hist) (s : State) : (setHist o h s).tick = s.tick := rfl
@[simp] theorem setHist_cclk (o : Nat) (h : Hist) (s : State) : (setHist o h s).cclk = s.cclk := rfl
@[simp] theorem setHist_free (o : Nat) (h : Hist) (s : State) : (setHist o h s).free = s.free := rfl
@[simp] theorem setHist_regs (o : Nat) (h : Hist) (s : State) : (setHist o h s).regs = s.regs := rfl
@[simp] theorem setHist_rc (o : Nat) (h : Hist) (s : State) : (setHist o h s).rc = s.rc := rfl
@[simp] theorem setHist_rc64 (o : Nat) (h : Hist) (s : State) : (setHist o h s).rc64 = s.rc64 := rfl
@[simp] theorem setHist_latch (o : Nat) (h : Hist) (s : State) : (setHist o h s).latch = s.latch := rfl
@[simp] theorem setHist_held (o : Nat) (h : Hist) (s : State) : (setHist o h s).held = s.held := rfl
@[simp] theorem setHist_lanes (o : Nat) (h : Hist) (s : State) : (setHist o h s).lanes = s.lanes := rfl
@[simp] theorem setHist_ports (o : Nat) (h : Hist) (s : State) : (setHist o h s).ports = s.ports := rfl
@[simp] theorem setHist_core (o : Nat) (h : Hist) (s : State) : (setHist o h s).core = s.core := rfl
@[simp] theorem setHist_page (o : Nat) (h : Hist) (s : State) : (setHist o h s).page = s.page := rfl
@[simp] theorem setHist_abacus (o : Nat) (h : Hist) (s : State) : (setHist o h s).abacus = s.abacus := rfl
@[simp] theorem setHist_prot (o : Nat) (h : Hist) (s : State) : (setHist o h s).prot = s.prot := rfl
@[simp] theorem setHist_timing (o : Nat) (h : Hist) (s : State) : (setHist o h s).timing = s.timing := rfl
@[simp] theorem setHist_eng (o : Nat) (h : Hist) (s : State) : (setHist o h s).eng = s.eng := rfl
@[simp] theorem setHist_bank (o : Nat) (h : Hist) (s : State) : (setHist o h s).bank = s.bank := rfl
@[simp] theorem setHist_mtest (o : Nat) (h : Hist) (s : State) : (setHist o h s).mtest = s.mtest := rfl
@[simp] theorem setHist_perf (o : Nat) (h : Hist) (s : State) : (setHist o h s).perf = s.perf := rfl
@[simp] theorem setHist_hif (o : Nat) (h : Hist) (s : State) : (setHist o h s).hif = s.hif := rfl
@[simp] theorem setHist_sec (o : Nat) (h : Hist) (s : State) : (setHist o h s).sec = s.sec := rfl
@[simp] theorem setHist_mgmt (o : Nat) (h : Hist) (s : State) : (setHist o h s).mgmt = s.mgmt := rfl
@[simp] theorem setHist_sens (o : Nat) (h : Hist) (s : State) : (setHist o h s).sens = s.sens := rfl
@[simp] theorem setHist_smb (o : Nat) (h : Hist) (s : State) : (setHist o h s).smb = s.smb := rfl
@[simp] theorem setHist_jtag (o : Nat) (h : Hist) (s : State) : (setHist o h s).jtag = s.jtag := rfl
@[simp] theorem setHist_otp (o : Nat) (h : Hist) (s : State) : (setHist o h s).otp = s.otp := rfl
@[simp] theorem setHist_image (o : Nat) (h : Hist) (s : State) : (setHist o h s).image = s.image := rfl
@[simp] theorem setHist_jnl (o : Nat) (h : Hist) (s : State) : (setHist o h s).jnl = s.jnl := rfl
@[simp] theorem setHist_copy (o : Nat) (h : Hist) (s : State) : (setHist o h s).copy = s.copy := rfl
@[simp] theorem setHist_ssw (o : Nat) (h : Hist) (s : State) : (setHist o h s).ssw = s.ssw := rfl
@[simp] theorem setHist_pwr (o : Nat) (h : Hist) (s : State) : (setHist o h s).pwr = s.pwr := rfl
@[simp] theorem setHist_frames (o : Nat) (h : Hist) (s : State) : (setHist o h s).frames = s.frames := rfl
@[simp] theorem setHist_log (o : Nat) (h : Hist) (s : State) : (setHist o h s).log = s.log := rfl

/-! `setHalves` -/

@[simp] theorem setHalves_pending (p : Nat) (h : Halves) (s : State) : (setHalves p h s).pending = s.pending := rfl
@[simp] theorem setHalves_tick (p : Nat) (h : Halves) (s : State) : (setHalves p h s).tick = s.tick := rfl
@[simp] theorem setHalves_cclk (p : Nat) (h : Halves) (s : State) : (setHalves p h s).cclk = s.cclk := rfl
@[simp] theorem setHalves_free (p : Nat) (h : Halves) (s : State) : (setHalves p h s).free = s.free := rfl
@[simp] theorem setHalves_regs (p : Nat) (h : Halves) (s : State) : (setHalves p h s).regs = s.regs := rfl
@[simp] theorem setHalves_rc (p : Nat) (h : Halves) (s : State) : (setHalves p h s).rc = s.rc := rfl
@[simp] theorem setHalves_rc64 (p : Nat) (h : Halves) (s : State) : (setHalves p h s).rc64 = s.rc64 := rfl
@[simp] theorem setHalves_latch (p : Nat) (h : Halves) (s : State) : (setHalves p h s).latch = s.latch := rfl
@[simp] theorem setHalves_held (p : Nat) (h : Halves) (s : State) : (setHalves p h s).held = s.held := rfl
@[simp] theorem setHalves_lanes (p : Nat) (h : Halves) (s : State) : (setHalves p h s).lanes = s.lanes := rfl
@[simp] theorem setHalves_ports (p : Nat) (h : Halves) (s : State) : (setHalves p h s).ports = s.ports := rfl
@[simp] theorem setHalves_core (p : Nat) (h : Halves) (s : State) : (setHalves p h s).core = s.core := rfl
@[simp] theorem setHalves_page (p : Nat) (h : Halves) (s : State) : (setHalves p h s).page = s.page := rfl
@[simp] theorem setHalves_abacus (p : Nat) (h : Halves) (s : State) : (setHalves p h s).abacus = s.abacus := rfl
@[simp] theorem setHalves_prot (p : Nat) (h : Halves) (s : State) : (setHalves p h s).prot = s.prot := rfl
@[simp] theorem setHalves_timing (p : Nat) (h : Halves) (s : State) : (setHalves p h s).timing = s.timing := rfl
@[simp] theorem setHalves_eng (p : Nat) (h : Halves) (s : State) : (setHalves p h s).eng = s.eng := rfl
@[simp] theorem setHalves_bank (p : Nat) (h : Halves) (s : State) : (setHalves p h s).bank = s.bank := rfl
@[simp] theorem setHalves_mtest (p : Nat) (h : Halves) (s : State) : (setHalves p h s).mtest = s.mtest := rfl
@[simp] theorem setHalves_perf (p : Nat) (h : Halves) (s : State) : (setHalves p h s).perf = s.perf := rfl
@[simp] theorem setHalves_hif (p : Nat) (h : Halves) (s : State) : (setHalves p h s).hif = s.hif := rfl
@[simp] theorem setHalves_sec (p : Nat) (h : Halves) (s : State) : (setHalves p h s).sec = s.sec := rfl
@[simp] theorem setHalves_mgmt (p : Nat) (h : Halves) (s : State) : (setHalves p h s).mgmt = s.mgmt := rfl
@[simp] theorem setHalves_sens (p : Nat) (h : Halves) (s : State) : (setHalves p h s).sens = s.sens := rfl
@[simp] theorem setHalves_smb (p : Nat) (h : Halves) (s : State) : (setHalves p h s).smb = s.smb := rfl
@[simp] theorem setHalves_jtag (p : Nat) (h : Halves) (s : State) : (setHalves p h s).jtag = s.jtag := rfl
@[simp] theorem setHalves_otp (p : Nat) (h : Halves) (s : State) : (setHalves p h s).otp = s.otp := rfl
@[simp] theorem setHalves_image (p : Nat) (h : Halves) (s : State) : (setHalves p h s).image = s.image := rfl
@[simp] theorem setHalves_jnl (p : Nat) (h : Halves) (s : State) : (setHalves p h s).jnl = s.jnl := rfl
@[simp] theorem setHalves_copy (p : Nat) (h : Halves) (s : State) : (setHalves p h s).copy = s.copy := rfl
@[simp] theorem setHalves_ssw (p : Nat) (h : Halves) (s : State) : (setHalves p h s).ssw = s.ssw := rfl
@[simp] theorem setHalves_pwr (p : Nat) (h : Halves) (s : State) : (setHalves p h s).pwr = s.pwr := rfl
@[simp] theorem setHalves_frames (p : Nat) (h : Halves) (s : State) : (setHalves p h s).frames = s.frames := rfl
@[simp] theorem setHalves_log (p : Nat) (h : Halves) (s : State) : (setHalves p h s).log = s.log := rfl

/-! `onPage` -/

@[simp] theorem onPage_pending (f : Page → Page) (s : State) : (onPage f s).pending = s.pending := rfl
@[simp] theorem onPage_tick (f : Page → Page) (s : State) : (onPage f s).tick = s.tick := rfl
@[simp] theorem onPage_cclk (f : Page → Page) (s : State) : (onPage f s).cclk = s.cclk := rfl
@[simp] theorem onPage_free (f : Page → Page) (s : State) : (onPage f s).free = s.free := rfl
@[simp] theorem onPage_regs (f : Page → Page) (s : State) : (onPage f s).regs = s.regs := rfl
@[simp] theorem onPage_rc (f : Page → Page) (s : State) : (onPage f s).rc = s.rc := rfl
@[simp] theorem onPage_rc64 (f : Page → Page) (s : State) : (onPage f s).rc64 = s.rc64 := rfl
@[simp] theorem onPage_latch (f : Page → Page) (s : State) : (onPage f s).latch = s.latch := rfl
@[simp] theorem onPage_held (f : Page → Page) (s : State) : (onPage f s).held = s.held := rfl
@[simp] theorem onPage_lanes (f : Page → Page) (s : State) : (onPage f s).lanes = s.lanes := rfl
@[simp] theorem onPage_ports (f : Page → Page) (s : State) : (onPage f s).ports = s.ports := rfl
@[simp] theorem onPage_core (f : Page → Page) (s : State) : (onPage f s).core = s.core := rfl
@[simp] theorem onPage_abacus (f : Page → Page) (s : State) : (onPage f s).abacus = s.abacus := rfl
@[simp] theorem onPage_prot (f : Page → Page) (s : State) : (onPage f s).prot = s.prot := rfl
@[simp] theorem onPage_pm (f : Page → Page) (s : State) : (onPage f s).pm = s.pm := rfl
@[simp] theorem onPage_timing (f : Page → Page) (s : State) : (onPage f s).timing = s.timing := rfl
@[simp] theorem onPage_eng (f : Page → Page) (s : State) : (onPage f s).eng = s.eng := rfl
@[simp] theorem onPage_bank (f : Page → Page) (s : State) : (onPage f s).bank = s.bank := rfl
@[simp] theorem onPage_mtest (f : Page → Page) (s : State) : (onPage f s).mtest = s.mtest := rfl
@[simp] theorem onPage_perf (f : Page → Page) (s : State) : (onPage f s).perf = s.perf := rfl
@[simp] theorem onPage_hif (f : Page → Page) (s : State) : (onPage f s).hif = s.hif := rfl
@[simp] theorem onPage_sec (f : Page → Page) (s : State) : (onPage f s).sec = s.sec := rfl
@[simp] theorem onPage_mgmt (f : Page → Page) (s : State) : (onPage f s).mgmt = s.mgmt := rfl
@[simp] theorem onPage_sens (f : Page → Page) (s : State) : (onPage f s).sens = s.sens := rfl
@[simp] theorem onPage_smb (f : Page → Page) (s : State) : (onPage f s).smb = s.smb := rfl
@[simp] theorem onPage_jtag (f : Page → Page) (s : State) : (onPage f s).jtag = s.jtag := rfl
@[simp] theorem onPage_otp (f : Page → Page) (s : State) : (onPage f s).otp = s.otp := rfl
@[simp] theorem onPage_image (f : Page → Page) (s : State) : (onPage f s).image = s.image := rfl
@[simp] theorem onPage_jnl (f : Page → Page) (s : State) : (onPage f s).jnl = s.jnl := rfl
@[simp] theorem onPage_copy (f : Page → Page) (s : State) : (onPage f s).copy = s.copy := rfl
@[simp] theorem onPage_ssw (f : Page → Page) (s : State) : (onPage f s).ssw = s.ssw := rfl
@[simp] theorem onPage_pwr (f : Page → Page) (s : State) : (onPage f s).pwr = s.pwr := rfl
@[simp] theorem onPage_frames (f : Page → Page) (s : State) : (onPage f s).frames = s.frames := rfl
@[simp] theorem onPage_log (f : Page → Page) (s : State) : (onPage f s).log = s.log := rfl

/-! `onAbacus` -/

@[simp] theorem onAbacus_pending (f : Abacus → Abacus) (s : State) : (onAbacus f s).pending = s.pending := rfl
@[simp] theorem onAbacus_tick (f : Abacus → Abacus) (s : State) : (onAbacus f s).tick = s.tick := rfl
@[simp] theorem onAbacus_cclk (f : Abacus → Abacus) (s : State) : (onAbacus f s).cclk = s.cclk := rfl
@[simp] theorem onAbacus_free (f : Abacus → Abacus) (s : State) : (onAbacus f s).free = s.free := rfl
@[simp] theorem onAbacus_regs (f : Abacus → Abacus) (s : State) : (onAbacus f s).regs = s.regs := rfl
@[simp] theorem onAbacus_rc (f : Abacus → Abacus) (s : State) : (onAbacus f s).rc = s.rc := rfl
@[simp] theorem onAbacus_rc64 (f : Abacus → Abacus) (s : State) : (onAbacus f s).rc64 = s.rc64 := rfl
@[simp] theorem onAbacus_latch (f : Abacus → Abacus) (s : State) : (onAbacus f s).latch = s.latch := rfl
@[simp] theorem onAbacus_held (f : Abacus → Abacus) (s : State) : (onAbacus f s).held = s.held := rfl
@[simp] theorem onAbacus_lanes (f : Abacus → Abacus) (s : State) : (onAbacus f s).lanes = s.lanes := rfl
@[simp] theorem onAbacus_ports (f : Abacus → Abacus) (s : State) : (onAbacus f s).ports = s.ports := rfl
@[simp] theorem onAbacus_core (f : Abacus → Abacus) (s : State) : (onAbacus f s).core = s.core := rfl
@[simp] theorem onAbacus_page (f : Abacus → Abacus) (s : State) : (onAbacus f s).page = s.page := rfl
@[simp] theorem onAbacus_prot (f : Abacus → Abacus) (s : State) : (onAbacus f s).prot = s.prot := rfl
@[simp] theorem onAbacus_pm (f : Abacus → Abacus) (s : State) : (onAbacus f s).pm = s.pm := rfl
@[simp] theorem onAbacus_timing (f : Abacus → Abacus) (s : State) : (onAbacus f s).timing = s.timing := rfl
@[simp] theorem onAbacus_eng (f : Abacus → Abacus) (s : State) : (onAbacus f s).eng = s.eng := rfl
@[simp] theorem onAbacus_bank (f : Abacus → Abacus) (s : State) : (onAbacus f s).bank = s.bank := rfl
@[simp] theorem onAbacus_mtest (f : Abacus → Abacus) (s : State) : (onAbacus f s).mtest = s.mtest := rfl
@[simp] theorem onAbacus_perf (f : Abacus → Abacus) (s : State) : (onAbacus f s).perf = s.perf := rfl
@[simp] theorem onAbacus_hif (f : Abacus → Abacus) (s : State) : (onAbacus f s).hif = s.hif := rfl
@[simp] theorem onAbacus_sec (f : Abacus → Abacus) (s : State) : (onAbacus f s).sec = s.sec := rfl
@[simp] theorem onAbacus_mgmt (f : Abacus → Abacus) (s : State) : (onAbacus f s).mgmt = s.mgmt := rfl
@[simp] theorem onAbacus_sens (f : Abacus → Abacus) (s : State) : (onAbacus f s).sens = s.sens := rfl
@[simp] theorem onAbacus_smb (f : Abacus → Abacus) (s : State) : (onAbacus f s).smb = s.smb := rfl
@[simp] theorem onAbacus_jtag (f : Abacus → Abacus) (s : State) : (onAbacus f s).jtag = s.jtag := rfl
@[simp] theorem onAbacus_otp (f : Abacus → Abacus) (s : State) : (onAbacus f s).otp = s.otp := rfl
@[simp] theorem onAbacus_image (f : Abacus → Abacus) (s : State) : (onAbacus f s).image = s.image := rfl
@[simp] theorem onAbacus_jnl (f : Abacus → Abacus) (s : State) : (onAbacus f s).jnl = s.jnl := rfl
@[simp] theorem onAbacus_copy (f : Abacus → Abacus) (s : State) : (onAbacus f s).copy = s.copy := rfl
@[simp] theorem onAbacus_ssw (f : Abacus → Abacus) (s : State) : (onAbacus f s).ssw = s.ssw := rfl
@[simp] theorem onAbacus_pwr (f : Abacus → Abacus) (s : State) : (onAbacus f s).pwr = s.pwr := rfl
@[simp] theorem onAbacus_frames (f : Abacus → Abacus) (s : State) : (onAbacus f s).frames = s.frames := rfl
@[simp] theorem onAbacus_log (f : Abacus → Abacus) (s : State) : (onAbacus f s).log = s.log := rfl

/-! `onMtest` -/

@[simp] theorem onMtest_pending (f : Mtest → Mtest) (s : State) : (onMtest f s).pending = s.pending := rfl
@[simp] theorem onMtest_tick (f : Mtest → Mtest) (s : State) : (onMtest f s).tick = s.tick := rfl
@[simp] theorem onMtest_cclk (f : Mtest → Mtest) (s : State) : (onMtest f s).cclk = s.cclk := rfl
@[simp] theorem onMtest_free (f : Mtest → Mtest) (s : State) : (onMtest f s).free = s.free := rfl
@[simp] theorem onMtest_regs (f : Mtest → Mtest) (s : State) : (onMtest f s).regs = s.regs := rfl
@[simp] theorem onMtest_rc (f : Mtest → Mtest) (s : State) : (onMtest f s).rc = s.rc := rfl
@[simp] theorem onMtest_rc64 (f : Mtest → Mtest) (s : State) : (onMtest f s).rc64 = s.rc64 := rfl
@[simp] theorem onMtest_latch (f : Mtest → Mtest) (s : State) : (onMtest f s).latch = s.latch := rfl
@[simp] theorem onMtest_held (f : Mtest → Mtest) (s : State) : (onMtest f s).held = s.held := rfl
@[simp] theorem onMtest_lanes (f : Mtest → Mtest) (s : State) : (onMtest f s).lanes = s.lanes := rfl
@[simp] theorem onMtest_ports (f : Mtest → Mtest) (s : State) : (onMtest f s).ports = s.ports := rfl
@[simp] theorem onMtest_core (f : Mtest → Mtest) (s : State) : (onMtest f s).core = s.core := rfl
@[simp] theorem onMtest_page (f : Mtest → Mtest) (s : State) : (onMtest f s).page = s.page := rfl
@[simp] theorem onMtest_abacus (f : Mtest → Mtest) (s : State) : (onMtest f s).abacus = s.abacus := rfl
@[simp] theorem onMtest_prot (f : Mtest → Mtest) (s : State) : (onMtest f s).prot = s.prot := rfl
@[simp] theorem onMtest_pm (f : Mtest → Mtest) (s : State) : (onMtest f s).pm = s.pm := rfl
@[simp] theorem onMtest_timing (f : Mtest → Mtest) (s : State) : (onMtest f s).timing = s.timing := rfl
@[simp] theorem onMtest_eng (f : Mtest → Mtest) (s : State) : (onMtest f s).eng = s.eng := rfl
@[simp] theorem onMtest_bank (f : Mtest → Mtest) (s : State) : (onMtest f s).bank = s.bank := rfl
@[simp] theorem onMtest_perf (f : Mtest → Mtest) (s : State) : (onMtest f s).perf = s.perf := rfl
@[simp] theorem onMtest_hif (f : Mtest → Mtest) (s : State) : (onMtest f s).hif = s.hif := rfl
@[simp] theorem onMtest_sec (f : Mtest → Mtest) (s : State) : (onMtest f s).sec = s.sec := rfl
@[simp] theorem onMtest_mgmt (f : Mtest → Mtest) (s : State) : (onMtest f s).mgmt = s.mgmt := rfl
@[simp] theorem onMtest_sens (f : Mtest → Mtest) (s : State) : (onMtest f s).sens = s.sens := rfl
@[simp] theorem onMtest_smb (f : Mtest → Mtest) (s : State) : (onMtest f s).smb = s.smb := rfl
@[simp] theorem onMtest_jtag (f : Mtest → Mtest) (s : State) : (onMtest f s).jtag = s.jtag := rfl
@[simp] theorem onMtest_otp (f : Mtest → Mtest) (s : State) : (onMtest f s).otp = s.otp := rfl
@[simp] theorem onMtest_image (f : Mtest → Mtest) (s : State) : (onMtest f s).image = s.image := rfl
@[simp] theorem onMtest_jnl (f : Mtest → Mtest) (s : State) : (onMtest f s).jnl = s.jnl := rfl
@[simp] theorem onMtest_copy (f : Mtest → Mtest) (s : State) : (onMtest f s).copy = s.copy := rfl
@[simp] theorem onMtest_ssw (f : Mtest → Mtest) (s : State) : (onMtest f s).ssw = s.ssw := rfl
@[simp] theorem onMtest_pwr (f : Mtest → Mtest) (s : State) : (onMtest f s).pwr = s.pwr := rfl
@[simp] theorem onMtest_frames (f : Mtest → Mtest) (s : State) : (onMtest f s).frames = s.frames := rfl
@[simp] theorem onMtest_log (f : Mtest → Mtest) (s : State) : (onMtest f s).log = s.log := rfl

/-! `onCopy` -/

@[simp] theorem onCopy_pending (f : Copy → Copy) (s : State) : (onCopy f s).pending = s.pending := rfl
@[simp] theorem onCopy_tick (f : Copy → Copy) (s : State) : (onCopy f s).tick = s.tick := rfl
@[simp] theorem onCopy_cclk (f : Copy → Copy) (s : State) : (onCopy f s).cclk = s.cclk := rfl
@[simp] theorem onCopy_free (f : Copy → Copy) (s : State) : (onCopy f s).free = s.free := rfl
@[simp] theorem onCopy_regs (f : Copy → Copy) (s : State) : (onCopy f s).regs = s.regs := rfl
@[simp] theorem onCopy_rc (f : Copy → Copy) (s : State) : (onCopy f s).rc = s.rc := rfl
@[simp] theorem onCopy_rc64 (f : Copy → Copy) (s : State) : (onCopy f s).rc64 = s.rc64 := rfl
@[simp] theorem onCopy_latch (f : Copy → Copy) (s : State) : (onCopy f s).latch = s.latch := rfl
@[simp] theorem onCopy_held (f : Copy → Copy) (s : State) : (onCopy f s).held = s.held := rfl
@[simp] theorem onCopy_lanes (f : Copy → Copy) (s : State) : (onCopy f s).lanes = s.lanes := rfl
@[simp] theorem onCopy_ports (f : Copy → Copy) (s : State) : (onCopy f s).ports = s.ports := rfl
@[simp] theorem onCopy_core (f : Copy → Copy) (s : State) : (onCopy f s).core = s.core := rfl
@[simp] theorem onCopy_page (f : Copy → Copy) (s : State) : (onCopy f s).page = s.page := rfl
@[simp] theorem onCopy_abacus (f : Copy → Copy) (s : State) : (onCopy f s).abacus = s.abacus := rfl
@[simp] theorem onCopy_prot (f : Copy → Copy) (s : State) : (onCopy f s).prot = s.prot := rfl
@[simp] theorem onCopy_pm (f : Copy → Copy) (s : State) : (onCopy f s).pm = s.pm := rfl
@[simp] theorem onCopy_timing (f : Copy → Copy) (s : State) : (onCopy f s).timing = s.timing := rfl
@[simp] theorem onCopy_eng (f : Copy → Copy) (s : State) : (onCopy f s).eng = s.eng := rfl
@[simp] theorem onCopy_bank (f : Copy → Copy) (s : State) : (onCopy f s).bank = s.bank := rfl
@[simp] theorem onCopy_mtest (f : Copy → Copy) (s : State) : (onCopy f s).mtest = s.mtest := rfl
@[simp] theorem onCopy_perf (f : Copy → Copy) (s : State) : (onCopy f s).perf = s.perf := rfl
@[simp] theorem onCopy_hif (f : Copy → Copy) (s : State) : (onCopy f s).hif = s.hif := rfl
@[simp] theorem onCopy_sec (f : Copy → Copy) (s : State) : (onCopy f s).sec = s.sec := rfl
@[simp] theorem onCopy_mgmt (f : Copy → Copy) (s : State) : (onCopy f s).mgmt = s.mgmt := rfl
@[simp] theorem onCopy_sens (f : Copy → Copy) (s : State) : (onCopy f s).sens = s.sens := rfl
@[simp] theorem onCopy_smb (f : Copy → Copy) (s : State) : (onCopy f s).smb = s.smb := rfl
@[simp] theorem onCopy_jtag (f : Copy → Copy) (s : State) : (onCopy f s).jtag = s.jtag := rfl
@[simp] theorem onCopy_otp (f : Copy → Copy) (s : State) : (onCopy f s).otp = s.otp := rfl
@[simp] theorem onCopy_image (f : Copy → Copy) (s : State) : (onCopy f s).image = s.image := rfl
@[simp] theorem onCopy_jnl (f : Copy → Copy) (s : State) : (onCopy f s).jnl = s.jnl := rfl
@[simp] theorem onCopy_ssw (f : Copy → Copy) (s : State) : (onCopy f s).ssw = s.ssw := rfl
@[simp] theorem onCopy_pwr (f : Copy → Copy) (s : State) : (onCopy f s).pwr = s.pwr := rfl
@[simp] theorem onCopy_frames (f : Copy → Copy) (s : State) : (onCopy f s).frames = s.frames := rfl
@[simp] theorem onCopy_log (f : Copy → Copy) (s : State) : (onCopy f s).log = s.log := rfl

/-! `onSsw` -/

@[simp] theorem onSsw_pending (f : Seesaw → Seesaw) (s : State) : (onSsw f s).pending = s.pending := rfl
@[simp] theorem onSsw_tick (f : Seesaw → Seesaw) (s : State) : (onSsw f s).tick = s.tick := rfl
@[simp] theorem onSsw_cclk (f : Seesaw → Seesaw) (s : State) : (onSsw f s).cclk = s.cclk := rfl
@[simp] theorem onSsw_free (f : Seesaw → Seesaw) (s : State) : (onSsw f s).free = s.free := rfl
@[simp] theorem onSsw_regs (f : Seesaw → Seesaw) (s : State) : (onSsw f s).regs = s.regs := rfl
@[simp] theorem onSsw_rc (f : Seesaw → Seesaw) (s : State) : (onSsw f s).rc = s.rc := rfl
@[simp] theorem onSsw_rc64 (f : Seesaw → Seesaw) (s : State) : (onSsw f s).rc64 = s.rc64 := rfl
@[simp] theorem onSsw_latch (f : Seesaw → Seesaw) (s : State) : (onSsw f s).latch = s.latch := rfl
@[simp] theorem onSsw_held (f : Seesaw → Seesaw) (s : State) : (onSsw f s).held = s.held := rfl
@[simp] theorem onSsw_lanes (f : Seesaw → Seesaw) (s : State) : (onSsw f s).lanes = s.lanes := rfl
@[simp] theorem onSsw_ports (f : Seesaw → Seesaw) (s : State) : (onSsw f s).ports = s.ports := rfl
@[simp] theorem onSsw_core (f : Seesaw → Seesaw) (s : State) : (onSsw f s).core = s.core := rfl
@[simp] theorem onSsw_page (f : Seesaw → Seesaw) (s : State) : (onSsw f s).page = s.page := rfl
@[simp] theorem onSsw_abacus (f : Seesaw → Seesaw) (s : State) : (onSsw f s).abacus = s.abacus := rfl
@[simp] theorem onSsw_prot (f : Seesaw → Seesaw) (s : State) : (onSsw f s).prot = s.prot := rfl
@[simp] theorem onSsw_pm (f : Seesaw → Seesaw) (s : State) : (onSsw f s).pm = s.pm := rfl
@[simp] theorem onSsw_timing (f : Seesaw → Seesaw) (s : State) : (onSsw f s).timing = s.timing := rfl
@[simp] theorem onSsw_eng (f : Seesaw → Seesaw) (s : State) : (onSsw f s).eng = s.eng := rfl
@[simp] theorem onSsw_bank (f : Seesaw → Seesaw) (s : State) : (onSsw f s).bank = s.bank := rfl
@[simp] theorem onSsw_mtest (f : Seesaw → Seesaw) (s : State) : (onSsw f s).mtest = s.mtest := rfl
@[simp] theorem onSsw_perf (f : Seesaw → Seesaw) (s : State) : (onSsw f s).perf = s.perf := rfl
@[simp] theorem onSsw_hif (f : Seesaw → Seesaw) (s : State) : (onSsw f s).hif = s.hif := rfl
@[simp] theorem onSsw_sec (f : Seesaw → Seesaw) (s : State) : (onSsw f s).sec = s.sec := rfl
@[simp] theorem onSsw_mgmt (f : Seesaw → Seesaw) (s : State) : (onSsw f s).mgmt = s.mgmt := rfl
@[simp] theorem onSsw_sens (f : Seesaw → Seesaw) (s : State) : (onSsw f s).sens = s.sens := rfl
@[simp] theorem onSsw_smb (f : Seesaw → Seesaw) (s : State) : (onSsw f s).smb = s.smb := rfl
@[simp] theorem onSsw_jtag (f : Seesaw → Seesaw) (s : State) : (onSsw f s).jtag = s.jtag := rfl
@[simp] theorem onSsw_otp (f : Seesaw → Seesaw) (s : State) : (onSsw f s).otp = s.otp := rfl
@[simp] theorem onSsw_image (f : Seesaw → Seesaw) (s : State) : (onSsw f s).image = s.image := rfl
@[simp] theorem onSsw_jnl (f : Seesaw → Seesaw) (s : State) : (onSsw f s).jnl = s.jnl := rfl
@[simp] theorem onSsw_copy (f : Seesaw → Seesaw) (s : State) : (onSsw f s).copy = s.copy := rfl
@[simp] theorem onSsw_pwr (f : Seesaw → Seesaw) (s : State) : (onSsw f s).pwr = s.pwr := rfl
@[simp] theorem onSsw_frames (f : Seesaw → Seesaw) (s : State) : (onSsw f s).frames = s.frames := rfl
@[simp] theorem onSsw_log (f : Seesaw → Seesaw) (s : State) : (onSsw f s).log = s.log := rfl

/-! `onEngines` -/

@[simp] theorem onEngines_pending (f : Engines → Engines) (s : State) : (onEngines f s).pending = s.pending := rfl
@[simp] theorem onEngines_tick (f : Engines → Engines) (s : State) : (onEngines f s).tick = s.tick := rfl
@[simp] theorem onEngines_cclk (f : Engines → Engines) (s : State) : (onEngines f s).cclk = s.cclk := rfl
@[simp] theorem onEngines_free (f : Engines → Engines) (s : State) : (onEngines f s).free = s.free := rfl
@[simp] theorem onEngines_regs (f : Engines → Engines) (s : State) : (onEngines f s).regs = s.regs := rfl
@[simp] theorem onEngines_rc (f : Engines → Engines) (s : State) : (onEngines f s).rc = s.rc := rfl
@[simp] theorem onEngines_rc64 (f : Engines → Engines) (s : State) : (onEngines f s).rc64 = s.rc64 := rfl
@[simp] theorem onEngines_latch (f : Engines → Engines) (s : State) : (onEngines f s).latch = s.latch := rfl
@[simp] theorem onEngines_held (f : Engines → Engines) (s : State) : (onEngines f s).held = s.held := rfl
@[simp] theorem onEngines_lanes (f : Engines → Engines) (s : State) : (onEngines f s).lanes = s.lanes := rfl
@[simp] theorem onEngines_ports (f : Engines → Engines) (s : State) : (onEngines f s).ports = s.ports := rfl
@[simp] theorem onEngines_core (f : Engines → Engines) (s : State) : (onEngines f s).core = s.core := rfl
@[simp] theorem onEngines_page (f : Engines → Engines) (s : State) : (onEngines f s).page = s.page := rfl
@[simp] theorem onEngines_abacus (f : Engines → Engines) (s : State) : (onEngines f s).abacus = s.abacus := rfl
@[simp] theorem onEngines_prot (f : Engines → Engines) (s : State) : (onEngines f s).prot = s.prot := rfl
@[simp] theorem onEngines_pm (f : Engines → Engines) (s : State) : (onEngines f s).pm = s.pm := rfl
@[simp] theorem onEngines_timing (f : Engines → Engines) (s : State) : (onEngines f s).timing = s.timing := rfl
@[simp] theorem onEngines_bank (f : Engines → Engines) (s : State) : (onEngines f s).bank = s.bank := rfl
@[simp] theorem onEngines_mtest (f : Engines → Engines) (s : State) : (onEngines f s).mtest = s.mtest := rfl
@[simp] theorem onEngines_perf (f : Engines → Engines) (s : State) : (onEngines f s).perf = s.perf := rfl
@[simp] theorem onEngines_hif (f : Engines → Engines) (s : State) : (onEngines f s).hif = s.hif := rfl
@[simp] theorem onEngines_sec (f : Engines → Engines) (s : State) : (onEngines f s).sec = s.sec := rfl
@[simp] theorem onEngines_mgmt (f : Engines → Engines) (s : State) : (onEngines f s).mgmt = s.mgmt := rfl
@[simp] theorem onEngines_sens (f : Engines → Engines) (s : State) : (onEngines f s).sens = s.sens := rfl
@[simp] theorem onEngines_smb (f : Engines → Engines) (s : State) : (onEngines f s).smb = s.smb := rfl
@[simp] theorem onEngines_jtag (f : Engines → Engines) (s : State) : (onEngines f s).jtag = s.jtag := rfl
@[simp] theorem onEngines_otp (f : Engines → Engines) (s : State) : (onEngines f s).otp = s.otp := rfl
@[simp] theorem onEngines_image (f : Engines → Engines) (s : State) : (onEngines f s).image = s.image := rfl
@[simp] theorem onEngines_jnl (f : Engines → Engines) (s : State) : (onEngines f s).jnl = s.jnl := rfl
@[simp] theorem onEngines_copy (f : Engines → Engines) (s : State) : (onEngines f s).copy = s.copy := rfl
@[simp] theorem onEngines_ssw (f : Engines → Engines) (s : State) : (onEngines f s).ssw = s.ssw := rfl
@[simp] theorem onEngines_pwr (f : Engines → Engines) (s : State) : (onEngines f s).pwr = s.pwr := rfl
@[simp] theorem onEngines_frames (f : Engines → Engines) (s : State) : (onEngines f s).frames = s.frames := rfl
@[simp] theorem onEngines_log (f : Engines → Engines) (s : State) : (onEngines f s).log = s.log := rfl

/-! `onPwr` -/

@[simp] theorem onPwr_pending (f : Pwr → Pwr) (s : State) : (onPwr f s).pending = s.pending := rfl
@[simp] theorem onPwr_tick (f : Pwr → Pwr) (s : State) : (onPwr f s).tick = s.tick := rfl
@[simp] theorem onPwr_cclk (f : Pwr → Pwr) (s : State) : (onPwr f s).cclk = s.cclk := rfl
@[simp] theorem onPwr_free (f : Pwr → Pwr) (s : State) : (onPwr f s).free = s.free := rfl
@[simp] theorem onPwr_regs (f : Pwr → Pwr) (s : State) : (onPwr f s).regs = s.regs := rfl
@[simp] theorem onPwr_rc (f : Pwr → Pwr) (s : State) : (onPwr f s).rc = s.rc := rfl
@[simp] theorem onPwr_rc64 (f : Pwr → Pwr) (s : State) : (onPwr f s).rc64 = s.rc64 := rfl
@[simp] theorem onPwr_latch (f : Pwr → Pwr) (s : State) : (onPwr f s).latch = s.latch := rfl
@[simp] theorem onPwr_held (f : Pwr → Pwr) (s : State) : (onPwr f s).held = s.held := rfl
@[simp] theorem onPwr_lanes (f : Pwr → Pwr) (s : State) : (onPwr f s).lanes = s.lanes := rfl
@[simp] theorem onPwr_ports (f : Pwr → Pwr) (s : State) : (onPwr f s).ports = s.ports := rfl
@[simp] theorem onPwr_core (f : Pwr → Pwr) (s : State) : (onPwr f s).core = s.core := rfl
@[simp] theorem onPwr_page (f : Pwr → Pwr) (s : State) : (onPwr f s).page = s.page := rfl
@[simp] theorem onPwr_abacus (f : Pwr → Pwr) (s : State) : (onPwr f s).abacus = s.abacus := rfl
@[simp] theorem onPwr_prot (f : Pwr → Pwr) (s : State) : (onPwr f s).prot = s.prot := rfl
@[simp] theorem onPwr_pm (f : Pwr → Pwr) (s : State) : (onPwr f s).pm = s.pm := rfl
@[simp] theorem onPwr_timing (f : Pwr → Pwr) (s : State) : (onPwr f s).timing = s.timing := rfl
@[simp] theorem onPwr_eng (f : Pwr → Pwr) (s : State) : (onPwr f s).eng = s.eng := rfl
@[simp] theorem onPwr_bank (f : Pwr → Pwr) (s : State) : (onPwr f s).bank = s.bank := rfl
@[simp] theorem onPwr_mtest (f : Pwr → Pwr) (s : State) : (onPwr f s).mtest = s.mtest := rfl
@[simp] theorem onPwr_perf (f : Pwr → Pwr) (s : State) : (onPwr f s).perf = s.perf := rfl
@[simp] theorem onPwr_hif (f : Pwr → Pwr) (s : State) : (onPwr f s).hif = s.hif := rfl
@[simp] theorem onPwr_sec (f : Pwr → Pwr) (s : State) : (onPwr f s).sec = s.sec := rfl
@[simp] theorem onPwr_mgmt (f : Pwr → Pwr) (s : State) : (onPwr f s).mgmt = s.mgmt := rfl
@[simp] theorem onPwr_sens (f : Pwr → Pwr) (s : State) : (onPwr f s).sens = s.sens := rfl
@[simp] theorem onPwr_smb (f : Pwr → Pwr) (s : State) : (onPwr f s).smb = s.smb := rfl
@[simp] theorem onPwr_jtag (f : Pwr → Pwr) (s : State) : (onPwr f s).jtag = s.jtag := rfl
@[simp] theorem onPwr_otp (f : Pwr → Pwr) (s : State) : (onPwr f s).otp = s.otp := rfl
@[simp] theorem onPwr_image (f : Pwr → Pwr) (s : State) : (onPwr f s).image = s.image := rfl
@[simp] theorem onPwr_jnl (f : Pwr → Pwr) (s : State) : (onPwr f s).jnl = s.jnl := rfl
@[simp] theorem onPwr_copy (f : Pwr → Pwr) (s : State) : (onPwr f s).copy = s.copy := rfl
@[simp] theorem onPwr_ssw (f : Pwr → Pwr) (s : State) : (onPwr f s).ssw = s.ssw := rfl
@[simp] theorem onPwr_frames (f : Pwr → Pwr) (s : State) : (onPwr f s).frames = s.frames := rfl
@[simp] theorem onPwr_log (f : Pwr → Pwr) (s : State) : (onPwr f s).log = s.log := rfl

/-! `onMgmt` -/

@[simp] theorem onMgmt_pending (f : Mgmt → Mgmt) (s : State) : (onMgmt f s).pending = s.pending := rfl
@[simp] theorem onMgmt_tick (f : Mgmt → Mgmt) (s : State) : (onMgmt f s).tick = s.tick := rfl
@[simp] theorem onMgmt_cclk (f : Mgmt → Mgmt) (s : State) : (onMgmt f s).cclk = s.cclk := rfl
@[simp] theorem onMgmt_free (f : Mgmt → Mgmt) (s : State) : (onMgmt f s).free = s.free := rfl
@[simp] theorem onMgmt_regs (f : Mgmt → Mgmt) (s : State) : (onMgmt f s).regs = s.regs := rfl
@[simp] theorem onMgmt_rc (f : Mgmt → Mgmt) (s : State) : (onMgmt f s).rc = s.rc := rfl
@[simp] theorem onMgmt_rc64 (f : Mgmt → Mgmt) (s : State) : (onMgmt f s).rc64 = s.rc64 := rfl
@[simp] theorem onMgmt_latch (f : Mgmt → Mgmt) (s : State) : (onMgmt f s).latch = s.latch := rfl
@[simp] theorem onMgmt_held (f : Mgmt → Mgmt) (s : State) : (onMgmt f s).held = s.held := rfl
@[simp] theorem onMgmt_lanes (f : Mgmt → Mgmt) (s : State) : (onMgmt f s).lanes = s.lanes := rfl
@[simp] theorem onMgmt_ports (f : Mgmt → Mgmt) (s : State) : (onMgmt f s).ports = s.ports := rfl
@[simp] theorem onMgmt_core (f : Mgmt → Mgmt) (s : State) : (onMgmt f s).core = s.core := rfl
@[simp] theorem onMgmt_page (f : Mgmt → Mgmt) (s : State) : (onMgmt f s).page = s.page := rfl
@[simp] theorem onMgmt_abacus (f : Mgmt → Mgmt) (s : State) : (onMgmt f s).abacus = s.abacus := rfl
@[simp] theorem onMgmt_prot (f : Mgmt → Mgmt) (s : State) : (onMgmt f s).prot = s.prot := rfl
@[simp] theorem onMgmt_pm (f : Mgmt → Mgmt) (s : State) : (onMgmt f s).pm = s.pm := rfl
@[simp] theorem onMgmt_timing (f : Mgmt → Mgmt) (s : State) : (onMgmt f s).timing = s.timing := rfl
@[simp] theorem onMgmt_eng (f : Mgmt → Mgmt) (s : State) : (onMgmt f s).eng = s.eng := rfl
@[simp] theorem onMgmt_bank (f : Mgmt → Mgmt) (s : State) : (onMgmt f s).bank = s.bank := rfl
@[simp] theorem onMgmt_mtest (f : Mgmt → Mgmt) (s : State) : (onMgmt f s).mtest = s.mtest := rfl
@[simp] theorem onMgmt_perf (f : Mgmt → Mgmt) (s : State) : (onMgmt f s).perf = s.perf := rfl
@[simp] theorem onMgmt_hif (f : Mgmt → Mgmt) (s : State) : (onMgmt f s).hif = s.hif := rfl
@[simp] theorem onMgmt_sec (f : Mgmt → Mgmt) (s : State) : (onMgmt f s).sec = s.sec := rfl
@[simp] theorem onMgmt_sens (f : Mgmt → Mgmt) (s : State) : (onMgmt f s).sens = s.sens := rfl
@[simp] theorem onMgmt_smb (f : Mgmt → Mgmt) (s : State) : (onMgmt f s).smb = s.smb := rfl
@[simp] theorem onMgmt_jtag (f : Mgmt → Mgmt) (s : State) : (onMgmt f s).jtag = s.jtag := rfl
@[simp] theorem onMgmt_otp (f : Mgmt → Mgmt) (s : State) : (onMgmt f s).otp = s.otp := rfl
@[simp] theorem onMgmt_image (f : Mgmt → Mgmt) (s : State) : (onMgmt f s).image = s.image := rfl
@[simp] theorem onMgmt_jnl (f : Mgmt → Mgmt) (s : State) : (onMgmt f s).jnl = s.jnl := rfl
@[simp] theorem onMgmt_copy (f : Mgmt → Mgmt) (s : State) : (onMgmt f s).copy = s.copy := rfl
@[simp] theorem onMgmt_ssw (f : Mgmt → Mgmt) (s : State) : (onMgmt f s).ssw = s.ssw := rfl
@[simp] theorem onMgmt_pwr (f : Mgmt → Mgmt) (s : State) : (onMgmt f s).pwr = s.pwr := rfl
@[simp] theorem onMgmt_frames (f : Mgmt → Mgmt) (s : State) : (onMgmt f s).frames = s.frames := rfl
@[simp] theorem onMgmt_log (f : Mgmt → Mgmt) (s : State) : (onMgmt f s).log = s.log := rfl

/-! `onImage` -/

@[simp] theorem onImage_pending (f : Image → Image) (s : State) : (onImage f s).pending = s.pending := rfl
@[simp] theorem onImage_tick (f : Image → Image) (s : State) : (onImage f s).tick = s.tick := rfl
@[simp] theorem onImage_cclk (f : Image → Image) (s : State) : (onImage f s).cclk = s.cclk := rfl
@[simp] theorem onImage_free (f : Image → Image) (s : State) : (onImage f s).free = s.free := rfl
@[simp] theorem onImage_regs (f : Image → Image) (s : State) : (onImage f s).regs = s.regs := rfl
@[simp] theorem onImage_rc (f : Image → Image) (s : State) : (onImage f s).rc = s.rc := rfl
@[simp] theorem onImage_rc64 (f : Image → Image) (s : State) : (onImage f s).rc64 = s.rc64 := rfl
@[simp] theorem onImage_latch (f : Image → Image) (s : State) : (onImage f s).latch = s.latch := rfl
@[simp] theorem onImage_held (f : Image → Image) (s : State) : (onImage f s).held = s.held := rfl
@[simp] theorem onImage_lanes (f : Image → Image) (s : State) : (onImage f s).lanes = s.lanes := rfl
@[simp] theorem onImage_ports (f : Image → Image) (s : State) : (onImage f s).ports = s.ports := rfl
@[simp] theorem onImage_core (f : Image → Image) (s : State) : (onImage f s).core = s.core := rfl
@[simp] theorem onImage_page (f : Image → Image) (s : State) : (onImage f s).page = s.page := rfl
@[simp] theorem onImage_abacus (f : Image → Image) (s : State) : (onImage f s).abacus = s.abacus := rfl
@[simp] theorem onImage_prot (f : Image → Image) (s : State) : (onImage f s).prot = s.prot := rfl
@[simp] theorem onImage_pm (f : Image → Image) (s : State) : (onImage f s).pm = s.pm := rfl
@[simp] theorem onImage_timing (f : Image → Image) (s : State) : (onImage f s).timing = s.timing := rfl
@[simp] theorem onImage_eng (f : Image → Image) (s : State) : (onImage f s).eng = s.eng := rfl
@[simp] theorem onImage_bank (f : Image → Image) (s : State) : (onImage f s).bank = s.bank := rfl
@[simp] theorem onImage_mtest (f : Image → Image) (s : State) : (onImage f s).mtest = s.mtest := rfl
@[simp] theorem onImage_perf (f : Image → Image) (s : State) : (onImage f s).perf = s.perf := rfl
@[simp] theorem onImage_hif (f : Image → Image) (s : State) : (onImage f s).hif = s.hif := rfl
@[simp] theorem onImage_sec (f : Image → Image) (s : State) : (onImage f s).sec = s.sec := rfl
@[simp] theorem onImage_mgmt (f : Image → Image) (s : State) : (onImage f s).mgmt = s.mgmt := rfl
@[simp] theorem onImage_sens (f : Image → Image) (s : State) : (onImage f s).sens = s.sens := rfl
@[simp] theorem onImage_smb (f : Image → Image) (s : State) : (onImage f s).smb = s.smb := rfl
@[simp] theorem onImage_jtag (f : Image → Image) (s : State) : (onImage f s).jtag = s.jtag := rfl
@[simp] theorem onImage_otp (f : Image → Image) (s : State) : (onImage f s).otp = s.otp := rfl
@[simp] theorem onImage_jnl (f : Image → Image) (s : State) : (onImage f s).jnl = s.jnl := rfl
@[simp] theorem onImage_copy (f : Image → Image) (s : State) : (onImage f s).copy = s.copy := rfl
@[simp] theorem onImage_ssw (f : Image → Image) (s : State) : (onImage f s).ssw = s.ssw := rfl
@[simp] theorem onImage_pwr (f : Image → Image) (s : State) : (onImage f s).pwr = s.pwr := rfl
@[simp] theorem onImage_frames (f : Image → Image) (s : State) : (onImage f s).frames = s.frames := rfl
@[simp] theorem onImage_log (f : Image → Image) (s : State) : (onImage f s).log = s.log := rfl

/-! `setRegion` -/

@[simp] theorem setRegion_pending (d : Nat) (r : Region) (s : State) : (setRegion d r s).pending = s.pending := rfl
@[simp] theorem setRegion_tick (d : Nat) (r : Region) (s : State) : (setRegion d r s).tick = s.tick := rfl
@[simp] theorem setRegion_cclk (d : Nat) (r : Region) (s : State) : (setRegion d r s).cclk = s.cclk := rfl
@[simp] theorem setRegion_free (d : Nat) (r : Region) (s : State) : (setRegion d r s).free = s.free := rfl
@[simp] theorem setRegion_regs (d : Nat) (r : Region) (s : State) : (setRegion d r s).regs = s.regs := rfl
@[simp] theorem setRegion_rc (d : Nat) (r : Region) (s : State) : (setRegion d r s).rc = s.rc := rfl
@[simp] theorem setRegion_rc64 (d : Nat) (r : Region) (s : State) : (setRegion d r s).rc64 = s.rc64 := rfl
@[simp] theorem setRegion_latch (d : Nat) (r : Region) (s : State) : (setRegion d r s).latch = s.latch := rfl
@[simp] theorem setRegion_held (d : Nat) (r : Region) (s : State) : (setRegion d r s).held = s.held := rfl
@[simp] theorem setRegion_lanes (d : Nat) (r : Region) (s : State) : (setRegion d r s).lanes = s.lanes := rfl
@[simp] theorem setRegion_ports (d : Nat) (r : Region) (s : State) : (setRegion d r s).ports = s.ports := rfl
@[simp] theorem setRegion_core (d : Nat) (r : Region) (s : State) : (setRegion d r s).core = s.core := rfl
@[simp] theorem setRegion_page (d : Nat) (r : Region) (s : State) : (setRegion d r s).page = s.page := rfl
@[simp] theorem setRegion_abacus (d : Nat) (r : Region) (s : State) : (setRegion d r s).abacus = s.abacus := rfl
@[simp] theorem setRegion_prot (d : Nat) (r : Region) (s : State) : (setRegion d r s).prot = s.prot := rfl
@[simp] theorem setRegion_pm (d : Nat) (r : Region) (s : State) : (setRegion d r s).pm = s.pm := rfl
@[simp] theorem setRegion_timing (d : Nat) (r : Region) (s : State) : (setRegion d r s).timing = s.timing := rfl
@[simp] theorem setRegion_eng (d : Nat) (r : Region) (s : State) : (setRegion d r s).eng = s.eng := rfl
@[simp] theorem setRegion_bank (d : Nat) (r : Region) (s : State) : (setRegion d r s).bank = s.bank := rfl
@[simp] theorem setRegion_mtest (d : Nat) (r : Region) (s : State) : (setRegion d r s).mtest = s.mtest := rfl
@[simp] theorem setRegion_perf (d : Nat) (r : Region) (s : State) : (setRegion d r s).perf = s.perf := rfl
@[simp] theorem setRegion_hif (d : Nat) (r : Region) (s : State) : (setRegion d r s).hif = s.hif := rfl
@[simp] theorem setRegion_sec (d : Nat) (r : Region) (s : State) : (setRegion d r s).sec = s.sec := rfl
@[simp] theorem setRegion_mgmt (d : Nat) (r : Region) (s : State) : (setRegion d r s).mgmt = s.mgmt := rfl
@[simp] theorem setRegion_sens (d : Nat) (r : Region) (s : State) : (setRegion d r s).sens = s.sens := rfl
@[simp] theorem setRegion_smb (d : Nat) (r : Region) (s : State) : (setRegion d r s).smb = s.smb := rfl
@[simp] theorem setRegion_jtag (d : Nat) (r : Region) (s : State) : (setRegion d r s).jtag = s.jtag := rfl
@[simp] theorem setRegion_otp (d : Nat) (r : Region) (s : State) : (setRegion d r s).otp = s.otp := rfl
@[simp] theorem setRegion_image (d : Nat) (r : Region) (s : State) : (setRegion d r s).image = s.image := rfl
@[simp] theorem setRegion_copy (d : Nat) (r : Region) (s : State) : (setRegion d r s).copy = s.copy := rfl
@[simp] theorem setRegion_ssw (d : Nat) (r : Region) (s : State) : (setRegion d r s).ssw = s.ssw := rfl
@[simp] theorem setRegion_pwr (d : Nat) (r : Region) (s : State) : (setRegion d r s).pwr = s.pwr := rfl
@[simp] theorem setRegion_frames (d : Nat) (r : Region) (s : State) : (setRegion d r s).frames = s.frames := rfl
@[simp] theorem setRegion_log (d : Nat) (r : Region) (s : State) : (setRegion d r s).log = s.log := rfl

/-! `onRegions` -/

@[simp] theorem onRegions_pending (f : Region → Region) (s : State) : (onRegions f s).pending = s.pending := rfl
@[simp] theorem onRegions_tick (f : Region → Region) (s : State) : (onRegions f s).tick = s.tick := rfl
@[simp] theorem onRegions_cclk (f : Region → Region) (s : State) : (onRegions f s).cclk = s.cclk := rfl
@[simp] theorem onRegions_free (f : Region → Region) (s : State) : (onRegions f s).free = s.free := rfl
@[simp] theorem onRegions_regs (f : Region → Region) (s : State) : (onRegions f s).regs = s.regs := rfl
@[simp] theorem onRegions_rc (f : Region → Region) (s : State) : (onRegions f s).rc = s.rc := rfl
@[simp] theorem onRegions_rc64 (f : Region → Region) (s : State) : (onRegions f s).rc64 = s.rc64 := rfl
@[simp] theorem onRegions_latch (f : Region → Region) (s : State) : (onRegions f s).latch = s.latch := rfl
@[simp] theorem onRegions_held (f : Region → Region) (s : State) : (onRegions f s).held = s.held := rfl
@[simp] theorem onRegions_lanes (f : Region → Region) (s : State) : (onRegions f s).lanes = s.lanes := rfl
@[simp] theorem onRegions_ports (f : Region → Region) (s : State) : (onRegions f s).ports = s.ports := rfl
@[simp] theorem onRegions_core (f : Region → Region) (s : State) : (onRegions f s).core = s.core := rfl
@[simp] theorem onRegions_page (f : Region → Region) (s : State) : (onRegions f s).page = s.page := rfl
@[simp] theorem onRegions_abacus (f : Region → Region) (s : State) : (onRegions f s).abacus = s.abacus := rfl
@[simp] theorem onRegions_prot (f : Region → Region) (s : State) : (onRegions f s).prot = s.prot := rfl
@[simp] theorem onRegions_pm (f : Region → Region) (s : State) : (onRegions f s).pm = s.pm := rfl
@[simp] theorem onRegions_timing (f : Region → Region) (s : State) : (onRegions f s).timing = s.timing := rfl
@[simp] theorem onRegions_eng (f : Region → Region) (s : State) : (onRegions f s).eng = s.eng := rfl
@[simp] theorem onRegions_bank (f : Region → Region) (s : State) : (onRegions f s).bank = s.bank := rfl
@[simp] theorem onRegions_mtest (f : Region → Region) (s : State) : (onRegions f s).mtest = s.mtest := rfl
@[simp] theorem onRegions_perf (f : Region → Region) (s : State) : (onRegions f s).perf = s.perf := rfl
@[simp] theorem onRegions_hif (f : Region → Region) (s : State) : (onRegions f s).hif = s.hif := rfl
@[simp] theorem onRegions_sec (f : Region → Region) (s : State) : (onRegions f s).sec = s.sec := rfl
@[simp] theorem onRegions_mgmt (f : Region → Region) (s : State) : (onRegions f s).mgmt = s.mgmt := rfl
@[simp] theorem onRegions_sens (f : Region → Region) (s : State) : (onRegions f s).sens = s.sens := rfl
@[simp] theorem onRegions_smb (f : Region → Region) (s : State) : (onRegions f s).smb = s.smb := rfl
@[simp] theorem onRegions_jtag (f : Region → Region) (s : State) : (onRegions f s).jtag = s.jtag := rfl
@[simp] theorem onRegions_otp (f : Region → Region) (s : State) : (onRegions f s).otp = s.otp := rfl
@[simp] theorem onRegions_image (f : Region → Region) (s : State) : (onRegions f s).image = s.image := rfl
@[simp] theorem onRegions_copy (f : Region → Region) (s : State) : (onRegions f s).copy = s.copy := rfl
@[simp] theorem onRegions_ssw (f : Region → Region) (s : State) : (onRegions f s).ssw = s.ssw := rfl
@[simp] theorem onRegions_pwr (f : Region → Region) (s : State) : (onRegions f s).pwr = s.pwr := rfl
@[simp] theorem onRegions_frames (f : Region → Region) (s : State) : (onRegions f s).frames = s.frames := rfl
@[simp] theorem onRegions_log (f : Region → Region) (s : State) : (onRegions f s).log = s.log := rfl

@[simp] theorem onPage_self (f : Page → Page) (s : State) : (onPage f s).page = f s.page := rfl
@[simp] theorem onAbacus_self (f : Abacus → Abacus) (s : State) : (onAbacus f s).abacus = f s.abacus := rfl
@[simp] theorem onMtest_self (f : Mtest → Mtest) (s : State) : (onMtest f s).mtest = f s.mtest := rfl
@[simp] theorem onCopy_self (f : Copy → Copy) (s : State) : (onCopy f s).copy = f s.copy := rfl
@[simp] theorem onSsw_self (f : Seesaw → Seesaw) (s : State) : (onSsw f s).ssw = f s.ssw := rfl
@[simp] theorem onEngines_self (f : Engines → Engines) (s : State) : (onEngines f s).eng = f s.eng := rfl
@[simp] theorem onPwr_self (f : Pwr → Pwr) (s : State) : (onPwr f s).pwr = f s.pwr := rfl
@[simp] theorem onMgmt_self (f : Mgmt → Mgmt) (s : State) : (onMgmt f s).mgmt = f s.mgmt := rfl
@[simp] theorem onImage_self (f : Image → Image) (s : State) : (onImage f s).image = f s.image := rfl
@[simp] theorem onBus_self (v : Nat) (s : State) : (onBus v s).hif.readData = BitVec.ofNat 64 v := rfl

@[simp] theorem lane_setLane (l m : Nat) (x : Lane) (s : State) :
    lane (setLane l x s) m = if m = l then x else lane s m := spGet_spSet ..

@[simp] theorem port_setPort (p r : Nat) (x : Port) (s : State) :
    port (setPort p x s) r = if r = p then x else port s r := spGet_spSet ..

@[simp] theorem queue_setQueue (q r : Nat) (x : Queue) (s : State) :
    queue (setQueue q x s) r = if r = q then x else queue s r := spGet_spSet ..

@[simp] theorem ring_setRing (r k : Nat) (x : EvRing) (s : State) :
    ring (setRing r x s) k = if k = r then x else ring s k := spGet_spSet ..

@[simp] theorem ref_setRef (n k : Nat) (x : Ref) (s : State) :
    ref (setRef n x s) k = if k = n then x else ref s k := spGet_spSet ..

@[simp] theorem keySlot_setKeySlot (k j : Nat) (x : KeySlot) (s : State) :
    keySlot (setKeySlot k x s) j = if j = k then x else keySlot s j := spGet_spSet ..

@[simp] theorem bank_setBank (b c : Nat) (x : Bank) (s : State) :
    bank (setBank b x s) c = if c = b then x else bank s c := spGet_spSet ..

@[simp] theorem eng_setEng (e k : Nat) (x : Eng) (s : State) :
    eng (setEng e x s) k = if k = e then x else eng s k := spGet_spSet ..

@[simp] theorem hist_setHist (o k : Nat) (x : Hist) (s : State) :
    hist (setHist o x s) k = if k = o then x else hist s k := spGet_spSet ..

@[simp] theorem halves_setHalves (p k : Nat) (x : Halves) (s : State) :
    halves (setHalves p x s) k = if k = p then x else halves s k := spGet_spSet ..

@[simp] theorem window_setWindow (d k : Nat) (x : Window) (s : State) :
    window (setWindow d x s) k = if k = d then x else window s k := spGet_spSet ..

@[simp] theorem cfg_setReg (o k : Nat) (v : Word) (s : State) :
    cfg (setReg o v s) k = if k = o then v else cfg s k := spGet_spSet ..

@[simp] theorem rcGet_rcSet (o k : Nat) (v : Word) (s : State) :
    rcGet (rcSet o v s) k = if k = o then v else rcGet s k := spGet_spSet ..

@[simp] theorem rcGet_count (o k : Nat) (s : State) :
    rcGet (count o s) k = if k = o then BitVec.ofNat 32 (min 0xFFFFFFFF ((rcGet s o).toNat + 1)) else rcGet s k :=
  spGet_spSet ..

@[simp] theorem group_setGroup (g k : Nat) (x : Group) (s : State) :
    group (setGroup g x s) k = if k = g then some x else group s k := find_spIns ..

end Sys2Proof.Laws
end

