-- ==== Sys2Proof/Laws/TickFrame.lean ====
section
/-! SUPPORT. What the operations of Machine/Tick.lean leave as they are. -/

set_option Elab.async false

namespace Sys2Proof.Laws

open Sys2Proof Sys2Proof.Machine

theorem countTick_only (s : State) :
    Only [.tick, .cclk] s (countTick s) := by
  unfold countTick
  refine Only.upd64 ?_
  exact Only.refl _ _

theorem latchSelectors_only (s : State) :
    Only [.core, .prot] s (latchSelectors s) := by
  unfold latchSelectors
  refine Only.upd59 ?_
  exact Only.refl _ _

theorem secondTick_only (s : State) :
    Only [.pm] s (secondTick s) := by
  unfold secondTick
  refine Only.upd41 ?_
  exact Only.refl _ _

theorem edgeTime_only (s : State) :
    Only [.tick, .cclk, .rc, .lanes, .core, .prot, .pm, .timing, .rings, .hostOut, .mgmtLog, .smb, .jnl, .log] s (edgeTime s) := by
  unfold edgeTime
  refine Only.then ?_ (secondTick_only ..)
  refine Only.then ?_ (layCalendars_only ..)
  refine Only.then ?_ (takePosts_only ..)
  refine Only.then ?_ (latchPortCfg_only ..)
  refine Only.then ?_ (latchSelectors_only ..)
  refine Only.then ?_ (timingEdge_only ..)
  refine Only.then ?_ (countTick_only ..)
  exact Only.refl _ _

theorem edgeClose_only (ended : Nat) (s : State) :
    Only [.tick, .regs, .rc, .lanes, .ports, .core, .page, .abacus, .prot, .pm, .eng, .bank, .sram, .mtest, .perf, .rings, .hostOut, .mgmtLog, .smb, .jnl, .log] s (edgeClose ended s) := by
  unfold edgeClose
  refine Only.then ?_ (enginesTick_only ..)
  refine Only.then ?_ (portsTick_only ..)
  refine Only.then ?_ (clearTickCounts_only ..)
  refine Only.cond ?_ fun u hu => ?_
  · refine Only.then ?_ (monitorTick_only ..)
    refine Only.then ?_ (condsTick_only ..)
    exact Only.refl _ _
  · refine Only.then ?_ (groupsPost_only ..)
    assumption

theorem edgeFirmware_only (s : State) :
    Only [.free, .regs, .rc, .rc64, .lanes, .page, .abacus, .prot, .queues, .rings, .hostOut, .sec, .mgmtLog, .mgmt, .smb, .jnl, .copy, .ssw, .pwr, .log] s (edgeFirmware s) := by
  unfold edgeFirmware
  try dsimp -iota -proj only
  refine Only.then ?_ (kickAll_only ..)
  refine Only.cond ?_ fun u hu => ?_
  · refine Only.then ?_ (pageTick_only ..)
    refine Only.then ?_ (marksTick_only ..)
    refine Only.then ?_ (copyTick_only ..)
    refine Only.then ?_ (sswTick_only ..)
    exact Only.refl _ _
  · refine Only.then ?_ (startRebuild_only ..)
    assumption

theorem edgeOpen_only (s : State) :
    Only [.free, .rc, .core, .page, .abacus, .prot, .eng, .mtest, .perf, .queues, .rings, .hostOut, .mgmtLog, .mgmt, .smb, .otp, .image, .jnl, .pwr, .log] s (edgeOpen s) := by
  unfold edgeOpen
  refine Only.then ?_ (blowTick_only ..)
  refine Only.then ?_ (idleTick_only ..)
  refine Only.then ?_ (stepTick_only ..)
  refine Only.then ?_ (lentTick_only ..)
  refine Only.then ?_ (restartTick_only ..)
  refine Only.cond ?_ fun u hu => ?_
  · exact Only.refl _ _
  · refine Only.then ?_ (groupsTick_only ..)
    assumption

end Sys2Proof.Laws
end

