-- ==== Sys2Proof/Tests/Slice0.lean ====
section
/-! SUPPORT. Tests: an ill-formed term for each check of `Instr.wf`, worked values of the spec, and for each
statement with hypotheses a state and operands that meet the hypotheses of every clause. -/

open Sys2Proof Sys2Proof.Machine

section

set_option Elab.async false
set_option linter.unusedVariables false

/-! ### Small states -/

/-- The device in service, ACTIVE, with every domain powered and nothing set up. -/
def live : State := { State.reset with
  tick := 268800
  hif := { Hif.reset with ready := true, link := true }
  mgmt := { Mgmt.reset with up := 0xF }
  core := { Core.reset with running := true }
  ssw := { Seesaw.reset with actOut := true, role := 1 }
  jnl := { Jnl.reset with st := 0, region0 := { Jnl.reset.region0 with ok := true } }
  eng := { Engines.reset with engs := (List.range 192).map fun e => (e, { Eng.reset with st := 2 }) }
  sec := { Sec.reset with slots := [(5, { KeySlot.reset with
    st := 2, key := List.replicate 32 7, size := 1, dir := 3, modes := 0x3F, queue := 0xFFFF, gen := 1 })] }
  pwr := { Pwr.reset with st := 2, on := 0xFFFFF, por := false, perst := false } }

/-- A command as fetched: its opcode, its arguments from byte 16 on, and its extension. -/
def cmd (op : Byte) (args ext : Bytes) : Fetched :=
  ⟨[op, 0] ++ leBytes 2 (ext.length / 64) ++ List.replicate 12 0 ++ (args ++ List.replicate 24 0).take 24
    ++ List.replicate 24 0, if ext.isEmpty then none else some ext⟩

/-- `s` with one command fetched at the head of queue 255, its authentication waiting for no record. -/
def head (op : Byte) (args ext : Bytes) (s : State) : State :=
  setQueue 255 { Queue.reset with enabled := true, waitSeq := some 0, fetched := [cmd op args ext] } s

/-- An extension of `n` zero bytes with the bytes given at the offsets given. -/
def extBytes (n : Nat) (at_ : List (Nat × Byte)) : Bytes :=
  at_.foldl (fun b e => b.set e.1 e.2) (List.replicate n 0)

def z (n : Nat) : Bytes := List.replicate n 0

/-- A signal definition: a 1:1 head. -/
def headDef : GroupDef :=
  { type := 0, n := 1, bi := false, tail := false, et := false, revert := false, fallback := false, fast := false,
    csTicks := 1, holdOff := 4, wtr := 300, sr := some (0, 0), sdWindow := 1, sdThresh := 1, sfThresh := 1,
    restore := some 63, restoreHold := 5, protIn := none, etIn := none, workIn := [some 1], normIn := [some 2] }

/-- A group with that head and nothing under way. -/
def grp0 : Group :=
  { dfn := headDef, paths := [], latePaths := [], lo := false, fs := 0, ms := 0, exer := [], wtr := none, dnr := 0, topReq := 0,
    topSig := 0, topFar := false, bridged := 0, carries := 0, lastRx := none, rxCount := 0, accepted := none,
    heardAt := 0, chCause := 0, waitBr := none, sent := 0, posted := 0, restored := false, bothAt := none, deferred := 0,
    changed := false, asks := [] }

/-- The last group, 8191. -/
def grp : State := setGroup 8191 grp0 live

/-- String 1 with one leg. -/
def str1 : State := { live with abacus := { live.abacus with map := { CMap.empty with
  strs := [(1, ⟨2, 0, [3], [⟨0, 0, false, [3], 0, 0, false, none, false, false, false, []⟩]⟩)] } } }

/-- Strings 1 and 2 of one slot each. -/
def str2 : State := { str1 with abacus := { str1.abacus with map := { str1.abacus.map with
  strs := str1.abacus.map.strs ++ [(2, ⟨2, 0, [4], []⟩)] } } }

/-- String 1 with a leg of group 8191. -/
def groupLeg : State := { live with abacus := { live.abacus with map := { CMap.empty with
  strs := [(1, ⟨2, 0, [3], [⟨0, 0, true, [3], 0, 0, false, some 8191, false, false, false, []⟩]⟩)] } } }

/-- The definition of a head group with working string 1 and normal string 2, as GROUP_CREATE carries it. -/
def grpExt : Bytes :=
  extBytes 192 [(1, 1), (3, 16), (4, 4), (8, 1), (10, 0xFF), (12, 1), (16, 1), (20, 1), (24, 0xFF),
    (40, 1), (43, 0x80), (96, 2), (99, 0x80)]

/-- A boot that finds no image. -/
def noBoot : BootInput := ⟨0, true, none, none, []⟩

/-- Cells of four levels 3, 3, 0, 0 (a 1 bit) or 0, 0, 3, 3 (a 0 bit). -/
def cells (bs : Bytes) : List (BitVec 2) :=
  bs.flatMap fun b => (List.range 8).flatMap fun i => if b.getLsbD (7 - i) then [3, 3, 0, 0] else [0, 0, 3, 3]

/-- A row whose header carries row 15 at the fastest rate. -/
def row15 : Bytes :=
  let h : Bytes := [0x2F, 0, 0, 0]
  h ++ (beBytes 2 (crc16 h)) ++ z 3119

/-- The state a command answers. -/
def toNext : Host.Outcome State Fault Refusal → Option State
  | .next t => some t
  | _ => none

/-- The answer of a command that fails a check. -/
def toFail : Admit → Option (Answer × State)
  | .fail a u => some (a, u)
  | _ => none

/-- The state of a command that waits. -/
def toWait : Admit → Option State
  | .wait u => some u
  | _ => none

/-- What a parse yields. -/
def toOk {α ε : Type} : Except ε α → Option α
  | .ok x => some x
  | .error _ => none

/-- A bank's next borrowing is of a row, is asked for, or is its turn. -/
def isRow : Option Borrow → Bool
  | some (.row _) => true
  | _ => false
def isAsk : Option Borrow → Bool
  | some (.ask _) => true
  | _ => false
def isRound : Option Borrow → Bool
  | some .round => true
  | _ => false

def toPass : Admit → Option State
  | .pass s => some s
  | _ => none

/-! ### Well-formedness: for each check of `Instr.wf`, the last command it passes and one it refuses -/

def wfPair (good bad : Instr) : Bool := good.wf && !bad.wf

theorem wf_rings : (wfPair (.nop 255) (.nop 256) && wfPair (.imageStage 255 none) (.imageStage 256 none) &&
    wfPair (.queueEnable 255 0) (.queueEnable 256 0) && wfPair (.queueDisable 255 0) (.queueDisable 256 0) &&
    wfPair (.eqEnable 15 0) (.eqEnable 16 0) && wfPair (.eqDisable 15 0) (.eqDisable 16 0) &&
    wfPair (.sqPiDoorbell 15 255 0) (.sqPiDoorbell 16 255 0) && wfPair (.cqCiDoorbell 15 255 0) (.cqCiDoorbell 15 256 0) &&
    wfPair (.eqCiDoorbell 15 15 0) (.eqCiDoorbell 15 16 0) && wfPair (.functionLevelReset 15) (.functionLevelReset 16) &&
    wfPair (.interruptTimerExpiry true 15) (.interruptTimerExpiry true 16) &&
    wfPair (.interruptTimerExpiry false 255) (.interruptTimerExpiry false 256)) = true := by decide +kernel

theorem wf_descriptors : (wfPair (.descriptorFetch 255 (List.replicate 8 none)) (.descriptorFetch 255 (List.replicate 9 none)) &&
    wfPair (.descriptorFetch 0 [some ⟨z 64, none⟩]) (.descriptorFetch 0 [some ⟨z 63, none⟩]) &&
    wfPair (.descriptorFetch 0 []) (.descriptorFetch 256 [])) = true := by decide +kernel

theorem wf_accesses : (wfPair (.registerWrite ⟨.bar0, 0x7FFFFC⟩ 0) (.registerWrite ⟨.bar0, 0x800000⟩ 0) &&
    wfPair (.regReadClear ⟨.bar0, 4⟩) (.regReadClear ⟨.bar0, 5⟩) &&
    wfPair (.regReadClear ⟨.vf 1, 4092⟩) (.regReadClear ⟨.vf 0, 4092⟩) &&
    wfPair (.regReadClear ⟨.config 15, 4092⟩) (.regReadClear ⟨.config 15, 4096⟩) &&
    wfPair (.regReadClear ⟨.bar2 0, 0x7FFC⟩) (.regReadClear ⟨.bar2 16, 0⟩) &&
    wfPair (.regReadClear ⟨.vfMsix 15, 0x100C⟩) (.regReadClear ⟨.vfMsix 15, 0x1010⟩) &&
    wfPair (.pcieLinkChange true 6 3 ⟨true, 15, 2, 5⟩) (.pcieLinkChange true 7 3 ⟨true, 15, 2, 5⟩) &&
    wfPair (.pcieLinkChange true 1 0 ⟨false, 0, 0, 0⟩) (.pcieLinkChange true 1 0 ⟨false, 0, 3, 0⟩) && wfPair (.bar0AccessRefused true 1 1) (.bar0AccessRefused true 1 0) &&
    wfPair (.bankWindowAccess 0 4 ⟨none, 0⟩) (.bankWindowAccess 0 0 ⟨none, 0⟩) &&
    wfPair (.perfCounterWrap 1567) (.perfCounterWrap 1568)) = true := by decide +kernel

theorem wf_lines : (wfPair (.laneEnable 259 0) (.laneEnable 260 0) && wfPair (.portEnable 8 0) (.portEnable 9 0) &&
    wfPair (.codewordRx 259 ⟨2719, List.replicate 544 0⟩) (.codewordRx 260 ⟨0, List.replicate 544 0⟩) &&
    wfPair (.trainingFrameRx 259 ⟨0, List.replicate 8480 0, false, 7, 7, 0⟩)
      (.trainingFrameRx 259 ⟨0, List.replicate 8479 0, false, 7, 7, 0⟩) &&
    wfPair (.codewordRx 0 ⟨0, List.replicate 544 0⟩) (.codewordRx 0 ⟨0, List.replicate 543 0⟩) &&
    wfPair (.tdCfgWrite 7 0) (.tdCfgWrite 8 0) && wfPair (.trainingTimeout 259 3) (.trainingTimeout 259 4) &&
    wfPair (.rowRx 259 0 2047 (z 3125)) (.rowRx 259 0 2048 (z 3125)) &&
    wfPair (.rowRx 0 0 0 (z 3125)) (.rowRx 0 0 0 (z 3124)) && wfPair (.capabilitySend 8) (.capabilitySend 9) &&
    wfPair (.tallyHandoff 8) (.tallyHandoff 9) && wfPair (.egressRowRead 15) (.egressRowRead 16) &&
    wfPair (.coreStep 2047) (.coreStep 2048)) = true := by decide +kernel

theorem wf_engines : (wfPair (.tickOverrun 191) (.tickOverrun 192) && wfPair (.clusterReady 11) (.clusterReady 12) &&
    wfPair (.fabricMessage 191 0 0) (.fabricMessage 191 192 0) && wfPair (.recallDone 127) (.recallDone 128) &&
    wfPair (.bankAccess [⟨false, false, 0, false, 127, 0, .read true, 0⟩])
      (.bankAccess [⟨false, false, 0, false, 128, 0, .read true, 0⟩]) &&
    wfPair (.bankHandover 127 ⟨196, true⟩ (.owner 27)) (.bankHandover 127 ⟨197, true⟩ (.owner 27)) &&
    wfPair (.bankHandover 0 ⟨0, false⟩ (.owner 4)) (.bankHandover 0 ⟨0, false⟩ (.owner 5)) &&
    wfPair (.destructiveTestStart 135) (.destructiveTestStart 136)) = true := by decide +kernel

theorem wf_services : (wfPair (.scenarioMarkStale 63) (.scenarioMarkStale 64) && wfPair (.wtrExpiry 8191) (.wtrExpiry 8192) &&
    wfPair (.referenceActivityFail 13) (.referenceActivityFail 14) && wfPair (.watchdogExpiry 3) (.watchdogExpiry 4) &&
    wfPair (.flashBlockFail 1 511 true) (.flashBlockFail 1 512 true) && wfPair (.flashDeviceLost 1) (.flashDeviceLost 2) &&
    wfPair (.datapathFault 3) (.datapathFault 4) && wfPair (.keySlotErased 1023) (.keySlotErased 1024) &&
    wfPair (.portDomainPowered 14) (.portDomainPowered 15) && wfPair (.portDomainPowered 6) (.portDomainPowered 5) &&
    wfPair (.defectClear 1 0 7) (.defectClear 1 0 8) && wfPair (.startupStepLate 10) (.startupStepLate 11)) = true := by
  decide +kernel

/-! ### Values the spec works out -/

/-- 02_tray_format.md: the CRC-16 and the CRC-8 of "123456789". -/
theorem test_crc : crc16 [49, 50, 51, 52, 53, 54, 55, 56, 57] = 0x29B1 ∧ crc8 [49, 50, 51, 52, 53, 54, 55, 56, 57] = 0xF4 := by
  decide +kernel

/-- 02_tray_format.md, after R46: in every row the scrambler adds 0xF1, 0x11 and 0x14 to bytes 6 to 8. -/
theorem test_scrambler : scramble 0 [0, 0, 0] = [0xF1, 0x11, 0x14] ∧ scramble 15 [0, 0, 0] = [0xF1, 0x11, 0x14] := by
  decide +kernel

/-- 02_tray_format.md, after R44: 48 bytes of 0x5A have parity 0b00, so the tag of a valid slot is 0xC. -/
theorem test_parity : badParity ⟨0xC, payloadOf (List.replicate 48 0x5A)⟩ = false ∧
    badParity ⟨0xD, payloadOf (List.replicate 48 0x5A)⟩ = true := by decide +kernel

/-- 03_lanes.md, after R81: CW_CHK of CW_INDEX 0 and CW_LANE 0. -/
theorem test_cw_chk : crc5 0 = 0b10010 := by decide +kernel

/-- 02_tray_format.md Table 2.9: at byte 7,150 the false candidate becomes the SYNC candidate. -/
theorem test_sync : (headerStep { Framer.reset with cands := [⟨7150, 8, 1, false, 0, 0⟩, ⟨8050, 11, 1, false, 0, 0⟩] } 16 7150
    true 8).frm.cands = [⟨10275, 9, 2, true, 0, 0⟩, ⟨8050, 11, 1, false, 0, 0⟩] := by decide +kernel

/-- 02_tray_format.md Table 2.9: at byte 16,525 its run of bad headers is 3, and at byte 19,650 it is dropped and the
true one takes over. -/
theorem test_drop : (headerStep { Framer.reset with cands := [⟨19650, 12, 2, true, 3, 0⟩, ⟨20550, 15, 2, false, 0, 0⟩] } 16 19650
    false 0).frm.cands = [⟨20550, 15, 2, true, 0, 0⟩] := by decide +kernel

/-- 05_core.md, after R136: slot-in-row 6 of row 7 of a lane at 425 Gbit/s is stored by cycle 912 of its arrival. -/
theorem test_arrival : eOf 50000 7 6 = 912 := by decide +kernel

/-- 13_host.md, after R345: the first one-block test of RFC 4493. -/
theorem test_cmac : beNat (cmac (beBytes 16 0x2B7E151628AED2A6ABF7158809CF4F3C) (beBytes 16 0x6BC1BEE22E409F96E93D7E117393172A))
    = 0x070A16B46B4D4144F79BDD9DD04A287C := by decide +kernel

/-- 19_registers.md Table 19.2: where the registers a driver computes lie. -/
theorem test_addresses : laneAt 0x265800 = some (101, 0x800) ∧ portAt 0x180000 = some (8, 0) ∧ laneAt 0x192004 = some (258, 4) ∧
    windowAt 0x613C40 = some (150, 0x40) ∧ queueAt 0x51150 = some (5, 0x10) := by decide +kernel

/-- 19_registers.md R486: GLB.ID. -/
theorem test_glb_id : (toNext (exec (.regReadClear ⟨.bar0, 0⟩) live)).map (·.hif.readData) = some 0x0256B101 := by decide +kernel

/-- 13_host.md Table 13.11: a NOP whose reserved byte 1 is not 0 completes with INVALID_ARG and the offset 1 as DETAIL. -/
theorem test_nop_flags : (toFail (checkCmd 255 ⟨[0, 2] ++ z 62, none⟩ live)).map (·.1) = some (badArg 1) := by decide +kernel

/-- Log entry 53: byte 19 of STRING_CREATE is reserved by name, byte 24 by being named nowhere; a byte of an
extension that NOP does not use counts from 64. -/
theorem test_reserved_arguments :
    argFault 0x10 ⟨[0x10, 0] ++ z 17 ++ [1] ++ z 44, none⟩ = some 19 ∧
    argFault 0x10 ⟨[0x10, 0] ++ z 22 ++ [1] ++ z 39, none⟩ = some 24 ∧
    argFault 0x10 ⟨[0x10, 0] ++ z 14 ++ [1, 2, 3, 0, 4, 5, 6, 7] ++ z 40, none⟩ = none ∧
    argFault 0 ⟨z 64, some (z 63 ++ [1])⟩ = some 127 := by decide +kernel

/-- The front of the queue runs first, and an empty queue leaves the state as it is. -/
theorem test_queue : (toNext (step { live with pending := [.lockSet 1, .tickEdge] })).map (fun t => (t.pending, flg t 4 0))
    = some ([.tickEdge], true) ∧ toNext (step live) = some live := by decide +kernel

/-! ### Rows -/

theorem length_z (n : Nat) : (z n).length = n := List.length_replicate

theorem length_row15 : row15.length = 3125 := by
  simp only [row15, List.length_append, length_z, beBytes, List.length_cons, List.length_nil,
    List.length_reverse]
  rfl

theorem sub_whole (bs : Bytes) (n : Nat) (h : bs.length = n) : sub bs 0 n = bs := by
  subst h
  exact List.ext_getElem (by simp [sub]) fun i _ h => by simp [sub, h]

/-- The bytes received last stand as the row at position 0. -/
theorem rowAt_whole (s : State) (l : Nat) (bs : Bytes) (hp : (lane s l).cw.pos = 3125) (hr : (lane s l).cw.rx = bs)
    (hn : bs.length = 3125) : rowAt s l 0 = some bs := by
  simp [rowAt, hp, hr, hn, sub_whole]

/-- Lane 259 trained, with the candidates `cs`, and the bytes `bs` received last. -/
def rowState (cs : List Cand) (bs : Bytes) : State :=
  setLane 259 { Lane.reset with
    trn := { Training.reset with rx := 3 }
    frm := { Framer.reset with cands := cs }
    cw := { Codewords.reset with pos := 3125, rx := bs } } live

/-- What the clauses on received rows ask of a state: the row stands, and its header leaves `m` and `y`. -/
def rowHyps (cs : List Cand) (bs : Bytes) (m y : Bool) : Prop :=
  rowAt (rowState cs bs) 259 0 = some bs ∧
    let s := rowState cs bs
    let u := closeGroup (portOf 259) { s with cclk := 2047 % 2048 }
    let h := headerStep (lane s 259).frm (rowsOf (laneRate u 259)) 0 (headerFits (laneRate u 259) bs) (hdrRow bs)
    (laneOk 259 && (lane s 259).trn.rx == 3 && h.mimic == m && h.sync == y) = true

theorem witness_rows_sync : rowHyps [⟨0, 0, 2, true, 0, 0⟩] (z 3125) false true :=
  ⟨rowAt_whole _ _ _ rfl rfl (length_z _), by decide +kernel⟩

theorem witness_rows_hunting : rowHyps [] (z 3125) false false :=
  ⟨rowAt_whole _ _ _ rfl rfl (length_z _), by decide +kernel⟩

theorem witness_rows_mimic : rowHyps [⟨0, 15, 2, false, 0, 15⟩, ⟨9, 0, 2, true, 0, 0⟩] row15 true false :=
  ⟨rowAt_whole _ _ _ rfl rfl length_row15, by decide +kernel⟩

/-! ### Witnesses: one for each clause of each statement -/

theorem witness_QueueKept : (
    (let c := Instr.tickEdge; let s : State := { live with pending := [.tickEdge] };
      (toNext (exec c s)).any (fun t => true))) = true := by decide +kernel

theorem witness_FrameCommand : (
    (let c := Instr.nop 255; let s : State := head 0 [] [] live; decide (family c = .command) &&
      (toNext (exec c s)).any (fun t => true))) = true := by decide +kernel

theorem witness_FrameAccess : (
    (let s : State := live; let c := Instr.registerWrite ⟨.bar0, 0xC⟩ 7; decide (family c = .access) &&
      (toNext (exec c s)).any (fun t => true))) = true := by decide +kernel

theorem witness_FrameLine : (
    (let s : State := live; let c := Instr.trainingFrameTx 259; decide (family c = .line) &&
      (toNext (exec c s)).any (fun t => true))) = true := by decide +kernel

theorem witness_FrameTwin : (
    (let s : State := live; let c := Instr.sswActInFall; decide (family c = .twin) &&
      (toNext (exec c s)).any (fun t => true))) = true := by decide +kernel

theorem witness_FrameService : (
    (let s : State := live; let c := Instr.secondBoundary; decide (family c = .service) &&
      (toNext (exec c s)).any (fun t => true))) = true := by decide +kernel

theorem witness_FrameDevice : (
    (let s : State := live; let c := Instr.recallDone 127; decide (family c = .device) &&
      (toNext (exec c s)).any (fun t => true))) = true := by decide +kernel

theorem witness_TickRises : (
    (let s : State := live; let c := Instr.tickEdge; (toNext (exec c s)).any (fun t => true)) &&
    (let s : State := live; let c := Instr.tickEdge;
      (toNext (exec c s)).any (fun t => decide (c = .tickEdge))) &&
    (let s : State := live; let c := Instr.porNAssert;
      (toNext (exec c s)).any (fun t => decide (restarts c = true))) &&
    (let s : State := live; let c := Instr.nop 255;
      (toNext (exec c s)).any (fun t => decide (c ≠ .tickEdge) && decide (restarts c = false)))) = true := by decide +kernel

theorem witness_FusesOneWay : (
    (let s : State := { live with pending := [.lifecycleSet 255] }; (toNext (step s)).any (fun t => true)) &&
    (let s : State := { live with otp := { live.otp with ownerHash := some (z 32) } }; let h := (z 32); true)) = true := by decide +kernel

theorem witness_BankWordsCanonical : (
    (let s : State := { live with bank := { Banks.reset with mem := [(7, 1), (4194303, 2)], zeroed := [127] }, pending := [.tickEdge] };
      decide (bankMemOk s.bank) && (toNext (step s)).any (fun t => true))) = true := by decide +kernel

theorem witness_HostCommandChecks : (
    (let s : State := live; let c := Instr.nop 255; let o := 0; let q := 255;
      decide (hostOp c = some (o, q)) && decide (headCmd o q s = none)) &&
    (let c := Instr.nop 255; let o := 0; let q := 255;
      let s : State := head 0 [] [] { live with mgmt := { live.mgmt with recovery := true } };
      (headCmd o q s).any (fun (d, ds) => (toFail (checkCmd q d s)).any (fun (a, u) => true))) &&
    (let c := Instr.lifecycleSet 255; let o := 0x73; let q := 255;
      let s : State := { head 0x73 [] [] live with hif := { live.hif with queues := [(255, { Queue.reset with enabled := true, waitSeq := some 9, fetched := [cmd 0x73 [] []] })] } };
      (headCmd o q s).any (fun (d, ds) => (toWait (checkCmd q d s)).any (fun u => true))) &&
    (let c := Instr.jnlConfig 255; let o := 0x80; let q := 255;
      let s : State := head 0x80 ([2] ++ z 22 ++ [1]) [] live;
      (headCmd o q s).any (fun (d, ds) => (toPass (checkCmd q d s)).any (fun u => (argFault o d).any (fun n => true)))) &&
    (let o := 0x75; let q := 255;
      let s : State := { (head 0x75 (leBytes 8 0 ++ leBytes 4 4096) (z 64) live) with sec := { live.sec with waiting := [.work .image] } };
      (headCmd o q s).any (fun (d, ds) => (toPass (checkCmd q d s)).any (fun u => decide (argFault o d = none) &&
      decide ((workReady o d u).1 = false))))) = true := by decide +kernel

theorem witness_CompletionRecord : (
    (let s : State := live; let desc := (cmd 0 [] []).desc; let a := ans stOk; let q := 255;
      decide (linkUp s = true) && decide ((queue s q).mute = false))) = true := by decide +kernel

theorem witness_ReadCommandsA : (
    (let s : State := head 0 [] [] live; let q := 255; (ran 0x00 q s).any (fun (d, u) => true)) &&
    (let s : State := head 0x35 [] [] live; let q := 255; (ran 0x35 q s).any (fun (d, u) => true)) &&
    (let s : State := head 1 (z 4 ++ leBytes 8 64 ++ leBytes 4 100000) [] live; let q := 255;
      (ran 0x01 q s).any (fun (d, u) => decide (leAt d.desc 20 8 % 32 = 0) &&
      decide (catalog.1.length ≤ leAt d.desc 28 4))) &&
    (let s : State := head 0x1D (leBytes 2 65535 ++ z 2 ++ leBytes 8 64 ++ leBytes 4 100000) [] live;
      let q := 255; (ran 0x1D q s).any (fun (d, u) => decide (coreUp u = true) &&
      decide (leAt d.desc 20 8 % 32 = 0) &&
      decide ((strBytes (u.abacus.map.str (strNum d))).length ≤ leAt d.desc 28 4))) &&
    (let s : State := head 0x1E ([2, 0, 0, 0] ++ leBytes 2 1023 ++ leBytes 2 1 ++ leBytes 8 32 ++ leBytes 4 8) [] live;
      let q := 255; (ran 0x1E q s).any (fun (d, u) => decide (coreUp u = true) &&
      decide ((d.desc.getD 16 0).toNat < 3) &&
      decide (leAt d.desc 20 2 < (if (d.desc.getD 16 0).toNat = 2 then 1024 else 2048)) &&
      decide (leAt d.desc 20 2 + leAt d.desc 22 2 ≤ (if (d.desc.getD 16 0).toNat = 2 then 1024 else 2048)) &&
      decide (leAt d.desc 24 8 % 32 = 0) && decide (8 * leAt d.desc 22 2 ≤ leAt d.desc 32 4))) &&
    (let s : State := head 0x24 (leBytes 2 8191 ++ z 2 ++ leBytes 8 32 ++ leBytes 4 4096) [] grp;
      let q := 255; (ran 0x24 q s).any (fun (d, u) => decide (coreUp u = true) &&
      decide (headNum d < 8192) && (group u (headNum d)).any (fun x => decide (leAt d.desc 20 8 % 32 = 0) &&
      decide ((groupBytes x.dfn ++ groupState u (headNum d) x).length ≤ leAt d.desc 28 4))))) = true := by decide +kernel

theorem witness_ReadCommandsB : (
    (let s : State := head 0x40 ([3, 0x87, 0, 0] ++ leBytes 4 65535 ++ leBytes 4 1 ++ leBytes 8 32 ++ leBytes 4 4096) [] live;
      let q := 255; (ran 0x40 q s).any (fun (d, u) => decide ((d.desc.getD 16 0).toNat ∈ [1, 2, 3]) &&
      (binNumber (d.desc.getD 17 0).toNat).any (fun (day, k) => decide (0 < leAt d.desc 24 4) &&
      decide (leAt d.desc 20 4 + leAt d.desc 24 4 ≤ classSize (d.desc.getD 16 0).toNat) &&
      decide (leAt d.desc 28 8 % 32 = 0) &&
      decide ((fetchBins u (d.desc.getD 16 0).toNat (leAt d.desc 20 4) (leAt d.desc 24 4) day k).length ≤ leAt d.desc 36 4)))) &&
    (let s : State := head 0x40 ([4, 0, 0, 0] ++ leBytes 4 259 ++ leBytes 4 1 ++ leBytes 8 32 ++ leBytes 4 4096) [] live;
      let q := 255; (ran 0x40 q s).any (fun (d, u) => decide ((d.desc.getD 16 0).toNat ∈ [4, 5, 6]) &&
      decide (0 < leAt d.desc 24 4) &&
      decide (leAt d.desc 20 4 + leAt d.desc 24 4 ≤ classSize (d.desc.getD 16 0).toNat) &&
      decide (leAt d.desc 28 8 % 32 = 0) &&
      decide ((fetchDefects u ((d.desc.getD 16 0).toNat - 3) (leAt d.desc 20 4) (leAt d.desc 24 4)).length ≤ leAt d.desc 36 4))) &&
    (let s : State := head 0x41 ([3, 0, 191, 1] ++ leBytes 8 32 ++ leBytes 4 4096) [] live; let q := 255;
      (ran 0x41 q s).any (fun (d, u) => decide ((bitOf (d.desc.getD 16 0).toNat 0 = true → (d.desc.getD 18 0).toNat < 192 ∧ (d.desc.getD 18 0).toNat + (d.desc.getD 19 0).toNat ≤ 192)) &&
      decide (perfUp u = true) && decide (leAt d.desc 20 8 % 32 = 0) &&
      (let bs := perfDump u (bitOf (d.desc.getD 16 0).toNat 0) (bitOf (d.desc.getD 16 0).toNat 1) (d.desc.getD 18 0).toNat (d.desc.getD 19 0).toNat;
      decide (bs.length ≤ leAt d.desc 28 4)))) &&
    (let s : State := head 0x42 (z 8 ++ leBytes 4 65536 ++ leBytes 4 64 ++ leBytes 8 32) [] (raise .pageSwap 0 0 live);
      let q := 255; (ran 0x42 q s).any (fun (d, u) => decide (1 ≤ leAt d.desc 24 4) &&
      decide (leAt d.desc 24 4 ≤ 65536) && (let first := max (leAt d.desc 16 8) (logOldest u);
      (let k := min (leAt d.desc 24 4) (u.mgmt.logNext - first); decide (32 + 32 * k ≤ leAt d.desc 28 4) &&
      decide (leAt d.desc 32 8 % 32 = 0) && decide (¬ (0 < u.pwr.step ∧ u.pwr.step < 5)))))) &&
    (let s : State := head 0x42 (z 8 ++ leBytes 4 65536 ++ leBytes 4 64 ++ leBytes 8 32) [] (raise .pageSwap 0 0 live);
      let q := 255; (ran 0x42 q s).any (fun (d, u) => decide (1 ≤ leAt d.desc 24 4) &&
      decide (leAt d.desc 24 4 ≤ 65536) && (let first := max (leAt d.desc 16 8) (logOldest u);
      (let k := min (leAt d.desc 24 4) (u.mgmt.logNext - first); decide (32 + 32 * k ≤ leAt d.desc 28 4) &&
      decide (leAt d.desc 32 8 % 32 = 0) && decide (¬ (0 < u.pwr.step ∧ u.pwr.step < 5)) &&
      decide (0 < k))))) &&
    (let s : State := head 0x42 (z 8 ++ leBytes 4 1 ++ leBytes 4 32 ++ leBytes 8 32) [] live; let q := 255;
      (ran 0x42 q s).any (fun (d, u) => decide (1 ≤ leAt d.desc 24 4) && decide (leAt d.desc 24 4 ≤ 65536) &&
      (let first := max (leAt d.desc 16 8) (logOldest u);
      (let k := min (leAt d.desc 24 4) (u.mgmt.logNext - first); decide (32 + 32 * k ≤ leAt d.desc 28 4) &&
      decide (leAt d.desc 32 8 % 32 = 0) && decide (¬ (0 < u.pwr.step ∧ u.pwr.step < 5)) &&
      decide (k = 0))))) &&
    (let s : State := head 0x62 (leBytes 2 1023 ++ leBytes 2 1 ++ leBytes 8 32 ++ leBytes 4 4096) [] live;
      let q := 255; (ran 0x62 q s).any (fun (d, u) => decide (leAt d.desc 16 2 < 1024) &&
      decide (0 < leAt d.desc 18 2) && decide (leAt d.desc 16 2 + leAt d.desc 18 2 ≤ 1024) &&
      decide (leAt d.desc 20 8 % 32 = 0) &&
      (let bs := ((List.range (leAt d.desc 18 2)).flatMap fun i => keyRecord u (leAt d.desc 16 2 + i));
      decide (bs.length ≤ leAt d.desc 28 4)))) &&
    (let s : State := head 0x84 (z 8 ++ leBytes 2 4096 ++ [255, 255] ++ leBytes 4 64 ++ leBytes 8 32) [] live;
      let q := 255; (ran 0x84 q s).any (fun (d, u) => decide (1 ≤ leAt d.desc 24 2) &&
      decide (leAt d.desc 24 2 ≤ 4096) && (let k := leAt d.desc 26 2;
      (let rs := readRecords u k (leAt d.desc 16 8) (leAt d.desc 24 2);
      decide ((k = 0xFFFF ∨ (u.sec.locked = false ∧ slotServes u k 1 false rs.length = true))) &&
      decide (leAt d.desc 32 8 % 32 = 0) && decide (rs.flatten.length ≤ leAt d.desc 28 4) &&
      (let v := (if k = 0xFFFF then u else opStart (some k) rs.length u); true))))) &&
    (let s : State := head 0x76 (z 4 ++ leBytes 8 32 ++ leBytes 4 4096) [] live; let q := 255;
      (ran 0x76 q s).any (fun (d, u) => decide (¬ (0 < u.pwr.step ∧ u.pwr.step < 5)) &&
      decide (leAt d.desc 20 8 % 32 = 0) && decide ((sensorBytes u).length ≤ leAt d.desc 28 4)))) = true := by decide +kernel

theorem witness_StringCommands : (
    (let c := Instr.stringCreate; let o := 0x10; let parse := parseCreate;
      let s : State := head 0x10 ([0xFF, 0xFF, 7, 0] ++ leBytes 4 1) (extBytes 64 [(0, 0), (1, 0x80), (2, 3)]) live;
      let q := 255; (ran o q s).any (fun (d, u) => decide (sharedCheck u = none) &&
      decide (heldAgainst u q (strNum d) (bitOf (d.desc.getD 1 0).toNat 0) = false) &&
      (toOk (parse u q d)).any (fun x => true))) &&
    (let c := Instr.stringConnect; let o := 0x11; let parse := parseConnect;
      let s : State := head 0x11 ([1, 0, 15, 0, 0, 0, 0, 0]) (extBytes 64 [(0, 5)]) str1; let q := 255;
      (ran o q s).any (fun (d, u) => decide (sharedCheck u = none) &&
      decide (heldAgainst u q (strNum d) (bitOf (d.desc.getD 1 0).toNat 0) = false) &&
      (toOk (parse u q d)).any (fun x => true))) &&
    (let c := Instr.stringDisconnect; let o := 0x12; let parse := parseDisconnect;
      let s : State := head 0x12 ([1, 0, 0]) ([]) str1; let q := 255;
      (ran o q s).any (fun (d, u) => decide (sharedCheck u = none) &&
      decide (heldAgainst u q (strNum d) (bitOf (d.desc.getD 1 0).toNat 0) = false) &&
      (toOk (parse u q d)).any (fun x => true))) &&
    (let c := Instr.stringResize; let o := 0x13; let parse := parseResize;
      let s : State := head 0x13 ([1, 0, 0, 0] ++ leBytes 4 1) (extBytes 64 [(0, 3), (4, 3)]) str1;
      let q := 255; (ran o q s).any (fun (d, u) => decide (sharedCheck u = none) &&
      decide (heldAgainst u q (strNum d) (bitOf (d.desc.getD 1 0).toNat 0) = false) &&
      (toOk (parse u q d)).any (fun x => true))) &&
    (let c := Instr.stringCondition; let o := 0x14; let parse := parseCondition;
      let s : State := head 0x14 ([1, 0, 1, 0, 1, 0]) ([]) str1; let q := 255;
      (ran o q s).any (fun (d, u) => decide (sharedCheck u = none) &&
      decide (heldAgainst u q (strNum d) (bitOf (d.desc.getD 1 0).toNat 0) = false) &&
      (toOk (parse u q d)).any (fun x => true))) &&
    (let c := Instr.stringDelete; let o := 0x15; let parse := parseDelete;
      let s : State := head 0x15 ([1, 0]) ([]) str1; let q := 255;
      (ran o q s).any (fun (d, u) => decide (sharedCheck u = none) &&
      decide (heldAgainst u q (strNum d) (bitOf (d.desc.getD 1 0).toNat 0) = false) &&
      (toOk (parse u q d)).any (fun x => true)))) = true := by decide +kernel

theorem witness_PageCommands : (
    (let s : State := head 0x16 (z 8 ++ [3, 7]) ([]) (live); let q := 255;
      (ran 0x16 q s).any (fun (d, u) => decide (sharedCheck u = none) &&
      decide ((bitOf (d.desc.getD 24 0).toNat 0 = true → (d.desc.getD 25 0).toNat < 8)) &&
      decide ((u.abacus.batches.find? fun x => x.q = q && !x.committed) = none))) &&
    (let s : State := head 0x16 (z 8 ++ [1, 7]) ([]) (onAbacus (fun a => { a with batches := [⟨255, false, []⟩] }) live);
      let q := 255; (ran 0x16 q s).any (fun (d, u) => decide (sharedCheck u = none) &&
      decide ((bitOf (d.desc.getD 24 0).toNat 0 = true → (d.desc.getD 25 0).toNat < 8)) &&
      ((u.abacus.batches.find? fun x => x.q = q && !x.committed)).any (fun x => true))) &&
    (let s : State := head 0x17 ([]) ([]) (live); let q := 255;
      (ran 0x17 q s).any (fun (d, u) => decide (sharedCheck u = none))) &&
    (let s : State := head 0x18 ([]) ([]) (onPage (fun p => { p with standby := .armed, armed := some ⟨.batch 255 0 none false, some (live.tick + 2), 0, 0, [], none⟩ }) live);
      let q := 255; (ran 0x18 q s).any (fun (d, u) => decide (sharedCheck u = none) &&
      decide (u.page.standby = .armed) && (u.page.armed).any (fun a => decide (a.work.group = false) &&
      decide (a.work.source ≠ 2) && decide ((∀ x, a.swap = some x → u.tick + 1 < x))))) &&
    (let s : State := head 0x19 ([]) ([]) (onPage (fun p => { p with standby := .armed, armed := some ⟨.batch 255 0 none true, none, 0, 0, [], none⟩ }) live);
      let q := 255; (ran 0x19 q s).any (fun (d, u) => decide (sharedCheck u = none) &&
      decide (u.page.standby = .armed) && (u.page.armed).any (fun a => decide (a.swap = none)))) &&
    (let s : State := head 0x1A ([63, 1]) ([]) (live); let q := 255;
      (ran 0x1A q s).any (fun (d, u) => decide (sharedCheck u = none) &&
      decide ((d.desc.getD 16 0).toNat < 64) && decide ((d.desc.getD 17 0).toNat < 2) &&
      decide ((scen u (d.desc.getD 16 0).toNat).st ≠ 4))) &&
    (let s : State := head 0x1B ([63, 1]) ([]) (setScen 63 { Scenario.empty with st := 1 } live);
      let q := 255; (ran 0x1B q s).any (fun (d, u) => decide (sharedCheck u = none) &&
      decide ((d.desc.getD 16 0).toNat < 64) && decide ((scen u (d.desc.getD 16 0).toNat).st ≠ 0) &&
      decide ((scen u (d.desc.getD 16 0).toNat).st ≠ 2) &&
      decide ((scen u (d.desc.getD 16 0).toNat).st ≠ 5))) &&
    (let s : State := head 0x1C ([63, 0]) ([]) (live); let q := 255;
      (ran 0x1C q s).any (fun (d, u) => decide (sharedCheck u = none) &&
      decide ((d.desc.getD 16 0).toNat < 64) && decide ((scen u (d.desc.getD 16 0).toNat).st ≠ 3) &&
      decide ((scen u (d.desc.getD 16 0).toNat).st ≠ 4) && (let v := endRebuild (d.desc.getD 16 0).toNat u;
      true))) &&
    (let s : State := head 0x18 ([]) ([]) (onPage (fun p => { p with standby := .built, holder := some (.repack 3) }) live);
      let q := 255; (ran 0x18 q s).any (fun (d, u) => decide (sharedCheck u = none) &&
      decide (u.page.standby = .built) && (u.page.holder).any (fun w => true))) &&
    (let s : State := head 0x18 ([]) ([]) (onPage (fun p => { p with standby := .committed }) live);
      let q := 255; (ran 0x18 q s).any (fun (d, u) => decide (sharedCheck u = none) &&
      decide (u.page.standby = .committed))) &&
    (let s : State := head 0x18 ([]) ([]) (onPage (fun p => { p with standby := .armed, armed := some ⟨.groupBridge 8191 1, none, 0, 0, [], none⟩ }) live);
      let q := 255; (ran 0x18 q s).any (fun (d, u) => decide (sharedCheck u = none) &&
      decide (u.page.standby = .armed) && (u.page.armed).any (fun a => decide (a.work.group = true)))) &&
    (let s : State := head 0x1A ([63, 2]) ([]) (onPage (fun p => { p with standby := .built, holder := some (.repack 3) }) live);
      let q := 255; (ran 0x1A q s).any (fun (d, u) => decide (sharedCheck u = none) &&
      (let n := (d.desc.getD 16 0).toNat; decide (n < 64) &&
      decide (bitOf (d.desc.getD 17 0).toNat 1 = true) && decide ((scen u n).st ≠ 4) &&
      decide (u.page.standby = .built) && (u.page.holder).any (fun w => true))))) = true := by decide +kernel

theorem witness_GroupCommands : (
    (let s : State := head 0x20 (leBytes 2 8191) (grpExt) (str2); let q := 255;
      (ran 0x20 q s).any (fun (d, u) => decide (checkGroup u (headNum d) d = none) &&
      decide (group u (headNum d) = none) &&
      decide (groupClash u (headNum d) (parseGroup (extOf d)) = false) &&
      decide (calendarFull u (headNum d) (parseGroup (extOf d)) = false))) &&
    (let s : State := head 0x21 (leBytes 2 8191) (grpExt) (setGroup 8191 grp0 str2); let q := 255;
      (ran 0x21 q s).any (fun (d, u) => (group u (headNum d)).any (fun y => (let x := parseGroup (extOf d);
      decide (checkGroup u (headNum d) d = none) && decide (x.type = y.dfn.type) && decide (x.n = y.dfn.n) &&
      decide (groupClash u (headNum d) x = false) && decide (calendarFull u (headNum d) x = false))))) &&
    (let s : State := head 0x22 (leBytes 2 8191) ([]) (grp); let q := 255;
      (ran 0x22 q s).any (fun (d, u) => decide (sharedCheck u = none) && decide (headNum d < 8192) &&
      (group u (headNum d)).any (fun y => decide (hasLeg u (headNum d) = false)))) &&
    (let s : State := head 0x23 (leBytes 2 8191 ++ [8, 1]) ([]) (grp); let q := 255;
      (ran 0x23 q s).any (fun (d, u) => decide (sharedCheck u = none) && decide (headNum d < 8192) &&
      (group u (headNum d)).any (fun y => (let req := (d.desc.getD 18 0).toNat;
      (let sig := (d.desc.getD 19 0).toNat;
      (decide ((req ∈ [8, 5, 3] ∧ 0 < sig ∧ sig ≤ y.dfn.n) ∨ (req ∈ [0, 0xA] ∧ sig = 0)))))))) &&
    (let s : State := head 0x23 (leBytes 2 8191 ++ [0xA, 0]) ([]) (grp); let q := 255;
      (ran 0x23 q s).any (fun (d, u) => decide (sharedCheck u = none) && decide (headNum d < 8192) &&
      (group u (headNum d)).any (fun y => (let req := (d.desc.getD 18 0).toNat;
      (let sig := (d.desc.getD 19 0).toNat;
      (decide ((req ∈ [8, 5, 3] ∧ 0 < sig ∧ sig ≤ y.dfn.n) ∨ (req ∈ [0, 0xA] ∧ sig = 0)))))))) &&
    (let s : State := head 0x22 (leBytes 2 8191) ([]) (setGroup 8191 grp0 groupLeg); let q := 255;
      (ran 0x22 q s).any (fun (d, u) => decide (sharedCheck u = none) && decide (headNum d < 8192) &&
      (group u (headNum d)).any (fun y => decide (hasLeg u (headNum d) = true))))) = true := by decide +kernel

theorem witness_TimingCommands : (
    (let s : State := head 0x30 (leBytes 2 0x1D4) ([]) (live); let q := 255;
      (ran 0x30 q s).any (fun (d, u) => decide (timingMask (leAt d.desc 16 2) ≠ 0) &&
      (let m := (BitVec.ofNat 32 (leAt d.desc 24 4) &&& BitVec.ofNat 32 (timingMask (leAt d.desc 16 2))).toNat;
      true))) &&
    (let s : State := head 0x31 (leBytes 4 1) ([]) ({ live with timing := { live.timing with mode := 4 } });
      let q := 255; (ran 0x31 q s).any (fun (d, u) => decide (u.timing.mode = 4))) &&
    (let s : State := head 0x32 (leBytes 4 500000) ([]) (live); let q := 255;
      (ran 0x32 q s).any (fun (d, u) => (let x := (BitVec.ofNat 32 (leAt d.desc 16 4)).toInt;
      decide (u.timing.mode ≠ 1) && decide (u.timing.mode ≠ 2) &&
      decide ((anyService u = false ∨ (d.desc.getD 20 0).toNat = 1)) && decide (x.natAbs ≤ 500000) &&
      decide ((u.timing.stepLeft + x).natAbs ≤ 500000)))) &&
    (let s : State := head 0x32 (leBytes 4 (2 ^ 32 - 500000) ++ [1]) ([]) (live); let q := 255;
      (ran 0x32 q s).any (fun (d, u) => (let x := (BitVec.ofNat 32 (leAt d.desc 16 4)).toInt;
      decide (u.timing.mode ≠ 1) && decide (u.timing.mode ≠ 2) &&
      decide ((anyService u = false ∨ (d.desc.getD 20 0).toNat = 1)) && decide (x.natAbs ≤ 500000) &&
      decide ((u.timing.stepLeft + x).natAbs ≤ 500000)))) &&
    (let s : State := head 0x33 (leBytes 6 1 ++ z 2 ++ leBytes 4 999999999 ++ leBytes 8 268801) ([]) (live);
      let q := 255; (ran 0x33 q s).any (fun (d, u) => decide (leAt d.desc 24 4 < 1000000000) &&
      decide ((leAt d.desc 28 8 = 0 ∨ u.tick < leAt d.desc 28 8)))) &&
    (let s : State := head 0x34 (leBytes 8 5) ([]) (live); let q := 255;
      (ran 0x34 q s).any (fun (d, u) => (let x := (BitVec.ofNat 64 (leAt d.desc 16 8)).toInt;
      decide (0 ≤ todAhead u (edgeAfter2 u - u.tick) + x)))) &&
    (let s : State := head 0x30 (leBytes 2 0) ([]) (live); let q := 255;
      (ran 0x30 q s).any (fun (d, u) => decide (timingMask (leAt d.desc 16 2) = 0))) &&
    (let s : State := head 0x31 (leBytes 4 1) ([]) (live); let q := 255;
      (ran 0x31 q s).any (fun (d, u) => decide (u.timing.mode ≠ 4))) &&
    (let s : State := head 0x32 (leBytes 4 1) ([]) ({ live with timing := { live.timing with mode := 1 } });
      let q := 255; (ran 0x32 q s).any (fun (d, u) => decide ((u.timing.mode = 1 ∨ u.timing.mode = 2))))) = true := by decide +kernel

theorem witness_BankCommands : (
    (let s : State := head 0x50 ([127]) ([]) (live); let q := 255;
      (ran 0x50 q s).any (fun (d, u) => decide (banksUp u = true) && (let n := (d.desc.getD 16 0).toNat;
      decide (n < 128)))) &&
    (let s : State := head 0x50 ([127]) ([]) (live); let q := 255;
      (ran 0x50 q s).any (fun (d, u) => decide (banksUp u = true) && (let n := (d.desc.getD 16 0).toNat;
      decide (n < 128) && decide (inPool u n = true)))) &&
    (let s : State := head 0x50 ([0]) ([]) (setBank 0 { Bank.reset with owner := 2 } live); let q := 255;
      (ran 0x50 q s).any (fun (d, u) => decide (banksUp u = true) && (let n := (d.desc.getD 16 0).toNat;
      decide (n < 128) && decide (inPool u n = false)))) &&
    (let s : State := head 0x50 ([0xFF]) ([]) (live); let q := 255;
      (ran 0x50 q s).any (fun (d, u) => decide (banksUp u = true) &&
      decide ((d.desc.getD 16 0).toNat = 0xFF))) &&
    (let s : State := head 0x50 ([0xFF]) ([]) (live); let q := 255;
      (ran 0x50 q s).any (fun (d, u) => decide (banksUp u = true) &&
      decide ((d.desc.getD 16 0).toNat = 0xFF) && ((List.range 128).find? (inPool u)).any (fun n => true))) &&
    (let s : State := head 0x50 ([0xFF]) ([]) ({ live with bank := { live.bank with own := (List.range 128).map fun b => (b, { Bank.reset with owner := 2 }) } });
      let q := 255; (ran 0x50 q s).any (fun (d, u) => decide (banksUp u = true) &&
      decide ((d.desc.getD 16 0).toNat = 0xFF) && ((List.range 128).all fun n => inPool u n = false))) &&
    (let s : State := head 0x51 ([127]) ([]) (setBank 127 { Bank.reset with owner := 2 } live); let q := 255;
      (ran 0x51 q s).any (fun (d, u) => decide (banksUp u = true) && (let n := (d.desc.getD 16 0).toNat;
      decide (n < 128) && decide ((bank u n).owner = 2) && decide ((bank u n).failed = false) &&
      decide ((bank u n).handover = none)))) &&
    (let s : State := head 0x51 ([127]) ([]) (setBank 127 { Bank.reset with owner := 2, handover := some (0, 0, 2) } live);
      let q := 255; (ran 0x51 q s).any (fun (d, u) => decide (banksUp u = true) &&
      (let n := (d.desc.getD 16 0).toNat; decide (n < 128) && decide ((bank u n).owner = 2) &&
      decide ((bank u n).failed = false) && decide ((bank u n).handover ≠ none)))) &&
    (let s : State := head 0x51 ([0]) ([]) (live); let q := 255;
      (ran 0x51 q s).any (fun (d, u) => decide (banksUp u = true) && (let n := (d.desc.getD 16 0).toNat;
      decide (n < 128) && decide ((bank u n).owner ≠ 2 ∨ (bank u n).failed = true)))) &&
    (let s : State := head 0x52 (leBytes 2 0x10) ([]) (live); let q := 255;
      (ran 0x52 q s).any (fun (d, u) => decide (banksUp u = true))) &&
    (let s : State := head 0x52 (leBytes 2 0x10) ([]) (live); let q := 255;
      (ran 0x52 q s).any (fun (d, u) => decide (banksUp u = true) &&
      decide (mtestMask (leAt d.desc 16 2) ≠ 0))) &&
    (let s : State := head 0x52 (leBytes 2 0) ([]) (live); let q := 255;
      (ran 0x52 q s).any (fun (d, u) => decide (banksUp u = true) &&
      decide (mtestMask (leAt d.desc 16 2) = 0))) &&
    (let s : State := head 0x53 ([127, 1]) ([]) (live); let q := 255;
      (ran 0x53 q s).any (fun (d, u) => decide (banksUp u = true) && (let n := (d.desc.getD 16 0).toNat;
      decide (n < 128) && (let m := (d.desc.getD 17 0).toNat; decide (m < 2) &&
      decide ((bank u n).failed = false))))) &&
    (let s : State := head 0x53 ([127, 0]) ([]) (setBank 127 { Bank.reset with owner := 2, lendOk := true } live);
      let q := 255; (ran 0x53 q s).any (fun (d, u) => decide (banksUp u = true) &&
      (let n := (d.desc.getD 16 0).toNat; decide (n < 128) && (let m := (d.desc.getD 17 0).toNat;
      decide (m < 2) && decide ((bank u n).failed = false))))) &&
    (let s : State := head 0x53 ([127, 1]) ([]) (live); let q := 255;
      (ran 0x53 q s).any (fun (d, u) => decide (banksUp u = true) && (let n := (d.desc.getD 16 0).toNat;
      decide (n < 128) && (let m := (d.desc.getD 17 0).toNat; decide (m < 2) &&
      decide ((bank u n).failed = false) &&
      decide ((m = 1 ∧ (bank u n).owner = 0) ∨ (m = 0 ∧ (bank u n).lendOk = true)))))) &&
    (let s : State := head 0x53 ([127, 0]) ([]) (setBank 127 { Bank.reset with owner := 2, lendOk := true } live);
      let q := 255; (ran 0x53 q s).any (fun (d, u) => decide (banksUp u = true) &&
      (let n := (d.desc.getD 16 0).toNat; decide (n < 128) && (let m := (d.desc.getD 17 0).toNat;
      decide (m < 2) && decide ((bank u n).failed = false) &&
      decide ((m = 1 ∧ (bank u n).owner = 0) ∨ (m = 0 ∧ (bank u n).lendOk = true)))))) &&
    (let s : State := head 0x53 ([127, 1]) ([]) (setBank 127 { Bank.reset with owner := 2 } live);
      let q := 255; (ran 0x53 q s).any (fun (d, u) => decide (banksUp u = true) &&
      (let n := (d.desc.getD 16 0).toNat; decide (n < 128) && (let m := (d.desc.getD 17 0).toNat;
      decide (m < 2) && decide ((bank u n).failed = false) &&
      decide ((m = 1 ∧ (bank u n).owner ≠ 0) ∨ (m = 0 ∧ (bank u n).lendOk = false)))))) &&
    (let s : State := head 0x53 ([127, 0]) ([]) (live); let q := 255;
      (ran 0x53 q s).any (fun (d, u) => decide (banksUp u = true) && (let n := (d.desc.getD 16 0).toNat;
      decide (n < 128) && (let m := (d.desc.getD 17 0).toNat; decide (m < 2) &&
      decide ((bank u n).failed = false) &&
      decide ((m = 1 ∧ (bank u n).owner ≠ 0) ∨ (m = 0 ∧ (bank u n).lendOk = false)))))) &&
    (let s : State := head 0x53 ([127, 1]) ([]) (setBank 127 { Bank.reset with failed := true } live);
      let q := 255; (ran 0x53 q s).any (fun (d, u) => decide (banksUp u = true) &&
      (let n := (d.desc.getD 16 0).toNat; decide (n < 128) && decide ((d.desc.getD 17 0).toNat < 2) &&
      decide ((bank u n).failed = true))))) = true := by decide +kernel

theorem witness_KeyCommands : (
    (let s : State := head 0x60 (leBytes 2 1023) (extBytes 128 [(0, 0x54), (1, 0x58), (2, 0x4B), (3, 0x42), (4, 1), (5, 1), (6, 2), (8, 88), (17, 3), (18, 0x1F)]) ({ live with sec := { live.sec with owner := some (z 32, 7) } });
      let q := 255; (ran 0x60 q s).any (fun (d, u) => decide (extLen d.desc = 128) &&
      decide (blobPadding (extOf d) = none) && decide ((extOf d).getD 5 0 ≠ 2) &&
      decide (leAt d.desc 16 2 < 1024) && (let k := leAt d.desc 16 2; (let x := keySlot u k;
      decide (x.st ≠ 1) && decide (x.st ≠ 3) && decide ((leAt d.desc 20 2 = 0 ∨ leAt d.desc 20 2 = x.gen)) &&
      decide (vfMay (qFunction u q) x = true) &&
      decide ((qFunction u q = 0 ∨ (((extOf d).getD 20 0).toNat = 0 ∧ ((extOf d).getD 21 0).toNat = qFunction u q))) &&
      decide (blobHeaderOk u.sec.owner.isSome (extOf d) = true))))) &&
    (let s : State := head 0x60 (leBytes 2 1023) (extBytes 128 [(0, 0x54), (1, 0x58), (2, 0x4B), (3, 0x42), (4, 1), (5, 2), (6, 1), (8, 104), (16, 1)]) (live);
      let q := 255; (ran 0x60 q s).any (fun (d, u) => decide (extLen d.desc = 128) &&
      decide (blobPadding (extOf d) = none) && decide ((extOf d).getD 5 0 = 2) &&
      decide (qFunction u q = 0) && decide (blobHeaderOk u.sec.owner.isSome (extOf d) = true))) &&
    (let s : State := head 0x61 (leBytes 2 5 ++ z 2 ++ leBytes 2 1) ([]) (live); let q := 255;
      (ran 0x61 q s).any (fun (d, u) => (let k := leAt d.desc 16 2; decide (k < 1024) &&
      (let x := keySlot u k; decide (x.st ≠ 0) && decide (x.st ≠ 1) && decide (x.st ≠ 3) &&
      decide ((leAt d.desc 20 2 = 0 ∨ leAt d.desc 20 2 = x.gen)) &&
      decide (vfMay (qFunction u q) x = true) && (let v := setKeySlot k { x with st := 3 } u; true))))) &&
    (let s : State := head 0x63 (leBytes 2 5 ++ [5, 1]) (extBytes 64 [(24, 16), (40, 64)]) (live);
      let q := 255; (ran 0x63 q s).any (fun (d, u) => (let a := cipherAsk d; decide (extLen d.desc = 64) &&
      decide (a.slot < 1024) && decide (a.mode ≤ 5)))) &&
    (let s : State := head 0x63 (leBytes 2 1023 ++ [0, 0]) (extBytes 64 []) (setKeySlot 1023 { KeySlot.reset with st := 1 } live);
      let q := 255; (ran 0x63 q s).any (fun (d, u) => (let a := cipherAsk d; decide (extLen d.desc = 64) &&
      decide (a.slot < 1024) && decide (a.mode ≤ 5)))) &&
    (let s : State := head 0x61 (leBytes 2 1023) ([]) (setKeySlot 1023 { KeySlot.reset with st := 1 } live);
      let q := 255; (ran 0x61 q s).any (fun (d, u) => (let k := leAt d.desc 16 2; decide (k < 1024) &&
      (let x := keySlot u k; decide ((x.st = 1 ∨ x.st = 3)))))) &&
    (let s : State := head 0x61 (leBytes 2 1023) ([]) (setKeySlot 1023 { KeySlot.reset with st := 3 } live);
      let q := 255; (ran 0x61 q s).any (fun (d, u) => (let k := leAt d.desc 16 2; decide (k < 1024) &&
      (let x := keySlot u k; decide ((x.st = 1 ∨ x.st = 3)))))) &&
    (let s : State := head 0x61 (leBytes 2 1023) ([]) (live); let q := 255;
      (ran 0x61 q s).any (fun (d, u) => (let k := leAt d.desc 16 2; decide (k < 1024) &&
      (let x := keySlot u k; decide (x.st = 0) &&
      decide ((leAt d.desc 20 2 = 0 ∨ leAt d.desc 20 2 = x.gen)) &&
      decide (vfMay (qFunction u q) x = true)))))) = true := by decide +kernel

theorem witness_ImageCommands : (
    (let b := (none : Option Bytes); let s : State := head 0x70 ([]) ([]) (live); let q := 255;
      (ran 0x70 q s).any (fun (d, u) => decide (imageBusy u = false))) &&
    (let s : State := head 0x71 ([0]) ([]) (live); let q := 255;
      (ran 0x71 q s).any (fun (d, u) => decide (imageBusy u = false) &&
      decide ((d.desc.getD 16 0).toNat = 0))) &&
    (let s : State := head 0x71 ([1]) ([]) (onImage (fun i => { i with onTrial := true }) live);
      let q := 255; (ran 0x71 q s).any (fun (d, u) => decide (imageBusy u = false) &&
      decide (u.image.onTrial = true) && decide ((d.desc.getD 16 0).toNat = 1))) &&
    (let s : State := head 0x71 ([2]) ([]) (onImage (fun i => { i with onTrial := true }) live);
      let q := 255; (ran 0x71 q s).any (fun (d, u) => decide (imageBusy u = false) &&
      decide (u.image.onTrial = true) && decide ((d.desc.getD 16 0).toNat = 2))) &&
    (let s : State := head 0x72 ([11]) ([]) (live); let q := 255;
      (ran 0x72 q s).any (fun (d, u) => (let c := (d.desc.getD 16 0).toNat; decide (c ≤ 11) &&
      decide (coreUp u = true) && decide (u.image.onTrial = false) && decide (imageBusy u = false) &&
      decide ((c = 11 → u.abacus.job = 0 ∧ u.page.standby = .clean)) && decide (hostUnfit u c = false) &&
      (let n := clusterOpens u.otp u.image.running c; (let w := countOpens none n.1 n.2 u; true))))) &&
    (let s : State := head 0x70 ([]) ([]) (live); let q := 255;
      (ran 0x70 q s).any (fun (d, u) => decide (imageBusy u = false)))) = true := by decide +kernel

theorem witness_TokenAndJournalCommands : (
    (let s : State := head 0x73 ([]) (z 832) (live); let q := 255;
      (ran 0x73 q s).any (fun (d, u) => decide (tokenForm d = none))) &&
    (let s : State := head 0x74 ([]) (z 832) (live); let q := 255;
      (ran 0x74 q s).any (fun (d, u) => decide (tokenForm d = none))) &&
    (let s : State := head 0x75 (leBytes 8 32 ++ leBytes 4 896) (z 64) (live); let q := 255;
      (ran 0x75 q s).any (fun (d, u) => decide (extLen d.desc = 64) && decide (leAt d.desc 16 8 % 32 = 0) &&
      (let cert := (if bitOf (d.desc.getD 28 0).toNat 0 then u.otp.cert else []);
      decide (896 + cert.length ≤ leAt d.desc 24 4) &&
      decide (((List.range' 32 32).find? fun i => (extOf d).getD i 0 ≠ 0) = none) &&
      decide ((∀ t, u.mgmt.attestAt = some t → t + 100000 ≤ u.tick)) &&
      (let r := attestReport ((extOf d).take 32) (onMgmt (fun m => { m with attestAt := some u.tick }) u);
      true)))) &&
    (let s : State := head 0x80 ([0, 1, 0, 0] ++ leBytes 4 1000) ([]) (live); let q := 255;
      (ran 0x80 q s).any (fun (d, u) => decide (jnlConfigCheck u d.desc = none))) &&
    (let s : State := head 0x81 ([]) ([]) (live); let q := 255;
      (ran 0x81 q s).any (fun (d, u) => decide (u.jnl.st < 2) && decide (u.jnl.compacting = none))) &&
    (let s : State := head 0x82 ([2, 3] ++ leBytes 2 10000 ++ [100, 15]) ([]) (live); let q := 255;
      (ran 0x82 q s).any (fun (d, u) => decide ((d.desc.getD 16 0).toNat ≤ 2) &&
      decide (10 ≤ leAt d.desc 18 2) && decide (leAt d.desc 18 2 ≤ 10000) &&
      decide (1 ≤ (d.desc.getD 20 0).toNat) && decide ((d.desc.getD 20 0).toNat ≤ 100) &&
      decide (2 ≤ (d.desc.getD 21 0).toNat) && decide ((d.desc.getD 21 0).toNat ≤ 15))) &&
    (let s : State := head 0x83 ([1]) ([]) (live); let q := 255;
      (ran 0x83 q s).any (fun (d, u) => decide (u.ssw.actOut = true) &&
      decide (((d.desc.getD 16 0).toNat = 1 ∨ (pxLinked u = true ∧ u.ssw.hb.synced = true ∧ u.ssw.hb.claimEn = true))))) &&
    (let s : State := head 0x83 ([0]) ([]) (onSsw (fun x => { x with hb := { x.hb with synced := true, claimEn := true } }) (setPort 8 { Port.reset with st := 7 } live));
      let q := 255; (ran 0x83 q s).any (fun (d, u) => decide (u.ssw.actOut = true) &&
      decide (((d.desc.getD 16 0).toNat = 1 ∨ (pxLinked u = true ∧ u.ssw.hb.synced = true ∧ u.ssw.hb.claimEn = true))))) &&
    (let s : State := head 0x75 (leBytes 8 32 ++ leBytes 4 896) (z 64) (onMgmt (fun m => { m with attestAt := some 268700 }) live);
      let q := 255; (ran 0x75 q s).any (fun (d, u) => decide (extLen d.desc = 64) &&
      decide (leAt d.desc 16 8 % 32 = 0) && decide (896 + u.otp.cert.length ≤ leAt d.desc 24 4) &&
      decide (((List.range' 32 32).find? fun i => (extOf d).getD i 0 ≠ 0) = none) &&
      (u.mgmt.attestAt).any (fun t => decide (u.tick < t + 100000)))) &&
    (let s : State := head 0x83 ([1]) ([]) (onSsw (fun x => { x with actOut := false }) live); let q := 255;
      (ran 0x83 q s).any (fun (d, u) => decide (u.ssw.actOut = false)))) = true := by decide +kernel

theorem witness_Doorbells : (
    (let f := 15; let v := (65535 : Word);
      let s : State := setQueue 255 { Queue.reset with enabled := true } (setReg (0x51010 + 0x40 * 255) (BitVec.ofNat 32 (2 ^ 31 + 15 * 2 ^ 27 + 16 * 2 ^ 22 + 4 * 2 ^ 17)) live);
      let q := 255; decide (linkUp s = true) && decide (okQueue q = true) &&
      decide ((queue s q).enabled = true) && decide (qFunction s q = f) &&
      decide (v.toNat % 65536 < sqSize s q)) &&
    (let f := 15; let v := (15 : Word);
      let s : State := setQueue 255 { Queue.reset with enabled := true } (setReg (0x51010 + 0x40 * 255) (BitVec.ofNat 32 (2 ^ 31 + 15 * 2 ^ 27 + 16 * 2 ^ 22 + 4 * 2 ^ 17)) live);
      let q := 255; decide (linkUp s = true) && decide (okQueue q = true) &&
      decide ((queue s q).enabled = true) && decide (qFunction s q = f) &&
      decide (v.toNat % 65536 < cqSize s q)) &&
    (let f := 15; let r := 15; let v := (65535 : Word);
      let s : State := setRing 15 { EvRing.reset with enabled := true } (setReg (0x56008 + 0x20 * 15) (BitVec.ofNat 32 (2 ^ 31 + 15 * 2 ^ 27 + 16 * 2 ^ 22)) live);
      decide (linkUp s = true) && decide (okRing r = true) && decide ((ring s r).enabled = true) &&
      decide (rFunction s r = f) && decide (v.toNat % 65536 < ringSize s r)) &&
    (let f := 14; let v := (1 : Word);
      let s : State := setQueue 255 { Queue.reset with enabled := true } (setReg (0x51010 + 0x40 * 255) (BitVec.ofNat 32 (2 ^ 31 + 15 * 2 ^ 27 + 16 * 2 ^ 22 + 4 * 2 ^ 17)) live);
      let q := 255; decide (linkUp s = true) && decide (okQueue q = true) &&
      decide (((queue s q).enabled = false ∨ qFunction s q ≠ f))) &&
    (let s : State := live; let f := 0; let v := (1 : Word); let q := 255; decide (linkUp s = true) &&
      decide (okQueue q = true) && decide (((queue s q).enabled = false ∨ qFunction s q ≠ f))) &&
    (let f := 14; let r := 15; let v := (1 : Word);
      let s : State := setRing 15 { EvRing.reset with enabled := true } (setReg (0x56008 + 0x20 * 15) (BitVec.ofNat 32 (2 ^ 31 + 15 * 2 ^ 27 + 16 * 2 ^ 22)) live);
      decide (linkUp s = true) && decide (okRing r = true) &&
      decide (((ring s r).enabled = false ∨ rFunction s r ≠ f))) &&
    (let s : State := live; let f := 0; let r := 15; let v := (1 : Word); decide (linkUp s = true) &&
      decide (okRing r = true) && decide (((ring s r).enabled = false ∨ rFunction s r ≠ f))) &&
    (let f := 15; let v := (16 : Word);
      let s : State := setQueue 255 { Queue.reset with enabled := true } (setReg (0x51010 + 0x40 * 255) (BitVec.ofNat 32 (2 ^ 31 + 15 * 2 ^ 27 + 4 * 2 ^ 22 + 4 * 2 ^ 17)) live);
      let q := 255; decide (linkUp s = true) && decide (okQueue q = true) &&
      decide ((queue s q).enabled = true) && decide (qFunction s q = f) &&
      decide (sqSize s q ≤ v.toNat % 65536)) &&
    (let f := 15; let v := (16 : Word);
      let s : State := setQueue 255 { Queue.reset with enabled := true } (setReg (0x51010 + 0x40 * 255) (BitVec.ofNat 32 (2 ^ 31 + 15 * 2 ^ 27 + 4 * 2 ^ 22 + 4 * 2 ^ 17)) live);
      let q := 255; decide (linkUp s = true) && decide (okQueue q = true) &&
      decide ((queue s q).enabled = true) && decide (qFunction s q = f) &&
      decide (cqSize s q ≤ v.toNat % 65536)) &&
    (let r := 15; let f := 0; let v := (16 : Word);
      let s : State := setReg (0x56008 + 0x20 * 15) 0x81000000 (setRing 15 { EvRing.reset with enabled := true } live);
      decide (linkUp s = true) && decide (okRing r = true) && decide ((ring s r).enabled = true) &&
      decide (rFunction s r = f) && decide (ringSize s r ≤ v.toNat % 65536))) = true := by decide +kernel

theorem witness_RingEnables : (
    (let s : State := live; let v := BitVec.ofNat 32 (2 ^ 31 + 16 * 2 ^ 22 + 4 * 2 ^ 17); let q := 255;
      decide (okQueue q = true) && decide (linkUp s = true) && decide (v.getLsbD 31 = true) &&
      decide (bitOf (qcfg s q) 31 = false) && decide ((queue s q).enabled = false) &&
      decide (logOk (bitsOf v.toNat 26 22) = true) && decide (logOk (bitsOf v.toNat 21 17) = true)) &&
    (let v := (0 : Word);
      let s : State := setQueue 255 { Queue.reset with enabled := true } (setReg (0x51010 + 0x40 * 255) (BitVec.ofNat 32 (2 ^ 31 + 15 * 2 ^ 27 + 16 * 2 ^ 22 + 4 * 2 ^ 17)) live);
      let q := 255; decide (okQueue q = true) && decide (linkUp s = true) && decide (v.getLsbD 31 = false) &&
      decide (bitOf (qcfg s q) 31 = true)) &&
    (let s : State := live; let r := 15; let v := BitVec.ofNat 32 (2 ^ 31 + 16 * 2 ^ 22);
      decide (okRing r = true) && decide (linkUp s = true) && decide (v.getLsbD 31 = true) &&
      decide (bitOf (eqcfg s r) 31 = false) && decide ((ring s r).enabled = false) &&
      decide (logOk (bitsOf (v &&& 0xFFFF8000).toNat 26 22) = true)) &&
    (let r := 15; let v := (0 : Word);
      let s : State := setRing 15 { EvRing.reset with enabled := true } (setReg (0x56008 + 0x20 * 15) (BitVec.ofNat 32 (2 ^ 31 + 15 * 2 ^ 27 + 16 * 2 ^ 22)) live);
      decide (okRing r = true) && decide (linkUp s = true) && decide (v.getLsbD 31 = false) &&
      decide (bitOf (eqcfg s r) 31 = true)) &&
    (let v := BitVec.ofNat 32 (2 ^ 31 + 16 * 2 ^ 22 + 4 * 2 ^ 17);
      let s : State := setQueue 255 { Queue.reset with enabled := true } (setReg (0x51010 + 0x40 * 255) (BitVec.ofNat 32 (2 ^ 31 + 15 * 2 ^ 27 + 16 * 2 ^ 22 + 4 * 2 ^ 17)) live);
      let q := 255; decide (okQueue q = true) && decide (linkUp s = true) && decide (v.getLsbD 31 = true) &&
      decide ((bitOf (qcfg s q) 31 = true ∨ logOk (bitsOf v.toNat 26 22) = false ∨ logOk (bitsOf v.toNat 21 17) = false))) &&
    (let s : State := live; let v := BitVec.ofNat 32 (2 ^ 31 + 3 * 2 ^ 22 + 4 * 2 ^ 17); let q := 255;
      decide (okQueue q = true) && decide (linkUp s = true) && decide (v.getLsbD 31 = true) &&
      decide ((bitOf (qcfg s q) 31 = true ∨ logOk (bitsOf v.toNat 26 22) = false ∨ logOk (bitsOf v.toNat 21 17) = false))) &&
    (let s : State := live; let v := BitVec.ofNat 32 (2 ^ 31 + 16 * 2 ^ 22 + 17 * 2 ^ 17); let q := 255;
      decide (okQueue q = true) && decide (linkUp s = true) && decide (v.getLsbD 31 = true) &&
      decide ((bitOf (qcfg s q) 31 = true ∨ logOk (bitsOf v.toNat 26 22) = false ∨ logOk (bitsOf v.toNat 21 17) = false))) &&
    (let r := 15; let v := BitVec.ofNat 32 (2 ^ 31 + 16 * 2 ^ 22);
      let s : State := setRing 15 { EvRing.reset with enabled := true } (setReg (0x56008 + 0x20 * 15) (BitVec.ofNat 32 (2 ^ 31 + 15 * 2 ^ 27 + 16 * 2 ^ 22)) live);
      decide (okRing r = true) && decide (linkUp s = true) && decide (v.getLsbD 31 = true) &&
      decide ((bitOf (eqcfg s r) 31 = true ∨ logOk (bitsOf (v &&& 0xFFFF8000).toNat 26 22) = false))) &&
    (let s : State := live; let r := 15; let v := BitVec.ofNat 32 (2 ^ 31 + 3 * 2 ^ 22);
      decide (okRing r = true) && decide (linkUp s = true) && decide (v.getLsbD 31 = true) &&
      decide ((bitOf (eqcfg s r) 31 = true ∨ logOk (bitsOf (v &&& 0xFFFF8000).toNat 26 22) = false))) &&
    (let s : State := live; let v := (0x7FFFFFFF : Word); let q := 255; decide (okQueue q = true) &&
      decide (linkUp s = true) && decide (v.getLsbD 31 = false) && decide (bitOf (qcfg s q) 31 = false)) &&
    (let s : State := live; let r := 15; let v := (0x7FFFFFFF : Word); decide (okRing r = true) &&
      decide (linkUp s = true) && decide (v.getLsbD 31 = false) && decide (bitOf (eqcfg s r) 31 = false))) = true := by decide +kernel

theorem witness_HostEvents : (
    (let ds := [some (cmd 0 [] [])];
      let s : State := setQueue 255 { Queue.reset with enabled := true, pi := 1 } (setReg (0x51010 + 0x40 * 255) (BitVec.ofNat 32 (2 ^ 31 + 15 * 2 ^ 27 + 16 * 2 ^ 22 + 4 * 2 ^ 17)) live);
      let q := 255; decide (linkUp s = true) && decide (serving s = true) && decide (nextQueue s = some q) &&
      decide ((ds.take (fetchable s q)) ≠ [])) &&
    (let n := 15;
      let s : State := setReg (0x56014 + 0x20 * 15) 65535 (setRing 15 { EvRing.reset with enabled := true, unsig := 1, unsigAt := 203265, time := 65535 } live);
      decide ((ring s n).unsig ≠ 0) && decide ((ring s n).time ≠ 0) &&
      decide ((ring s n).unsigAt + (ring s n).time ≤ s.tick)) &&
    (let n := 255;
      let s : State := setReg (0x51020 + 0x40 * 255) 65535 (setQueue 255 { Queue.reset with enabled := true, unsig := 1, unsigAt := 203265, time := 65535 } live);
      decide ((queue s n).unsig ≠ 0) && decide ((queue s n).time ≠ 0) &&
      decide ((queue s n).unsigAt + (queue s n).time ≤ s.tick)) &&
    (let s : State := live; let f := 15; decide (linkUp s = true)) &&
    (let s : State := live; decide (s.pwr.perst = false)) &&
    (let s : State := { live with pwr := { live.pwr with perst := true } }; decide (s.pwr.perst = true)) &&
    (let s : State := live; let sp := 6; let w := 3; let fl := (⟨true, 15, 2, 5⟩ : LinkSetup);
      decide (s.pwr.perst = false) && decide (s.pwr.por = false) && decide (s.pwr.st ≠ 0) &&
      decide (okLink sp w fl.vfs fl.mps fl.mrrs = true)) &&
    (let s : State := live; let sp := 7; let w := 3; let fl := (⟨true, 15, 2, 5⟩ : LinkSetup);
      decide (okLink sp w fl.vfs fl.mps fl.mrrs = false)) &&
    (let s : State := live; let sp := 6; let w := 16; let fl := true; decide (s.pwr.perst = false) &&
      decide (s.pwr.por = false) && decide (s.pwr.st ≠ 0)) &&
    (let ds := [some (cmd 0 [] [])];
      let s : State := { setQueue 255 { Queue.reset with enabled := true, pi := 1 } (setReg (0x51010 + 0x40 * 255) (BitVec.ofNat 32 (2 ^ 31 + 15 * 2 ^ 27 + 16 * 2 ^ 22 + 4 * 2 ^ 17)) live) with hif := { (setQueue 255 { Queue.reset with enabled := true, pi := 1 } (setReg (0x51010 + 0x40 * 255) (BitVec.ofNat 32 (2 ^ 31 + 15 * 2 ^ 27 + 16 * 2 ^ 22 + 4 * 2 ^ 17)) live)).hif with link := false } };
      let q := 255; decide (linkUp s = false) && decide (serving s = true) &&
      decide (nextQueue s = some q) && decide ((ds.take (fetchable s q)) ≠ [])) &&
    (let s : State := live; let q := 255; let ds := ([] : List Fetched); decide (nextQueue s ≠ some q))) = true := by decide +kernel

theorem witness_ResetWrites : (
    (let s : State := live; let b := noBoot; decide (linkUp s = true) && decide (s.pwr.shutting = false)) &&
    (let fs := ([] : List MemFault); let s : State := { live with pwr := { live.pwr with st := 4 } };
      decide (linkUp s = true) && decide (s.pwr.shutting = false) && decide (s.pwr.st = 4) &&
      decide (coolEnough s = true)) &&
    (let s : State := live; decide (linkUp s = true) && decide (s.pwr.shutting = false)) &&
    (let s : State := live; let v := (0x57525355 : Word); let b := noBoot; decide (linkUp s = true) &&
      decide (v ≠ 0x57525354)) &&
    (let s : State := live; let v := (0 : Word); let fs := ([] : List MemFault); decide (linkUp s = true) &&
      decide (v ≠ 0x5245534D)) &&
    (let s : State := live; let v := (0x53485555 : Word); decide (linkUp s = true) &&
      decide (v ≠ 0x53485554)) &&
    (let fs := ([] : List MemFault);
      let s : State := { live with pwr := { live.pwr with st := 4 }, sens := { live.sens with max := 800 } };
      decide (linkUp s = true) && decide (s.pwr.shutting = false) && decide (s.pwr.st = 4) &&
      decide (coolEnough s = false)) &&
    (let s : State := live; let v := (0x5245534D : Word); let fs := ([] : List MemFault);
      decide (linkUp s = true) && decide (s.pwr.st ≠ 4))) = true := by decide +kernel

theorem witness_LockAndInject : (
    (let s : State := live; let v := (1 : Word); decide (linkUp s = true)) &&
    (let s : State := live; let v := (0xFFFFFFFF : Word); decide (flg s 4 0 = false) &&
      decide (reach s 0x300008 = true)) &&
    (let s : State := live; let v := (0xFFFFFFFF : Word); decide (linkUp s = true) &&
      decide (flg s 4 0 = false) && decide (s.pwr.on.getLsbD 5 = true))) = true := by decide +kernel

theorem witness_LaneAndPortWrites : (
    (let s : State := live; let l := 259; let v := (0x37F : Word); let c := Instr.laneEnable 259 0x37F;
      let o := 0; let m := 0; decide (laneOk l = true) && decide (linkUp s = true) &&
      decide (c ∈ [Instr.laneEnable l v, .laneDisable l v]) && decide (pdOn s (laneDomain l) = true) &&
      decide (bitOf v.toNat 9 = true) && decide ((lane s l).trn.rx = 0)) &&
    (let l := 255; let v := (0 : Word); let c := Instr.laneDisable 255 0;
      let s : State := setLane 255 { Lane.reset with trn := { Training.reset with rx := 3 } } live;
      decide (laneOk l = true) && decide (linkUp s = true) &&
      decide (c ∈ [Instr.laneEnable l v, .laneDisable l v]) && decide (pdOn s (laneDomain l) = true) &&
      decide (bitOf v.toNat 9 = false) && decide ((lane s l).trn.rx ≠ 0)) &&
    (let s : State := live; let l := 0; let v := (0 : Word); let c := Instr.laneDisable 0 0;
      decide (laneOk l = true) && decide (linkUp s = true) &&
      decide (c ∈ [Instr.laneEnable l v, .laneDisable l v]) &&
      decide (pdOn s (laneDomain l) = false ∨ bitOf v.toNat 9 = decide ((lane s l).trn.rx ≠ 0))) &&
    (let s : State := live; let p := 8; let v := (1 : Word); let c := Instr.portEnable 8 1; decide (p < 9) &&
      decide (linkUp s = true) && decide (c ∈ [Instr.portEnable p v, .portDisable p v]) &&
      decide ((port s p).st = 0) && decide (bitOf v.toNat 0 = true) &&
      decide (pdOn s (laneDomain (laneOf p 0)) = true)) &&
    (let s : State := live; let p := 0; let v := (0 : Word); let c := Instr.portDisable 0 0;
      decide (p < 9) && decide (linkUp s = true) && decide (c ∈ [Instr.portEnable p v, .portDisable p v]) &&
      (decide ((port s p).st ≠ 0 ∨ bitOf v.toNat 0 = false)) && (true)) &&
    (let p := 7; let v := (0x181 : Word); let s : State := setPort 7 { Port.reset with st := 5 } live;
      decide (p < 9) && decide (linkUp s = true) && decide (p < 8) && decide ((port s p).st = 5)) &&
    (let s : State := live; let p := 0; let v := (0x181 : Word); decide (p < 9) &&
      decide (linkUp s = true) && decide (p < 8) && decide ((port s p).st ≠ 5)) &&
    (let s : State := live; let p := 8; let v := (1 : Word); decide (p < 9) && decide (linkUp s = true) &&
      decide (p = 8)) &&
    (let l := 259; let v := (0x80000000 : Word);
      let s : State := setLane 259 { Lane.reset with trn := { Training.reset with rx := 1 } } live;
      decide (laneOk l = true) && decide (linkUp s = true) && decide (bitOf v.toNat 31 = true) &&
      decide ((lane s l).trn.rx ≠ 0)) &&
    (let s : State := live; let l := 259; let v := (0x80000000 : Word); decide (laneOk l = true) &&
      decide (linkUp s = true) && decide ((bitOf v.toNat 31 = false ∨ (lane s l).trn.rx = 0))) &&
    (let s : State := live; let l := 259; let v := (1 : Word); decide (laneOk l = true) &&
      decide (linkUp s = true) && decide (bitOf v.toNat 0 = true)) &&
    (let s : State := live; let l := 0; let v := (0xFFFFFFFE : Word); decide (laneOk l = true) &&
      decide (linkUp s = true) && decide (bitOf v.toNat 0 = false))) = true := by decide +kernel

theorem witness_PerfWrites : (
    (let s : State := live; let off := 0x6200F8; let v := (5 : Word); decide (reach s off = true) &&
      (perfCounterAt off).any (fun i => true)) &&
    (let s : State := live; let off := 0x620004; let v := (5 : Word); decide (reach s off = true) &&
      decide (perfCounterAt off = none) && (perfCounterAt (off - 4)).any (fun i => true)) &&
    (let s : State := live; let off := 0x601040; let v := (5 : Word); decide (reach s off = true) &&
      decide (isSelect off = true)) &&
    (let s : State := live; let v := (1 : Word); let c := Instr.perfHoldClear 1;
      decide (reach s 0x600000 = true) && decide (c ∈ [Instr.perfHoldClear v, .perfFreezeWrite v])) &&
    (let s : State := live; let v := (2 : Word); let c := Instr.perfFreezeWrite 2;
      decide (reach s 0x600000 = true) && decide (c ∈ [Instr.perfHoldClear v, .perfFreezeWrite v])) &&
    (let k := 1567;
      let s : State := setReg (0x620100 + 4 * 31) 0x80000000 { live with perf := { live.perf with cnt := [(1567, BitVec.ofNat 64 (2 ^ cntWidth 1567 - 1))] } };
      decide (s.perf.wrapped.contains k = false) && decide (k < 1568) && decide (mayCount s k = true) &&
      decide ((spGet (fun _ => (0 : DWord)) s.perf.cnt k).toNat = 2 ^ cntWidth k - 1) &&
      (let p := perfAdd (now s / 2) k 1 s.perf; true)) &&
    (let k := 1567; let s : State := { live with perf := { live.perf with wrapped := [1567] } };
      decide (s.perf.wrapped.contains k = true)) &&
    (let s : State := live; let k := 1568; decide (s.perf.wrapped.contains k = false) &&
      decide ((mayCount s k = false ∨ 1568 ≤ k ∨ (spGet (fun _ => (0 : DWord)) s.perf.cnt k).toNat ≠ 2 ^ cntWidth k - 1))) &&
    (let s : State := live; let k := 0; decide (s.perf.wrapped.contains k = false) &&
      decide ((mayCount s k = false ∨ 1568 ≤ k ∨ (spGet (fun _ => (0 : DWord)) s.perf.cnt k).toNat ≠ 2 ^ cntWidth k - 1)))) = true := by decide +kernel

theorem witness_RegisterReads : (
    (let s : State := live; let o := 0x7FFFFC; decide (linkUp s = true) && decide (okOffset o = true) &&
      decide (isReg64 o = false) && decide (o ≠ 0x30030)) &&
    (let s : State := live; let o := 0x20; decide (linkUp s = true) && decide (okOffset o = true) &&
      decide (isReg64 o = false) && decide (o ≠ 0x30030) && decide (isRc o = true) &&
      decide (blockOn s o = true) && ((List.range 16).all fun p => portAt o ≠ some (p, 0x14))) &&
    (let s : State := live; let o := 0xC; decide (linkUp s = true) && decide (okOffset o = true) &&
      decide (isReg64 o = false) && decide (o ≠ 0x30030) && decide (isRc o = false)) &&
    (let s : State := live; let o := 0x60010; let c := Instr.reg64LowRead 0x60010;
      decide (linkUp s = true) && decide (okOffset o = true) && decide (isReg64 o = true) &&
      decide (o ≠ 0x30030) && decide (c ∈ [Instr.reg64LowRead o, .regReadClear ⟨.bar0, o⟩])) &&
    (let s : State := live; let o := 0x60010; let c := Instr.regReadClear ⟨.bar0, 0x60010⟩;
      decide (linkUp s = true) && decide (okOffset o = true) && decide (isReg64 o = true) &&
      decide (o ≠ 0x30030) && decide (c ∈ [Instr.reg64LowRead o, .regReadClear ⟨.bar0, o⟩]) &&
      decide (isRc64 o = true) && decide (blockOn s o = true)) &&
    (let s : State := live; let c := Instr.todSecRead; decide (linkUp s = true) &&
      decide (c ∈ [Instr.todSecRead, .regReadClear ⟨.bar0, 0x30030⟩])) &&
    (let s : State := live; let c := Instr.regReadClear ⟨.bar0, 0x30030⟩; decide (linkUp s = true) &&
      decide (c ∈ [Instr.todSecRead, .regReadClear ⟨.bar0, 0x30030⟩])) &&
    (let s : State := live; let o := portBase 7 + 0x14; let p := 7; decide (linkUp s = true) &&
      decide (okOffset o = true) && decide (isReg64 o = false) && decide (portAt o = some (p, 0x14)) &&
      decide (isRc o = true) && decide (blockOn s o = true)) &&
    (let s : State := live; let f := 15; let o := 4092; decide (linkUp s = true) && decide (f < 16) &&
      decide (o < 4096) && decide (o % 4 = 0) && decide (0 < f)) &&
    (let s : State := live; let f := 0; let o := 0; decide (linkUp s = true) && decide (f < 16) &&
      decide (o < 4096) && decide (o % 4 = 0))) = true := by decide +kernel

theorem witness_RegisterWrites : (
    (let s : State := live; let o := 0xC; let v := (7 : Word); decide (linkUp s = true) &&
      decide (blockOn s o = true) && decide (okOffset o = true) && decide (ownRow o = false) &&
      decide (isRw64 o = false) && decide ((o < 4 ∨ isRw64 (o - 4) = false)) && decide (ovfAt o = none) &&
      decide (lkMask o = 0) && decide (rwMask o ≠ 0)) &&
    (let s : State := live; let o := 0x30004; let v := (7 : Word); decide (linkUp s = true) &&
      decide (blockOn s o = true) && decide (okOffset o = true) && decide (ownRow o = false) &&
      decide (isRw64 o = false) && decide ((o < 4 ∨ isRw64 (o - 4) = false)) && decide (ovfAt o = none) &&
      decide (lkMask o ≠ 0) && decide (flg s 4 0 = false)) &&
    (let o := 0x510010; let v := (7 : Word); let s : State := setLock 1 live; decide (linkUp s = true) &&
      decide (blockOn s o = true) && decide (okOffset o = true) && decide (ownRow o = false) &&
      decide (isRw64 o = false) && decide ((o < 4 ∨ isRw64 (o - 4) = false)) && decide (ovfAt o = none) &&
      decide (lkMask o ≠ 0) && decide (flg s 4 0 = true)) &&
    (let s : State := live; let o := 0; let v := (7 : Word); decide (linkUp s = true) &&
      decide (blockOn s o = true) && decide (okOffset o = true) && decide (ownRow o = false) &&
      decide (isRw64 o = false) && decide ((o < 4 ∨ isRw64 (o - 4) = false)) && decide (ovfAt o = none) &&
      decide (lkMask o = 0) && decide (rwMask o = 0)) &&
    (let s : State := live; let o := 0x51000; let v := (7 : Word); decide (linkUp s = true) &&
      decide (blockOn s o = true) && decide (okOffset o = true) && decide (ownRow o = false) &&
      decide (isRw64 o = true)) &&
    (let s : State := live; let o := 0x51004; let v := (7 : Word); decide (linkUp s = true) &&
      decide (4 ≤ o) && decide (isRw64 (o - 4) = true) && decide (ringBusy s o = false) &&
      decide (blockOn s o = true)) &&
    (let s : State := live; let o := 0x620280; let v := (5 : Word); decide (linkUp s = true) &&
      decide (blockOn s o = true) && decide (okOffset o = true) && decide (ownRow o = false) &&
      decide (isRw64 o = false) && decide ((o < 4 ∨ isRw64 (o - 4) = false)) &&
      (ovfAt o).any (fun f => true)) &&
    (let s : State := live; let o := 0x10010; let v := (5 : Word); decide (linkUp s = true) &&
      decide (okOffset o = true) && decide (ownRow o = true)) &&
    (let s : State := live; let f := 15; let o := 0x7FC; let v := (1 : Word); decide (linkUp s = true) &&
      decide (0 < f) && decide (f < 16) && decide (o % 4 = 0) && decide (o < 0x800))) = true := by decide +kernel

theorem witness_GlbId : (
    (let s : State := live; decide (linkUp s = true))) = true := by decide +kernel

theorem witness_RefusedAndWindow : (
    (let s : State := live; let w := true; let o := 0x7FFFFE; let n := 4; decide (linkUp s = true) &&
      decide (servedAccess o n = false) && decide (o < bar0Size)) &&
    (let s : State := live; let w := false; let o := 0x7FFFFE; let n := 4; decide (linkUp s = true) &&
      decide (servedAccess o n = false) && decide (o < bar0Size) && decide (w = false)) &&
    (let o := 0x1FC0000; let n := 8; let e := 0;
      let s : State := setBank 127 { Bank.reset with owner := 2 } live; decide (o < 0x2000000) &&
      decide (n = 4 ∨ n = 8) &&
      (let u := accessStep [⟨true, false, 2, false, o / 0x40000, o % 0x40000, .read (decide (n = 8)), e⟩] { s with bank := { s.bank with answers := [] } };
      ((match u.bank.answers with | (_, .served _) :: _ => true | _ => false)))) &&
    (let o := 0x1FC0000; let n := 4; let e := 2;
      let s : State := setBank 127 { Bank.reset with owner := 2 } live; decide (o < 0x2000000) &&
      decide (n = 4 ∨ n = 8) &&
      (let u := accessStep [⟨true, false, 2, false, o / 0x40000, o % 0x40000, .read (decide (n = 8)), e⟩] { s with bank := { s.bank with answers := [] } };
      ((match u.bank.answers with | (_, .eccUncorr) :: _ => true | _ => false)))) &&
    (let s : State := live; let o := 0x1FC0000; let n := 4; let e := 0; decide (o < 0x2000000) &&
      decide (n = 4 ∨ n = 8) &&
      (let u := accessStep [⟨true, false, 2, false, o / 0x40000, o % 0x40000, .read (decide (n = 8)), e⟩] { s with bank := { s.bank with answers := [] } };
      ((match u.bank.answers with | (_, .served _) :: _ => false | (_, .eccUncorr) :: _ => false | _ => true)))) &&
    (let s : State := live; let o := 0x1FFFFF8; let n := 8; decide (o < 0x2000000) && decide (n = 4 ∨ n = 8))) = true := by decide +kernel

theorem witness_Sideband : (
    (let s : State := live; decide (smbServed s = true)) &&
    (let s : State := live; decide (smbServed s = true)) &&
    (let s : State := live; decide (smbServed s = true)) &&
    (let s : State := live; decide (smbServed s = true)) &&
    (let s : State := live; decide (smbServed s = true)) &&
    (let s : State := live; decide (smbServed s = true)) &&
    (let s : State := live; decide (smbServed s = true)) &&
    (let s : State := live; let v := (255 : Byte); decide (smbServed s = true)) &&
    (let s : State := live; decide (smbServed s = true)) &&
    (let c := Instr.smbAlertResponse; let s : State := { live with pwr := { live.pwr with vin := false } };
      decide (smbServed s = false) &&
      decide (c ∈ [Instr.smbIdent, .smbPowerState, .smbSeesaw, .smbTempMax, .smbTempAll, .smbVin, .smbIin, .smbPin, .smbDomains, .smbOven, .smbEventSummary, .smbAlertResponse])) &&
    (let v := (255 : Byte); let s : State := { live with pwr := { live.pwr with vin := false } };
      decide (smbServed s = false)) &&
    (let s : State := live; decide (s.pwr.vin = true)) &&
    (let s : State := live; decide (s.pwr.vin = true)) &&
    (let s : State := live; let d := [true]; decide (s.pwr.vin = true)) &&
    (let s : State := live; decide (s.pwr.vin = true)) &&
    (let s : State := live; decide (s.pwr.vin = true)) &&
    (let c := Instr.dbgAccess; let s : State := { live with pwr := { live.pwr with vin := false } };
      decide (s.pwr.vin = false) && (true))) = true := by decide +kernel

theorem witness_PowerAndStartup : (
    (let s : State := live; let c := Instr.porNAssert; (((c == .porNAssert &&
      !s.pwr.por) || ([Instr.vinLost, .vinOvervoltage, .inputOvercurrent].contains c && s.pwr.vin)))) &&
    (let s : State := live; let c := Instr.inputOvercurrent; (((c == .porNAssert &&
      !s.pwr.por) || ([Instr.vinLost, .vinOvervoltage, .inputOvercurrent].contains c && s.pwr.vin)))) &&
    (let c := Instr.porNAssert; let s : State := { live with pwr := { live.pwr with por := true } };
      (((c == .porNAssert && s.pwr.por) || ([Instr.vinLost, .vinOvervoltage, .inputOvercurrent].contains c &&
      !s.pwr.vin)))) &&
    (let c := Instr.vinLost; let s : State := { live with pwr := { live.pwr with vin := false } };
      (((c == .porNAssert && s.pwr.por) || ([Instr.vinLost, .vinOvervoltage, .inputOvercurrent].contains c &&
      !s.pwr.vin)))) &&
    (let b := noBoot; let s : State := { live with pwr := { live.pwr with vin := false, por := true } };
      decide (s.pwr.vin = false) && decide (s.pwr.por = true)) &&
    (let b := noBoot; let s : State := { live with pwr := { live.pwr with vin := false, por := true } };
      decide (s.pwr.por = true) && decide (s.pwr.vin = false)) &&
    (let b := { noBoot with otpOk := false }; let c := Instr.vinGood { noBoot with otpOk := false };
      let s : State := { live with pwr := { live.pwr with vin := false } };
      let u := { s with pwr := { s.pwr with vin := true, on := 1 } };
      ((match c with | .vinGood _ => !s.pwr.vin && !s.pwr.por | .porNDeassert _ => s.pwr.por && s.pwr.vin | _ => false)) &&
      decide (b.otpOk = false)) &&
    (let b := noBoot; let c := Instr.porNDeassert noBoot;
      let s : State := { live with pwr := { live.pwr with por := true } };
      let u := { s with pwr := { s.pwr with por := false } };
      ((match c with | .vinGood _ => !s.pwr.vin && !s.pwr.por | .porNDeassert _ => s.pwr.por && s.pwr.vin | _ => false)) &&
      decide (b.otpOk = true)) &&
    (let b := noBoot; let s : State := { live with pwr := { live.pwr with vin := false, por := true } };
      true) &&
    (let n := 8; let s : State := { live with pwr := { live.pwr with st := 1, step := 8 } };
      decide (s.pwr.step ≠ 0) && decide (n ≠ 0) && decide (n ≤ s.pwr.step) && decide (n ≠ 10) &&
      decide ((n ≠ 9 ∨ s.pwr.step ≠ 9))) &&
    (let n := 1; let s : State := { live with pwr := { live.pwr with st := 1, step := 10 } };
      decide (s.pwr.step ≠ 0) && decide (n ≠ 0) && decide (n ≤ s.pwr.step) && decide (n ≠ 10) &&
      decide ((n ≠ 9 ∨ s.pwr.step ≠ 9))) &&
    (let s : State := { live with pwr := { live.pwr with st := 1, step := 9 } }; decide (s.pwr.step = 9)) &&
    (let s : State := live; let n := 10; decide ((s.pwr.step = 0 ∨ n = 0 ∨ n = 10 ∨ s.pwr.step < n))) &&
    (let s : State := onSsw (fun x => { x with decideAt := some (ticks 5), wireAt := some 5 }) { live with tick := 2000005 };
      decide (due s s.ssw.decideAt (ticks (ms 2000)) = true) && decide (pxLinked s = false) &&
      (let m := (decide (sswMode s ≠ 1) &&
      (decide (sswMode s = 2) || s.ssw.wireAt.all fun t => decide (t + ticks (ms 2000) ≤ now s))); true)) &&
    (let d := 14; let s : State := { live with pwr := { live.pwr with idle := [(14, live.tick - ms 10)] } };
      decide (6 ≤ d) && decide (d ≤ 14) && decide (pdOn s d = true) && decide (domainIdle s d = true) &&
      (s.pwr.idle.find? (·.1 = d)).any (fun (d, x) => decide (x + ms 10 ≤ s.tick))) &&
    (let d := 14; let s : State := setReg (portBase 7) 0x601 { live with pwr := { live.pwr with on := 0 } };
      decide (6 ≤ d) && decide (d ≤ 14) && decide (pdOn s d = false) && decide (domainIdle s d = false) &&
      decide (domainAllowed s d = true))) = true := by decide +kernel

theorem witness_HoldOff : (
    (((let s : State := live; let c : PathCond := { PathCond.reset with sf := false };
      let x := pathStep s (headDef) 0 c; x.sf && !c.sf))) &&
    (((let s : State := live; let c : PathCond := { PathCond.reset with sf := true, sfAt := some 5 };
      let x := pathStep s (headDef) 0 c; x.sf && c.sf))) &&
    (((let s : State := { live with ports := [(0, { Port.reset with st := 5 })], pm := { live.pm with strTick := [(0, ⟨1, 0, 0⟩)] } };
      let c : PathCond := { PathCond.reset with sd := false };
      let x := pathStep s ({ headDef with sfThresh := 2 }) 0 c; x.sd && !c.sd && !x.sf))) &&
    (((let s : State := { live with ports := [(0, { Port.reset with st := 5 })], pm := { live.pm with strTick := [(0, ⟨1, 0, 0⟩)] } };
      let c : PathCond := { PathCond.reset with sd := true, sdAt := some 5 };
      let x := pathStep s ({ headDef with sfThresh := 2 }) 0 c; x.sd && c.sd))) &&
    (((let s : State := live; let c : PathCond := { PathCond.reset with sd := true };
      let x := pathStep s (headDef) 0 c; !x.sd))) &&
    (((let s : State := live; let c : PathCond := { PathCond.reset with sf := false };
      let x := pathStep s ({ headDef with holdOff := 0 }) 0 c; x.sfReq))) &&
    (let g := 8191; let s : State := grp; (group s g).any (fun x => true))) = true := by decide +kernel

theorem witness_LockHolds : (
    (let c := Instr.tickEdge; let s : State := setLock 1 live; decide (flg s 4 0 = true) &&
      (toNext (exec c s)).any (fun t => decide (c ∉ [Instr.porNAssert, .vinLost, .vinOvervoltage, .inputOvercurrent])))) = true := by decide +kernel

theorem witness_Engines : (
    (let s : State := live; decide (pdOn s 1 = true)) &&
    (let s : State := { live with pwr := { live.pwr with on := 1 } }; decide (pdOn s 1 = false)) &&
    (let e := 191; let s : State := setEng 191 { Eng.reset with st := 2, consec := 998 } live;
      decide ((eng s e).st = 2) && decide ((eng s e).overran = false) && decide ((eng s e).done = false) &&
      decide ((eng s e).consec < 999)) &&
    (let e := 191; let s : State := setEng 191 { Eng.reset with st := 2, consec := 999 } live;
      decide ((eng s e).st = 2) && decide ((eng s e).overran = false) && decide ((eng s e).done = false) &&
      decide (999 ≤ (eng s e).consec)) &&
    (let e := 191; let s : State := setEng 191 { Eng.reset with st := 2, done := true } live;
      decide (((eng s e).st ≠ 2 ∨ (eng s e).overran = true ∨ (eng s e).done = true))) &&
    (let s : State := live; let e := 191; decide ((eng s e).st = 2)) &&
    (let e := 0; let s : State := setEng 0 { Eng.reset with st := 3 } live; decide ((eng s e).st ≠ 2)) &&
    (let s : State := live; let a := 0; let b := 191; let m := (5 : BitVec 128); true) &&
    (let c := 11;
      let s : State := onEngines (fun e => { e with active := some ⟨11, none, live.tick - 2, none, false, none, none, [], 0, []⟩ }) live;
      (s.eng.active).any (fun r => decide (r.cl = c) && decide (r.moved = none) &&
      decide (mayMigrate s r = true))) &&
    (let c := 11;
      let s : State := onEngines (fun e => { e with active := some ⟨11, none, 0, some 3, true, none, none, [], 0, []⟩ }) live;
      (s.eng.active).any (fun r => decide (r.cl = c) && (r.moved).any (fun m => decide (r.ready = none) &&
      decide (r.tested = true)))) &&
    (let c := 11;
      let s : State := onEngines (fun e => { e with active := some ⟨11, none, 0, some 3, true, some (live.tick - 2), none, [], 0, []⟩ }) live;
      (s.eng.active).any (fun r => decide (r.cl = c) && (r.ready).any (fun m => decide (m + 2 ≤ s.tick) &&
      decide (r.back = none)))) &&
    (let s : State := live; let c := 11; ((s.eng.active.all fun r => r.cl ≠ c)))) = true := by decide +kernel

theorem witness_CoreAndRows : (
    (let s : State := live; let k := 2047; decide (s.core.running = true) && decide (k < 2048) &&
      decide (s.core.retired.contains k = false) && (let u := { s with cclk := k };
      (let v := ingressAll (pageSet u u.page.active) k u; true))) &&
    (let k := 2047; let s : State := { live with core := { live.core with retired := [2047] } };
      decide (s.core.running = true) && decide (k < 2048) && decide (s.core.retired.contains k = true)) &&
    (let s : State := live; let m := 15; decide (s.core.running = true) && decide (m < 16)) &&
    (let s : State := live; let l := 259; let p := 0; let k := 2047; let bs := row15;
      decide ((laneOk l = false ∨ (lane s l).trn.rx ≠ 3 ∨ rowAt s l p ≠ some bs))) &&
    (let s : State := live; let k := 2048; decide ((s.core.running = false ∨ 2048 ≤ k))) &&
    (let k := 0; let s : State := { live with core := { live.core with running := false } };
      decide ((s.core.running = false ∨ 2048 ≤ k))) &&
    (let s : State := live; let m := 16; decide ((s.core.running = false ∨ 16 ≤ m)))) = true := by decide +kernel

theorem witness_LaneTraining : (
    (let l := 259; let fr := (⟨0, [], false, 7, 7, 0⟩ : TrainFrame);
      let s : State := setLane 259 { Lane.reset with trn := { Training.reset with rx := 1 } } (live);
      decide (laneOk l = true) && decide ((lane s l).trn.rx = 1) && decide ((lane s l).tim.idleAt = none) &&
      decide ((lane s l).tim.huntAt = none) && (let T := startCountdown (trainFrame fr (lane s l).trn);
      true)) &&
    (let l := 259;
      let fr := (⟨8485, marker ++ cells [0, 0, 0, BitVec.ofNat 8 (crc8 [0, 0, 0]), 0, 0, 0, BitVec.ofNat 8 (crc8 [0, 0, 0])], false, 7, 7, 0⟩ : TrainFrame);
      let s : State := setLane 259 { Lane.reset with trn := { Training.reset with rx := 1, goodRun := 1, lastUi := some (5) }, tim := { LaneTimers.reset with huntAt := some 5 } } (live);
      decide (laneOk l = true) && decide ((lane s l).trn.rx ≠ 0) && decide ((lane s l).tim.idleAt = none) &&
      ((lane s l).tim.huntAt).any (fun a => (let T := detectFrame fr (lane s l).trn;
      decide (T.frameLock = true) && decide ((lane s l).trn.frameLock = false)))) &&
    (let l := 259; let fr := (⟨0, [], false, 7, 7, 0⟩ : TrainFrame);
      let s : State := setLane 259 { Lane.reset with trn := { Training.reset with rx := 1, goodRun := 1 }, tim := { LaneTimers.reset with huntAt := some 5 } } (live);
      decide (laneOk l = true) && decide ((lane s l).trn.rx ≠ 0) && decide ((lane s l).tim.idleAt = none) &&
      ((lane s l).tim.huntAt).any (fun a => (let T := detectFrame fr (lane s l).trn;
      decide ((T.frameLock = false ∨ (lane s l).trn.frameLock = true))))) &&
    (let l := 259;
      let s : State := setLane 259 { Lane.reset with trn := { Training.reset with tx := 1 } } (live);
      decide (laneOk l = true) && decide ((lane s l).trn.tx = 1) && (let v := (tapValue (lane s l).trn s).1;
      true)) &&
    (let l := 259;
      let s : State := setLane 259 { Lane.reset with trn := { Training.reset with tx := 2, framesLeft := 2 } } (live);
      decide (laneOk l = true) && decide ((lane s l).trn.tx = 2) && decide ((lane s l).trn.framesLeft ≠ 1) &&
      (let v := (tapValue (lane s l).trn s).1; true)) &&
    (let l := 259;
      let s : State := setLane 259 { Lane.reset with trn := { Training.reset with tx := 2, framesLeft := 1 } } (live);
      decide (laneOk l = true) && decide ((lane s l).trn.tx = 2) && decide ((lane s l).trn.framesLeft = 1) &&
      (let w := tapValue (lane s l).trn s; (let u := cycleUi w.2 (laneRate w.2 l);
      (let more := (2720 - u % 2720) % 2720; true)))) &&
    (let l := 259; let n := 0;
      let s : State := setLane 259 { Lane.reset with trn := { Training.reset with rx := 1 }, tim := { LaneTimers.reset with frameAt := some (now live - ticks (ms 1)) } } (live);
      decide (laneOk l = true) && decide (due s (timerStart (lane s l).tim n) (timerLimit s l n) = true)) &&
    (let l := 0; let n := 3;
      let s : State := setLane 0 { Lane.reset with trn := { Training.reset with rx := 1 }, tim := { LaneTimers.reset with cwAt := some (now live - ticks 50) } } (live);
      decide (laneOk l = true) && decide (due s (timerStart (lane s l).tim n) (timerLimit s l n) = true)) &&
    (let l := 259;
      let s : State := setReg (laneBase 259) 0x232 (setLane 259 { Lane.reset with trn := { Training.reset with rx := 1 }, tim := { LaneTimers.reset with idleAt := some (now live - ticks (ms 1)) } } (live));
      decide (laneOk l = true) && decide (due s (lane s l).tim.idleAt (ticks (ms 1)) = true) &&
      decide (flg s (laneBase l) 9 = true)) &&
    (let l := 259;
      let s : State := setLane 259 { Lane.reset with trn := { Training.reset with rx := 1 }, tim := { LaneTimers.reset with huntAt := some (now live - ticks (ms 1)) } } (live);
      decide (laneOk l = true) && decide (due s (lane s l).tim.huntAt (ticks (ms 1)) = true)) &&
    (let s : State := live; let l := 259; let a := true; let b := false; decide (laneOk l = true)) &&
    (let l := 259; let c := (⟨2719, List.replicate 544 0⟩ : CodewordIn);
      let s : State := setLane 259 { Lane.reset with trn := { Training.reset with rx := 3 }, cw := { Codewords.reset with ui := 2719 } } (live);
      decide (laneOk l = true) && decide ((lane s l).trn.rx = 3) &&
      (let d := decodeCodeword (bypassActive s l) c; decide (c.ui = (lane s l).cw.ui))) &&
    (let l := 259; let c := (⟨0, List.replicate 544 1⟩ : CodewordIn);
      let s : State := setLane 259 { Lane.reset with trn := { Training.reset with rx := 2 } } (live);
      decide (laneOk l = true) && decide ((lane s l).trn.rx = 2)) &&
    (let l := 259; let c := (⟨5, List.replicate 544 1⟩ : CodewordIn);
      let s : State := setLane 259 { Lane.reset with trn := { Training.reset with rx := 3 } } (live);
      decide (laneOk l = true) &&
      decide ((((lane s l).trn.rx = 3 ∧ c.ui ≠ (lane s l).cw.ui) ∨ ((lane s l).trn.rx ≠ 3 ∧ (lane s l).trn.rx ≠ 2)))) &&
    (let s : State := live; let l := 0; let c := (⟨5, List.replicate 544 1⟩ : CodewordIn);
      decide (laneOk l = true) &&
      decide ((((lane s l).trn.rx = 3 ∧ c.ui ≠ (lane s l).cw.ui) ∨ ((lane s l).trn.rx ≠ 3 ∧ (lane s l).trn.rx ≠ 2)))) &&
    (let s : State := live; let l := 259; let fr := (⟨0, [], false, 7, 7, 0⟩ : TrainFrame);
      decide (laneOk l = true) &&
      decide (((lane s l).trn.rx = 0 ∨ (lane s l).tim.idleAt.isSome = true ∨ ((lane s l).tim.huntAt = none ∧ (lane s l).trn.rx ≠ 1)))) &&
    (let l := 259; let fr := (⟨0, [], false, 7, 7, 0⟩ : TrainFrame);
      let s : State := setLane 259 { Lane.reset with trn := { Training.reset with rx := 3 } } (live);
      decide (laneOk l = true) &&
      decide (((lane s l).trn.rx = 0 ∨ (lane s l).tim.idleAt.isSome = true ∨ ((lane s l).tim.huntAt = none ∧ (lane s l).trn.rx ≠ 1)))) &&
    (let l := 259;
      let s : State := setLane 259 { Lane.reset with trn := { Training.reset with tx := 3 } } (live);
      decide (laneOk l = true) && decide ((lane s l).trn.tx ≠ 1) && decide ((lane s l).trn.tx ≠ 2)) &&
    (let s : State := live; let l := 259; let n := 3;
      decide ((laneOk l = false ∨ due s (timerStart (lane s l).tim n) (timerLimit s l n) = false))) &&
    (let s : State := live; let l := 259;
      decide ((laneOk l = false ∨ due s (lane s l).tim.idleAt (ticks (ms 1)) = false ∨ flg s (laneBase l) 9 = false))) &&
    (let s : State := live; let l := 260;
      decide ((laneOk l = false ∨ due s (lane s l).tim.huntAt (ticks (ms 1)) = false)))) = true := by decide +kernel

theorem witness_Capability : (
    (let l := 255; let bs := z 16;
      let s : State := { (setPort 7 { Port.reset with st := 4, lanes := 32 } (setLane 255 { Lane.reset with bond := { LaneBond.reset with bonded := true } } (live))) with frames := [(255, 0x01, z 16)] };
      (takeFrame l 0x01 bs s).any (fun u => decide ((bondedLanes u (portOf l)).contains l = true) &&
      decide (4 ≤ (port u (portOf l)).st.toNat))) &&
    (let l := 255; let bs := z 16;
      let s : State := { (setPort 7 { Port.reset with st := 3, lanes := 32 } (setLane 255 { Lane.reset with bond := { LaneBond.reset with bonded := true } } (live))) with frames := [(255, 0x01, z 16)] };
      (takeFrame l 0x01 bs s).any (fun u => decide (((bondedLanes u (portOf l)).contains l = false ∨ (port u (portOf l)).st.toNat < 4)))) &&
    (let s : State := live; let l := 255; let bs := z 16; decide (takeFrame l 0x01 bs s = none)) &&
    (let p := 8; let l := 256;
      let s : State := setPort 8 { Port.reset with st := 4, lanes := 4 } (setLane 256 { Lane.reset with bond := { LaneBond.reset with bonded := true } } (live));
      decide (p < 9) && decide ((bondedLanes s p).head? = some l) &&
      decide ((((port s p).st = 4 ∧ (lane s l).out.msg.isEmpty = true) ∨ (5 ≤ (port s p).st.toNat ∧ ((port s p).cap.sentAt + 1000 ≤ s.tick ∨ capPayload s p ≠ (port s p).cap.sent))))) &&
    (let p := 0; let l := 0;
      let s : State := setPort 0 { Port.reset with st := 5, cap := { Capability.reset with sentAt := 267800 } } (setLane 0 { Lane.reset with bond := { LaneBond.reset with bonded := true } } (live));
      decide (p < 9) && decide ((bondedLanes s p).head? = some l) &&
      decide ((((port s p).st = 4 ∧ (lane s l).out.msg.isEmpty = true) ∨ (5 ≤ (port s p).st.toNat ∧ ((port s p).cap.sentAt + 1000 ≤ s.tick ∨ capPayload s p ≠ (port s p).cap.sent))))) &&
    (let s : State := live; let p := 8; decide (((bondedLanes s p = []) ∨ (port s p).st.toNat < 4))) &&
    (let p := 8;
      let s : State := setPort 8 { Port.reset with st := 4, cap := { Capability.reset with since := some (now live - ticks (ms 10)) } } (live);
      decide (p < 9) && decide ((port s p).st = 4) && decide ((port s p).cap.agreeNow = false) &&
      decide (due s (port s p).cap.since (ticks (ms 10)) = true)) &&
    (let p := 0;
      let s : State := setPort 0 { Port.reset with st := 5, cap := { Capability.reset with heardAt := some (now live - ticks (ms 16)) } } (live);
      decide (p < 9) && decide (5 ≤ (port s p).st.toNat) && decide ((port s p).cap.silent = false) &&
      decide (due s (port s p).cap.heardAt (ticks (ms 16)) = true))) = true := by decide +kernel

theorem witness_GroupEvents : (
    (let l := 255; let w := (5 : Word);
      let s : State := { setReg (0x330010 + 4 * 7) 1 (live) with prot := { (live).prot with inbox := [⟨255, (5 : Word), 0, 0, 0⟩] } };
      (s.prot.inbox.find? (fun m => m.lane = l &&
      m.msg = w)).any (fun m => (let u := { s with prot := { s.prot with inbox := s.prot.inbox.erase m } };
      decide (srOn u (portOf l) = true) &&
      decide ((0xA < (msgReq w).1 ∨ bitsOf w.toNat 2 0 ≠ 0 ∨ group u (bitsOf w.toNat 27 15) = none))))) &&
    (let l := 255; let w := BitVec.ofNat 32 (0xA * 2 ^ 28 + 8191 * 2 ^ 15);
      let s : State := { setReg (0x330010 + 4 * 7) 1 (grp) with prot := { (grp).prot with inbox := [⟨255, BitVec.ofNat 32 (0xA * 2 ^ 28 + 8191 * 2 ^ 15), 0, 0, 0⟩] } };
      (s.prot.inbox.find? (fun m => m.lane = l &&
      m.msg = w)).any (fun m => (let u := { s with prot := { s.prot with inbox := s.prot.inbox.erase m } };
      decide (srOn u (portOf l) = true) && decide ((msgReq w).1 ≤ 0xA) && decide (bitsOf w.toNat 2 0 = 0) &&
      (group u (bitsOf w.toNat 27 15)).any (fun x => true)))) &&
    (let l := 255; let w := BitVec.ofNat 32 (8191 * 2 ^ 15);
      let s : State := { setReg (0x330010 + 4 * 7) 1 grp with prot := { grp.prot with inbox := [⟨255, BitVec.ofNat 32 (8191 * 2 ^ 15), 0, 0, 0⟩] } };
      (s.prot.inbox.find? (fun m => m.lane = l &&
      m.msg = w)).any (fun m => (let u := { s with prot := { s.prot with inbox := s.prot.inbox.erase m } };
      decide (srOn u (portOf l) = true) && decide ((msgReq w).1 ≤ 0xA) && decide (bitsOf w.toNat 2 0 = 0) &&
      (group u (bitsOf w.toNat 27 15)).any (fun x => true)))) &&
    (let l := 255; let w := (5 : Word);
      let s : State := { live with prot := { live.prot with inbox := [⟨255, 5, 0, 0, 0⟩], portCfg := [(7, 0)] } };
      (s.prot.inbox.find? (fun m => m.lane = l &&
      m.msg = w)).any (fun m => decide (srOn s (portOf l) = false))) &&
    (let g := 8191; let s : State := setGroup 8191 { grp0 with wtr := some (0, live.tick) } live;
      (group s g).any (fun x => (x.wtr).any (fun e => decide (e.2 ≤ s.tick)))) &&
    (let g := 8191; let s : State := setGroup 8191 { grp0 with exer := [(0, live.tick - ms 100)] } live;
      (group s g).any (fun x => (!(x.exer.filter (fun e => decide (e.2 + ms 100 ≤ s.tick))).isEmpty) &&
      (true))) &&
    (let c := Instr.channelTimeout 8191; let g := 8191; let cause := 2;
      let s : State := { setGroup 8191 { grp0 with dfn := { headDef with sr := some (0, 7) }, heardAt := 0 } live with tick := 100000000 };
      (group s g).any (fun x => ((match c with | .channelTimeout _ => decide (x.heardAt + chTimeout s 7 ≤ s.tick) && x.dfn.srLane == some 7 && cause == 2 | .noResponseTimeout _ => (x.waitBr.any fun a => decide (a + ms 50 ≤ s.tick)) && cause == 4 | _ => false)) &&
      decide (x.chCause = 0))) &&
    (let c := Instr.noResponseTimeout 8191; let g := 8191; let cause := 4;
      let s : State := setGroup 8191 { grp0 with waitBr := some (live.tick - ms 50), chCause := 1 } live;
      (group s g).any (fun x => ((match c with | .channelTimeout _ => decide (x.heardAt + chTimeout s 7 ≤ s.tick) && x.dfn.srLane == some 7 && cause == 2 | .noResponseTimeout _ => (x.waitBr.any fun a => decide (a + ms 50 ≤ s.tick)) && cause == 4 | _ => false)) &&
      decide (x.chCause ≠ 0))) &&
    (let g := 8191; let s : State := setGroup 8191 { grp0 with bothAt := some (live.tick - 5) } live;
      (group s g).any (fun x => (x.bothAt).any (fun a => (x.dfn.restore).any (fun n => decide (x.restored = false) &&
      decide (a + x.dfn.restoreHold ≤ s.tick) && (let u := setGroup g { x with restored := true } s;
      true)))))) = true := by decide +kernel

theorem witness_ActiveLineRises : (
    (let c := Instr.claim;
      let s : State := onSsw (fun x => { x with actOut := false, claimEn := true, guardAt := some 0 }) { live with mgmt := Mgmt.reset };
      (toNext (exec c s)).any (fun t => decide (s.ssw.actOut = false) && decide (t.ssw.actOut = true)))) = true := by decide +kernel

theorem witness_Interlock : (
    (let s : State := onSsw (fun x => { x with actIn := true }) live; decide (s.ssw.actIn = true)) &&
    (let s : State := onSsw (fun x => { x with actIn := true, role := 2 }) live;
      decide (s.ssw.actIn = true) && decide (s.ssw.role = 2) && decide (s.ssw.claimEn = false)) &&
    (let s : State := onSsw (fun x => { x with actOut := false, claimEn := true, guardAt := some (now live - ticks 2) }) live;
      decide (s.ssw.actOut = false) && decide (s.ssw.actIn = false) && decide (s.ssw.claimEn = true) &&
      decide (due s s.ssw.guardAt (ticks (if s.ssw.side then 6 else 2)) = true)) &&
    (let s : State := onSsw (fun x => { x with actOut := false, claimEn := true, side := true, guardAt := some (now live - ticks 6) }) live;
      decide (s.ssw.actOut = false) && decide (s.ssw.actIn = false) && decide (s.ssw.claimEn = true) &&
      decide (due s s.ssw.guardAt (ticks (if s.ssw.side then 6 else 2)) = true)) &&
    (let s : State := onSsw (fun x => { x with side := true }) live; decide (s.ssw.actOut = true) &&
      decide (s.ssw.side = true)) &&
    (let s : State := live; decide (s.ssw.actOut = true) && decide (s.ssw.side = false)) &&
    (let s : State := onSsw (fun x => { x with actOut := false }) live; decide (s.ssw.actOut = false) &&
      decide (s.ssw.role ≠ 0)) &&
    (let s : State := onSsw (fun x => { x with holdAt := some (ticks 1) }) { live with tick := 1000001 };
      decide (due s s.ssw.holdAt (ticks (ms 1000)) = true)) &&
    (let s : State := onSsw (fun x => { x with actOut := false, giveUp := true }) live;
      decide (s.ssw.giveUp = true) && decide (anyService s = false) && decide (s.ssw.actOut = false)) &&
    (let s : State := onSsw (fun x => { x with actOut := false, role := 0 }) live;
      decide (s.ssw.actOut = false) && decide (s.ssw.role = 0)) &&
    (let s : State := live;
      decide ((s.ssw.actOut = true ∨ s.ssw.actIn = true ∨ s.ssw.claimEn = false ∨ due s s.ssw.guardAt (ticks (if s.ssw.side then 6 else 2)) = false))) &&
    (let s : State := onSsw (fun x => { x with actOut := false, claimEn := true, guardAt := some (now live) }) live;
      decide ((s.ssw.actOut = true ∨ s.ssw.actIn = true ∨ s.ssw.claimEn = false ∨ due s s.ssw.guardAt (ticks (if s.ssw.side then 6 else 2)) = false))) &&
    (let s : State := onSsw (fun x => { x with actIn := false }) live; decide (s.ssw.actIn = false)) &&
    (let s : State := live; decide (due s s.ssw.holdAt (ticks (ms 1000)) = false)) &&
    (let s : State := live; decide ((s.ssw.giveUp = false ∨ anyService s = true ∨ s.ssw.actOut = true)))) = true := by decide +kernel

theorem witness_Heartbeats : (
    (let b := z 22; let s : State := { (live) with frames := [(259, 0x03, z 22)] };
      (pxFrame 0x03 b s).any (fun (l, u) => decide (22 ≤ b.length))) &&
    (let s : State := live; let b := z 22; decide (pxFrame 0x03 b s = none)) &&
    (let b := z 21; let s : State := { (live) with frames := [(259, 0x03, z 21)] };
      (pxFrame 0x03 b s).any (fun (l, u) => decide (b.length < 22))) &&
    (let s : State := { live with pwr := { live.pwr with vin := false } };
      decide ((s.pwr.por = true ∨ s.pwr.vin = false))) &&
    (let s : State := live;
      decide ((s.mgmt.up = 0 ∨ s.mgmt.restartAt.isSome = true ∨ s.mgmt.halted = true ∨ pxLinked s = false ∨ (s.ssw.sent ≠ 0 ∧ now s < s.ssw.sentAt + hbPeriod s)))) &&
    (let s : State := live; decide ((s.ssw.pxOk = false ∨ due s s.ssw.pxAt (hbSpan s) = false))) &&
    (let s : State := onSsw (fun x => { x with wireOk := true, wireAt := some (now live) }) live;
      decide ((s.ssw.wireOk = false ∨ due s s.ssw.wireAt (hbSpan s) = false))) &&
    (let s : State := live; decide (s.pwr.por = false) && decide (s.pwr.vin = true)) &&
    (let s : State := setPort 8 { Port.reset with st := 7 } (live); decide (s.mgmt.up ≠ 0) &&
      decide (s.mgmt.restartAt = none) && decide (s.mgmt.halted = false) && decide (pxLinked s = true) &&
      decide ((s.ssw.sent = 0 ∨ s.ssw.sentAt + hbPeriod s ≤ now s))) &&
    (let s : State := onSsw (fun x => { x with pxOk := true, pxAt := some (now live - hbSpan live) }) live;
      decide (s.ssw.pxOk = true) && decide (due s s.ssw.pxAt (hbSpan s) = true)) &&
    (let s : State := onSsw (fun x => { x with wireOk := true, wireAt := some (now live - hbSpan live) }) live;
      decide (s.ssw.wireOk = true) && decide (due s s.ssw.wireAt (hbSpan s) = true)) &&
    (let s : State := setReg 0x40004 (cfg live 0x40004 ||| 0x20000000) (onSsw (fun x => { x with actOut := false, role := 2, actIn := true, silentAt := some (ticks 20000000 - ticks (ms (fld live 0x40004 15 0))), rstAt := some (ticks 10000000) }) { live with tick := 20000000 });
      decide (s.ssw.actOut = false) && decide (s.ssw.role = 2) && decide (flg s 0x40004 29 = true) &&
      decide (s.ssw.actIn = true) && decide (s.ssw.peerRst = false) &&
      (s.ssw.rstAt.all fun a => decide (a + ticks (ms 10000) ≤ now s)) &&
      decide (due s s.ssw.silentAt (ticks (ms (fld s 0x40004 15 0))) = true)) &&
    (let s : State := live;
      decide ((s.ssw.actOut = true ∨ s.ssw.role ≠ 2 ∨ flg s 0x40004 29 = false ∨ s.ssw.actIn = false ∨ s.ssw.peerRst = true ∨ (∃ a, s.ssw.rstAt = some a ∧ now s < a + ticks (ms 10000)) ∨ due s s.ssw.silentAt (ticks (ms (fld s 0x40004 15 0))) = false))) &&
    (let s : State := onSsw (fun x => { x with actOut := false, role := 2 }) live;
      decide ((s.ssw.actOut = true ∨ s.ssw.role ≠ 2 ∨ flg s 0x40004 29 = false ∨ s.ssw.actIn = false ∨ s.ssw.peerRst = true ∨ (∃ a, s.ssw.rstAt = some a ∧ now s < a + ticks (ms 10000)) ∨ due s s.ssw.silentAt (ticks (ms (fld s 0x40004 15 0))) = false))) &&
    (let s : State := onSsw (fun x => { x with peerRst := true, rstAt := some (now live - ticks (ms 10)) }) live;
      decide (s.ssw.peerRst = true) && decide (due s s.ssw.rstAt (ticks (ms 10)) = true)) &&
    (let s : State := live; decide ((s.ssw.peerRst = false ∨ due s s.ssw.rstAt (ticks (ms 10)) = false)))) = true := by decide +kernel

theorem witness_StateCopy : (
    (let b := z 28;
      let s : State := { (onCopy (fun c => { c with st := 3, pos := 0 }) (live)) with frames := [(259, 0x41, z 28)] };
      decide (mgmtRuns s = true) && (pxFrame 0x41 b s).any (fun (l, u) => decide (28 ≤ b.length) &&
      decide ((u.copy.st = 2 ∨ u.copy.st = 3)) && decide (u.copy.ackPos ≤ beAt b 8 8) &&
      decide (beAt b 8 8 ≤ u.copy.pos) &&
      (let v := { u with copy := { u.copy with ackSeq := max u.copy.ackSeq (beAt b 0 8), out := u.copy.out.drop (beAt b 8 8 - u.copy.ackPos), ackPos := beAt b 8 8, sendFrom := max u.copy.sendFrom (beAt b 8 8) } };
      true))) &&
    (let b := z 8;
      let s : State := { (onCopy (fun c => { c with st := 2 }) (live)) with frames := [(256, 0x42, z 8)] };
      decide (mgmtRuns s = true) && (pxFrame 0x42 b s).any (fun (l, u) => decide (8 ≤ b.length) &&
      decide ((u.copy.st = 2 ∨ u.copy.st = 3)) && decide (beAt b 0 8 ≤ u.copy.pos) &&
      decide (u.copy.ackPos ≤ beAt b 0 8))) &&
    (let b := beBytes 8 70;
      let s : State := { (onCopy (fun c => { c with st := 3, pos := 70 }) (live)) with frames := [(256, 0x42, (beBytes 8 70))] };
      decide (mgmtRuns s = true) && (pxFrame 0x42 b s).any (fun (l, u) => decide (8 ≤ b.length) &&
      decide ((u.copy.st = 2 ∨ u.copy.st = 3)) && decide (beAt b 0 8 ≤ u.copy.pos))) &&
    (let b := z 8;
      let s : State := { (onCopy (fun c => { c with st := 3, pos := 70, ackPos := 5 }) (live)) with frames := [(256, 0x42, z 8)] };
      decide (mgmtRuns s = true) && (pxFrame 0x42 b s).any (fun (l, u) => decide (8 ≤ b.length) &&
      decide ((u.copy.st = 2 ∨ u.copy.st = 3)) && decide (beAt b 0 8 ≤ u.copy.pos) &&
      decide (beAt b 0 8 < u.copy.ackPos))) &&
    (let b := z 8;
      let s : State := { (setReg 0x80004 5 (setKeySlot 5 { keySlot live 5 with user := 3 } (onSsw (fun x => { x with actOut := false, role := 2 }) (setPort 8 { Port.reset with st := 7 } (live))))) with frames := [(256, 0x40, z 8)] };
      decide (mgmtRuns s = true) && (pxFrame 0x40 b s).any (fun (l, u) => decide (u.ssw.actOut = false) &&
      decide (pxLinked u = true) && decide (copyKeyOk u = true) && decide (8 ≤ b.length) &&
      decide (b.length ≤ 240))) &&
    (let b := z 240;
      let s : State := { (setReg 0x80004 5 (setKeySlot 5 { keySlot live 5 with user := 3 } (onSsw (fun x => { x with actOut := false, role := 2 }) (setPort 8 { Port.reset with st := 7 } (live))))) with frames := [(256, 0x40, z 240)] };
      decide (mgmtRuns s = true) && (pxFrame 0x40 b s).any (fun (l, u) => decide (u.ssw.actOut = false) &&
      decide (pxLinked u = true) && decide (copyKeyOk u = true) && decide (8 ≤ b.length) &&
      decide (b.length ≤ 240))) &&
    (let s : State := onCopy (fun c => { c with gapAt := some (live.tick - 16) }) (onSsw (fun x => { x with actOut := false, role := 2 }) (setPort 8 { Port.reset with st := 7 } (live)));
      (s.copy.gapAt).any (fun a => decide (a + 16 ≤ s.tick) && decide (mgmtRuns s = true) &&
      decide (s.ssw.actOut = false) && decide (pxLinked s = true))) &&
    (let s : State := onCopy (fun c => { c with st := 4, ackAt := live.tick - 100 }) (onSsw (fun x => { x with actOut := false, role := 2 }) (setPort 8 { Port.reset with st := 7 } (live)));
      decide (s.ssw.actOut = false) && decide (mgmtRuns s = true) && decide (pxLinked s = true) &&
      decide ((s.copy.st = 4 ∨ s.copy.st = 5)) && decide (s.copy.ackAt + 100 ≤ s.tick)) &&
    (let b := z 27; let s : State := { (live) with frames := [(259, 0x41, z 27)] };
      decide (mgmtRuns s = true) &&
      (pxFrame 0x41 b s).any (fun (l, u) => decide ((b.length < 28 ∨ (u.copy.st ≠ 2 ∧ u.copy.st ≠ 3) ∨ beAt b 8 8 < u.copy.ackPos ∨ u.copy.pos < beAt b 8 8)))) &&
    (let b := z 28;
      let s : State := { ({ live with copy := { live.copy with st := 2, ackPos := 1, pos := 1 } }) with frames := [(259, 0x41, z 28)] };
      decide (mgmtRuns s = true) &&
      (pxFrame 0x41 b s).any (fun (l, u) => decide ((b.length < 28 ∨ (u.copy.st ≠ 2 ∧ u.copy.st ≠ 3) ∨ beAt b 8 8 < u.copy.ackPos ∨ u.copy.pos < beAt b 8 8)))) &&
    (let b := z 7; let s : State := { (live) with frames := [(259, 0x42, z 7)] };
      decide (mgmtRuns s = true) &&
      (pxFrame 0x42 b s).any (fun (l, u) => decide ((b.length < 8 ∨ (u.copy.st ≠ 2 ∧ u.copy.st ≠ 3) ∨ u.copy.pos < beAt b 0 8)))) &&
    (let b := beBytes 8 1;
      let s : State := { ({ live with copy := { live.copy with st := 3 } }) with frames := [(259, 0x42, beBytes 8 1)] };
      decide (mgmtRuns s = true) &&
      (pxFrame 0x42 b s).any (fun (l, u) => decide ((b.length < 8 ∨ (u.copy.st ≠ 2 ∧ u.copy.st ≠ 3) ∨ u.copy.pos < beAt b 0 8)))) &&
    (let b := z 241; let s : State := { (live) with frames := [(259, 0x40, z 241)] };
      decide (mgmtRuns s = true) &&
      (pxFrame 0x40 b s).any (fun (l, u) => decide ((u.ssw.actOut = true ∨ pxLinked u = false ∨ copyKeyOk u = false ∨ b.length < 8 ∨ 240 < b.length)))) &&
    (let s : State := live; let b := z 28; decide ((mgmtRuns s = false ∨ pxFrame 0x41 b s = none))) &&
    (let s : State := live; let b := z 28; decide ((mgmtRuns s = false ∨ pxFrame 0x42 b s = none))) &&
    (let s : State := live; let b := z 28; decide ((mgmtRuns s = false ∨ pxFrame 0x40 b s = none))) &&
    (let s : State := live; ((s.copy.gapAt.isNone || s.ssw.actOut))) &&
    (let s : State := live;
      decide ((s.ssw.actOut = true ∨ mgmtRuns s = false ∨ pxLinked s = false ∨ (s.copy.st ≠ 4 ∧ s.copy.st ≠ 5) ∨ s.tick < s.copy.ackAt + 100)))) = true := by decide +kernel

theorem witness_PageEvents : (
    (let s : State := onPage (fun p => { p with standby := .armed, armed := some ⟨.batch 255 0 none false, some 268801, 0, 0, [], none⟩ }) live;
      decide (s.page.standby = .armed) && (s.page.armed).any (fun a => (a.swap).any (fun x => true))) &&
    (let s : State := onPage (fun p => { p with standby := .committed, armed := some ⟨.batch 255 0 none false, some live.tick, 0, 0, [], none⟩ }) live;
      decide (s.page.standby = .committed) &&
      (s.page.armed).any (fun a => (a.swap).any (fun x => decide (x ≤ s.tick) &&
      decide (s.page.lastSwap ≠ x)))) &&
    (let s : State := onPage (fun p => { p with standby := .resync, since := now live - 2048 }) live;
      decide (s.page.standby = .resync) && decide (s.page.since + 2048 ≤ now s) && (let u := resyncEcc s;
      true)) &&
    (let t := 0; let f := (none : Option (Nat × BitVec 8)); let st := false; let q := 255;
      let s : State := onPage (fun p => { p with standby := .building, holder := some (.batch 255 0 none false) }) live;
      decide (s.page.standby = .building) && decide (s.abacus.job ≠ 2) && decide (abacusUp s = true) &&
      decide (s.page.holder = some (.batch q t f st))) &&
    (let r := [0];
      let s : State := onPage (fun p => { p with standby := .building, holder := some (.rebind [0]) }) live;
      decide (s.page.standby = .building) && decide (s.abacus.job ≠ 2) && decide (abacusUp s = true) &&
      decide (s.page.holder = some (.rebind r))) &&
    (let k := 2047;
      let s : State := onPage (fun p => { p with standby := .building, holder := some (.vacate 2047) }) live;
      decide (s.page.standby = .building) && decide (s.abacus.job ≠ 2) && decide (abacusUp s = true) &&
      decide (s.page.holder = some (.vacate k))) &&
    (let g := 8191; let n := 1;
      let s : State := onPage (fun p => { p with standby := .building, holder := some (.groupBridge 8191 1) }) live;
      decide (s.page.standby = .building) && decide (s.abacus.job ≠ 2) && decide (abacusUp s = true) &&
      decide (s.page.holder = some (.groupBridge g n))) &&
    (let s : State := onPage (fun p => { p with standby := .building, holder := some (.first) }) live;
      decide (s.page.standby = .building) && decide (s.abacus.job ≠ 2) && decide (abacusUp s = true) &&
      decide (s.page.holder = some .first)) &&
    (let c := (some [] : Option (List (Nat × Nat)));
      let s : State := onAbacus (fun a => { a with job := 2 }) (onPage (fun p => { p with standby := .building, holder := some (.repack 255) }) live);
      decide (s.page.standby = .building) && decide (s.abacus.job = 2) && decide (abacusUp s = true) &&
      (let v := rebindEnv s s.page.rebinds; (let u := { s with free := s.free + 1 };
      (match s.page.holder with | some (.repack q) => (true) | _ => false)))) &&
    (let t := 0; let f := (none : Option (Nat × BitVec 8)); let st := false;
      let c := (some [] : Option (List (Nat × Nat)));
      let s : State := onAbacus (fun a => { a with job := 2 }) (onPage (fun p => { p with standby := .building, holder := some (.batch 255 0 none false) }) live);
      decide (s.page.standby = .building) && decide (s.abacus.job = 2) && decide (abacusUp s = true) &&
      (let v := rebindEnv s s.page.rebinds; (let u := { s with free := s.free + 1 };
      (match s.page.holder with | some (.batch q t f st) => ((let cmds := ((batchOf s q).map (·.cmds)).getD []; true)) | _ => false)))) &&
    (let k := 2047; let c := (some [] : Option (List (Nat × Nat)));
      let s : State := onAbacus (fun a => { a with job := 2 }) (onPage (fun p => { p with standby := .building, holder := some (.vacate 2047) }) live);
      decide (s.page.standby = .building) && decide (s.abacus.job = 2) && decide (abacusUp s = true) &&
      (let v := rebindEnv s s.page.rebinds; (let u := { s with free := s.free + 1 };
      decide (s.page.holder = some (.vacate k))))) &&
    (let n := 63;
      let s : State := setScen 63 { Scenario.empty with st := 1, modes := [(7, 2)] } (setPort 7 { Port.reset with bind := { Binding.reset with bound := true } } live);
      decide ((scen s n).st = 1) && decide (staleCause (scen s n) s ≠ 0)) &&
    (let n := 63;
      let s : State := setScen 63 { Scenario.empty with st := 5 } (onAbacus (fun a => { a with rebuilding := some 63 }) live);
      decide (s.abacus.rebuilding = some n) && decide ((scen s n).st = 5) && decide (abacusUp s = true)) &&
    (let s : State := live; let n := 63;
      decide ((s.abacus.rebuilding ≠ some n ∨ (scen s n).st ≠ 5 ∨ abacusUp s = false))) &&
    (let s : State := live; let n := 63; decide (((scen s n).st ≠ 1 ∨ staleCause (scen s n) s = 0))) &&
    (let s : State := live; decide ((s.page.standby ≠ .building ∨ abacusUp s = false))) &&
    (let s : State := live; decide (s.page.standby ≠ .saving)) &&
    (let s : State := live; decide (s.page.standby ≠ .loading)) &&
    (let s : State := live; decide (s.page.standby ≠ .armed)) &&
    (let s : State := live; decide (s.page.standby ≠ .committed)) &&
    (let s : State := live; decide ((s.page.standby ≠ .resync ∨ now s < s.page.since + 2048))) &&
    (let s : State := { live with page := { live.page with standby := .resync, since := now live - 2047 } };
      decide ((s.page.standby ≠ .resync ∨ now s < s.page.since + 2048))) &&
    (let n := 63; let auto := false; let name := ([] : Bytes);
      let s : State := onPage (fun p => { p with standby := .saving, holder := some (.save 255 63 false false []) }) live;
      let q := 255; decide (s.page.standby = .saving) &&
      decide (s.page.holder = some (.save q n auto false name))) &&
    (let n := 63; let auto := false; let name := ([] : Bytes);
      let s : State := onPage (fun p => { p with standby := .saving, holder := some (.save 255 63 false true []) }) live;
      let q := 255; decide (s.page.standby = .saving) &&
      decide (s.page.holder = some (.save q n auto true name))) &&
    (let n := 63; let x := 0; let st := false;
      let s : State := setScen 63 { Scenario.empty with crc := 1 } (onPage (fun p => { p with standby := .loading, holder := some (.hostLoad 255 63 0 false) }) live);
      let q := 255; decide (s.page.standby = .loading) &&
      decide (s.page.holder = some (.hostLoad q n x st)) && decide (loadCause (scen s n) s ≠ 0)) &&
    (let n := 63; let x := 0; let st := true;
      let s : State := setScen 63 { Scenario.empty with crc := pageCrc PageSet.empty } (onPage (fun p => { p with standby := .loading, holder := some (.hostLoad 255 63 0 true) }) live);
      let q := 255; decide (s.page.standby = .loading) &&
      decide (s.page.holder = some (.hostLoad q n x st)) && decide (loadCause (scen s n) s = 0) &&
      decide (st = true)) &&
    (let n := 63; let x := 0; let st := false;
      let s : State := setScen 63 { Scenario.empty with crc := pageCrc PageSet.empty } (onPage (fun p => { p with standby := .loading, holder := some (.hostLoad 255 63 0 false) }) live);
      let q := 255; decide (s.page.standby = .loading) &&
      decide (s.page.holder = some (.hostLoad q n x st)) && decide (loadCause (scen s n) s = 0) &&
      decide (st = false)) &&
    (let g := 8191; let n := 63;
      let s : State := setScen 63 { Scenario.empty with crc := 1 } (onPage (fun p => { p with standby := .loading, holder := some (.groupLoad 8191 63) }) live);
      decide (s.page.standby = .loading) && decide (s.page.holder = some (.groupLoad g n)) &&
      decide (loadCause (scen s n) s ≠ 0)) &&
    (let g := 8191; let n := 63;
      let s : State := setScen 63 { Scenario.empty with crc := pageCrc PageSet.empty } (onPage (fun p => { p with standby := .loading, holder := some (.groupLoad 8191 63) }) live);
      decide (s.page.standby = .loading) && decide (s.page.holder = some (.groupLoad g n)) &&
      decide (loadCause (scen s n) s = 0))) = true := by decide +kernel

theorem witness_MonitoringEvents : (
    (let c := 1; let n := 259; let d := 5;
      let s : State := setHist 259 { Hist.reset with defects := 0x20, belowSf := 65535 } live;
      decide (1 ≤ c) && decide (c ≤ 3) && decide ((hist s (objOf c n)).defects.getLsbD d = true) &&
      decide (clears s c n d (hist s (objOf c n)) = true)) &&
    (let c := 3; let n := 65535; let d := 1;
      let s : State := setHist 66535 { Hist.reset with defects := 2, csRun := 65535 } live; decide (1 ≤ c) &&
      decide (c ≤ 3) && decide ((hist s (objOf c n)).defects.getLsbD d = true) &&
      decide (clears s c n d (hist s (objOf c n)) = true)) &&
    (let s : State := { live with timing := { live.timing with todValid := true, sec := 0 }, pm := { live.pm with running := true, todChange := true } };
      decide (s.timing.todValid = true) && decide ((s.timing.sec ≠ s.pm.lastSec ∨ s.pm.todChange = true)) &&
      decide (s.pm.running = true)) &&
    (let s : State := { live with timing := { live.timing with todValid := true, sec := 1 }, pm := { live.pm with running := false, todChange := false } };
      decide (s.timing.todValid = true) && decide (s.timing.sec ≠ s.pm.lastSec) &&
      decide (s.pm.running = false)) &&
    (let p := 8;
      let s : State := { live with pm := { live.pm with running := true, second := 1, ticks := 3 } };
      decide (s.pm.running = true) && decide ((halves s p).given < s.pm.second) &&
      decide ((3 ≤ s.pm.ticks ∨ s.pm.second ≠ (halves s p).given + 1))) &&
    (let p := 8; let s : State := setHalves 8 { Halves.reset with out := [1] } live;
      decide (mgmtRuns s = true) && ((halves s p).out).head?.any (fun n => true)) &&
    (let p := 8; let s : State := { live with pm := { live.pm with running := true, second := 2 } };
      decide (s.pm.running = true) && decide ((halves s p).lost = false) && decide (2 ≤ s.pm.second) &&
      decide (((halves s p).out.contains (s.pm.second - 2) = true ∨ (halves s p).given + 1 < s.pm.second))) &&
    (let s : State := { live with timing := { live.timing with todValid := true, sec := 0 }, pm := { live.pm with running := false, todChange := true } };
      decide (s.timing.todValid = true) && decide (s.timing.sec = s.pm.lastSec) &&
      decide (s.pm.todChange = true) && decide (s.pm.running = false)) &&
    (let s : State := { live with timing := { live.timing with todValid := true, sec := 0 }, pm := { live.pm with running := true, todChange := false } };
      decide ((s.timing.todValid = false ∨ (s.timing.sec = s.pm.lastSec ∧ s.pm.todChange = false)))) &&
    (let s : State := live; let c := 2; let n := 7; let d := 2;
      decide (((hist s (objOf c n)).defects.getLsbD d = false ∨ clears s c n d (hist s (objOf c n)) = false))) &&
    (let s : State := live; let p := 7; decide ((s.pm.running = false ∨ s.pm.second ≤ (halves s p).given))) &&
    (let s : State := live; let p := 7; decide ((mgmtRuns s = false ∨ (halves s p).out = []))) &&
    (let p := 7; let s : State := { live with pm := { live.pm with running := true, second := 1 } };
      decide ((s.pm.running = false ∨ (halves s p).lost = true ∨ s.pm.second < 2)))) = true := by decide +kernel

theorem witness_TimeOfDay : (
    (let s : State := { (live) with timing := { (live).timing with todDone := [255] } };
      (s.timing.todDone).head?.any (fun q => true)) &&
    (let s : State := { (live) with timing := { (live).timing with todAsk := [.set 255 268801 5 0] } };
      (let u := timingEdge (countTick s); (let x := todAt (s.tick + 1) s.timing.todAsk (todNs s.timing);
      true))) &&
    (let b := z 18;
      let s : State := { ({ (setLane 256 { Lane.reset with bond := { LaneBond.reset with row0 := some (5, 2048) } } (onSsw (fun x => { x with actOut := false, role := 2 }) (live))) with timing := { (setLane 256 { Lane.reset with bond := { LaneBond.reset with row0 := some (5, 2048) } } (onSsw (fun x => { x with actOut := false, role := 2 }) (live))).timing with selected := some 12, mode := 2 } }) with frames := [(256, 0x02, z 18)] };
      (pxFrame 0x02 b s).any (fun (l, u) => ((lane u l).bond.row0).any (fun (q, m) => decide (u.ssw.actOut = false) &&
      decide ((u.timing.selected = some 12 ∨ u.timing.selected = some 13)) && decide (u.timing.mode = 2) &&
      (let x := (beAt b 0 6 : Int) * 1000000000 + beAt b 6 4 + 1000 * ((u.tick : Int) + 1 - (((m + 1024) / 2048 : Nat) + (BitVec.ofNat 32 (beAt b 10 8) - q).toInt));
      true)))) &&
    (let b := z 16; let s : State := { (live) with frames := [(259, 0x02, z 16)] };
      (pxFrame 0x02 b s).any (fun (l, u) => decide ((u.ssw.actOut = true ∨ u.timing.mode ≠ 2 ∨ (u.timing.selected ≠ some 12 ∧ u.timing.selected ≠ some 13))))) &&
    (let s : State := setPort 8 { Port.reset with st := 7 } (setLane 256 { Lane.reset with bond := { LaneBond.reset with bonded := true } } { live with tick := 1000000 });
      ([256, 257, 258, 259].find? (fun l => (lane s l).bond.bonded)).any (fun l => decide ((port s 8).st = 7) &&
      decide (s.ssw.actOut = true) && decide (s.timing.todSentAt + 1000000 ≤ s.tick))) &&
    (let s : State := { (live) with timing := { (live).timing with evalAt := 267800 } };
      decide (s.mgmt.up ≠ 0) && decide (s.mgmt.restartAt = none) &&
      decide ((s.timing.evalAt + 1000 ≤ s.tick ∨ s.timing.urgent = true)) &&
      (let v := takeConfig { s with timing := { s.timing with evalAt := s.tick } };
      (let u := turnAuto (decide (reqMode s ≠ 0 ∧ reqMode v = 0)) (forAll (List.range 14) judgeWander v);
      true)))) = true := by decide +kernel

theorem witness_TimingEvents : (
    (let n := 13; let x := (100 : Int);
      let s : State := setRef 13 { Ref.reset with active := false } ({ (live) with timing := { (live).timing with inForce := [(197072, 0x80000004)] } });
      decide (refOn s n = true) && decide (8 ≤ n) && decide (n ≠ 12)) &&
    (let n := 13;
      let s : State := setReg (0x30110 + 16 * 13) 0x80000000 (setRef 13 { Ref.reset with active := true, qualified := true } { live with timing := { live.timing with selected := some 13, inForce := [(197072, 0x80000004)] } });
      decide (refOn s n = true) && decide ((ref s n).active = true) && decide (activityFails s n = true) &&
      decide (s.timing.selected = some n) && decide ((ref s n).qualified = true)) &&
    (let n := 13; let m := 12;
      let s : State := setRef 13 { Ref.reset with active := true } ({ (live) with timing := { (live).timing with inForce := [(197072, 0x80000004)] } });
      decide (refOn s n = true) && decide ((ref s n).active = true) && decide (activityFails s n = true) &&
      decide (m ≠ n)) &&
    (let n := 13; let a := 5;
      let s : State := setRef 13 { Ref.reset with active := true, freqOk := true, wanderOk := true, wtrAt := some 5 } ({ ({ live with tick := 1000005 }) with timing := { ({ live with tick := 1000005 }).timing with inForce := [(197072, 0x80000004)] } });
      (decide ((ref s n).wtrAt = some a)) && decide (refPasses s n = true) && decide (refWtr s n ≠ 0) &&
      decide (a + 1000000 * refWtr s n ≤ s.tick)) &&
    (let n := 13; let f := (5 : Int);
      let s : State := setRef 13 { Ref.reset with active := true } ({ ({ live with tick := 1000000 }) with timing := { ({ live with tick := 1000000 }).timing with inForce := [(197072, 0x80000004)] } });
      decide (refOn s n = true) && decide ((ref s n).active = true) &&
      decide ((ref s n).winAt + (if 8 ≤ n ∧ n < 12 ∧ refFreqCode s n = 0 then 10000000 else 1000000) ≤ s.tick)) &&
    (let n := 8; let f := (5 : Int);
      let s : State := setRef 8 { Ref.reset with active := true } ({ ({ live with tick := 10000000 }) with timing := { ({ live with tick := 10000000 }).timing with inForce := [(196992, 0x80000004)] } });
      decide (refOn s n = true) && decide ((ref s n).active = true) &&
      decide ((ref s n).winAt + (if 8 ≤ n ∧ n < 12 ∧ refFreqCode s n = 0 then 10000000 else 1000000) ≤ s.tick)) &&
    (let s : State := { ({ live with tick := 1000005 }) with timing := { ({ live with tick := 1000005 }).timing with mode := 1, lockAt := some 5 } };
      (s.timing.lockAt).any (fun a => decide (s.timing.mode = 1) && decide (a + 1000000 ≤ s.tick))) &&
    (let s : State := { (live) with timing := { (live).timing with mode := 4, inForce := [(0x30018, 1)], softAt := live.tick - ms 1 } };
      decide (s.timing.mode = 4) && decide (bitsOf (tcfg s 0x18) 14 0 ≠ 0) &&
      decide (s.timing.softAt + ms (bitsOf (tcfg s 0x18) 14 0) ≤ s.tick) && (let u := setMode 3 s; true)) &&
    (let b := (z 64 : Bytes);
      let s : State := { (live) with timing := { (live).timing with learned := 3600000000 } };
      decide (3600000000 ≤ s.timing.learned)) &&
    (let s : State := live; let b := z 64; decide (s.timing.learned < 3600000000)) &&
    (let s : State := { live with timing := { live.timing with gathered := 299999999 } };
      decide (s.timing.gathered < 300000000)) &&
    (let s : State := live; let n := 7; let x := 0; decide ((refOn s n = false ∨ n < 8 ∨ n = 12))) &&
    (let s : State := { live with timing := { live.timing with mode := 0 } }; decide (s.timing.mode ≠ 4)) &&
    (let s : State := { live with timing := { live.timing with mode := 0 } }; decide (s.timing.mode ≠ 3)) &&
    (let s : State := { live with timing := { live.timing with mode := 0 } }; decide (s.timing.mode ≠ 1)) &&
    (let s : State := { (live) with timing := { (live).timing with gathered := 300000000 } };
      decide (300000000 ≤ s.timing.gathered)) &&
    (let s : State := { ({ live with tick := 1000005 }) with timing := { ({ live with tick := 1000005 }).timing with mode := 3, holdAt := some 5, inForce := [(0x30014, 1)] } };
      (s.timing.holdAt).any (fun a => decide (s.timing.mode = 3) &&
      decide (a + 1000000 * bitsOf (tcfg s 0x14) 19 0 ≤ s.tick))) &&
    (let s : State := live; decide (s.pwr.on.getLsbD 1 = true)) &&
    (let n := 13; let f := (5 : Int);
      let s : State := { (setRef 13 { Ref.reset with active := true, wanderOk := true } ({ ({ live with tick := 1000000 }) with timing := { ({ live with tick := 1000000 }).timing with inForce := [(197072, 0x80000004)] } })) with timing := { (setRef 13 { Ref.reset with active := true, wanderOk := true } ({ ({ live with tick := 1000000 }) with timing := { ({ live with tick := 1000000 }).timing with inForce := [(197072, 0x80000004)] } })).timing with inForce := [(0x30100 + 16 * 13, 0x80000000)] } };
      decide (refOn s n = true) && decide ((ref s n).active = true) &&
      decide ((ref s n).qualified = false) && decide (refWtr s n = 0) &&
      decide ((ref s n).wanderOk = true) &&
      decide ((ref s n).winAt + (if 8 ≤ n ∧ n < 12 ∧ refFreqCode s n = 0 then 10000000 else 1000000) ≤ s.tick) &&
      decide ((sat32 f).natAbs ≤ (qualLimits s).2) && (let r := (ref s n).wtrAt; true))) = true := by decide +kernel

theorem witness_ManagementEvents : (
    (let s : State := live;
      let r := (⟨List.replicate 64 943, 1, 2, 3, 4, List.replicate 20 9⟩ : SensorReading);
      decide (s.pwr.vin = true) && decide (s.pwr.por = false) &&
      (let u := warnStep (takeMax ((List.range 64).map fun i => (r.temps.getD i 0).toInt) (forAll (List.range 64) (takeReading ((List.range 64).map fun i => (r.temps.getD i 0).toInt)) { s with sens := { s.sens with vin := r.vin, iin := r.iin, pin := r.pin, oven := r.oven, dom := (List.range 20).foldl (fun m d => spSet (fun _ => 0) d (r.domains.getD d 0) m) s.sens.dom } }));
      decide ((u.sens.max.toInt < 944 ∧ 32 ≤ u.sens.valid)))) &&
    (let s : State := live;
      let r := (⟨List.replicate 64 944, 1, 2, 3, 4, List.replicate 20 9⟩ : SensorReading);
      decide (s.pwr.vin = true) && decide (s.pwr.por = false) &&
      (let u := warnStep (takeMax ((List.range 64).map fun i => (r.temps.getD i 0).toInt) (forAll (List.range 64) (takeReading ((List.range 64).map fun i => (r.temps.getD i 0).toInt)) { s with sens := { s.sens with vin := r.vin, iin := r.iin, pin := r.pin, oven := r.oven, dom := (List.range 20).foldl (fun m d => spSet (fun _ => 0) d (r.domains.getD d 0) m) s.sens.dom } }));
      decide ((944 ≤ u.sens.max.toInt ∨ u.sens.valid < 32)) &&
      decide ((u.sens.tripped = false ∨ u.pwr.st = 1 ∨ u.pwr.st = 2 ∨ u.pwr.st = 3)))) &&
    (let s : State := live; let k := 3; decide (s.mgmt.restartAt = none) && decide (s.mgmt.halted = false) &&
      decide (s.mgmt.up.getLsbD k = true) &&
      (let ds := s.tick :: s.mgmt.dogs.filter (fun t => decide (s.tick < t + 600000000));
      (let u := countAttempt { s with mgmt := { s.mgmt with dogs := ds } }; true))) &&
    (let s : State := live; let k := 3; decide (s.mgmt.restartAt = none) && decide (s.mgmt.halted = false) &&
      decide (s.mgmt.up.getLsbD k = true) &&
      (let ds := s.tick :: s.mgmt.dogs.filter (fun t => decide (s.tick < t + 600000000));
      (let u := countAttempt { s with mgmt := { s.mgmt with dogs := ds } }; decide (ds.length < 3)))) &&
    (let k := 0; let s : State := onMgmt (fun m => { m with dogs := [live.tick - 1, live.tick - 2] }) live;
      decide (s.mgmt.restartAt = none) && decide (s.mgmt.halted = false) &&
      decide (s.mgmt.up.getLsbD k = true) &&
      (let ds := s.tick :: s.mgmt.dogs.filter (fun t => decide (s.tick < t + 600000000));
      (let u := countAttempt { s with mgmt := { s.mgmt with dogs := ds } }; decide (3 ≤ ds.length)))) &&
    (let fs := ([] : List MemFault); let s : State := onMgmt (fun m => { m with restartAt := some 5 }) live;
      (s.mgmt.restartAt).any (fun a => decide ((dpReady .image s).1 = true) &&
      (let v := (dpReady .image s).2; (let r := restartImage v;
      (let u := onImage (fun x => { x with reboot := false }) (onMgmt (fun m => { m with restartAt := none, up := 0xF }) r.1);
      true))))) &&
    (let s : State := live; let fs := ([] : List MemFault); decide (s.mgmt.restartAt = none)) &&
    (let fs := ([] : List MemFault);
      let s : State := { (onMgmt (fun m => { m with restartAt := some 5 }) live) with sec := { live.sec with waiting := [.work .image] } };
      decide (s.mgmt.restartAt ≠ none) && decide ((dpReady .image s).1 = false)) &&
    (let s : State := live; let n := (none : Option LpddrRegion); decide (pdOn s 3 = true)) &&
    (let s : State := live; let m := LpddrRegion.trace; let n := 1; decide (pdOn s 3 = true) &&
      (decide (m = LpddrRegion.firmware ∨ m = .trace ∨ m = .staging)) &&
      (let u := raise .lpddrUncorr m.ctorIdx 0 (count 0x70028 (countN 0x70024 n s)); true)) &&
    (let n := 63; let s : State := setScen 63 { Scenario.empty with st := 4 } live;
      decide (pdOn s 3 = true) && decide ((scen s n).st ≠ 0)) &&
    (let s : State := live; let k := 0; let n := 63; decide (pdOn s 3 = true) && decide ((scen s n).st = 0)) &&
    (let s : State := live; let n := 63; decide (pdOn s 3 = true)) &&
    (let s : State := live; let o := 66535; decide (pdOn s 3 = true)) &&
    (let s : State := onImage (fun i => { i with onTrial := true }) { live with tick := trialTime live * 1000000 };
      decide (s.image.onTrial = true) && decide (mgmtRuns s = true) &&
      decide (s.image.trialAt + trialTime s * 1000000 ≤ s.tick)) &&
    (let s : State := live;
      decide ((s.image.onTrial = false ∨ s.tick < s.image.trialAt + trialTime s * 1000000))) &&
    (let ok := false; let s : State := onImage (fun i => { i with staging := some (255, []) }) live;
      let q := 255; (s.image.staging).any (fun (q, b) => decide (mgmtRuns s = true) &&
      decide ((dpReady .image s).1 = true) && (let u := (dpReady .image s).2;
      (let n := imageOpens u.otp true b; (let v := countOpens none n.1 n.2 u;
      (let f := imageFault v.otp true b; (let good := (decide (f = 0) && ok && slotThere v (!s.image.boot));
      true))))))) &&
    (let ok := true;
      let s : State := { (onImage (fun i => { i with staging := some (255, z 1) }) live) with sec := { live.sec with waiting := [.work .image] } };
      let q := 255; (s.image.staging).any (fun (q, b) => decide (mgmtRuns s = true) &&
      decide ((dpReady .image s).1 = false))) &&
    (let s : State := live; let ok := true; decide ((s.image.staging = none ∨ mgmtRuns s = false)))) = true := by decide +kernel

theorem witness_JournalEvents : (
    (let s : State := { live with jnl := { live.jnl with waiting := [⟨1, 0, 0, false, 0, 1, .retire 5⟩] } };
      decide (s.jnl.waiting ≠ []) && decide (jnlWrites s = true) && decide (mgmtRuns s = true) &&
      decide ((dpReady .seal s).1 = true)) &&
    (let s : State := { live with jnl := { live.jnl with waiting := [⟨1, 0, 0, false, 0, 1, .retire 5⟩] }, sec := { live.sec with waiting := [.work .seal] } };
      decide (s.jnl.waiting ≠ []) && decide (jnlWrites s = true) && decide (mgmtRuns s = true) &&
      decide ((dpReady .seal s).1 = false)) &&
    (let s : State := live; decide ((s.jnl.waiting = [] ∨ jnlWrites s = false ∨ mgmtRuns s = false))) &&
    (let s : State := { live with jnl := { live.jnl with compacting := some (5, none) } }; let q := 255;
      (s.jnl.compacting).any (fun (x, q) => decide (mgmtRuns s = true) && decide (jnlWrites s = true) &&
      (let u := commitCompaction x (dpReady .seal s).2; true))) &&
    (let s : State := { live with jnl := { live.jnl with compacting := some (5, none), st := 2 } };
      let q := 255; (s.jnl.compacting).any (fun (x, q) => decide (mgmtRuns s = true) &&
      decide (jnlWrites s = false))) &&
    (let s : State := live; decide ((s.jnl.compacting = none ∨ mgmtRuns s = false))) &&
    (let s : State := live; let d := 0; let k := 511; let e := true; decide (d < 2) &&
      decide ((region s d).has k = true) && decide ((region s d).ok = true) &&
      (let u := count (0xA0008 + 0x40 * d + if e then 4 else 0) (count 0x80040 s);
      decide ((region s d).spares ≠ 0))) &&
    (let d := 1; let k := 0; let e := false;
      let s : State := { live with jnl := { live.jnl with region1 := { Jnl.reset.region1 with ok := true, pool := [] } } };
      decide (d < 2) && decide ((region s d).has k = true) && decide ((region s d).ok = true) &&
      (let u := count (0xA0008 + 0x40 * d + if e then 4 else 0) (count 0x80040 s);
      decide ((region s d).spares = 0))) &&
    (let s : State := live; let d := 0; decide (d < 2) && decide ((region s d).ok = true)) &&
    (let s : State := live; let d := 2; let k := 0; let e := 0; decide ((2 ≤ d ∨ (region s d).ok = false)))) = true := by decide +kernel

theorem witness_CipherEvents : (
    (let d := 0; let i := some (z 16); let q := 255;
      let s : State := { (setQueue 255 { Queue.reset with enabled := true, running := some (cmd 0x63 (leBytes 2 1023 ++ [0, 0]) (z 64)) } live) with sec := { (setQueue 255 { Queue.reset with enabled := true, running := some (cmd 0x63 (leBytes 2 1023 ++ [0, 0]) (z 64)) } live).sec with waiting := [.op 255] } };
      decide (nextJob s = some (.op q, d)) &&
      (let u := { s with sec := { s.sec with waiting := s.sec.waiting.erase (.op q) } };
      (opStop u q).any (fun r => true))) &&
    (let d := 0; let i := (none : Option Bytes); let q := 255;
      let s : State := { (setQueue 255 { Queue.reset with enabled := true, running := some (cmd 0x63 (leBytes 2 5 ++ [0, 0]) (z 64)) } live) with sec := { (setQueue 255 { Queue.reset with enabled := true, running := some (cmd 0x63 (leBytes 2 5 ++ [0, 0]) (z 64)) } live).sec with waiting := [.op 255] } };
      decide (nextJob s = some (.op q, d)) &&
      (let u := { s with sec := { s.sec with waiting := s.sec.waiting.erase (.op q) } };
      decide (opStop u q = none) && decide (i = none))) &&
    (let d := 0; let i := some (z 16); let q := 255;
      let s : State := { (setQueue 255 { Queue.reset with enabled := true, running := some (cmd 0x63 (leBytes 2 5 ++ [0, 0]) (z 64)) } live) with sec := { (setQueue 255 { Queue.reset with enabled := true, running := some (cmd 0x63 (leBytes 2 5 ++ [0, 0]) (z 64)) } live).sec with waiting := [.op 255] } };
      decide (nextJob s = some (.op q, d)) &&
      (let u := { s with sec := { s.sec with waiting := s.sec.waiting.erase (.op q) } };
      decide (opStop u q = none) && (i).any (fun b => (let x := jobRun u (.op q) b; true)))) &&
    (let d := 0; let i := (none : Option Bytes); let q := 255; let k := (none : Option Nat);
      let s : State := { (live) with sec := { (live).sec with waiting := [.unwrap 255 none] } };
      (nextJob s).any (fun (j, d) => ((match j with | .op _ => false | _ => true)) &&
      (let u := { s with sec := { s.sec with waiting := s.sec.waiting.erase j } }; (let x := jobRun u j [];
      true)))) &&
    (let s : State := live; let d := 3; let i := (none : Option Bytes); (((nextJob s).all fun x => x.2 ≠ d))) &&
    (let d := 3;
      let s : State := { (live) with sec := { (live).sec with dps := [(3, ⟨.op 255, 1, false, some 5, z 32, 1, z 16, 0⟩)] } };
      (dpRun s d).any (fun x => true)) &&
    (let d := 0;
      let s : State := setReg (0x51010 + 0x40 * 255) 5 (setQueue 255 { Queue.reset with enabled := true, fetched := [cmd 0x73 [] []] } live);
      let q := 255; decide (dpRun s d = none) && decide (checking s d = some q)) &&
    (let s : State := live; let d := 3; decide (dpRun s d = none) && decide (checking s d = none)) &&
    (let d := 3;
      let s : State := setReg 0x60004 0xE0000000 ({ (live) with sec := { (live).sec with dps := [(3, ⟨.op 255, 1, false, some 5, z 32, 1, z 16, 0⟩)] } });
      (dpRun s d).any (fun x => decide (secInjected s d = true))) &&
    (let d := 3; let q := 255;
      let s : State := { (live) with sec := { (live).sec with dps := [(3, ⟨.op 255, 1, false, some 5, z 32, 1, z 16, 0⟩)] } };
      (dpRun s d).any (fun x => decide (secInjected s d = false) && decide (x.job = .op q))) &&
    (let d := 3; let q := 255; let k := (none : Option Nat);
      let s : State := { (live) with sec := { (live).sec with dps := [(3, ⟨.unwrap 255 none, 1, false, some 5, z 32, 1, z 16, 0⟩)] } };
      (dpRun s d).any (fun x => decide (secInjected s d = false) && decide (x.job = .unwrap q k))) &&
    (let s : State := live; let d := 3; decide (dpRun s d = none)) &&
    (let w := 3; let s : State := { (live) with sec := { (live).sec with wins := [(3, .zeroing)] } };
      decide (window s w = .zeroing)) &&
    (let s : State := live; let w := 3; decide (window s w ≠ .zeroing)) &&
    (let k := 1023; let s : State := setKeySlot 1023 { KeySlot.reset with st := 3, gen := 7 } live;
      decide ((keySlot s k).st = 3) && decide (keyUnheld s k = true) &&
      decide (s.sec.erasing.find? (fun e => e.2 = k) = none)) &&
    (let k := 1023;
      let s : State := { (setKeySlot 1023 { KeySlot.reset with st := 3, gen := 7 } live) with sec := { (setKeySlot 1023 { KeySlot.reset with st := 3, gen := 7 } live).sec with erasing := [(255, 1023)] } };
      decide ((keySlot s k).st = 3) && decide (keyUnheld s k = true) &&
      (s.sec.erasing.find? (fun e => e.2 = k)).any (fun (q, j) => (let u := count 0x60028 (resetCounters k (setKeySlot k { KeySlot.reset with gen := (keySlot s k).gen, faults := (keySlot s k).faults } s));
      true))) &&
    (let s : State := live; let k := 1023; decide (((keySlot s k).st ≠ 3 ∨ keyUnheld s k = false)))) = true := by decide +kernel

theorem witness_BankEvents : (
    (let s : State := live; let xs := ([⟨true, false, 2, false, 127, 262136, .read true, 0⟩] : List BankReq);
      (let u := { s with bank := { s.bank with answers := [] } }; true)) &&
    (let b := 127; let a := (⟨193, false⟩ : BankWriter); let o := 2; let s : State := live;
      decide ((bank s b).failed = false) && decide ((bank s b).test = 0) &&
      decide (mayWriteBank (bank s b) a.agent a.kernel = true) &&
      decide ((o = 4 → writerCode a.agent = 1)) && decide (o ≠ (bank s b).owner) &&
      decide ((bank s b).handover = none)) &&
    (let b := 127; let a := (⟨191, true⟩ : BankWriter); let o := 27;
      let s : State := setBank 127 { Bank.reset with owner := 27, handover := some (3, now live - 64, 193) } (live);
      decide ((bank s b).failed = false) && decide ((bank s b).test = 0) &&
      decide (mayWriteBank (bank s b) a.agent a.kernel = true) &&
      decide ((o = 4 → writerCode a.agent = 1)) && decide (o = (bank s b).owner)) &&
    (let b := 0; let a := (⟨196, false⟩ : BankWriter); let o := 2; let x := 3; let m := now live - 64;
      let w := 1;
      let s : State := setBank 0 { Bank.reset with owner := 4, handover := some (3, now live - 64, 1) } (live);
      decide ((bank s b).failed = false) && decide ((bank s b).test = 0) &&
      decide (mayWriteBank (bank s b) a.agent a.kernel = true) &&
      decide ((o = 4 → writerCode a.agent = 1)) && decide (o ≠ (bank s b).owner) &&
      (decide ((bank s b).handover = some (x, m, w)))) &&
    (let b := 127; let a := (⟨193, false⟩ : BankWriter); let o := 2;
      let s : State := setBank 127 { Bank.reset with failed := true } (live);
      decide (((bank s b).failed = true ∨ (bank s b).test ≠ 0 ∨ mayWriteBank (bank s b) a.agent a.kernel = false ∨ (o = 4 ∧ writerCode a.agent ≠ 1)))) &&
    (let b := 0; let a := (⟨193, false⟩ : BankWriter); let o := 2;
      let s : State := setBank 0 { Bank.reset with test := 3 } live;
      decide (((bank s b).failed = true ∨ (bank s b).test ≠ 0 ∨ mayWriteBank (bank s b) a.agent a.kernel = false ∨ (o = 4 ∧ writerCode a.agent ≠ 1)))) &&
    (let b := 127; let a := (⟨191, false⟩ : BankWriter); let o := 2;
      let s : State := setBank 127 { Bank.reset with owner := 27 } (live);
      decide (((bank s b).failed = true ∨ (bank s b).test ≠ 0 ∨ mayWriteBank (bank s b) a.agent a.kernel = false ∨ (o = 4 ∧ writerCode a.agent ≠ 1)))) &&
    (let b := 127; let a := (⟨194, false⟩ : BankWriter); let o := 4;
      let s : State := setBank 127 { Bank.reset with owner := 2 } (live);
      decide (((bank s b).failed = true ∨ (bank s b).test ≠ 0 ∨ mayWriteBank (bank s b) a.agent a.kernel = false ∨ (o = 4 ∧ writerCode a.agent ≠ 1)))) &&
    (let s : State := live; let b := 118; let a := (⟨193, true⟩ : BankWriter); let v := true; let c := 0;
      decide (mayWriteBank (bank s b) a.agent a.kernel = true) && decide ((v = true → b < 114 ∨ 118 ≤ b))) &&
    (let s : State := live; let b := 114; let a := (⟨193, true⟩ : BankWriter); let v := false;
      decide (mayWriteBank (bank s b) a.agent a.kernel = true) && decide ((v = true → b < 114 ∨ 118 ≤ b))) &&
    (let s : State := live; let b := 117; let a := (⟨193, true⟩ : BankWriter); let v := true;
      decide ((mayWriteBank (bank s b) a.agent a.kernel = false ∨ (v = true ∧ 114 ≤ b ∧ b < 118)))) &&
    (let b := 127;
      let s : State := setBank 127 { Bank.reset with owner := 2, handover := some (3, now live - 128, 2), idleFrom := 0 } (live);
      ((bank s b).handover).any (fun (o, m, w) => decide (quiet s b = true) &&
      decide (now s / 2 ≤ m / 2 + 64))) &&
    (let s : State := live; let b := 127; decide (((bank s b).handover = none ∨ quiet s b = false))) &&
    (let b := 127; let o := 3; let m := now live - 130; let w := 2;
      let s : State := setBank 127 { Bank.reset with owner := 2, handover := some (3, now live - 130, 2), idleFrom := now live } live;
      (decide ((bank s b).handover = some (o, m, w))) &&
      decide ((m / 2 + 64 < now s / 2 ∨ (quiet s b = false ∧ m / 2 + 64 = now s / 2)))) &&
    (let b := 127; let s : State := setBank 127 { Bank.reset with handover := some (3, now live, 1) } live;
      (((bank s b).handover.all fun e => decide (now s / 2 < e.2.1 / 2 + 64)))) &&
    (let s : State := setBank 127 { Bank.reset with zeroing := some 5 } (live);
      (s.bank.own.find? (fun e => e.2.zeroing.isSome)).any (fun (b, x) => true)) &&
    (let s : State := live; decide (s.bank.own.find? (fun e => e.2.zeroing.isSome) = none))) = true := by decide +kernel

theorem witness_MemoryTests : (
    (let b := 127; let r := 511;
      let s : State := onMtest (fun t => { t with rows := [(127, 511)] }) (setBank 127 { Bank.reset with owner := 2, lendOk := true } (live));
      (isRow (borrowOf s b))) &&
    (let b := 127;
      let s : State := onMtest (fun t => { t with asks := [⟨255, 127, false, 0, 0⟩] }) (setBank 127 { Bank.reset with owner := 2, lendOk := true } live);
      (isAsk (borrowOf s b))) &&
    (let b := 127;
      let s : State := setReg 0x510004 2 (setBank 127 { Bank.reset with owner := 2, lendOk := true } (live));
      (isRound (borrowOf s b))) &&
    (let s : State := live; let b := 0; decide (borrowOf s b = none)) &&
    (let b := 127; let fs := ([] : List MemFault);
      let s : State := onMtest (fun t => { t with target := 1, mode := 1, index := 127, segment := 511 }) (setBank 127 { Bank.reset with test := 1 } (live));
      decide (s.mtest.target = 1) && decide (s.mtest.mode = 1) && decide (s.mtest.index = b) &&
      decide ((bank s b).test = 1) && decide (s.mtest.segment < 512) && decide (runOver s = true) &&
      (let u := takeFaults (· = b) (fs.filter fun f => f.row = s.mtest.segment) (bankRun b 4 s.mtest.segment 1 384 384 s);
      true)) &&
    (let s : State := live; let b := 127; let fs := ([] : List MemFault);
      decide ((s.mtest.target ≠ 1 ∨ s.mtest.index ≠ b ∨ runOver s = false))) &&
    (let b := 127; let s : State := setBank 127 { Bank.reset with test := 3 } (live);
      decide ((bank s b).test = 3)) &&
    (let s : State := live; let b := 127; decide ((bank s b).test ≠ 3)) &&
    (let s : State := onMtest (fun t => { t with pausedAt := some (now live - ticks 10), pause := 10 }) (live);
      (s.mtest.pausedAt).any (fun a => decide (a + ticks s.mtest.pause ≤ now s) &&
      (let m := { s.mtest with pass := if s.mtest.element = 4 then s.mtest.pass + 1 else s.mtest.pass };
      true))) &&
    (let s : State := onMtest (fun t => { t with pausedAt := some (now live), pause := 1 }) (live);
      ((s.mtest.pausedAt.all fun a => decide (now s < a + ticks s.mtest.pause)))) &&
    (let s : State := setReg 0x510004 0x1F live; decide (mtIdle s = true) && decide (testOn s 3 = true) &&
      decide (s.page.standby = .clean) && decide (s.page.waiting = []) && decide (s.core.running = true)) &&
    (let s : State := setReg 0x510004 0 live;
      decide ((mtIdle s = false ∨ testOn s 3 = false ∨ s.page.standby ≠ .clean))) &&
    (let fs := ([] : List MemFault);
      let s : State := onMtest (fun t => { t with target := 1, mode := 1, segment := 512 }) (live);
      decide (s.mtest.target = 1) && decide (s.mtest.mode = 1)) &&
    (let fs := ([] : List MemFault);
      let s : State := onMtest (fun t => { t with target := 2, mode := 2, runAt := now live }) (live);
      decide (s.mtest.target ≠ 1) && decide (runOver s = false)) &&
    (let fs := ([] : List MemFault);
      let s : State := onMtest (fun t => { t with target := 1, mode := 2, index := 127 }) (live);
      decide (runOver s = true) && decide (s.mtest.target = 1) && decide (s.mtest.mode ≠ 1)) &&
    (let fs := ([] : List MemFault);
      let s : State := onMtest (fun t => { t with target := 2, mode := 2, index := 2047 }) (live);
      decide (runOver s = true) && decide (s.mtest.target = 2)) &&
    (let fs := ([] : List MemFault);
      let s : State := onMtest (fun t => { t with target := 3, mode := 2 }) (live);
      decide (runOver s = true) && decide (s.mtest.target = 3) &&
      (let conn := (fun m => (macroType m = 3 || macroType m = 4 || macroType m = 5) &&
      bitOf m 8 ≠ s.page.active); true)) &&
    (let fs := ([] : List MemFault);
      let s : State := onMtest (fun t => { t with target := 4, mode := 2, index := 0 }) (live);
      decide (runOver s = true) && decide (s.mtest.target = 4)) &&
    (let fs := ([] : List MemFault);
      let s : State := onMtest (fun t => { t with target := 5, mode := 2, index := 11 }) (live);
      decide (runOver s = true) && decide (s.mtest.target = 5)) &&
    (let fs := ([] : List MemFault);
      let s : State := onMtest (fun t => { t with target := 6, mode := 2, index := 7 }) (live);
      decide (runOver s = true) && decide (s.mtest.target = 6) && (let mine := (fun m => macroType m = 1 &&
      macroIndex m / 32 = s.mtest.index); true)) &&
    (let b := 0; let s : State := setReg 0x510004 1 live; decide (mtIdle s = true) && decide (b < 128) &&
      decide (inPool s b = true) && decide (((s.mtest.asks.any fun a => a.bank = b &&
      a.destructive) = true ∨ (testOn s 0 = true ∧ roundTakes s b = true)))) &&
    (let b := 127; let s : State := onMtest (fun t => { t with asks := [⟨255, 127, true, 0, 0⟩] }) (live);
      decide (mtIdle s = true) && decide (b < 128) && decide (inPool s b = true) &&
      decide (((s.mtest.asks.any fun a => a.bank = b &&
      a.destructive) = true ∨ (testOn s 0 = true ∧ roundTakes s b = true)))) &&
    (let b := 136; let s : State := setReg 0x510004 0 live;
      decide ((mtIdle s = false ∨ (b < 128 ∧ inPool s b = false) ∨ (128 ≤ b ∧ (testOn s 4 = false ∨ (port s (b - 128)).st ≠ 0))))) &&
    (let b := 127; let s : State := setBank 127 { Bank.reset with owner := 2 } live;
      decide ((mtIdle s = false ∨ (b < 128 ∧ inPool s b = false) ∨ (128 ≤ b ∧ (testOn s 4 = false ∨ (port s (b - 128)).st ≠ 0))))) &&
    (let p := 7; let s : State := setReg 0x510004 0x10 live; decide (mtIdle s = true) &&
      decide (testOn s 4 = true) && decide ((port s p).st = 0)) &&
    (let k := 2047;
      let s : State := setReg 0x510004 4 { live with core := { live.core with retired := (List.range 2048).filter (· ≠ 2047) } };
      decide (testOn s 2 = true) && decide (mtIdle s = true) && decide (s.mtest.stepAt ≤ s.tick) &&
      decide (s.core.running = true) && decide (s.core.retired.contains k = false) &&
      decide (s.core.retiring.contains k = false) && decide (s.abacus.lent.contains k = false) &&
      decide (s.abacus.lending.any (·.1 = k) = false) &&
      (let u := onMtest (fun t => { t with stepNext := (k + 1) % 2048, stepAt := s.tick + sched s 7 0 * 1000 }) s;
      decide (mayLend u = false))) &&
    (let k := 2047; let s : State := setReg 0x510004 4 live; decide (testOn s 2 = true) &&
      decide (mtIdle s = true) && decide (s.mtest.stepAt ≤ s.tick) && decide (s.core.running = true) &&
      decide (s.core.retired.contains k = false) && decide (s.core.retiring.contains k = false) &&
      decide (s.abacus.lent.contains k = false) && decide (s.abacus.lending.any (·.1 = k) = false) &&
      (let u := onMtest (fun t => { t with stepNext := (k + 1) % 2048, stepAt := s.tick + sched s 7 0 * 1000 }) s;
      decide (mayLend u = true) && decide (s.abacus.map.names k = false) &&
      decide ((∀ m, s.page.next = some m → m.names k = false)))) &&
    (let k := 2047;
      let s : State := setReg 0x510004 4 { live with abacus := { live.abacus with map := { CMap.empty with strs := [(1, ⟨2, 0, [3], [⟨0, 0, false, [3], 0, 0, false, none, false, false, false, [2047]⟩]⟩)] } } };
      decide (testOn s 2 = true) && decide (mtIdle s = true) && decide (s.mtest.stepAt ≤ s.tick) &&
      decide (s.core.running = true) && decide (s.core.retired.contains k = false) &&
      decide (s.core.retiring.contains k = false) && decide (s.abacus.lent.contains k = false) &&
      decide (s.abacus.lending.any (·.1 = k) = false) &&
      (let u := onMtest (fun t => { t with stepNext := (k + 1) % 2048, stepAt := s.tick + sched s 7 0 * 1000 }) s;
      decide (mayLend u = true) &&
      decide ((s.abacus.map.names k = true ∨ ∃ m, s.page.next = some m ∧ m.names k = true)))) &&
    (let k := 2047;
      let s : State := onAbacus (fun a => { a with lending := [(2047, live.tick)] }) { live with core := { live.core with retired := [2047] } };
      (s.abacus.lending.find? (fun e => e.1 = k &&
      decide (e.2 ≤ s.tick))).any (fun e => (let u := { s with abacus := { s.abacus with lending := s.abacus.lending.erase e } };
      decide (s.core.retired.contains k = true ∨ s.abacus.map.names k = true ∨ mayLend u = false)))) &&
    (let k := 2047; let s : State := onAbacus (fun a => { a with lending := [(2047, live.tick)] }) live;
      (s.abacus.lending.find? (fun e => e.1 = k &&
      decide (e.2 ≤ s.tick))).any (fun e => (let u := { s with abacus := { s.abacus with lending := s.abacus.lending.erase e } };
      decide (s.core.retired.contains k = false) && decide (s.abacus.map.names k = false) &&
      decide (mayLend u = true)))) &&
    (let s : State := live; let k := 2047; decide ((s.abacus.lending.find? fun e => e.1 = k &&
      decide (e.2 ≤ s.tick)) = none)) &&
    (let k := 2047; let s : State := setReg 0x510004 0 live;
      decide ((testOn s 2 = false ∨ mtIdle s = false ∨ s.tick < s.mtest.stepAt ∨ s.core.running = false))) &&
    (let s : State := live; let k := 2047;
      decide ((s.abacus.lent.contains k = false ∨ (s.mtest.target = 2 ∧ s.mtest.index = k)))) &&
    (let k := 2047; let s : State := onAbacus (fun a => { a with lent := [2047] }) live;
      decide (s.abacus.lent.contains k = true) && decide (¬ (s.mtest.target = 2 ∧ s.mtest.index = k)))) = true := by decide +kernel

end
end

section
/-! PROOFS. The tray format (02_tray_format.md): when a header fits. -/

namespace Sys2Proof.Proofs.TrayFormat

open Sys2Proof Sys2Proof.Machine

/-- Two bytes read as one big-endian number (00_scope.md R10). -/
theorem beAt_two (bs : Bytes) (o : Nat) :
    beAt bs o 2 = 256 * (bs.getD o 0).toNat + (bs.getD (o + 1) 0).toNat := by
  have hsub : sub bs o 2 = [bs.getD o 0, bs.getD (o + 1) 0] := rfl
  simp only [beAt, hsub, beNat, List.reverse_cons, List.reverse_nil, List.nil_append,
    List.cons_append, leNat]
  omega

/-- Bits 7 and 6 of a byte are zero exactly when the byte is below 64. -/
theorem top_two_bits_zero_iff (b : Byte) :
    b.toNat / 64 = 0 ↔ b.getLsbD 7 = false ∧ b.getLsbD 6 = false := by
  have hb : b.toNat < 256 := b.isLt
  simp only [BitVec.getLsbD, Nat.testBit_eq_decide_div_mod_eq, decide_eq_false_iff_not]
  omega

theorem rowsOf_pos (r : Nat) : 0 < rowsOf r := Nat.mul_pos (by decide) (Nat.two_pow_pos r)

/-- ROW is below the number of rows exactly when it is at most the last row of the rate (Table 2.1). -/
theorem row_lt_rowsOf_iff (x r : Nat) : x % 16 < rowsOf r ↔ bitsOf x 3 0 ≤ rowsOf r - 1 := by
  have hrow : bitsOf x 3 0 = x % 16 := by simp [bitsOf]
  rw [hrow]
  exact Nat.lt_iff_le_pred (rowsOf_pos r)

/-- The model's header check as the five conditions of R38, each in the model's own arithmetic. -/
theorem headerFits_iff (rate : Nat) (bs : Bytes) : headerFits rate bs = true ↔
    crc16 (sub bs 0 4) = beAt bs 4 2 ∧ (bs.getD 0 0).toNat / 64 = 0 ∧ (bs.getD 3 0).toNat / 16 = 0 ∧
      bitsOf (bs.getD 0 0).toNat 5 4 = rate ∧ (bs.getD 0 0).toNat % 16 < rowsOf rate := by
  simp only [headerFits, Bool.and_eq_true, beq_iff_eq, decide_eq_true_eq, and_assoc]

/-- Settles O40: each condition of the model's check is the condition R38 names. -/
theorem headerFits : Obligations.HeaderFits := by
  intro rate bs
  have hbody : sub bs 0 4 = [bs.getD 0 0, bs.getD 1 0, bs.getD 2 0, bs.getD 3 0] := rfl
  have hzero : (bs.getD 3 0).toNat / 16 = 0 ↔ (bs.getD 3 0).toNat < 16 :=
    Nat.div_eq_zero_iff_lt (by decide)
  rw [headerFits_iff, hbody, beAt_two, eq_comm, top_two_bits_zero_iff, hzero, row_lt_rowsOf_iff,
    and_assoc]

end Sys2Proof.Proofs.TrayFormat
end

section
/-! PROOFS. Protection (08_protection.md): the hold-off of a path's conditions (R205). -/

namespace Sys2Proof.Proofs.HoldOff

open Sys2Proof Sys2Proof.Machine Sys2Proof.Laws

/-! ### One tick of a path -/

section
variable (s : State) (d : GroupDef) (n : Nat) (c : PathCond)

theorem pathStep_sfAt : (pathStep s d n c).sfAt =
    if (pathStep s d n c).sf then (if c.sf then c.sfAt else some s.tick) else none := rfl

theorem pathStep_sdAt : (pathStep s d n c).sdAt =
    if (pathStep s d n c).sd then (if c.sd then c.sdAt else some s.tick) else none := rfl

theorem pathStep_sfReq : (pathStep s d n c).sfReq =
    ((pathStep s d n c).sf && (decide (d.holdOff = 0) || (c.sf && c.sfReq))) := rfl

theorem pathStep_sdReq : (pathStep s d n c).sdReq =
    ((pathStep s d n c).sd && (decide (d.holdOff = 0) || (c.sd && c.sdReq))) := rfl

/-- Clearing is never held off: the tick of raising and the request go with the condition. -/
theorem pathStep_clear :
    ((pathStep s d n c).sf = false → (pathStep s d n c).sfAt = none ∧ (pathStep s d n c).sfReq = false) ∧
    ((pathStep s d n c).sd = false → (pathStep s d n c).sdAt = none ∧ (pathStep s d n c).sdReq = false) :=
  ⟨fun h => by simp [pathStep_sfAt, pathStep_sfReq, h],
    fun h => by simp [pathStep_sdAt, pathStep_sdReq, h]⟩

theorem pathStep_req_of_holdOff_zero (h : d.holdOff = 0) :
    (pathStep s d n c).sfReq = (pathStep s d n c).sf ∧ (pathStep s d n c).sdReq = (pathStep s d n c).sd := by
  simp [pathStep_sfReq, pathStep_sdReq, h]

/-- With a HOLD_OFF a tick only keeps requests: one stands after it when it stood before and the condition
holds on both sides of the tick. -/
theorem pathStep_req_of_holdOff_ne_zero (h : d.holdOff ≠ 0) :
    ((pathStep s d n c).sfReq = true ↔ (pathStep s d n c).sf = true ∧ c.sf = true ∧ c.sfReq = true) ∧
    ((pathStep s d n c).sdReq = true ↔ (pathStep s d n c).sd = true ∧ c.sd = true ∧ c.sdReq = true) := by
  simp [pathStep_sfReq, pathStep_sdReq, h]

end

/-! ### HOLD_OFF_EXPIRY -/

section
variable (c : PathCond) (holdOff tick : Nat)

@[simp] theorem due_sf : (c.due holdOff tick).sf = c.sf := rfl

@[simp] theorem due_sd : (c.due holdOff tick).sd = c.sd := rfl

theorem due_sfReq_iff : (c.due holdOff tick).sfReq = true ↔
    c.sfReq = true ∨ (c.sf = true ∧ ∃ a, c.sfAt = some a ∧ a + holdOff ≤ tick) := by
  cases hat : c.sfAt <;> simp [PathCond.due, hat]

theorem due_sdReq_iff : (c.due holdOff tick).sdReq = true ↔
    c.sdReq = true ∨ (c.sd = true ∧ ∃ a, c.sdAt = some a ∧ a + holdOff ≤ tick) := by
  cases hat : c.sdAt <;> simp [PathCond.due, hat]

/-- A path without conditions has nothing held off, so paths that are not listed stay so. -/
theorem due_reset : PathCond.reset.due holdOff tick = PathCond.reset := rfl

end

/-- When the list of one group's paths is that of another's with what is due made requests, so is each path. -/
theorem path_of_paths_due {x y : Group} {holdOff tick : Nat}
    (h : y.paths = spMap (fun _ => PathCond.reset) (fun _ c => c.due holdOff tick) x.paths) (p : Nat) :
    y.path p = (x.path p).due holdOff tick := by
  rw [Group.path, h, spGet_spMap _ _ _ p (due_reset ..), Group.path]

/-- HOLD_OFF_EXPIRY of a defined group keeps its attributes and makes the due requests of each path; that
holds too where nothing is due and the state stays as it is. -/
theorem does_holdOffExpiry {g : Nat} {s : State} {x : Group} (hx : group s g = some x) :
    Does (.holdOffExpiry g) s fun t => ∃ y, group t g = some y ∧ y.dfn = x.dfn ∧
      ∀ p, y.path p = (x.path p).due x.dfn.holdOff s.tick := by
  have hexec : exec (.holdOffExpiry g) s = execHoldOffExpiry g s := rfl
  simp only [Does, hexec, execHoldOffExpiry, hx]
  split
  next hsame => exact ⟨s, rfl, x, hx, rfl, path_of_paths_due hsame.symm⟩
  next => exact ⟨_, rfl, _, (group_setGroup ..).trans (if_pos rfl), rfl, path_of_paths_due rfl⟩

/-- Settles O41: the ticks from the equations of `pathStep`, the expiry from `PathCond.due`. -/
theorem holdOff : Obligations.HoldOff := by
  refine ⟨fun s d n c => ⟨?_, ?_, ?_, ?_, (pathStep_clear s d n c).1, (pathStep_clear s d n c).2,
    pathStep_req_of_holdOff_zero s d n c, pathStep_req_of_holdOff_ne_zero s d n c⟩, fun g s x hx => ?_⟩
  · intro hnow hwas; simp [pathStep_sfAt, hnow, hwas]
  · intro hnow hwas; simp [pathStep_sfAt, hnow, hwas]
  · intro hnow hwas; simp [pathStep_sdAt, hnow, hwas]
  · intro hnow hwas; simp [pathStep_sdAt, hnow, hwas]
  · obtain ⟨t, ht, y, hy, hdfn, hdue⟩ := does_holdOffExpiry hx
    refine ⟨t, ht, y, hy, hdfn, fun p => ?_⟩
    rw [hdue p]
    exact ⟨due_sf .., due_sd .., due_sfReq_iff .., due_sdReq_iff ..⟩

end Sys2Proof.Proofs.HoldOff
end

section
/-! PROOFS. The register map (19_registers.md): GLB.ID (R486). -/

namespace Sys2Proof.Proofs.Registers

open Sys2Proof Sys2Proof.Machine Sys2Proof.Laws

/-! ### Reads without a side effect, writes of what is read only -/

section
variable {o : Nat} {s : State}

theorem caughtUp_below_perf (hperf : o < 0x600000) : caughtUp o s = s := by
  simp [caughtUp, onlyIf, Nat.not_le.mpr hperf]

/-- A read of a 32-bit register below PERF that does not clear on read only puts its word on the bus. -/
theorem hostRead_plain (hlink : linkUp s = true) (hok : okOffset o = true) (h64 : isReg64 o = false)
    (hrc : isRc o = false) (hperf : o < 0x600000) :
    hostRead o s = onBus (readWord s o).toNat s := by
  have htod : o ≠ 0x30030 := by rintro rfl; exact absurd h64 (by decide)
  simp [hostRead, caughtUp_below_perf hperf, hlink, hok, htod, h64, hrc, onlyIf]

/-- A write of a 32-bit register changes nothing where no bit is writable and none is cleared by writing 1,
whether or not the offset has a row of its own, its block is on or the link is up. -/
theorem writeBar0_readOnly (v : Word) (h64 : isRw64 o = false) (hhigh : o < 4 ∨ isRw64 (o - 4) = false)
    (hovf : ovfAt o = none) (hlk : lkMask o = 0) (hrw : rwMask o = 0) : writeBar0 o v s = s := by
  have hhalf : (decide (4 ≤ o) && isRw64 (o - 4)) = false := by
    rcases hhigh with hlow | hhigh
    · simp [Nat.not_le.mpr hlow]
    · simp [hhigh]
  simp [writeBar0, h64, hhalf, hovf, hlk, hrw]

theorem exec_regReadClear_bar0 (hlink : linkUp s = true) (hok : okOffset o = true) :
    exec (.regReadClear ⟨.bar0, o⟩) s = .next (hostRead o s) := by
  have hexec : exec (.regReadClear ⟨.bar0, o⟩) s = execRegReadClear ⟨.bar0, o⟩ s := rfl
  simp [hexec, execRegReadClear, okWindow, hlink, hok]

theorem exec_registerWrite_bar0 (v : Word) (hok : okOffset o = true) :
    exec (.registerWrite ⟨.bar0, o⟩ v) s = .next (writeBar0 o v s) := by
  have hexec : exec (.registerWrite ⟨.bar0, o⟩ v) s = execRegisterWrite ⟨.bar0, o⟩ v s := rfl
  simp [hexec, execRegisterWrite, okWindow, hok]

end

/-! ### GLB.ID -/

/-- The word of GLB.ID, in every state (Table 19.5). -/
theorem readWord_glbId (s : State) : readWord s 0 = 0x0256B101 := rfl

/-- Settles O35: a read of GLB.ID only puts its constant on the bus, and no bit of it is writable. -/
theorem glbId : Obligations.GlbId := by
  intro s hlink
  have hread : exec (.regReadClear ⟨.bar0, 0⟩) s = .next (onBus 0x0256B101 s) := by
    rw [exec_regReadClear_bar0 hlink (by decide),
      hostRead_plain hlink (by decide) (by decide) (by decide) (by decide), readWord_glbId]
    rfl
  refine ⟨⟨_, hread, ?_, ?_, ?_, onBus_only ..⟩, fun v => ?_⟩
  · show bitsOf 0x0256B101 31 16 = 0x0256; decide
  · show bitsOf 0x0256B101 15 8 = 0xB1; decide
  · show bitsOf 0x0256B101 7 0 = 0x01; decide
  · rw [exec_registerWrite_bar0 v (by decide),
      writeBar0_readOnly v (by decide) (.inl (by decide)) (by decide) (by decide) (by decide)]

end Sys2Proof.Proofs.Registers
end

section
/-! PROOFS. What each command leaves as it is: for every meaning that `exec` gives, the parts of the state
that it may touch, put together from what the shared operations touch (Laws). -/

set_option Elab.async false

namespace Sys2Proof.Proofs.Frame

open Sys2Proof Sys2Proof.Machine Sys2Proof.Laws

/-- A command that does nothing. -/
theorem keep {ps : List Part} {s : State} : NextOnly ps s (.next s) := .of (Only.refl ..)

/-- Both branches of a test answer a next state. -/
theorem branch {ps : List Part} {s : State} {c : Prop} [Decidable c]
    {a b : Host.Outcome State Fault Refusal} (h : NextOnly ps s a) (k : NextOnly ps s b) :
    NextOnly ps s (if c then a else b) := by
  split <;> assumption

/-- An operation that answers a value beside the next state, named by the pair it answers. -/
theorem only_of_pair {ps : List Part} {α : Type} {s t : State} {p : α × State} {x : α}
    (hp : p = (x, t)) (h : Only ps s p.2) : Only ps s t := by
  subst hp; exact h

theorem drawIf_only {c : Prop} [Decidable c] (n : Nat) (s : State) :
    Only [.free] s (if c then draw s else (n, s)).2 := by
  split
  · exact draw_only s
  · exact Only.refl ..

/-! ### The host commands -/

/-- A host command is its checks and a body that touches the parts `ps` alone. -/
structure BodyOnly (ps : List Part) (s : State) (r : Host.Outcome State Fault Refusal) : Prop where
  out : ∃ o q body, r = runCmd o q body s ∧ ∀ d u, Only ps u (body d u)

theorem BodyOnly.of {ps : List Part} {s : State} {o q : Nat} {body : Fetched → State → State}
    (h : ∀ d u, Only ps u (body d u)) : BodyOnly ps s (runCmd o q body s) :=
  ⟨o, q, body, rfl, h⟩

/-- The checks of a host command touch these parts beside its body. -/
theorem BodyOnly.next {ps qs : List Part} {s : State} {r : Host.Outcome State Fault Refusal} (h : BodyOnly ps s r)
    (hp : sub ps qs = true := by rfl)
    (hc : sub [.free, .regs, .rc, .rc64, .abacus, .queues, .rings, .hostOut, .sec, .mgmtLog, .mgmt, .smb, .jnl, .log]
      qs = true := by rfl) : NextOnly qs s r := by
  obtain ⟨o, q, body, rfl, hb⟩ := h.out
  exact runCmd_only (fun d u => Only.mono (hb d u) hp) hc

theorem execNop_body (q : Nat) (s : State) :
    BodyOnly ((touches (.nop q)).erase .regs) s (execNop q s) := by
  unfold execNop
  exact .of fun _ _ => Only.mono (complete_only ..)

theorem execEventCatalog_body (q : Nat) (s : State) :
    BodyOnly ((touches (.eventCatalog q)).erase .regs) s (execEventCatalog q s) := by
  unfold execEventCatalog
  exact .of fun _ _ => Only.mono (answerBuffer_only ..)

theorem execStringCreate_body (q : Nat) (s : State) :
    BodyOnly ((touches (.stringCreate q)).erase .regs) s (execStringCreate q s) := by
  unfold execStringCreate
  exact .of fun _ _ => Only.mono (stringCmd_only ..)

theorem execStringConnect_body (q : Nat) (s : State) :
    BodyOnly ((touches (.stringConnect q)).erase .regs) s (execStringConnect q s) := by
  unfold execStringConnect
  exact .of fun _ _ => Only.mono (stringCmd_only ..)

theorem execStringDisconnect_body (q : Nat) (s : State) :
    BodyOnly ((touches (.stringDisconnect q)).erase .regs) s (execStringDisconnect q s) := by
  unfold execStringDisconnect
  exact .of fun _ _ => Only.mono (stringCmd_only ..)

theorem execStringResize_body (q : Nat) (s : State) :
    BodyOnly ((touches (.stringResize q)).erase .regs) s (execStringResize q s) := by
  unfold execStringResize
  exact .of fun _ _ => Only.mono (stringCmd_only ..)

theorem execStringCondition_body (q : Nat) (s : State) :
    BodyOnly ((touches (.stringCondition q)).erase .regs) s (execStringCondition q s) := by
  unfold execStringCondition
  exact .of fun _ _ => Only.mono (stringCmd_only ..)

theorem execStringDelete_body (q : Nat) (s : State) :
    BodyOnly ((touches (.stringDelete q)).erase .regs) s (execStringDelete q s) := by
  unfold execStringDelete
  exact .of fun _ _ => Only.mono (stringCmd_only ..)

theorem execBatchCommit_body (q : Nat) (s : State) :
    BodyOnly ((touches (.batchCommit q)).erase .regs) s (execBatchCommit q s) := by
  unfold execBatchCommit
  refine .of fun d u => ?_
  dsimp -iota -proj only
  split
  · exact Only.mono (complete_only ..)
  · split
    · exact Only.mono (complete_only ..)
    · exact Only.then (Only.mono (onAbacus_only ..)) (request_only ..)

theorem execRepack_body (q : Nat) (s : State) :
    BodyOnly ((touches (.repack q)).erase .regs) s (execRepack q s) := by
  unfold execRepack
  refine .of fun d u => ?_
  split
  · exact Only.mono (complete_only ..)
  · exact Only.mono (request_only ..)

theorem execPageDisarm_body (q : Nat) (s : State) :
    BodyOnly ((touches (.pageDisarm q)).erase .regs) s (execPageDisarm q s) := by
  unfold execPageDisarm
  refine .of fun d u => ?_
  split
  · exact Only.mono (complete_only ..)
  · split
    · exact Only.mono (complete_only ..)
    · exact Only.ite (Only.mono (complete_only ..)) (Only.ite (Only.mono (complete_only ..)) (Only.then
        (Only.then (Only.then (Only.mono (completeOpt_only ..)) (dropWork_only ..)) (resync_only ..))
        (complete_only ..)))
    · exact Only.then (Only.then (Only.mono (dropWork_only ..)) (resync_only ..)) (complete_only ..)
    · exact Only.mono (complete_only ..)

theorem execPageSwapAt_body (q : Nat) (s : State) :
    BodyOnly ((touches (.pageSwapAt q)).erase .regs) s (execPageSwapAt q s) := by
  unfold execPageSwapAt
  refine .of fun d u => ?_
  split
  · exact Only.mono (complete_only ..)
  · split
    · exact Only.ite (Only.mono (complete_only ..)) (Only.mono (onPage_only ..))
    · exact Only.mono (complete_only ..)

theorem execScenSave_body (q : Nat) (s : State) :
    BodyOnly ((touches (.scenSave q)).erase .regs) s (execScenSave q s) := by
  unfold execScenSave
  refine .of fun d u => ?_
  dsimp -iota -proj only
  split
  · exact Only.mono (complete_only ..)
  · refine Only.ite (Only.then ?_ (startWork_only ..)) (Only.mono (request_only ..))
    split
    · exact Only.mono (dropWork_only ..)
    · exact Only.refl ..

theorem execScenLoad_body (q : Nat) (s : State) :
    BodyOnly ((touches (.scenLoad q)).erase .regs) s (execScenLoad q s) := by
  unfold execScenLoad
  refine .of fun d u => ?_
  dsimp -iota -proj only
  split
  · exact Only.mono (complete_only ..)
  · exact Only.mono (request_only ..)

theorem execScenDelete_body (q : Nat) (s : State) :
    BodyOnly ((touches (.scenDelete q)).erase .regs) s (execScenDelete q s) := by
  unfold execScenDelete
  refine .of fun d u => ?_
  dsimp -iota -proj only
  split
  · exact Only.mono (complete_only ..)
  · exact Only.then (Only.then (Only.then (Only.mono (endRebuild_only ..)) (setScen_only ..)) (journal_only
      ..)) (completePersisted_only ..)

theorem execStringRead_body (q : Nat) (s : State) :
    BodyOnly ((touches (.stringRead q)).erase .regs) s (execStringRead q s) := by
  unfold execStringRead
  refine .of fun d u => ?_
  dsimp -iota -proj only
  exact Only.ite (Only.mono (complete_only ..)) (Only.mono (answerBuffer_only ..))

theorem execPageRead_body (q : Nat) (s : State) :
    BodyOnly ((touches (.pageRead q)).erase .regs) s (execPageRead q s) := by
  unfold execPageRead
  refine .of fun d u => ?_
  dsimp -iota -proj only
  split
  · exact Only.mono (complete_only ..)
  · exact Only.mono (answerBuffer_only ..)

theorem execGroupCreate_body (q : Nat) (s : State) :
    BodyOnly ((touches (.groupCreate q)).erase .regs) s (execGroupCreate q s) := by
  unfold execGroupCreate
  refine .of fun d u => ?_
  dsimp -iota -proj only
  split
  · exact Only.mono (complete_only ..)
  · exact Only.mono (takeGroup_only ..)

theorem execGroupModify_body (q : Nat) (s : State) :
    BodyOnly ((touches (.groupModify q)).erase .regs) s (execGroupModify q s) := by
  unfold execGroupModify
  refine .of fun d u => ?_
  dsimp -iota -proj only
  split
  · exact Only.mono (complete_only ..)
  · split
    · exact Only.mono (complete_only ..)
    · exact Only.then (Only.cond (Only.refl ..) fun _ hu => Only.then hu (dropUrgent_only ..))
        (takeGroup_only ..)

theorem execGroupDelete_body (q : Nat) (s : State) :
    BodyOnly ((touches (.groupDelete q)).erase .regs) s (execGroupDelete q s) := by
  unfold execGroupDelete
  refine .of fun d u => ?_
  dsimp -iota -proj only
  split
  · exact Only.mono (complete_only ..)
  · exact Only.mono (askGroup_only ..)

theorem execGroupRequest_body (q : Nat) (s : State) :
    BodyOnly ((touches (.groupRequest q)).erase .regs) s (execGroupRequest q s) := by
  unfold execGroupRequest
  refine .of fun d u => ?_
  dsimp -iota -proj only
  split
  · exact Only.mono (complete_only ..)
  · exact Only.mono (askGroup_only ..)

theorem execGroupRead_body (q : Nat) (s : State) :
    BodyOnly ((touches (.groupRead q)).erase .regs) s (execGroupRead q s) := by
  unfold execGroupRead
  refine .of fun d u => ?_
  dsimp -iota -proj only
  split
  · exact Only.mono (complete_only ..)
  · split
    · exact Only.mono (complete_only ..)
    · exact Only.mono (answerBuffer_only ..)

theorem execTimingConfig_only (q : Nat) (s : State) :
    NextOnly (touches (.timingConfig q)) s (execTimingConfig q s) := by
  unfold execTimingConfig
  exact runCmd_only fun _ _ => configCmd_only _ _ _ _ _ _ fun _ _ _ => Only.mono (modeWritten_only ..)

theorem execTimingFreq_body (q : Nat) (s : State) :
    BodyOnly ((touches (.timingFreq q)).erase .regs) s (execTimingFreq q s) := by
  unfold execTimingFreq
  refine .of fun d u => ?_
  refine Only.ite (Only.mono (complete_only ..)) ?_
  dsimp -iota -proj only
  refine Only.then ?_ (complete_only ..)
  exact Only.upd53 (Only.refl ..)

theorem execTimingPhaseStep_body (q : Nat) (s : State) :
    BodyOnly ((touches (.timingPhaseStep q)).erase .regs) s (execTimingPhaseStep q s) := by
  unfold execTimingPhaseStep
  refine .of fun d u => ?_
  dsimp -iota -proj only
  refine Only.ite (Only.mono (complete_only ..)) (Only.ite (Only.mono (complete_only ..)) (Only.ite
    (Only.mono (complete_only ..)) (Only.then ?_ (complete_only ..))))
  exact Only.upd53 (Only.refl ..)

theorem execTodSet_body (q : Nat) (s : State) :
    BodyOnly ((touches (.todSet q)).erase .regs) s (execTodSet q s) := by
  unfold execTodSet
  refine .of fun d u => ?_
  dsimp -iota -proj only
  refine Only.ite (Only.mono (complete_only ..)) (Only.ite (Only.mono (complete_only ..)) ?_)
  exact Only.upd53 (Only.refl ..)

theorem execTodAdj_body (q : Nat) (s : State) :
    BodyOnly ((touches (.todAdj q)).erase .regs) s (execTodAdj q s) := by
  unfold execTodAdj
  refine .of fun d u => ?_
  dsimp -iota -proj only
  exact Only.ite (Only.mono (complete_only ..)) (Only.upd53 (Only.refl ..))

theorem execTimingRead_body (q : Nat) (s : State) :
    BodyOnly ((touches (.timingRead q)).erase .regs) s (execTimingRead q s) := by
  unfold execTimingRead
  refine .of fun d u => ?_
  refine Only.then ?_ (complete_only ..)
  exact Only.upd24 (Only.refl ..)

theorem execPmFetch_body (q : Nat) (s : State) :
    BodyOnly ((touches (.pmFetch q)).erase .regs) s (execPmFetch q s) := by
  unfold execPmFetch
  refine .of fun d u => ?_
  dsimp -iota -proj only
  split
  · exact Only.mono (complete_only ..)
  · exact Only.mono (answerBuffer_only ..)

theorem execPerfRead_body (q : Nat) (s : State) :
    BodyOnly ((touches (.perfRead q)).erase .regs) s (execPerfRead q s) := by
  unfold execPerfRead
  refine .of fun d u => ?_
  dsimp -iota -proj only
  split
  · exact Only.mono (complete_only ..)
  · exact Only.ite (Only.mono (complete_only ..)) (Only.mono (answerBuffer_only ..))

theorem execEventLogRead_body (q : Nat) (s : State) :
    BodyOnly ((touches (.eventLogRead q)).erase .regs) s (execEventLogRead q s) := by
  unfold execEventLogRead
  refine .of fun d u => ?_
  dsimp -iota -proj only
  split
  · exact Only.mono (complete_only ..)
  · split
    next x t hx =>
      exact Only.then (Only.then (Only.then (Only.mono (only_of_pair hx (drawIf_only ..)))
        (logRecords_only ..)) (hostWrite_only ..)) (complete_only ..)

theorem execBankAlloc_body (q : Nat) (s : State) :
    BodyOnly ((touches (.bankAlloc q)).erase .regs) s (execBankAlloc q s) := by
  unfold execBankAlloc
  refine .of fun d u => ?_
  dsimp -iota -proj only
  refine Only.ite (Only.mono (complete_only ..)) (Only.ite ?_ (Only.ite (Only.mono (complete_only ..))
    (Only.ite (Only.mono (setBank_only ..)) (Only.mono (complete_only ..)))))
  split
  · exact Only.mono (setBank_only ..)
  · exact Only.mono (complete_only ..)

theorem execBankRelease_body (q : Nat) (s : State) :
    BodyOnly ((touches (.bankRelease q)).erase .regs) s (execBankRelease q s) := by
  unfold execBankRelease
  refine .of fun d u => ?_
  dsimp -iota -proj only
  exact Only.ite (Only.mono (complete_only ..)) (Only.ite (Only.mono (complete_only ..)) (Only.ite
    (Only.mono (complete_only ..)) (Only.ite (Only.then (Only.mono (count_only ..)) (complete_only ..))
    (Only.mono (setBank_only ..)))))

theorem execMtestConfig_only (q : Nat) (s : State) :
    NextOnly (touches (.mtestConfig q)) s (execMtestConfig q s) := by
  unfold execMtestConfig
  exact runCmd_only fun _ _ => Only.ite (Only.mono (complete_only ..))
    (configCmd_only _ _ _ _ _ _ fun _ _ _ => Only.refl ..)

theorem execMtestRun_body (q : Nat) (s : State) :
    BodyOnly ((touches (.mtestRun q)).erase .regs) s (execMtestRun q s) := by
  unfold execMtestRun
  refine .of fun d u => ?_
  dsimp -iota -proj only
  exact Only.ite (Only.mono (complete_only ..)) (Only.ite (Only.mono (complete_only ..)) (Only.ite
    (Only.mono (complete_only ..)) (Only.ite (Only.mono (complete_only ..)) (Only.mono (onMtest_only ..)))))

theorem execKeyUnwrap_body (q : Nat) (s : State) :
    BodyOnly ((touches (.keyUnwrap q)).erase .regs) s (execKeyUnwrap q s) := by
  unfold execKeyUnwrap
  refine .of fun d u => ?_
  dsimp -iota -proj only
  split
  · exact Only.mono (complete_only ..)
  · exact Only.ite (Only.ite (Only.mono (complete_only ..)) (Only.ite (Only.mono (blobFails_only ..))
      (Only.mono (waitDp_only ..)))) (Only.ite (Only.mono (complete_only ..)) (Only.mono (startUnwrap_only
      ..)))

theorem execKeyErase_body (q : Nat) (s : State) :
    BodyOnly ((touches (.keyErase q)).erase .regs) s (execKeyErase q s) := by
  unfold execKeyErase
  refine .of fun d u => ?_
  dsimp -iota -proj only
  split
  · exact Only.mono (complete_only ..)
  · refine Only.ite (Only.mono (complete_only ..)) (Only.ite (Only.mono (genMismatch_only ..)) (Only.ite
      (Only.mono (complete_only ..)) (Only.ite (Only.mono (complete_only ..)) ?_)))
    exact Only.upd48 (Only.mono (setKeySlot_only ..))

theorem execKeyRead_body (q : Nat) (s : State) :
    BodyOnly ((touches (.keyRead q)).erase .regs) s (execKeyRead q s) := by
  unfold execKeyRead
  refine .of fun d u => ?_
  dsimp -iota -proj only
  split
  · exact Only.mono (complete_only ..)
  · exact Only.mono (answerBuffer_only ..)

theorem execCipherOp_body (q : Nat) (s : State) :
    BodyOnly ((touches (.cipherOp q)).erase .regs) s (execCipherOp q s) := by
  unfold execCipherOp
  refine .of fun d u => ?_
  dsimp -iota -proj only
  split
  · exact Only.mono (complete_only ..)
  · split
    · exact Only.mono (refuseOp_only ..)
    · exact Only.mono (waitDp_only ..)

theorem execImageStage_body (q : Nat) (container : Option Bytes) (s : State) :
    BodyOnly ((touches (.imageStage q container)).erase .regs) s (execImageStage q container s) := by
  unfold execImageStage
  refine .of fun d u => ?_
  split
  · exact Only.mono (complete_only ..)
  · exact Only.then (Only.mono (fire_only ..)) (complete_only ..)
  · exact Only.mono (onImage_only ..)

theorem execImageActivate_only (q : Nat) (s : State) :
    NextOnly (touches (.imageActivate q)) s (execImageActivate q s) := by
  unfold execImageActivate
  refine runCmd_only fun d u => ?_
  dsimp -iota -proj only
  split
  · exact Only.mono (complete_only ..)
  · exact Only.ite (Only.mono (startTrial_only ..)) (Only.ite (Only.mono (confirmTrial_only ..)) (Only.mono
      (abandonTrial_only ..)))

theorem execClusterActivate_body (q : Nat) (s : State) :
    BodyOnly ((touches (.clusterActivate q)).erase .regs) s (execClusterActivate q s) := by
  unfold execClusterActivate
  refine .of fun d u => ?_
  dsimp -iota -proj only
  split
  · exact Only.mono (complete_only ..)
  · exact Only.then (Only.mono (countOpens_only ..)) (complete_only ..)
  · exact Only.ite (Only.then (Only.mono (countOpens_only ..)) (askRestart_only ..)) (Only.then (Only.mono
      (countOpens_only ..)) (complete_only ..))

theorem execLifecycleSet_body (q : Nat) (s : State) :
    BodyOnly ((touches (.lifecycleSet q)).erase .regs) s (execLifecycleSet q s) := by
  unfold execLifecycleSet
  refine .of fun d u => ?_
  split
  · exact Only.mono (complete_only ..)
  · exact Only.ite (Only.then (Only.then (Only.mono (useToken_only ..)) (newChallenge_only ..))
      (complete_only ..)) (Only.mono (complete_only ..))

theorem execDebugUnlock_body (q : Nat) (s : State) :
    BodyOnly ((touches (.debugUnlock q)).erase .regs) s (execDebugUnlock q s) := by
  unfold execDebugUnlock
  refine .of fun d u => ?_
  split
  · exact Only.mono (complete_only ..)
  · exact Only.ite (Only.then (Only.then (Only.mono (onMgmt_only ..)) (newChallenge_only ..)) (complete_only
      ..)) (Only.mono (complete_only ..))

theorem execAttest_body (q : Nat) (s : State) :
    BodyOnly ((touches (.attest q)).erase .regs) s (execAttest q s) := by
  unfold execAttest
  refine .of fun d u => ?_
  dsimp -iota -proj only
  split
  · exact Only.mono (complete_only ..)
  · exact Only.then (Only.then (Only.then (Only.mono (onMgmt_only ..)) (attestReport_only ..))
      (hostWrite_only ..)) (complete_only ..)

theorem execSensorRead_body (q : Nat) (s : State) :
    BodyOnly ((touches (.sensorRead q)).erase .regs) s (execSensorRead q s) := by
  unfold execSensorRead
  refine .of fun d u => ?_
  split
  · exact Only.mono (complete_only ..)
  · exact Only.mono (answerBuffer_only ..)

theorem execJnlConfig_only (q : Nat) (s : State) :
    NextOnly (touches (.jnlConfig q)) s (execJnlConfig q s) := by
  unfold execJnlConfig
  refine runCmd_only fun d u => ?_
  split
  · exact Only.mono (complete_only ..)
  · exact Only.then (Only.mono (setReg_only ..)) (completeRegs_only ..)

theorem execJnlCompact_body (q : Nat) (s : State) :
    BodyOnly ((touches (.jnlCompact q)).erase .regs) s (execJnlCompact q s) := by
  unfold execJnlCompact
  refine .of fun d u => ?_
  split
  · exact Only.mono (complete_only ..)
  · exact Only.upd29 (Only.refl ..)

theorem execSeesawConfig_only (q : Nat) (s : State) :
    NextOnly (touches (.seesawConfig q)) s (execSeesawConfig q s) := by
  unfold execSeesawConfig
  refine runCmd_only fun d u => ?_
  dsimp -iota -proj only
  split
  · exact Only.mono (complete_only ..)
  · exact Only.then (Only.then (Only.mono (setReg_only ..)) (modeClaim_only ..)) (completeRegs_only ..)

theorem execSeesawRelease_only (q : Nat) (s : State) :
    NextOnly (touches (.seesawRelease q)) s (execSeesawRelease q s) := by
  unfold execSeesawRelease
  refine runCmd_only fun d u => ?_
  dsimp -iota -proj only
  split
  · exact Only.mono (complete_only ..)
  · exact Only.then (Only.mono (release_only ..)) (complete_only ..)

theorem execJnlRead_body (q : Nat) (s : State) :
    BodyOnly ((touches (.jnlRead q)).erase .regs) s (execJnlRead q s) := by
  unfold execJnlRead
  refine .of fun d u => ?_
  dsimp -iota -proj only
  split
  · exact Only.mono (complete_only ..)
  · exact Only.then (Only.cond (Only.refl ..) fun _ hu => Only.then hu (opStart_only ..)) (answerBuffer_only
      ..)

/-! ### Commands of the host's register accesses, the sideband and JTAG -/

theorem execSqPiDoorbell_only (f q : Nat) (v : Word) (s : State) :
    NextOnly (touches (.sqPiDoorbell f q v)) s (execSqPiDoorbell f q v s) := by
  unfold execSqPiDoorbell
  refine branch keep (.of ?_)
  exact doorbell_only _ _ _ _ _ _ (fun _ _ => Only.mono (setQueue_only ..))
    (fun _ => Only.mono (queueRange_only ..))

theorem execCqCiDoorbell_only (f q : Nat) (v : Word) (s : State) :
    NextOnly (touches (.cqCiDoorbell f q v)) s (execCqCiDoorbell f q v s) := by
  unfold execCqCiDoorbell
  refine branch keep (.of ?_)
  exact doorbell_only _ _ _ _ _ _ (fun _ _ => Only.mono (setQueue_only ..))
    (fun _ => Only.mono (queueRange_only ..))

theorem execEqCiDoorbell_only (f r : Nat) (v : Word) (s : State) :
    NextOnly (touches (.eqCiDoorbell f r v)) s (execEqCiDoorbell f r v s) := by
  unfold execEqCiDoorbell
  refine branch keep (.of ?_)
  exact doorbell_only _ _ _ _ _ _
    (fun _ _ => Only.then (Only.mono (setRing_only ..)) (flushDrops_only ..))
    (fun _ => Only.ite (Only.refl ..) (Only.mono (ringError_only ..)))

theorem execQueueEnable_only (q : Nat) (v : Word) (s : State) :
    NextOnly (touches (.queueEnable q v)) s (execQueueEnable q v s) := by
  unfold execQueueEnable
  exact branch (.of (Only.mono (writeQcfg_only ..))) keep

theorem execQueueDisable_only (q : Nat) (v : Word) (s : State) :
    NextOnly (touches (.queueDisable q v)) s (execQueueDisable q v s) := by
  unfold execQueueDisable
  exact branch (.of (Only.mono (writeQcfg_only ..))) keep

theorem execEqEnable_only (r : Nat) (v : Word) (s : State) :
    NextOnly (touches (.eqEnable r v)) s (execEqEnable r v s) := by
  unfold execEqEnable
  exact branch (.of (Only.mono (writeEqcfg_only ..))) keep

theorem execEqDisable_only (r : Nat) (v : Word) (s : State) :
    NextOnly (touches (.eqDisable r v)) s (execEqDisable r v s) := by
  unfold execEqDisable
  exact branch (.of (Only.mono (writeEqcfg_only ..))) keep

theorem execDescriptorFetch_only (q : Nat) (ds : List (Option Fetched)) (s : State) :
    NextOnly (touches (.descriptorFetch q ds)) s (execDescriptorFetch q ds s) := by
  unfold execDescriptorFetch
  dsimp -iota -proj only
  refine branch keep (.of (Only.then (Only.then ?_ (fetchEach_only ..)) (skipUndefined_only ..)))
  exact Only.upd25 (Only.refl ..)

theorem execInterruptTimerExpiry_only (event : Bool) (n : Nat) (s : State) :
    NextOnly (touches (.interruptTimerExpiry event n)) s (execInterruptTimerExpiry event n s) := by
  unfold execInterruptTimerExpiry
  refine branch ?_ ?_
  · dsimp -iota -proj only
    exact branch keep (.of (Only.cond (Only.mono (setRing_only ..)) fun _ hu => Only.then hu (fire_only ..)))
  · dsimp -iota -proj only
    exact branch keep (.of (Only.cond (Only.mono (setQueue_only ..)) fun _ hu => Only.then hu (fire_only
      ..)))

theorem execFunctionLevelReset_only (f : Nat) (s : State) :
    NextOnly (touches (.functionLevelReset f)) s (execFunctionLevelReset f s) := by
  unfold execFunctionLevelReset
  exact branch (.of (Only.then (Only.then (Only.mono (resetConfig_only ..)) (resetFunction_only ..))
    (fire_only ..))) keep

theorem execPerstNAssert_only (s : State) :
    NextOnly (touches .perstNAssert) s (execPerstNAssert s) := by
  unfold execPerstNAssert
  refine branch keep (.of (Only.then ?_ (hostReset_only ..)))
  exact Only.upd44 (Only.refl ..)

theorem execPerstNDeassert_only (s : State) :
    NextOnly (touches .perstNDeassert) s (execPerstNDeassert s) := by
  unfold execPerstNDeassert
  refine branch keep ?_
  dsimp -iota -proj only
  exact .of (Only.upd21 (Only.upd44 (Only.refl ..)))

theorem execWarmReset_only (v : Word) (b : BootInput) (s : State) :
    NextOnly (touches (.warmReset v b)) s (execWarmReset v b s) := by
  unfold execWarmReset
  refine branch keep (branch (.of (Only.mono (badMagic_only ..))) ?_)
  dsimp -iota -proj only
  exact .of (Only.then (Only.then (Only.then (Only.then (Only.mono (resetFlash_only ..)) (release_only ..))
    (warmWipe_only ..)) (onPwr_only ..)) (startFromTwo_only ..))

theorem execResume_only (v : Word) (faults : List MemFault) (s : State) :
    NextOnly (touches (.resume v faults)) s (execResume v faults s) := by
  unfold execResume
  refine branch keep (branch (.of (Only.mono (badMagic_only ..))) (branch (.of (Only.mono (raise_only ..)))
    ?_))
  dsimp -iota -proj only
  exact .of (Only.then (Only.then (Only.mono (onPwr_only ..)) (reportDebug_only ..)) (laterSteps_only ..))

theorem execShutdown_only (v : Word) (s : State) :
    NextOnly (touches (.shutdown v)) s (execShutdown v s) := by
  unfold execShutdown
  exact branch keep (branch (.of (Only.mono (badMagic_only ..))) (branch keep (.of (Only.then (Only.then
    (Only.mono (onPwr_only ..)) (quiesce_only ..)) (powerDown_only ..)))))

theorem execLockSet_only (v : Word) (s : State) :
    NextOnly (touches (.lockSet v)) s (execLockSet v s) := by
  unfold execLockSet
  exact branch (.of (Only.mono (setLock_only ..))) keep

theorem execCoreInjectArm_only (v : Word) (s : State) :
    NextOnly (touches (.coreInjectArm v)) s (execCoreInjectArm v s) := by
  unfold execCoreInjectArm
  refine branch keep ?_
  dsimp -iota -proj only
  exact .of (Only.mono (setReg_only ..))

theorem execSecInjectArm_only (v : Word) (s : State) :
    NextOnly (touches (.secInjectArm v)) s (execSecInjectArm v s) := by
  unfold execSecInjectArm
  exact branch keep (.of (Only.mono (setReg_only ..)))

theorem execHuntRestart_only (l : Nat) (v : Word) (s : State) :
    NextOnly (touches (.huntRestart l v)) s (execHuntRestart l v s) := by
  unfold execHuntRestart
  refine branch keep ?_
  dsimp -iota -proj only
  exact .of (Only.ite (Only.then (Only.mono (setReg_only ..)) (loseAlignment_only ..)) (Only.mono
    (setReg_only ..)))

theorem execTrainRestart_only (l : Nat) (v : Word) (s : State) :
    NextOnly (touches (.trainRestart l v)) s (execTrainRestart l v s) := by
  unfold execTrainRestart
  refine branch keep ?_
  dsimp -iota -proj only
  exact branch (.of (Only.then (Only.mono (setReg_only ..)) (restartTraining_only ..))) (.of (Only.mono
    (setReg_only ..)))

theorem execLaneEnable_only (l : Nat) (v : Word) (s : State) :
    NextOnly (touches (.laneEnable l v)) s (execLaneEnable l v s) := by
  unfold execLaneEnable
  exact branch (.of (Only.mono (writeLnCfg_only ..))) keep

theorem execLaneDisable_only (l : Nat) (v : Word) (s : State) :
    NextOnly (touches (.laneDisable l v)) s (execLaneDisable l v s) := by
  unfold execLaneDisable
  exact branch (.of (Only.mono (writeLnCfg_only ..))) keep

theorem execPortEnable_only (p : Nat) (v : Word) (s : State) :
    NextOnly (touches (.portEnable p v)) s (execPortEnable p v s) := by
  unfold execPortEnable
  exact branch (.of (Only.mono (writePortCfg_only ..))) keep

theorem execPortDisable_only (p : Nat) (v : Word) (s : State) :
    NextOnly (touches (.portDisable p v)) s (execPortDisable p v s) := by
  unfold execPortDisable
  exact branch (.of (Only.mono (writePortCfg_only ..))) keep

theorem execTdCfgWrite_only (p : Nat) (v : Word) (s : State) :
    NextOnly (touches (.tdCfgWrite p v)) s (execTdCfgWrite p v s) := by
  unfold execTdCfgWrite
  exact branch (.of (Only.mono (writeTdCfg_only ..))) keep

theorem execPerfCounterWrite_only (off : Nat) (v : Word) (s : State) :
    NextOnly (touches (.perfCounterWrite off v)) s (execPerfCounterWrite off v s) := by
  unfold execPerfCounterWrite
  dsimp -iota -proj only
  refine branch (.of (Only.mono (perfThrough_only ..))) ?_
  split
  · exact .of (Only.upd13 (Only.mono (perfThrough_only ..)))
  · exact .of (Only.upd40 (Only.mono (perfThrough_only ..)))
  · exact .of (Only.mono (perfThrough_only ..))

theorem execPerfSelectWrite_only (off : Nat) (v : Word) (s : State) :
    NextOnly (touches (.perfSelectWrite off v)) s (execPerfSelectWrite off v s) := by
  unfold execPerfSelectWrite
  exact branch keep (.of (Only.then (Only.then (Only.mono (perfThrough_only ..)) (keepSel_only ..))
    (putReg_only ..)))

theorem execPerfHoldClear_only (v : Word) (s : State) :
    NextOnly (touches (.perfHoldClear v)) s (execPerfHoldClear v s) := by
  unfold execPerfHoldClear
  exact .of (Only.mono (writePerfCtrl_only ..))

theorem execPerfFreezeWrite_only (v : Word) (s : State) :
    NextOnly (touches (.perfFreezeWrite v)) s (execPerfFreezeWrite v s) := by
  unfold execPerfFreezeWrite
  exact .of (Only.mono (writePerfCtrl_only ..))

theorem execRegReadClear_only (a : HostAddr) (s : State) :
    NextOnly (touches (.regReadClear a)) s (execRegReadClear a s) := by
  unfold execRegReadClear
  refine branch keep ?_
  split
  · exact .of (Only.mono (hostRead_only ..))
  · exact .of (Only.mono (onBus_only ..))
  · exact .of (Only.mono (onBus_only ..))
  · exact .of (Only.mono (onBus_only ..))
  · exact .of (Only.mono (onBus_only ..))

theorem execReg64LowRead_only (off : Nat) (s : State) :
    NextOnly (touches (.reg64LowRead off)) s (execReg64LowRead off s) := by
  unfold execReg64LowRead
  exact branch (.of (Only.mono (hostRead_only ..))) keep

theorem execReg64HighWrite_only (off : Nat) (v : Word) (s : State) :
    NextOnly (touches (.reg64HighWrite off v)) s (execReg64HighWrite off v s) := by
  unfold execReg64HighWrite
  refine branch keep (branch (.of (Only.mono (applyHigh_only ..))) ?_)
  obtain ⟨t, ht, hs⟩ := execPerfCounterWrite_only off v s
  exact ⟨t, ht, Only.mono hs⟩

theorem execTodSecRead_only (s : State) :
    NextOnly (touches .todSecRead) s (execTodSecRead s) := by
  unfold execTodSecRead
  refine branch keep ?_
  dsimp -iota -proj only
  exact .of (Only.upd67 (Only.refl ..))

theorem execBar0AccessRefused_only (write : Bool) (off size : Nat) (s : State) :
    NextOnly (touches (.bar0AccessRefused write off size)) s (execBar0AccessRefused write off size s) := by
  unfold execBar0AccessRefused
  refine branch keep ?_
  dsimp -iota -proj only
  exact .of (Only.ite (Only.then (Only.mono (rcSet_only ..)) (count_only ..)) (Only.then (Only.then
    (Only.mono (rcSet_only ..)) (count_only ..)) (onBus_only ..)))

theorem execBankWindowAccess_only (off size : Nat) (data : WindowData) (s : State) :
    NextOnly (touches (.bankWindowAccess off size data)) s (execBankWindowAccess off size data s) := by
  unfold execBankWindowAccess
  dsimp -iota -proj only
  refine branch keep ?_
  split
  next x t hx =>
    have ht : Only (touches (.bankWindowAccess off size data)) s t := by
      refine only_of_pair hx ?_
      split
      · exact Only.then (Only.upd1 (Only.refl ..)) (accessStep_only ..)
      · exact Only.then (Only.then (Only.upd1 (Only.refl ..)) (accessStep_only ..)) (draw_only _)
      · exact Only.then (Only.upd1 (Only.refl ..)) (accessStep_only ..)
    exact .of (Only.ite (Only.upd19 ht) ht)

theorem execRegisterWrite_only (a : HostAddr) (v : Word) (s : State) :
    NextOnly (touches (.registerWrite a v)) s (execRegisterWrite a v s) := by
  unfold execRegisterWrite
  refine branch keep ?_
  split
  · exact keep
  · exact keep
  · exact keep
  · exact .of (Only.ite (Only.mono (writeVfMsix_only ..)) (Only.refl ..))
  · exact .of (Only.mono (writeBar0_only ..))

theorem execSmbIdent_only (s : State) :
    NextOnly (touches .smbIdent) s (execSmbIdent s) := by
  unfold execSmbIdent
  exact .of (Only.mono (smbReply_only ..))

theorem execSmbPowerState_only (s : State) :
    NextOnly (touches .smbPowerState) s (execSmbPowerState s) := by
  unfold execSmbPowerState
  exact .of (Only.mono (smbReply_only ..))

theorem execSmbSeesaw_only (s : State) :
    NextOnly (touches .smbSeesaw) s (execSmbSeesaw s) := by
  unfold execSmbSeesaw
  exact .of (Only.mono (smbReply_only ..))

theorem execSmbTempMax_only (s : State) :
    NextOnly (touches .smbTempMax) s (execSmbTempMax s) := by
  unfold execSmbTempMax
  exact .of (Only.mono (smbWord_only ..))

theorem execSmbTempAll_only (s : State) :
    NextOnly (touches .smbTempAll) s (execSmbTempAll s) := by
  unfold execSmbTempAll
  exact .of (Only.mono (smbReply_only ..))

theorem execSmbVin_only (s : State) :
    NextOnly (touches .smbVin) s (execSmbVin s) := by
  unfold execSmbVin
  exact .of (Only.mono (smbWord_only ..))

theorem execSmbIin_only (s : State) :
    NextOnly (touches .smbIin) s (execSmbIin s) := by
  unfold execSmbIin
  exact .of (Only.mono (smbWord_only ..))

theorem execSmbPin_only (s : State) :
    NextOnly (touches .smbPin) s (execSmbPin s) := by
  unfold execSmbPin
  exact .of (Only.mono (smbWord_only ..))

theorem execSmbDomains_only (s : State) :
    NextOnly (touches .smbDomains) s (execSmbDomains s) := by
  unfold execSmbDomains
  exact .of (Only.mono (smbReply_only ..))

theorem execSmbOven_only (s : State) :
    NextOnly (touches .smbOven) s (execSmbOven s) := by
  unfold execSmbOven
  exact .of (Only.mono (smbWord_only ..))

theorem execSmbEventSummary_only (s : State) :
    NextOnly (touches .smbEventSummary) s (execSmbEventSummary s) := by
  unfold execSmbEventSummary
  exact .of (Only.mono (smbReply_only ..))

theorem execSmbEventAck_only (v : Byte) (s : State) :
    NextOnly (touches (.smbEventAck v)) s (execSmbEventAck v s) := by
  unfold execSmbEventAck
  refine branch (.of ?_) keep
  exact Only.upd50 (Only.refl ..)

theorem execSmbAlertResponse_only (s : State) :
    NextOnly (touches .smbAlertResponse) s (execSmbAlertResponse s) := by
  unfold execSmbAlertResponse
  exact .of (Only.mono (smbReply_only ..))

theorem execJtagBypass_only (s : State) :
    NextOnly (touches .jtagBypass) s (execJtagBypass s) := by
  unfold execJtagBypass
  exact .of (Only.mono (jtagLoad_only ..))

theorem execJtagIdcode_only (s : State) :
    NextOnly (touches .jtagIdcode) s (execJtagIdcode s) := by
  unfold execJtagIdcode
  exact .of (Only.mono (jtagLoad_only ..))

theorem execJtagSamplePreload_only (data : List Bool) (s : State) :
    NextOnly (touches (.jtagSamplePreload data)) s (execJtagSamplePreload data s) := by
  unfold execJtagSamplePreload
  refine .of (Only.ite (Only.then ?_ (jtagLoad_only ..)) (Only.refl ..))
  exact Only.upd30 (Only.refl ..)

theorem execJtagExtest_only (s : State) :
    NextOnly (touches .jtagExtest) s (execJtagExtest s) := by
  unfold execJtagExtest
  exact .of (Only.mono (jtagLoad_only ..))

theorem execJtagClamp_only (s : State) :
    NextOnly (touches .jtagClamp) s (execJtagClamp s) := by
  unfold execJtagClamp
  exact .of (Only.mono (jtagLoad_only ..))

theorem execJtagHighz_only (s : State) :
    NextOnly (touches .jtagHighz) s (execJtagHighz s) := by
  unfold execJtagHighz
  exact .of (Only.mono (jtagLoad_only ..))

theorem execDbgAccess_only (s : State) :
    NextOnly (touches .dbgAccess) s (execDbgAccess s) := by
  unfold execDbgAccess
  refine .of (Only.ite ?_ (Only.refl ..))
  exact Only.upd30 (Only.refl ..)

theorem execPcieLinkChange_only (up : Bool) (speed width : Nat) (flit : LinkSetup) (s : State) :
    NextOnly (touches (.pcieLinkChange up speed width flit)) s (execPcieLinkChange up speed width flit s) :=
      by
  unfold execPcieLinkChange
  refine branch keep (branch (.of ?_) (.of ?_))
  · exact Only.upd16 (Only.refl ..)
  · exact Only.upd15 (Only.refl ..)

/-! ### Commands of tick, engines, core, lanes and ports -/

theorem execTickEdge_only (s : State) :
    NextOnly (touches .tickEdge) s (execTickEdge s) := by
  unfold execTickEdge
  exact branch (.of (Only.then (Only.then (Only.then (Only.mono (edgeTime_only ..)) (edgeClose_only ..))
    (edgeFirmware_only ..)) (edgeOpen_only ..))) keep

theorem execTickOverrun_only (e : Nat) (s : State) :
    NextOnly (touches (.tickOverrun e)) s (execTickOverrun e s) := by
  unfold execTickOverrun
  dsimp -iota -proj only
  exact branch keep (.of (Only.ite (Only.then (Only.then (Only.then (Only.then (Only.mono (setEng_only ..))
    (count_only ..)) (engineEv_only ..)) (overrunGroups_only ..)) (haltEngine_only ..)) (Only.then
    (Only.then (Only.then (Only.mono (setEng_only ..)) (count_only ..)) (engineEv_only ..))
    (overrunGroups_only ..))))

theorem execEngineHalt_only (e : Nat) (s : State) :
    NextOnly (touches (.engineHalt e)) s (execEngineHalt e s) := by
  unfold execEngineHalt
  exact branch keep (.of (Only.mono (haltEngine_only ..)))

theorem execClusterMigration_only (c : Nat) (s : State) :
    NextOnly (touches (.clusterMigration c)) s (execClusterMigration c s) := by
  unfold execClusterMigration
  split
  · exact keep
  · refine branch keep ?_
    dsimp -iota -proj only
    exact .of (Only.ite (Only.then (Only.then (Only.then (Only.then (Only.then (Only.mono (moveBanks_only
      ..)) (onEngines_only ..)) (perfCatch_only ..)) (mapCluster_only ..)) (setCl_only ..)) (takeTarget_only
      ..)) (Only.then (Only.then (Only.then (Only.then (Only.mono (moveBanks_only ..)) (onEngines_only ..))
      (perfCatch_only ..)) (mapCluster_only ..)) (setCl_only ..)))

theorem execClusterReady_only (c : Nat) (s : State) :
    NextOnly (touches (.clusterReady c)) s (execClusterReady c s) := by
  unfold execClusterReady
  split
  · exact keep
  · exact branch keep (.of (Only.then (Only.mono (mapCluster_only ..)) (onEngines_only ..)))

theorem execClusterReturn_only (c : Nat) (s : State) :
    NextOnly (touches (.clusterReturn c)) s (execClusterReturn c s) := by
  unfold execClusterReturn
  split
  · exact keep
  · split
    · exact keep
    · refine branch keep ?_
      dsimp -iota -proj only
      exact .of (Only.then (Only.then (Only.then (Only.then (Only.mono (moveBanks_only ..)) (onEngines_only
        ..)) (perfCatch_only ..)) (mapCluster_only ..)) (setCl_only ..))

theorem execFabricMessage_only (src dst : Nat) (msg : BitVec 128) (s : State) :
    NextOnly (touches (.fabricMessage src dst msg)) s (execFabricMessage src dst msg s) := by
  unfold execFabricMessage
  refine branch keep ?_
  dsimp -iota -proj only
  exact .of (Only.then (Only.mono (engineEv_only ..)) (setEng_only ..))

theorem execCoreStep_only (k : Nat) (s : State) :
    NextOnly (touches (.coreStep k)) s (execCoreStep k s) := by
  unfold execCoreStep
  refine branch keep ?_
  dsimp -iota -proj only
  refine branch (.of (Only.upd7 (Only.refl ..))) ?_
  split
  next ws u hu =>
    have h : Only (touches (.coreStep k)) s u := Only.then (Only.upd7 (Only.refl ..)) (ingressAll_only' hu)
    exact .of (Only.all h fun _ _ hu => Only.then hu (spaceStep_only ..))

theorem execEgressRowRead_only (m : Nat) (s : State) :
    NextOnly (touches (.egressRowRead m)) s (execEgressRowRead m s) := by
  unfold execEgressRowRead
  refine branch keep (.of (Only.all ?_ fun _ _ hu => Only.then hu (rowReadLane_only ..)))
  exact Only.upd7 (Only.refl ..)

theorem execTrainingFrameRx_only (l : Nat) (fr : TrainFrame) (s : State) :
    NextOnly (touches (.trainingFrameRx l fr)) s (execTrainingFrameRx l fr s) := by
  unfold execTrainingFrameRx
  dsimp -iota -proj only
  exact branch keep (branch (branch (.of (Only.mono (restartTraining_only ..))) (.of (Only.mono
    (setLane_only
    ..)))) (branch keep (.of (Only.mono (setLane_only ..)))))

theorem execTrainingTimeout_only (l timer : Nat) (s : State) :
    NextOnly (touches (.trainingTimeout l timer)) s (execTrainingTimeout l timer s) := by
  unfold execTrainingTimeout
  exact branch (.of (Only.mono (trainFailure_only ..))) keep

theorem execElectricalIdleEnd_only (l : Nat) (s : State) :
    NextOnly (touches (.electricalIdleEnd l)) s (execElectricalIdleEnd l s) := by
  unfold execElectricalIdleEnd
  exact branch (.of (Only.mono (startTraining_only ..))) keep

theorem execCodewordRx_only (l : Nat) (c : CodewordIn) (s : State) :
    NextOnly (touches (.codewordRx l c)) s (execCodewordRx l c s) := by
  unfold execCodewordRx
  dsimp -iota -proj only
  exact branch keep (branch (branch (.of (Only.then (Only.mono (countCodeword_only ..)) (lockedStep_only ..)))
    keep) (branch (.of (Only.then (Only.mono (huntStep_only ..)) (advancePort_only ..))) keep))

theorem execCodewordHuntTimeout_only (l : Nat) (s : State) :
    NextOnly (touches (.codewordHuntTimeout l)) s (execCodewordHuntTimeout l s) := by
  unfold execCodewordHuntTimeout
  exact branch (.of (Only.mono (restartTraining_only ..))) keep

theorem execLaneSignalChange_only (l : Nat) (signal cdr : Bool) (s : State) :
    NextOnly (touches (.laneSignalChange l signal cdr)) s (execLaneSignalChange l signal cdr s) := by
  unfold execLaneSignalChange
  refine branch keep ?_
  dsimp -iota -proj only
  exact .of (Only.mono (setLane_only ..))

theorem execRowRx_only (l pos cclk : Nat) (bytes : Bytes) (s : State) :
    NextOnly (touches (.rowRx l pos cclk bytes)) s (execRowRx l pos cclk bytes s) := by
  unfold execRowRx
  dsimp -iota -proj only
  refine branch keep (branch keep (branch (.of (Only.then (Only.then (Only.cond (Only.then ?_
    (closeGroup_only
    ..)) fun _ hu => Only.then (Only.then hu (count_only ..)) (raise_only ..)) (syncRow_only ..))
    (advancePort_only ..))) (.of (Only.then (Only.cond (Only.then ?_ (closeGroup_only ..)) fun _ hu =>
    Only.then (Only.then hu (count_only ..)) (raise_only ..)) (setLane_only ..)))))
  · exact Only.upd7 (Only.refl ..)
  · exact Only.upd7 (Only.refl ..)

theorem execSrmRx_only (l : Nat) (w : Word) (s : State) :
    NextOnly (touches (.srmRx l w)) s (execSrmRx l w s) := by
  unfold execSrmRx
  split
  · exact keep
  · dsimp -iota -proj only
    refine branch (.of ?_) (branch (.of (Only.then ?_ (count_only ..))) ?_)
    · exact Only.upd43 (Only.refl ..)
    · exact Only.upd43 (Only.refl ..)
    · split
      · refine .of (Only.then ?_ (count_only ..))
        exact Only.upd43 (Only.refl ..)
      · refine branch (.of (Only.then ?_ (count_only ..))) (branch (.of (Only.then ?_ (count_only ..)))
          (branch
          (.of (Only.then ?_ (count_only ..))) (.of (Only.then ?_ (heardMsg_only ..)))))
        · exact Only.upd43 (Only.refl ..)
        · exact Only.upd43 (Only.refl ..)
        · exact Only.upd43 (Only.refl ..)
        · exact Only.upd43 (Only.refl ..)

theorem execCapabilityFrameRx_only (l : Nat) (payload : Bytes) (s : State) :
    NextOnly (touches (.capabilityFrameRx l payload)) s (execCapabilityFrameRx l payload s) := by
  unfold execCapabilityFrameRx
  split
  · exact keep
  next u hu =>
    have h := takeFrame_only hu
    exact branch (.of (Only.then (Only.mono h) (capTake_only ..))) (.of (Only.mono h))

theorem execCapabilitySend_only (p : Nat) (s : State) :
    NextOnly (touches (.capabilitySend p)) s (execCapabilitySend p s) := by
  unfold execCapabilitySend
  split
  · exact keep
  · dsimp -iota -proj only
    exact branch keep (.of (Only.then (Only.mono (sendFrame_only ..)) (setPort_only ..)))

theorem execCapabilityTimeout_only (p : Nat) (s : State) :
    NextOnly (touches (.capabilityTimeout p)) s (execCapabilityTimeout p s) := by
  unfold execCapabilityTimeout
  dsimp -iota -proj only
  exact branch (.of (Only.then (Only.then (Only.mono (setPort_only ..)) (count_only ..)) (raise_only ..)))
    keep

theorem execCapabilitySilence_only (p : Nat) (s : State) :
    NextOnly (touches (.capabilitySilence p)) s (execCapabilitySilence p s) := by
  unfold execCapabilitySilence
  dsimp -iota -proj only
  exact branch (.of (Only.mono (setPort_only ..))) keep

theorem execPerfCounterWrap_only (k : Nat) (s : State) :
    NextOnly (touches (.perfCounterWrap k)) s (execPerfCounterWrap k s) := by
  unfold execPerfCounterWrap
  dsimp -iota -proj only
  refine branch (.of (Only.then ?_ (overflowEvent_only ..))) (branch (.of (Only.then ?_ (overflowEvent_only
    ..))) keep)
  · exact Only.upd40 (Only.refl ..)
  · exact Only.upd40 (Only.upd40 (Only.refl ..))

theorem execTrainingFrameTx_only (l : Nat) (s : State) :
    NextOnly (touches (.trainingFrameTx l)) s (execTrainingFrameTx l s) := by
  unfold execTrainingFrameTx
  dsimp -iota -proj only
  refine branch keep ?_
  split
  next v u hu =>
    exact .of (Only.cond (Only.then (Only.mono (tapValue_only' hu)) (setLane_only ..)) fun _ hu =>
      Only.then hu (beginCodewords_only ..))

/-! ### Commands of power, start-up and the twin -/

theorem execVinGood_only (b : BootInput) (s : State) :
    NextOnly (touches (.vinGood b)) s (execVinGood b s) := by
  unfold execVinGood
  refine branch keep ?_
  dsimp -iota -proj only
  refine .of (Only.ite ?_ (Only.then ?_ (startUpFresh_only ..)))
  · exact Only.upd44 (Only.refl ..)
  · exact Only.upd44 (Only.refl ..)

theorem execVinLost_only (s : State) :
    NextOnly (touches .vinLost) s (execVinLost s) := by
  unfold execVinLost
  exact branch (.of (Only.mono (loseVin_only ..))) keep

theorem execVinOvervoltage_only (s : State) :
    NextOnly (touches .vinOvervoltage) s (execVinOvervoltage s) := by
  unfold execVinOvervoltage
  exact branch (.of (Only.mono (loseVin_only ..))) keep

theorem execInputOvercurrent_only (s : State) :
    NextOnly (touches .inputOvercurrent) s (execInputOvercurrent s) := by
  unfold execInputOvercurrent
  refine branch ?_ keep
  dsimp -iota -proj only
  exact .of (Only.upd44 (Only.mono (loseVin_only ..)))

theorem execPorNAssert_only (s : State) :
    NextOnly (touches .porNAssert) s (execPorNAssert s) := by
  unfold execPorNAssert
  refine branch keep ?_
  dsimp -iota -proj only
  exact .of (Only.upd44 (Only.then (Only.mono (resetFlash_only ..)) (fullReset_only ..)))

theorem execPorNDeassert_only (b : BootInput) (s : State) :
    NextOnly (touches (.porNDeassert b)) s (execPorNDeassert b s) := by
  unfold execPorNDeassert
  refine branch keep ?_
  dsimp -iota -proj only
  refine .of (Only.ite (Only.then ?_ (startUpFresh_only ..)) ?_)
  · exact Only.upd44 (Only.refl ..)
  · exact Only.upd44 (Only.refl ..)

theorem execStartupStepLate_only (n : Nat) (s : State) :
    NextOnly (touches (.startupStepLate n)) s (execStartupStepLate n s) := by
  unfold execStartupStepLate
  refine branch keep ?_
  dsimp -iota -proj only
  exact .of (Only.ite (Only.then (Only.then (Only.then (Only.mono (onPwr_only ..)) (count_only ..))
    (raise_only ..)) (beginTen_only ..)) (Only.then (Only.then (Only.mono (onPwr_only ..)) (count_only ..))
    (raise_only ..)))

theorem execSeesawDecisionTimeout_only (s : State) :
    NextOnly (touches .seesawDecisionTimeout) s (execSeesawDecisionTimeout s) := by
  unfold execSeesawDecisionTimeout
  dsimp -iota -proj only
  exact branch (.of (Only.mono (decideClaim_only ..))) keep

theorem execTodFrameRx_only (payload : Bytes) (s : State) :
    NextOnly (touches (.todFrameRx payload)) s (execTodFrameRx payload s) := by
  unfold execTodFrameRx
  split
  · exact keep
  next l u hu =>
    have h : Only (touches (.todFrameRx payload)) s u := Only.mono (pxFrame_only hu)
    dsimp -iota -proj only
    split
    · exact .of h
    · exact branch (.of h) (.of (Only.upd53 h))

theorem execTodFrameSend_only (s : State) :
    NextOnly (touches .todFrameSend) s (execTodFrameSend s) := by
  unfold execTodFrameSend
  dsimp -iota -proj only
  split
  · exact keep
  · refine branch keep (.of (Only.then ?_ (sendFrame_only ..)))
    exact Only.upd53 (Only.refl ..)

theorem execHeartbeatRx_only (payload : Bytes) (s : State) :
    NextOnly (touches (.heartbeatRx payload)) s (execHeartbeatRx payload s) := by
  unfold execHeartbeatRx
  split
  · exact keep
  next l u hu =>
    have h := pxFrame_only hu
    exact .of (Only.ite (Only.mono h) (Only.then (Only.mono h) (takeHeartbeat_only ..)))

theorem execHeartbeatSend_only (s : State) :
    NextOnly (touches .heartbeatSend) s (execHeartbeatSend s) := by
  unfold execHeartbeatSend
  dsimp -iota -proj only
  exact branch (.of (Only.then (Only.mono (sendPx_only ..)) (onSsw_only ..))) keep

theorem execHeartbeatPathFail_only (px : Bool) (s : State) :
    NextOnly (touches (.heartbeatPathFail px)) s (execHeartbeatPathFail px s) := by
  unfold execHeartbeatPathFail
  dsimp -iota -proj only
  exact branch (branch (.of (Only.then (Only.mono (onSsw_only ..)) (raise_only ..))) (.of (Only.then
    (Only.then
    (Only.then (Only.then (Only.mono (onSsw_only ..)) (raise_only ..)) (onSsw_only ..)) (count_only ..))
    (raise_only ..)))) keep

theorem execPeerReset_only (s : State) :
    NextOnly (touches .peerReset) s (execPeerReset s) := by
  unfold execPeerReset
  dsimp -iota -proj only
  exact branch (.of (Only.then (Only.mono (onSsw_only ..)) (count_only ..))) keep

theorem execCopyDataRx_only (payload : Bytes) (s : State) :
    NextOnly (touches (.copyDataRx payload)) s (execCopyDataRx payload s) := by
  unfold execCopyDataRx
  refine branch keep ?_
  split
  · exact keep
  next l u hu =>
    have h := pxFrame_only hu
    exact branch (.of (Only.mono h)) (.of (Only.then (Only.mono h) (copyData_only ..)))

theorem execCopyAckRx_only (payload : Bytes) (s : State) :
    NextOnly (touches (.copyAckRx payload)) s (execCopyAckRx payload s) := by
  unfold execCopyAckRx
  refine branch keep ?_
  split
  · exact keep
  next l u hu =>
    have h : Only (touches (.copyAckRx payload)) s u := Only.mono (pxFrame_only hu)
    dsimp -iota -proj only
    exact branch (.of h) (.of (Only.then (Only.ite
      (Only.then (Only.then h (onCopy_only ..)) (setCopySt_only ..)) (Only.then h (onCopy_only ..)))
      (settleWaiters_only ..)))

theorem execCopyResendRx_only (payload : Bytes) (s : State) :
    NextOnly (touches (.copyResendRx payload)) s (execCopyResendRx payload s) := by
  unfold execCopyResendRx
  refine branch keep ?_
  split
  · exact keep
  next l u hu =>
    have h : Only (touches (.copyResendRx payload)) s u := Only.mono (pxFrame_only hu)
    exact branch (.of h) (branch (.of (Only.then (Only.then h (count_only ..)) (stopCopy_only ..)))
      (.of (Only.then (Only.then h (count_only ..)) (onCopy_only ..))))

theorem execCopyGapTimeout_only (s : State) :
    NextOnly (touches .copyGapTimeout) s (execCopyGapTimeout s) := by
  unfold execCopyGapTimeout
  split
  · exact branch (.of (Only.mono (askResend_only ..))) keep
  · exact keep

theorem execCopyAckSend_only (s : State) :
    NextOnly (touches .copyAckSend) s (execCopyAckSend s) := by
  unfold execCopyAckSend
  exact branch (.of (Only.mono (sendAck_only ..))) keep

theorem execSswActInFall_only (s : State) :
    NextOnly (touches .sswActInFall) s (execSswActInFall s) := by
  unfold execSswActInFall
  dsimp -iota -proj only
  exact branch keep (.of (Only.ite (Only.then (Only.mono (onSsw_only ..)) (raise_only ..)) (Only.mono
    (onSsw_only ..))))

theorem execSswActInRise_only (s : State) :
    NextOnly (touches .sswActInRise) s (execSswActInRise s) := by
  unfold execSswActInRise
  dsimp -iota -proj only
  exact branch (.of (Only.ite (Only.then (Only.mono (onSsw_only ..)) (release_only ..)) (Only.mono
    (onSsw_only
    ..)))) (.of (Only.ite (Only.then (Only.mono (onSsw_only ..)) (setRole_only ..)) (Only.mono (onSsw_only
    ..))))

theorem execClaim_only (s : State) :
    NextOnly (touches .claim) s (execClaim s) := by
  unfold execClaim
  exact branch (.of (Only.mono (claimLine_only ..))) keep

theorem execClaimEnHoldExpiry_only (s : State) :
    NextOnly (touches .claimEnHoldExpiry) s (execClaimEnHoldExpiry s) := by
  unfold execClaimEnHoldExpiry
  refine branch keep ?_
  dsimp -iota -proj only
  exact .of (Only.ite (Only.then (Only.mono (onSsw_only ..)) (setClaimEn_only ..)) (Only.mono (onSsw_only
    ..)))

theorem execTrafficStateRelease_only (s : State) :
    NextOnly (touches .trafficStateRelease) s (execTrafficStateRelease s) := by
  unfold execTrafficStateRelease
  exact branch keep (.of (Only.then (Only.then (Only.then (Only.mono (abandonPages_only ..)) (zeroPages_only
    ..)) (onSsw_only ..)) (refreshModel_only ..)))

theorem execPortDomainPowerDown_only (d : Nat) (s : State) :
    NextOnly (touches (.portDomainPowerDown d)) s (execPortDomainPowerDown d s) := by
  unfold execPortDomainPowerDown
  dsimp -iota -proj only
  exact branch (.of (Only.then (Only.mono (count_only ..)) (domainOff_only ..))) keep

theorem execWireHeartbeatRx_only (s : State) :
    NextOnly (touches .wireHeartbeatRx) s (execWireHeartbeatRx s) := by
  unfold execWireHeartbeatRx
  exact branch keep (.of (Only.mono (pathAlive_only ..)))

theorem execCopyTimeout_only (s : State) :
    NextOnly (touches .copyTimeout) s (execCopyTimeout s) := by
  unfold execCopyTimeout
  dsimp -iota -proj only
  exact .of (Only.then (Only.mono (releaseWaiters_only ..)) (settleWaiters_only ..))

theorem execPeerRstOutEnd_only (s : State) :
    NextOnly (touches .peerRstOutEnd) s (execPeerRstOutEnd s) := by
  unfold execPeerRstOutEnd
  exact branch (.of (Only.mono (onSsw_only ..))) keep

theorem execPortDomainPowered_only (d : Nat) (s : State) :
    NextOnly (touches (.portDomainPowered d)) s (execPortDomainPowered d s) := by
  unfold execPortDomainPowered
  exact branch (.of (Only.then (Only.mono (count_only ..)) (domainOn_only ..))) keep

/-! ### Commands of pages, protection, monitoring and timing -/

theorem execSwapCommit_only (s : State) :
    NextOnly (touches .swapCommit) s (execSwapCommit s) := by
  unfold execSwapCommit
  split
  · split
    · exact .of (Only.ite (Only.mono (onPage_only ..)) (Only.refl ..))
    · exact keep
  · exact keep

theorem execPageSwap_only (s : State) :
    NextOnly (touches .pageSwap) s (execPageSwap s) := by
  unfold execPageSwap
  split
  · split
    · exact .of (Only.ite (Only.mono (doSwap_only ..)) (Only.refl ..))
    · exact keep
  · exact keep

theorem execResyncDone_only (s : State) :
    NextOnly (touches .resyncDone) s (execResyncDone s) := by
  unfold execResyncDone
  refine branch ?_ keep
  dsimp -iota -proj only
  exact .of (Only.then (Only.then (Only.then (Only.then (Only.mono (resyncEcc_only ..)) (writeStandby_only
    ..)) (onPage_only ..)) (perfEv_only ..)) (kickAll_only ..))

theorem execStepLend_only (k : Nat) (s : State) :
    NextOnly (touches (.stepLend k)) s (execStepLend k s) := by
  unfold execStepLend
  split
  · exact keep
  · dsimp -iota -proj only
    exact branch (.of (Only.mono (onAbacus_only ..))) (.of (Only.ite (Only.then (Only.then (Only.then
      (Only.mono (onAbacus_only ..)) (setLent_only ..)) (count_only ..)) (testStep_only ..)) (Only.then
      (Only.then (Only.then (Only.mono (onAbacus_only ..)) (setLent_only ..)) (count_only ..)) (onMtest_only
      ..))))

theorem execStepVacateRequest_only (k : Nat) (s : State) :
    NextOnly (touches (.stepVacateRequest k)) s (execStepVacateRequest k s) := by
  unfold execStepVacateRequest
  refine branch keep ?_
  dsimp -iota -proj only
  exact branch (.of (Only.mono (onMtest_only ..))) (branch (.of (Only.then (Only.mono (onMtest_only ..))
    (onAbacus_only ..))) (.of (Only.then (Only.mono (onMtest_only ..)) (request_only ..))))

theorem execStepReturn_only (k : Nat) (s : State) :
    NextOnly (touches (.stepReturn k)) s (execStepReturn k s) := by
  unfold execStepReturn
  exact branch keep (.of (Only.mono (setLent_only ..)))

theorem execPlacementDone_only (s : State) :
    NextOnly (touches .placementDone) s (execPlacementDone s) := by
  unfold execPlacementDone
  refine branch keep ?_
  split
  · exact .of (Only.mono (placeBatch_only ..))
  · exact .of (Only.mono (placeRebind_only ..))
  · exact .of (Only.mono (placeVacate_only ..))
  · exact .of (Only.mono (placeBridge_only ..))
  · exact .of (Only.mono (placeFirst_only ..))
  · exact keep

theorem execRepackDone_only (colours : Option (List (Nat × Nat))) (s : State) :
    NextOnly (touches (.repackDone colours)) s (execRepackDone colours s) := by
  unfold execRepackDone
  refine branch keep ?_
  dsimp -iota -proj only
  split
  · split
    · exact .of (Only.mono (noPlacement_only ..))
    · refine .of (Only.then ?_ (repacked_only ..))
      exact Only.upd12 (Only.refl ..)
  · split
    · exact .of (Only.mono (noPlacement_only ..))
    · refine .of (Only.then ?_ (repacked_only ..))
      exact Only.upd12 (Only.refl ..)
  · split
    · exact .of (Only.then (Only.mono (resync_only ..)) (raise_only ..))
    · refine .of (Only.then ?_ (repackVacate_only ..))
      exact Only.upd12 (Only.refl ..)
  · exact keep

theorem execScenSaveDone_only (s : State) :
    NextOnly (touches .scenSaveDone) s (execScenSaveDone s) := by
  unfold execScenSaveDone
  split
  · dsimp -iota -proj only
    exact .of (Only.then (Only.then (Only.ite (Only.then (Only.then (Only.then (Only.then (Only.mono
      (setScen_only ..)) (perfEv_only ..)) (journal_only ..)) (endRebuild_only ..)) (resync_only ..))
      (Only.then (Only.then (Only.then (Only.then (Only.mono (setScen_only ..)) (perfEv_only ..))
      (journal_only ..)) (endRebuild_only ..)) (onPage_only ..))) (completePersisted_only ..)) (kickAll_only
      ..))
  · exact keep

theorem execScenLoadDone_only (s : State) :
    NextOnly (touches .scenLoadDone) s (execScenLoadDone s) := by
  unfold execScenLoadDone
  split
  · dsimp -iota -proj only
    exact branch (.of (Only.then (Only.mono (loadFails_only ..)) (complete_only ..))) (branch (.of
      (Only.then
      (Only.then (Only.mono (loadPasses_only ..)) (onPage_only ..)) (complete_only ..))) (.of (Only.then
      (Only.mono (loadPasses_only ..)) (armPage_only ..))))
  · dsimp -iota -proj only
    exact branch (.of (Only.then (Only.mono (loadFails_only ..)) (restoreFail_only ..))) (.of (Only.then
      (Only.mono (loadPasses_only ..)) (armPage_only ..)))
  · exact keep

theorem execScenarioMarkStale_only (n : Nat) (s : State) :
    NextOnly (touches (.scenarioMarkStale n)) s (execScenarioMarkStale n s) := by
  unfold execScenarioMarkStale
  dsimp -iota -proj only
  exact branch (.of (Only.mono (setScen_only ..))) keep

theorem execScenarioRebuildDone_only (n : Nat) (s : State) :
    NextOnly (touches (.scenarioRebuildDone n)) s (execScenarioRebuildDone n s) := by
  unfold execScenarioRebuildDone
  dsimp -iota -proj only
  refine branch keep ?_
  split
  next pick u hu =>
    have h : Only (touches (.scenarioRebuildDone n)) s (endRebuild n u) :=
      Only.then (Only.mono (draw_only' hu)) (endRebuild_only ..)
    split
    · exact .of (Only.then h (setScen_only ..))
    · exact .of (Only.then (Only.then (Only.then h (countN_only ..)) (countN_only ..)) (setScen_only ..))

theorem execHoldOffExpiry_only (g : Nat) (s : State) :
    NextOnly (touches (.holdOffExpiry g)) s (execHoldOffExpiry g s) := by
  unfold execHoldOffExpiry
  split
  · exact keep
  · dsimp -iota -proj only
    exact branch keep (.of (Only.mono (setGroup_only ..)))

theorem execWtrExpiry_only (g : Nat) (s : State) :
    NextOnly (touches (.wtrExpiry g)) s (execWtrExpiry g s) := by
  unfold execWtrExpiry
  split
  · exact keep
  · split
    · exact keep
    · exact branch (.of (Only.mono (setGroup_only ..))) keep

theorem execExerTimeout_only (g : Nat) (s : State) :
    NextOnly (touches (.exerTimeout g)) s (execExerTimeout g s) := by
  unfold execExerTimeout
  split
  · exact keep
  · split
    · exact branch keep (.of (Only.all (Only.mono (setGroup_only ..)) fun _ _ hu => Only.then hu (raise_only
        ..)))

theorem execChannelTimeout_only (g : Nat) (s : State) :
    NextOnly (touches (.channelTimeout g)) s (execChannelTimeout g s) := by
  unfold execChannelTimeout
  split
  · exact keep
  · split
    · exact keep
    · exact branch (.of (Only.mono (chFail_only ..))) keep

theorem execNoResponseTimeout_only (g : Nat) (s : State) :
    NextOnly (touches (.noResponseTimeout g)) s (execNoResponseTimeout g s) := by
  unfold execNoResponseTimeout
  split
  · exact keep
  · split
    · exact keep
    · exact branch (.of (Only.mono (chFail_only ..))) keep

theorem execRestoreHoldExpiry_only (g : Nat) (s : State) :
    NextOnly (touches (.restoreHoldExpiry g)) s (execRestoreHoldExpiry g s) := by
  unfold execRestoreHoldExpiry
  split
  · exact keep
  · split
    · refine branch keep ?_
      dsimp -iota -proj only
      exact .of (Only.then (Only.then (Only.mono (setGroup_only ..)) (journal_only ..)) (askLoad_only ..))
    · exact keep

theorem execDefectClear_only (cls n d : Nat) (s : State) :
    NextOnly (touches (.defectClear cls n d)) s (execDefectClear cls n d s) := by
  unfold execDefectClear
  dsimp -iota -proj only
  refine branch keep (.of ?_)
  split
  · exact Only.ite (Only.then (Only.mono (setHist_only ..)) (raiseX_only ..)) (Only.mono (setHist_only ..))
  · exact Only.mono (setHist_only ..)

theorem execSecondBoundary_only (s : State) :
    NextOnly (touches .secondBoundary) s (execSecondBoundary s) := by
  unfold execSecondBoundary
  dsimp -iota -proj only
  refine branch keep (branch (.of (Only.mono (endSecond_only ..))) (branch (.of (Only.mono
    (startMonitor_only
    ..))) (.of ?_)))
  exact Only.upd41 (Only.refl ..)

theorem execTallyHandoff_only (p : Nat) (s : State) :
    NextOnly (touches (.tallyHandoff p)) s (execTallyHandoff p s) := by
  unfold execTallyHandoff
  dsimp -iota -proj only
  exact branch keep (.of (Only.then (Only.mono (giveHalf_only ..)) (setHalves_only ..)))

theorem execFoldDone_only (p : Nat) (s : State) :
    NextOnly (touches (.foldDone p)) s (execFoldDone p s) := by
  unfold execFoldDone
  dsimp -iota -proj only
  split
  · exact keep
  · exact branch keep (.of (Only.then (Only.then (Only.then (Only.mono (foldPort_only ..))
      (clearRecords_only
      ..)) (giveHalf_only ..)) (setHalves_only ..)))

theorem execTallyHandbackMissed_only (p : Nat) (s : State) :
    NextOnly (touches (.tallyHandbackMissed p)) s (execTallyHandbackMissed p s) := by
  unfold execTallyHandbackMissed
  dsimp -iota -proj only
  exact branch keep (.of (Only.then (Only.mono (setHalves_only ..)) (count_only ..)))

theorem execTodApply_only (s : State) :
    NextOnly (touches .todApply) s (execTodApply s) := by
  unfold execTodApply
  split
  · exact keep
  · refine .of (Only.then ?_ (complete_only ..))
    exact Only.upd53 (Only.refl ..)

theorem execSelectionEvaluation_only (s : State) :
    NextOnly (touches .selectionEvaluation) s (execSelectionEvaluation s) := by
  unfold execSelectionEvaluation
  dsimp -iota -proj only
  refine branch keep (.of (Only.then (Only.then (Only.then ?_ (steer_only ..)) (reportDisagreements_only ..))
    (squelchOutputs_only ..)))
  refine Only.upd53 ?_
  refine Only.then (Only.all (Only.then ?_ (takeConfig_only ..)) fun _ _ hu => Only.then hu
    (judgeWander_only ..)) (turnAuto_only ..)
  exact Only.upd53 (Only.refl ..)

theorem execReferenceActivityFail_only (n : Nat) (s : State) :
    NextOnly (touches (.referenceActivityFail n)) s (execReferenceActivityFail n s) := by
  unfold execReferenceActivityFail
  exact branch (.of (Only.mono (disqualify_only ..))) keep

theorem execFrequencyWindowEnd_only (n : Nat) (freq : Int) (s : State) :
    NextOnly (touches (.frequencyWindowEnd n freq)) s (execFrequencyWindowEnd n freq s) := by
  unfold execFrequencyWindowEnd
  dsimp -iota -proj only
  refine branch keep ?_
  split
  · exact branch (.of (Only.then (Only.then (Only.then (Only.mono (retarget_only ..)) (setRef_only ..))
      (checkRef_only ..)) (setRef_only ..))) (.of (Only.then (Only.then (Only.mono (retarget_only ..))
      (setRef_only ..)) (checkRef_only ..)))

theorem execReferenceWtrExpiry_only (n : Nat) (s : State) :
    NextOnly (touches (.referenceWtrExpiry n)) s (execReferenceWtrExpiry n s) := by
  unfold execReferenceWtrExpiry
  dsimp -iota -proj only
  split
  · exact keep
  · exact branch (.of (Only.mono (setRef_only ..))) keep

theorem execDpllLocked_only (s : State) :
    NextOnly (touches .dpllLocked) s (execDpllLocked s) := by
  unfold execDpllLocked
  split
  · exact keep
  · exact branch (.of (Only.mono (setMode_only ..))) keep

theorem execSoftWatchdogExpiry_only (s : State) :
    NextOnly (touches .softWatchdogExpiry) s (execSoftWatchdogExpiry s) := by
  unfold execSoftWatchdogExpiry
  dsimp -iota -proj only
  refine branch (.of (Only.then (Only.then ?_ (count_only ..)) (raise_only ..))) keep
  exact Only.upd53 (Only.mono (setMode_only ..))

theorem execLearnHour_only (model : Bytes) (s : State) :
    NextOnly (touches (.learnHour model)) s (execLearnHour model s) := by
  unfold execLearnHour
  dsimp -iota -proj only
  refine branch (.of (Only.then (Only.then ?_ (journal_only ..)) (refreshQl_only ..))) keep
  exact Only.upd53 (Only.refl ..)

theorem execEstimateValid_only (s : State) :
    NextOnly (touches .estimateValid) s (execEstimateValid s) := by
  unfold execEstimateValid
  refine branch (.of ?_) keep
  exact Only.upd53 (Only.refl ..)

theorem execHoldQlTimeExpiry_only (s : State) :
    NextOnly (touches .holdQlTimeExpiry) s (execHoldQlTimeExpiry s) := by
  unfold execHoldQlTimeExpiry
  split
  · exact keep
  · refine branch (.of (Only.then ?_ (refreshQl_only ..))) keep
    exact Only.upd53 (Only.refl ..)

theorem execOvenReady_only (s : State) :
    NextOnly (touches .ovenReady) s (execOvenReady s) := by
  unfold execOvenReady
  refine branch (.of ?_) keep
  exact Only.upd53 (Only.refl ..)

theorem execReferenceInputEdge_only (n : Nat) (phase : Int) (s : State) :
    NextOnly (touches (.referenceInputEdge n phase)) s (execReferenceInputEdge n phase s) := by
  unfold execReferenceInputEdge
  exact branch keep (.of (Only.mono (refEdge_only ..)))

/-! ### Commands of management, journal, cipher and banks -/

theorem execSensorSample_only (r : SensorReading) (s : State) :
    NextOnly (touches (.sensorSample r)) s (execSensorSample r s) := by
  unfold execSensorSample
  refine branch keep ?_
  dsimp -iota -proj only
  refine .of (Only.ite (Only.then (Only.then (Only.then (Only.all ?_ fun _ _ hu => Only.then hu
    (takeReading_only ..)) (takeMax_only ..)) (warnStep_only ..)) (trip_only ..)) (Only.then (Only.then
    (Only.all ?_ fun _ _ hu => Only.then hu (takeReading_only ..)) (takeMax_only ..)) (warnStep_only ..)))
  · exact Only.upd49 (Only.refl ..)
  · exact Only.upd49 (Only.refl ..)

theorem execWatchdogExpiry_only (core : Nat) (s : State) :
    NextOnly (touches (.watchdogExpiry core)) s (execWatchdogExpiry core s) := by
  unfold execWatchdogExpiry
  refine branch keep ?_
  dsimp -iota -proj only
  exact .of (Only.then (Only.ite (Only.then (Only.then (Only.mono (onMgmt_only ..)) (countAttempt_only ..))
    (holdComplex_only ..)) (Only.then (Only.then (Only.mono (onMgmt_only ..)) (countAttempt_only ..))
    (startRestart_only ..))) (raise_only ..))

theorem execMgmtRestartDone_only (faults : List MemFault) (s : State) :
    NextOnly (touches (.mgmtRestartDone faults)) s (execMgmtRestartDone faults s) := by
  unfold execMgmtRestartDone
  dsimp -iota -proj only
  exact branch keep (branch (.of (Only.mono (dpReady_only ..))) (branch (.of (Only.then (Only.then
    (Only.then
    (Only.then (Only.mono (dpReady_only ..)) (restartImage_only ..)) (onMgmt_only ..)) (onImage_only ..))
    (enterRecovery_only ..))) (branch (.of (Only.then (Only.then (Only.then (Only.then (Only.mono
    (dpReady_only ..)) (restartImage_only ..)) (onMgmt_only ..)) (onImage_only ..)) (leaveRecovery_only
    ..))) (.of (Only.then (Only.then (Only.then (Only.then (Only.then (Only.then (Only.then (Only.mono
    (dpReady_only ..)) (restartImage_only ..)) (onMgmt_only ..)) (onImage_only ..)) (emptyHistory_only ..))
    (replayAgain_only ..)) (raiseKept_only ..)) (resumeService_only ..))))))

theorem execLpddrEccUncorr_only (region : LpddrReport) (s : State) :
    NextOnly (touches (.lpddrEccUncorr region)) s (execLpddrEccUncorr region s) := by
  unfold execLpddrEccUncorr
  refine branch keep ?_
  dsimp -iota -proj only
  refine .of ?_
  split
  · exact Only.then (Only.mono (countN_only ..)) (lpddrLost_only ..)
  · exact Only.mono (countN_only ..)

theorem execTrialTimeout_only (s : State) :
    NextOnly (touches .trialTimeout) s (execTrialTimeout s) := by
  unfold execTrialTimeout
  exact branch (.of (Only.mono (abandonTrial_only ..))) keep

theorem execRecordPersisted_only (s : State) :
    NextOnly (touches .recordPersisted) s (execRecordPersisted s) := by
  unfold execRecordPersisted
  refine branch keep ?_
  dsimp -iota -proj only
  exact .of (Only.ite (Only.then (Only.then (Only.then (Only.mono (dpReady_only ..)) (persistOne_only ..))
    (autoCompact_only ..)) (settleWaiters_only ..)) (Only.mono (dpReady_only ..)))

theorem execCompactionDone_only (s : State) :
    NextOnly (touches .compactionDone) s (execCompactionDone s) := by
  unfold execCompactionDone
  split
  · exact keep
  · refine branch keep (branch (.of (Only.mono (abandonCompaction_only ..))) ?_)
    dsimp -iota -proj only
    exact .of (Only.ite (Only.then (Only.then (Only.then (Only.mono (dpReady_only ..))
      (commitCompaction_only ..)) (completeOpt_only ..)) (settleWaiters_only ..)) (Only.mono (dpReady_only
      ..)))

theorem execFlashBlockFail_only (dev blk : Nat) (erase : Bool) (s : State) :
    NextOnly (touches (.flashBlockFail dev blk erase)) s (execFlashBlockFail dev blk erase s) := by
  unfold execFlashBlockFail
  dsimp -iota -proj only
  exact branch keep (branch (.of (Only.then (Only.then (Only.mono (count_only ..)) (count_only ..))
    (regionLeaves_only ..))) (.of (Only.then (Only.then (Only.mono (count_only ..)) (count_only ..))
    (setRegion_only ..))))

theorem execFlashDeviceLost_only (dev : Nat) (s : State) :
    NextOnly (touches (.flashDeviceLost dev)) s (execFlashDeviceLost dev s) := by
  unfold execFlashDeviceLost
  exact branch keep (.of (Only.then (Only.mono (count_only ..)) (regionLeaves_only ..)))

theorem execDatapathGrant_only (d : Nat) (input : Option Bytes) (s : State) :
    NextOnly (touches (.datapathGrant d input)) s (execDatapathGrant d input s) := by
  unfold execDatapathGrant
  split
  · exact keep
  · refine branch keep ?_
    dsimp -iota -proj only
    split
    · split
      · refine .of (Only.then ?_ (refuseOp_only ..))
        exact Only.upd48 (Only.refl ..)
      · refine .of (Only.then (Only.then (Only.then ?_ (opStarts_only ..)) (fire_only ..)) (complete_only
          ..))
        exact Only.upd48 (Only.refl ..)
      · refine .of (Only.then ?_ (startDp_only ..))
        exact Only.upd48 (Only.refl ..)
    · refine .of (Only.then ?_ (startDp_only ..))
      exact Only.upd48 (Only.refl ..)

theorem execDatapathFault_only (d : Nat) (s : State) :
    NextOnly (touches (.datapathFault d)) s (execDatapathFault d s) := by
  unfold execDatapathFault
  split
  · exact .of (Only.mono (faultDp_only ..))
  · split
    · exact .of (Only.mono (faultDp_only ..))
    · exact keep

theorem execCipherOperationDone_only (d : Nat) (s : State) :
    NextOnly (touches (.cipherOperationDone d)) s (execCipherOperationDone d s) := by
  unfold execCipherOperationDone
  split
  · exact keep
  · refine branch (.of (Only.then (Only.mono (secDisarm_only ..)) (faultDp_only ..))) ?_
    split
    · exact .of (Only.mono (finishOp_only ..))
    · exact .of (Only.mono (finishUnwrap_only ..))
    · refine .of (Only.then ?_ (dpEnd_only ..))
      exact Only.upd48 (Only.refl ..)

theorem execWindowZeroed_only (w : Nat) (s : State) :
    NextOnly (touches (.windowZeroed w)) s (execWindowZeroed w s) := by
  unfold execWindowZeroed
  exact branch (.of (Only.then (Only.then (Only.mono (windowRun_only ..)) (zeroBank_only ..))
    (setWindow_only
    ..))) keep

theorem execKeySlotErased_only (k : Nat) (s : State) :
    NextOnly (touches (.keySlotErased k)) s (execKeySlotErased k s) := by
  unfold execKeySlotErased
  dsimp -iota -proj only
  refine branch keep ?_
  split
  · exact .of (Only.then (Only.then (Only.mono (setKeySlot_only ..)) (resetCounters_only ..)) (count_only
      ..))
  · refine .of (Only.then (Only.then ?_ (journal_only ..)) (completePersisted_only ..))
    refine Only.upd48 ?_
    exact Only.then (Only.then (Only.mono (setKeySlot_only ..)) (resetCounters_only ..)) (count_only ..)

theorem execBankAccess_only (rs : List BankReq) (s : State) :
    NextOnly (touches (.bankAccess rs)) s (execBankAccess rs s) := by
  unfold execBankAccess
  dsimp -iota -proj only
  refine .of (Only.then (Only.then ?_ (takeRetries_only ..)) (accessStep_only ..))
  exact Only.upd1 (Only.refl ..)

theorem execRecallDone_only (b : Nat) (s : State) :
    NextOnly (touches (.recallDone b)) s (execRecallDone b s) := by
  unfold execRecallDone
  dsimp -iota -proj only
  refine branch keep (.of (Only.then ?_ (drain_only ..)))
  refine Only.upd1 ?_
  exact Only.cond (Only.then (Only.then (Only.then (Only.then (Only.all (Only.mono (bankRun_only ..)) fun _
    _ hu => Only.then hu (stallOver_only ..)) (setBank_only ..)) (handOver_only ..)) (setBank_only ..))
    (onMtest_only ..)) fun _ hu => Only.then hu (count_only ..)

theorem execBankHandover_only (b : Nat) (agent : BankWriter) (owner : BankWrite) (s : State) :
    NextOnly (touches (.bankHandover b agent owner)) s (execBankHandover b agent owner s) := by
  unfold execBankHandover
  split
  · dsimp -iota -proj only
    split
    · exact branch (.of (Only.mono (refused_only ..))) (.of (Only.mono (setBank_only ..)))
    · refine branch (.of (Only.mono (refused_only ..))) (branch (.of (Only.mono (refused_only ..))) (branch
        (.of
        (Only.mono (refused_only ..))) (branch keep ?_)))
      split
      · exact branch (.of (Only.then (Only.then (Only.mono (setBank_only ..)) (count_only ..))
          (endRelease_only ..))) (.of (Only.mono (count_only ..)))
      · exact .of (Only.mono (setBank_only ..))

theorem execHandoverEffect_only (b : Nat) (s : State) :
    NextOnly (touches (.handoverEffect b)) s (execHandoverEffect b s) := by
  unfold execHandoverEffect
  dsimp -iota -proj only
  split
  · exact keep
  · exact branch keep (.of (Only.then (Only.mono (handOver_only ..)) (endRelease_only ..)))

theorem execHandoverTimeout_only (b : Nat) (s : State) :
    NextOnly (touches (.handoverTimeout b)) s (execHandoverTimeout b s) := by
  unfold execHandoverTimeout
  dsimp -iota -proj only
  split
  · exact keep
  · exact branch keep (.of (Only.then (Only.then (Only.mono (setBank_only ..)) (count_only ..))
      (endRelease_only ..)))

theorem execBankBorrow_only (b : Nat) (s : State) :
    NextOnly (touches (.bankBorrow b)) s (execBankBorrow b s) := by
  unfold execBankBorrow
  split
  · exact keep
  · exact .of (Only.then (Only.mono (lendBank_only ..)) (onMtest_only ..))
  · exact .of (Only.then (Only.mono (lendBank_only ..)) (onMtest_only ..))
  · exact .of (Only.mono (lendBank_only ..))

theorem execSegmentDone_only (b : Nat) (faults : List MemFault) (s : State) :
    NextOnly (touches (.segmentDone b faults)) s (execSegmentDone b faults s) := by
  unfold execSegmentDone
  dsimp -iota -proj only
  exact branch keep (branch (.of (Only.then (Only.then (Only.mono (bankRun_only ..)) (takeFaults_only ..))
    (bankDone_only ..))) (.of (Only.then (Only.then (Only.then (Only.mono (bankRun_only ..))
    (takeFaults_only ..)) (setBank_only ..)) (onMtest_only ..))))

theorem execRetentionPauseEnd_only (s : State) :
    NextOnly (touches .retentionPauseEnd) s (execRetentionPauseEnd s) := by
  unfold execRetentionPauseEnd
  dsimp -iota -proj only
  split
  · exact keep
  · exact branch keep (.of (Only.mono (onMtest_only ..)))

theorem execPageBorrow_only (s : State) :
    NextOnly (touches .pageBorrow) s (execPageBorrow s) := by
  unfold execPageBorrow
  exact branch keep (.of (Only.then (Only.mono (onPage_only ..)) (takeTarget_only ..)))

theorem execMemoryTestDone_only (faults : List MemFault) (s : State) :
    NextOnly (touches (.memoryTestDone faults)) s (execMemoryTestDone faults s) := by
  unfold execMemoryTestDone
  dsimp -iota -proj only
  refine branch (branch keep (.of (Only.mono (bankDone_only ..)))) (branch keep ?_)
  split
  · exact .of (Only.then (Only.then (Only.then (Only.mono (bankRun_only ..)) (takeFaults_only ..))
      (bankDone_only ..)) (testedRows_only ..))
  · exact .of (Only.then (Only.then (Only.mono (takeFaults_only ..)) (targetDone_only ..)) (onMtest_only
      ..))
  · exact .of (Only.then (Only.then (Only.then (Only.mono (takeFaults_only ..)) (targetDone_only ..))
      (testedRows_only ..)) (resync_only ..))
  · exact .of (Only.then (Only.mono (endSix_only ..)) (stepsSevenEight_only ..))
  · exact .of (Only.then (Only.then (Only.mono (takeFaults_only ..)) (targetDone_only ..))
      (clusterTested_only ..))
  · exact .of (Only.then (Only.then (Only.mono (takeFaults_only ..)) (targetDone_only ..)) (testedRows_only
      ..))
  · exact keep

theorem execImageStageDone_only (ok : Bool) (s : State) :
    NextOnly (touches (.imageStageDone ok)) s (execImageStageDone ok s) := by
  unfold execImageStageDone
  split
  · exact keep
  · dsimp -iota -proj only
    exact branch keep (branch (.of (Only.mono (dpReady_only ..))) (.of (Only.then (Only.then (Only.then
      (Only.mono (dpReady_only ..)) (countOpens_only ..)) (onImage_only ..)) (complete_only ..))))

theorem execBankAllocDone_only (s : State) :
    NextOnly (touches .bankAllocDone) s (execBankAllocDone s) := by
  unfold execBankAllocDone
  split
  · exact keep
  · dsimp -iota -proj only
    exact .of (Only.then (Only.then (Only.then (Only.mono (zeroBank_only ..)) (setBank_only ..))
      (handOver_only ..)) (completeOpt_only ..))

theorem execDestructiveTestStart_only (target : Nat) (s : State) :
    NextOnly (touches (.destructiveTestStart target)) s (execDestructiveTestStart target s) := by
  unfold execDestructiveTestStart
  refine branch keep (branch ?_ ?_)
  · dsimp -iota -proj only
    refine branch keep (.of (Only.then ?_ (scrambleBank_only ..)))
    split
    · exact Only.then (Only.then (Only.then (Only.mono (takeTarget_only ..)) (setBank_only ..))
        (handOver_only ..)) (onMtest_only ..)
    · exact Only.then (Only.then (Only.mono (takeTarget_only ..)) (setBank_only ..)) (handOver_only ..)
  · dsimp -iota -proj only
    refine branch keep (.of ?_)
    exact Only.upd9 (Only.mono (takeTarget_only ..))

/-! ### Every command -/

/-- Every command answers a next state, and touches only the parts listed for it. -/
theorem exec_only (c : Instr) (s : State) : NextOnly (touches c) s (exec c s) := by
  cases c with
  | nop q => exact (execNop_body q s).next
  | eventCatalog q => exact (execEventCatalog_body q s).next
  | stringCreate q => exact (execStringCreate_body q s).next
  | stringConnect q => exact (execStringConnect_body q s).next
  | stringDisconnect q => exact (execStringDisconnect_body q s).next
  | stringResize q => exact (execStringResize_body q s).next
  | stringCondition q => exact (execStringCondition_body q s).next
  | stringDelete q => exact (execStringDelete_body q s).next
  | batchCommit q => exact (execBatchCommit_body q s).next
  | repack q => exact (execRepack_body q s).next
  | pageDisarm q => exact (execPageDisarm_body q s).next
  | pageSwapAt q => exact (execPageSwapAt_body q s).next
  | scenSave q => exact (execScenSave_body q s).next
  | scenLoad q => exact (execScenLoad_body q s).next
  | scenDelete q => exact (execScenDelete_body q s).next
  | stringRead q => exact (execStringRead_body q s).next
  | pageRead q => exact (execPageRead_body q s).next
  | groupCreate q => exact (execGroupCreate_body q s).next
  | groupModify q => exact (execGroupModify_body q s).next
  | groupDelete q => exact (execGroupDelete_body q s).next
  | groupRequest q => exact (execGroupRequest_body q s).next
  | groupRead q => exact (execGroupRead_body q s).next
  | timingConfig q => exact execTimingConfig_only q s
  | timingFreq q => exact (execTimingFreq_body q s).next
  | timingPhaseStep q => exact (execTimingPhaseStep_body q s).next
  | todSet q => exact (execTodSet_body q s).next
  | todAdj q => exact (execTodAdj_body q s).next
  | timingRead q => exact (execTimingRead_body q s).next
  | pmFetch q => exact (execPmFetch_body q s).next
  | perfRead q => exact (execPerfRead_body q s).next
  | eventLogRead q => exact (execEventLogRead_body q s).next
  | bankAlloc q => exact (execBankAlloc_body q s).next
  | bankRelease q => exact (execBankRelease_body q s).next
  | mtestConfig q => exact execMtestConfig_only q s
  | mtestRun q => exact (execMtestRun_body q s).next
  | keyUnwrap q => exact (execKeyUnwrap_body q s).next
  | keyErase q => exact (execKeyErase_body q s).next
  | keyRead q => exact (execKeyRead_body q s).next
  | cipherOp q => exact (execCipherOp_body q s).next
  | imageStage q container => exact (execImageStage_body q container s).next
  | imageActivate q => exact execImageActivate_only q s
  | clusterActivate q => exact (execClusterActivate_body q s).next
  | lifecycleSet q => exact (execLifecycleSet_body q s).next
  | debugUnlock q => exact (execDebugUnlock_body q s).next
  | attest q => exact (execAttest_body q s).next
  | sensorRead q => exact (execSensorRead_body q s).next
  | jnlConfig q => exact execJnlConfig_only q s
  | jnlCompact q => exact (execJnlCompact_body q s).next
  | seesawConfig q => exact execSeesawConfig_only q s
  | seesawRelease q => exact execSeesawRelease_only q s
  | jnlRead q => exact (execJnlRead_body q s).next
  | sqPiDoorbell f q v => exact execSqPiDoorbell_only f q v s
  | cqCiDoorbell f q v => exact execCqCiDoorbell_only f q v s
  | eqCiDoorbell f r v => exact execEqCiDoorbell_only f r v s
  | queueEnable q v => exact execQueueEnable_only q v s
  | queueDisable q v => exact execQueueDisable_only q v s
  | eqEnable r v => exact execEqEnable_only r v s
  | eqDisable r v => exact execEqDisable_only r v s
  | descriptorFetch q ds => exact execDescriptorFetch_only q ds s
  | interruptTimerExpiry event n => exact execInterruptTimerExpiry_only event n s
  | functionLevelReset f => exact execFunctionLevelReset_only f s
  | perstNAssert => exact execPerstNAssert_only s
  | perstNDeassert => exact execPerstNDeassert_only s
  | warmReset v b => exact execWarmReset_only v b s
  | resume v faults => exact execResume_only v faults s
  | shutdown v => exact execShutdown_only v s
  | lockSet v => exact execLockSet_only v s
  | coreInjectArm v => exact execCoreInjectArm_only v s
  | secInjectArm v => exact execSecInjectArm_only v s
  | huntRestart l v => exact execHuntRestart_only l v s
  | trainRestart l v => exact execTrainRestart_only l v s
  | laneEnable l v => exact execLaneEnable_only l v s
  | laneDisable l v => exact execLaneDisable_only l v s
  | portEnable p v => exact execPortEnable_only p v s
  | portDisable p v => exact execPortDisable_only p v s
  | tdCfgWrite p v => exact execTdCfgWrite_only p v s
  | perfCounterWrite off v => exact execPerfCounterWrite_only off v s
  | perfSelectWrite off v => exact execPerfSelectWrite_only off v s
  | perfHoldClear v => exact execPerfHoldClear_only v s
  | perfFreezeWrite v => exact execPerfFreezeWrite_only v s
  | regReadClear a => exact execRegReadClear_only a s
  | reg64LowRead off => exact execReg64LowRead_only off s
  | reg64HighWrite off v => exact execReg64HighWrite_only off v s
  | todSecRead => exact execTodSecRead_only s
  | bar0AccessRefused write off size => exact execBar0AccessRefused_only write off size s
  | bankWindowAccess off size data => exact execBankWindowAccess_only off size data s
  | registerWrite a v => exact execRegisterWrite_only a v s
  | smbIdent => exact execSmbIdent_only s
  | smbPowerState => exact execSmbPowerState_only s
  | smbSeesaw => exact execSmbSeesaw_only s
  | smbTempMax => exact execSmbTempMax_only s
  | smbTempAll => exact execSmbTempAll_only s
  | smbVin => exact execSmbVin_only s
  | smbIin => exact execSmbIin_only s
  | smbPin => exact execSmbPin_only s
  | smbDomains => exact execSmbDomains_only s
  | smbOven => exact execSmbOven_only s
  | smbEventSummary => exact execSmbEventSummary_only s
  | smbEventAck v => exact execSmbEventAck_only v s
  | smbAlertResponse => exact execSmbAlertResponse_only s
  | jtagBypass => exact execJtagBypass_only s
  | jtagIdcode => exact execJtagIdcode_only s
  | jtagSamplePreload data => exact execJtagSamplePreload_only data s
  | jtagExtest => exact execJtagExtest_only s
  | jtagClamp => exact execJtagClamp_only s
  | jtagHighz => exact execJtagHighz_only s
  | dbgAccess => exact execDbgAccess_only s
  | vinGood b => exact execVinGood_only b s
  | vinLost => exact execVinLost_only s
  | vinOvervoltage => exact execVinOvervoltage_only s
  | inputOvercurrent => exact execInputOvercurrent_only s
  | porNAssert => exact execPorNAssert_only s
  | porNDeassert b => exact execPorNDeassert_only b s
  | startupStepLate n => exact execStartupStepLate_only n s
  | seesawDecisionTimeout => exact execSeesawDecisionTimeout_only s
  | tickEdge => exact execTickEdge_only s
  | tickOverrun e => exact execTickOverrun_only e s
  | engineHalt e => exact execEngineHalt_only e s
  | clusterMigration c => exact execClusterMigration_only c s
  | clusterReady c => exact execClusterReady_only c s
  | clusterReturn c => exact execClusterReturn_only c s
  | fabricMessage src dst msg => exact execFabricMessage_only src dst msg s
  | coreStep k => exact execCoreStep_only k s
  | egressRowRead m => exact execEgressRowRead_only m s
  | trainingFrameRx l fr => exact execTrainingFrameRx_only l fr s
  | trainingTimeout l timer => exact execTrainingTimeout_only l timer s
  | electricalIdleEnd l => exact execElectricalIdleEnd_only l s
  | codewordRx l c => exact execCodewordRx_only l c s
  | codewordHuntTimeout l => exact execCodewordHuntTimeout_only l s
  | laneSignalChange l signal cdr => exact execLaneSignalChange_only l signal cdr s
  | rowRx l pos cclk bytes => exact execRowRx_only l pos cclk bytes s
  | srmRx l w => exact execSrmRx_only l w s
  | capabilityFrameRx l payload => exact execCapabilityFrameRx_only l payload s
  | capabilitySend p => exact execCapabilitySend_only p s
  | capabilityTimeout p => exact execCapabilityTimeout_only p s
  | capabilitySilence p => exact execCapabilitySilence_only p s
  | todFrameRx payload => exact execTodFrameRx_only payload s
  | todFrameSend => exact execTodFrameSend_only s
  | heartbeatRx payload => exact execHeartbeatRx_only payload s
  | heartbeatSend => exact execHeartbeatSend_only s
  | heartbeatPathFail px => exact execHeartbeatPathFail_only px s
  | peerReset => exact execPeerReset_only s
  | copyDataRx payload => exact execCopyDataRx_only payload s
  | copyAckRx payload => exact execCopyAckRx_only payload s
  | copyResendRx payload => exact execCopyResendRx_only payload s
  | copyGapTimeout => exact execCopyGapTimeout_only s
  | copyAckSend => exact execCopyAckSend_only s
  | sswActInFall => exact execSswActInFall_only s
  | sswActInRise => exact execSswActInRise_only s
  | claim => exact execClaim_only s
  | claimEnHoldExpiry => exact execClaimEnHoldExpiry_only s
  | trafficStateRelease => exact execTrafficStateRelease_only s
  | swapCommit => exact execSwapCommit_only s
  | pageSwap => exact execPageSwap_only s
  | resyncDone => exact execResyncDone_only s
  | stepLend k => exact execStepLend_only k s
  | stepVacateRequest k => exact execStepVacateRequest_only k s
  | stepReturn k => exact execStepReturn_only k s
  | placementDone => exact execPlacementDone_only s
  | repackDone colours => exact execRepackDone_only colours s
  | scenSaveDone => exact execScenSaveDone_only s
  | scenLoadDone => exact execScenLoadDone_only s
  | scenarioMarkStale n => exact execScenarioMarkStale_only n s
  | scenarioRebuildDone n => exact execScenarioRebuildDone_only n s
  | holdOffExpiry g => exact execHoldOffExpiry_only g s
  | wtrExpiry g => exact execWtrExpiry_only g s
  | exerTimeout g => exact execExerTimeout_only g s
  | channelTimeout g => exact execChannelTimeout_only g s
  | noResponseTimeout g => exact execNoResponseTimeout_only g s
  | restoreHoldExpiry g => exact execRestoreHoldExpiry_only g s
  | defectClear cls n d => exact execDefectClear_only cls n d s
  | secondBoundary => exact execSecondBoundary_only s
  | tallyHandoff p => exact execTallyHandoff_only p s
  | foldDone p => exact execFoldDone_only p s
  | tallyHandbackMissed p => exact execTallyHandbackMissed_only p s
  | todApply => exact execTodApply_only s
  | selectionEvaluation => exact execSelectionEvaluation_only s
  | referenceActivityFail n => exact execReferenceActivityFail_only n s
  | frequencyWindowEnd n freq => exact execFrequencyWindowEnd_only n freq s
  | referenceWtrExpiry n => exact execReferenceWtrExpiry_only n s
  | dpllLocked => exact execDpllLocked_only s
  | softWatchdogExpiry => exact execSoftWatchdogExpiry_only s
  | learnHour model => exact execLearnHour_only model s
  | estimateValid => exact execEstimateValid_only s
  | holdQlTimeExpiry => exact execHoldQlTimeExpiry_only s
  | ovenReady => exact execOvenReady_only s
  | sensorSample r => exact execSensorSample_only r s
  | watchdogExpiry core => exact execWatchdogExpiry_only core s
  | mgmtRestartDone faults => exact execMgmtRestartDone_only faults s
  | lpddrEccUncorr region => exact execLpddrEccUncorr_only region s
  | trialTimeout => exact execTrialTimeout_only s
  | recordPersisted => exact execRecordPersisted_only s
  | compactionDone => exact execCompactionDone_only s
  | flashBlockFail dev blk erase => exact execFlashBlockFail_only dev blk erase s
  | flashDeviceLost dev => exact execFlashDeviceLost_only dev s
  | datapathGrant d input => exact execDatapathGrant_only d input s
  | datapathFault d => exact execDatapathFault_only d s
  | cipherOperationDone d => exact execCipherOperationDone_only d s
  | windowZeroed w => exact execWindowZeroed_only w s
  | keySlotErased k => exact execKeySlotErased_only k s
  | bankAccess rs => exact execBankAccess_only rs s
  | recallDone b => exact execRecallDone_only b s
  | bankHandover b agent owner => exact execBankHandover_only b agent owner s
  | handoverEffect b => exact execHandoverEffect_only b s
  | handoverTimeout b => exact execHandoverTimeout_only b s
  | bankBorrow b => exact execBankBorrow_only b s
  | segmentDone b faults => exact execSegmentDone_only b faults s
  | retentionPauseEnd => exact execRetentionPauseEnd_only s
  | pageBorrow => exact execPageBorrow_only s
  | memoryTestDone faults => exact execMemoryTestDone_only faults s
  | portDomainPowerDown d => exact execPortDomainPowerDown_only d s
  | perfCounterWrap k => exact execPerfCounterWrap_only k s
  | wireHeartbeatRx => exact execWireHeartbeatRx_only s
  | referenceInputEdge n phase => exact execReferenceInputEdge_only n phase s
  | pcieLinkChange up speed width flit => exact execPcieLinkChange_only up speed width flit s
  | copyTimeout => exact execCopyTimeout_only s
  | trainingFrameTx l => exact execTrainingFrameTx_only l s
  | imageStageDone ok => exact execImageStageDone_only ok s
  | bankAllocDone => exact execBankAllocDone_only s
  | peerRstOutEnd => exact execPeerRstOutEnd_only s
  | portDomainPowered d => exact execPortDomainPowered_only d s
  | destructiveTestStart target => exact execDestructiveTestStart_only target s

theorem only_of_exec {c : Instr} {s t : State} (h : exec c s = .next t) : Only (touches c) s t := by
  obtain ⟨u, hu, honly⟩ := exec_only c s
  cases h.symm.trans hu
  exact honly

/-- A part that is not listed for the command is as before. -/
theorem same_of_exec {c : Instr} {s t : State} {p : Part} (h : exec c s = .next t)
    (hp : (touches c).contains p = false) : p.same s t :=
  (only_of_exec h).same p (by simpa using hp)

/-- Settles O3: each command's frame names the state it answers. -/
theorem everyCommandAnswers : Obligations.EveryCommandAnswers := by
  intro c s
  obtain ⟨t, ht, -⟩ := exec_only c s
  exact ⟨t, ht⟩

/-- Settles O4: a case of `exec_only`. -/
theorem frameCommand : Obligations.FrameCommand := fun _ _ _ _ h => only_of_exec h

/-- Settles O5: a case of `exec_only`. -/
theorem frameAccess : Obligations.FrameAccess := fun _ _ _ _ h => only_of_exec h

/-- Settles O6: a case of `exec_only`. -/
theorem frameLine : Obligations.FrameLine := fun _ _ _ _ h => only_of_exec h

/-- Settles O7: a case of `exec_only`. -/
theorem frameTwin : Obligations.FrameTwin := fun _ _ _ _ h => only_of_exec h

/-- Settles O8: a case of `exec_only`. -/
theorem frameService : Obligations.FrameService := fun _ _ _ _ h => only_of_exec h

/-- Settles O9: a case of `exec_only`. -/
theorem frameDevice : Obligations.FrameDevice := fun _ _ _ _ h => only_of_exec h

theorem pending_not_touched (c : Instr) : (touches c).contains .pending = false := by
  cases c <;> rfl

/-- Settles O2: no command lists the queue among its parts. -/
theorem queueKept : Obligations.QueueKept := fun c _ _ h => same_of_exec h (pending_not_touched c)

/-- Settles O1, by the equation of `step` on either queue. -/
theorem stepRunsFront : Obligations.StepRunsFront :=
  ⟨fun _ _ _ h => by simp only [step, h], fun _ h => by simp only [step, h]⟩

end Sys2Proof.Proofs.Frame
end

section
/-! PROOFS. What the commands keep of three parts that they change: a set GLB.LOCK, a low SSW_ACT_OUT and the tick. -/

set_option Elab.async false

namespace Sys2Proof.Proofs.Guards

open Sys2Proof Sys2Proof.Machine Sys2Proof.Laws

/-- What is kept of a part: of the registers a set GLB.LOCK, of the interlock a low SSW_ACT_OUT, and all
of the tick. Of the other parts it says nothing. -/
def Guarded (s t : State) : Part → Prop
  | .regs => locked s = true → locked t = true
  | .ssw => s.ssw.actOut = false → t.ssw.actOut = false
  | .tick => t.tick = s.tick
  | _ => True

theorem guarded_of_same {s t : State} {p : Part} (h : p.same s t) : Guarded s t p := by
  cases p
  case regs => intro hl; rw [locked, flg, cfgN, cfg, show t.regs = s.regs from h]; exact hl
  case ssw => intro ha; rw [show t.ssw = s.ssw from h]; exact ha
  case tick => exact h
  all_goals trivial

theorem guarded_trans {s t u : State} {p : Part} (h : Guarded s t p) (k : Guarded t u p) : Guarded s u p := by
  cases p
  case regs | ssw => exact fun hs => k (h hs)
  case tick => exact Eq.trans k h
  all_goals trivial

/-- The parts `ps` are kept from `s` to `t`. -/
structure Keeps (ps : List Part) (s t : State) : Prop where
  kept : ∀ p ∈ ps, Guarded s t p

/-- The three parts of which most commands keep what `Guarded` says. -/
abbrev guarded : List Part := [.regs, .ssw, .tick]

theorem Keeps.refl (ps : List Part) (s : State) : Keeps ps s s := ⟨fun p _ => guarded_of_same (same_refl s p)⟩

theorem Keeps.then {ps qs : List Part} {s t u : State} (h : Keeps ps s t) (k : Keeps qs t u)
    (hp : sub ps qs = true := by rfl) : Keeps ps s u :=
  ⟨fun p hm => guarded_trans (h.kept p hm) (k.kept p (mem_of_sub hp hm))⟩

theorem Keeps.mono {ps qs : List Part} {s t : State} (k : Keeps qs s t)
    (hp : sub ps qs = true := by rfl) : Keeps ps s t :=
  Keeps.then (Keeps.refl ..) k hp

/-- An operation that touches none of the parts keeps them. -/
theorem Keeps.of_only {ps qs : List Part} {s t : State} (k : Only qs s t)
    (hp : (ps.all fun p => !qs.contains p) = true := by rfl) : Keeps ps s t :=
  ⟨fun p hm => guarded_of_same (k.same p (by simpa using List.all_eq_true.mp hp p hm))⟩

theorem Keeps.quiet {ps qs : List Part} {s t u : State} (h : Keeps ps s t) (k : Only qs t u)
    (hp : (ps.all fun p => !qs.contains p) = true := by rfl) : Keeps ps s u :=
  Keeps.then h (Keeps.of_only k hp) (sub_refl ps)

theorem Keeps.ite {ps : List Part} {s t u : State} {c : Prop} [Decidable c] (h : Keeps ps s t)
    (k : Keeps ps s u) : Keeps ps s (if c then t else u) := by
  split <;> assumption

theorem Keeps.cond {ps : List Part} {s t : State} {c : Bool} {f : State → State} (h : Keeps ps s t)
    (k : ∀ u, Keeps ps s u → Keeps ps s (f u)) : Keeps ps s (onlyIf c f t) := by
  unfold onlyIf; split
  · exact k t h
  · exact h

theorem Keeps.fold {ps : List Part} {α : Type} {xs : List α} {s t : State} {f : State → α → State}
    (h : Keeps ps s t) (k : ∀ u x, Keeps ps s u → Keeps ps s (f u x)) : Keeps ps s (xs.foldl f t) := by
  induction xs generalizing t with
  | nil => exact h
  | cons x xs ih => exact ih (k t x h)

theorem Keeps.all {ps : List Part} {α : Type} {xs : List α} {s t : State} {f : α → State → State}
    (h : Keeps ps s t) (k : ∀ x u, Keeps ps s u → Keeps ps s (f x u)) : Keeps ps s (forAll xs f t) :=
  Keeps.fold h fun u x hu => k x u hu

theorem Keeps.fold2 {ps : List Part} {α β : Type} {xs : List α} {s : State} {b : β × State}
    {f : β × State → α → β × State} (h : Keeps ps s b.2)
    (k : ∀ u x, Keeps ps s u.2 → Keeps ps s (f u x).2) : Keeps ps s (xs.foldl f b).2 := by
  induction xs generalizing b with
  | nil => exact h
  | cons x xs ih => exact ih (k b x h)

theorem Keeps.fold1 {ps : List Part} {α β : Type} {xs : List α} {s : State} {b : State × β}
    {f : State × β → α → State × β} (h : Keeps ps s b.1)
    (k : ∀ u x, Keeps ps s u.1 → Keeps ps s (f u x).1) : Keeps ps s (xs.foldl f b).1 := by
  induction xs generalizing b with
  | nil => exact h
  | cons x xs ih => exact ih (k b x h)

/-! ### Single parts -/

/-- An operation that touches one of the three parts alone keeps them when it keeps what is asked of that one. -/
theorem Keeps.of_part {ps : List Part} {s t : State} (p : Part) (k : Only [p] s t) (h : Guarded s t p) : Keeps
    ps s t :=
  ⟨fun q _ => if e : q = p then e ▸ h else guarded_of_same (k.same q (by simpa using e))⟩

theorem setReg_keeps {o : Nat} (v : Word) (s : State) (ho : o ≠ 4 := by decide) : Keeps guarded s (setReg o v
    s) :=
  .of_part .regs (setReg_only ..) fun h => by
    rw [locked, flg, cfgN, cfg_setReg, if_neg (Ne.symm ho)]; exact h

theorem onSsw_keeps {f : Seesaw → Seesaw} (s : State)
    (hf : ∀ x, x.actOut = false → (f x).actOut = false := by exact fun _ h => h) :
    Keeps guarded s (onSsw f s) :=
  .of_part .ssw (onSsw_only ..) (hf s.ssw)

theorem Keeps.pair2 {ps : List Part} {β : Type} {s t : State} {b : β} (h : Keeps ps s t) :
    Keeps ps s (b, t).2 := h

theorem Keeps.pair1 {ps : List Part} {β : Type} {s t : State} {b : β} (h : Keeps ps s t) :
    Keeps ps s (t, b).1 := h

/-- A check keeps the parts in whichever state it leaves. -/
structure CheckKeeps (ps : List Part) (s : State) (a : Admit) : Prop where
  kept : Keeps ps s (stateOf a)

theorem CheckKeeps.then {ps qs : List Part} {s t : State} {a : Admit} (h : Keeps ps s t)
    (k : CheckKeeps qs t a) (hp : sub ps qs = true := by rfl) : CheckKeeps ps s a :=
  ⟨Keeps.then h k.kept hp⟩

theorem CheckKeeps.quiet {ps qs : List Part} {s t : State} {a : Admit} (h : Keeps ps s t)
    (k : CheckOnly qs t a) (hp : (ps.all fun p => !qs.contains p) = true := by rfl) : CheckKeeps ps s a :=
  ⟨Keeps.quiet h k.keep hp⟩

theorem CheckKeeps.ite {ps : List Part} {s : State} {a b : Admit} {c : Prop} [Decidable c]
    (h : CheckKeeps ps s a) (k : CheckKeeps ps s b) : CheckKeeps ps s (if c then a else b) := by
  split <;> assumption

theorem CheckKeeps.same {ps : List Part} (s : State) (a : Answer) : CheckKeeps ps s (.fail a s) := ⟨Keeps.refl ..⟩

theorem CheckKeeps.pass {ps : List Part} {s t : State} (h : Keeps ps s t) : CheckKeeps ps s (.pass t) := ⟨h⟩

theorem CheckKeeps.wait {ps : List Part} {s t : State} (h : Keeps ps s t) : CheckKeeps ps s (.wait t) := ⟨h⟩

/-- Elements of the list are known while the operation goes through it. -/
theorem Keeps.all_mem {ps : List Part} {α : Type} {xs : List α} {s t : State} {f : α → State → State}
    (h : Keeps ps s t) (k : ∀ x u, x ∈ xs → Keeps ps s u → Keeps ps s (f x u)) : Keeps ps s (forAll xs f t) := by
  induction xs generalizing t with
  | nil => exact h
  | cons x xs ih => exact ih (k x t (List.mem_cons_self ..) h) fun y u hy => k y u (List.mem_cons_of_mem _ hy)

theorem Keeps.of_parts {s t : State} (hr : locked s = true → locked t = true)
    (ha : s.ssw.actOut = false → t.ssw.actOut = false) (ht : t.tick = s.tick) : Keeps guarded s t :=
  ⟨fun p hp => by
    rcases List.mem_cons.mp hp with rfl | hp
    · exact hr
    · rcases List.mem_pair.mp hp with rfl | rfl
      · exact ha
      · exact ht⟩

theorem Keeps.and_tick {s t : State} (h : Keeps [.regs, .ssw] s t) (ht : t.tick = s.tick) : Keeps guarded s t :=
  .of_parts (h.kept .regs (by decide)) (h.kept .ssw (by decide)) ht

/-! ### The bit of the lock -/

theorem bitOf_zero (x : Word) : bitOf x.toNat 0 = x.getLsbD 0 := by
  rw [BitVec.getLsbD, Nat.testBit_zero, bitOf, Nat.pow_zero, Nat.div_one, beq_eq_decide]

/-- The lock is the lowest bit of its register. -/
theorem locked_iff (s : State) : locked s = true ↔ (spGet resetOf s.regs 4).getLsbD 0 = true := by
  rw [locked, flg, cfgN, cfg, bitOf_zero]

theorem maskIn_low (x v : Word) {mask : Nat} (h : mask % 2 = 0) :
    bitOf (maskIn x v mask).toNat 0 = bitOf x.toNat 0 := by
  have hm : (BitVec.ofNat 32 mask).getLsbD 0 = false := by
    rw [BitVec.getLsbD_ofNat, Nat.testBit_zero, h]; rfl
  simp only [bitOf_zero, maskIn, BitVec.getLsbD_or, BitVec.getLsbD_and, BitVec.getLsbD_not, hm]
  simp

theorem low_or (x v : Word) (h : bitOf x.toNat 0 = true) : bitOf (x ||| (v &&& 1)).toNat 0 = true := by
  rw [bitOf_zero] at h ⊢
  simp [h]

/-- A register that a filter keeps reads as before. -/
theorem spGet_filter {α : Type} (d : Nat → α) (p : Nat × α → Bool) (k : Nat) (m : List (Nat × α))
    (hp : ∀ v, p (k, v) = true) : spGet d (m.filter p) k = spGet d m k := by
  induction m with
  | nil => rfl
  | cons e m ih =>
    obtain ⟨j, v⟩ := e
    by_cases h : j = k
    · subst h; simp [spGet, hp]
    · cases hq : p (j, v) <;> simp [spGet, List.filter_cons, hq, h, ih]

/-- An operation that only drops registers by their place keeps the lock's. -/
theorem filterRegs_keeps (s : State) (p : Nat × Word → Bool) (hp : ∀ v, p (4, v) = true) :
    Keeps guarded s { s with regs := s.regs.filter p } :=
  .of_part .regs (Only.upd47 (Only.refl ..)) fun h => by
    rw [locked_iff] at h ⊢
    rwa [spGet_filter _ _ _ _ hp]

theorem portBase_ne_lock (p : Nat) : portBase p ≠ 4 := by
  unfold portBase; omega

theorem spGet_map_at {α : Type} (d : Nat → α) (f : Nat × α → Nat × α) (k : Nat) (m : List (Nat × α))
    (hf : ∀ e, (f e).1 = e.1) (hk : ∀ v, f (k, v) = (k, v)) : spGet d (m.map f) k = spGet d m k := by
  induction m with
  | nil => rfl
  | cons e m ih =>
    obtain ⟨j, v⟩ := e
    have hj := hf (j, v)
    by_cases h : j = k
    · subst h; simp [spGet, hk]
    · rw [List.map_cons, show f (j, v) = (j, (f (j, v)).2) from Prod.ext hj rfl]
      simp only [spGet, if_neg h, ih]

/-- A register at a value other than its reset value stays when those at their reset values are dropped. -/
theorem spGet_filter_reset (d : Nat → Word) (k : Nat) (m : List (Nat × Word)) (h : spGet d m k ≠ d k) :
    spGet d (m.filter fun e => e.2 ≠ d e.1) k = spGet d m k := by
  induction m with
  | nil => rfl
  | cons e m ih =>
    obtain ⟨j, v⟩ := e
    simp only [spGet] at h ⊢
    split at h
    · next hj => subst hj; simp [h, spGet]
    · next hj =>
      rw [List.filter_cons]
      split
      · rw [spGet, if_neg hj]; exact ih h
      · exact ih h

/-- The registers that a warm reset keeps: the lock's is among them. -/
theorem locked_warmRegs (s : State) (h : locked s = true) :
    locked { s with
      regs := (dropKeySlots (s.regs.filter fun e => warmReg s e.1)).filter fun e => e.2 ≠ resetOf e.1 } = true
          := by
  rw [locked_iff] at h ⊢
  have hd : spGet resetOf (dropKeySlots (s.regs.filter fun e => warmReg s e.1)) 4 = spGet resetOf s.regs 4 := by
    unfold dropKeySlots
    rw [spGet_map_at _ _ _ _ (fun e => by split <;> rfl) (fun _ => rfl),
      spGet_filter _ _ _ _ fun _ => by simp [warmReg]]
  rw [spGet_filter_reset _ _ _ (by rw [hd]; intro h0; rw [h0] at h; exact absurd h (by decide)), hd]
  exact h

theorem secDisarm_keeps (s : State) :
    Keeps guarded s (secDisarm s) := by
  unfold secDisarm
  exact setReg_keeps ..

theorem takeDp_keeps (w : DpWork) (s : State) :
    Keeps guarded s (takeDp w s).2 := by
  unfold takeDp
  split
  · refine Keeps.pair2 ?_
    exact Keeps.of_only (Only.upd48 (ps := [.sec]) (Only.refl ..))
  · split
    · exact Keeps.refl _ _
    · split
      · exact Keeps.refl _ _
      · split
        · refine Keeps.pair2 ?_
          exact Keeps.of_only (waitDp_only ..)
        · split
          · refine Keeps.pair2 ?_
            refine Keeps.quiet ?_ (workFault_only ..)
            exact secDisarm_keeps ..
          · exact Keeps.refl _ _

theorem takeDp_keeps' {w : DpWork} {s : State} {x : Option Bool} {post : State} (h : takeDp w s = (x, post)) :
    Keeps guarded s post := by
  have := takeDp_keeps w s; rw [h] at this; exact this

theorem dpReady_keeps (w : DpWork) (s : State) :
    Keeps guarded s (dpReady w s).2 := by
  unfold dpReady
  dsimp -iota -proj only
  refine Keeps.pair2 ?_
  exact takeDp_keeps ..

theorem dpReady_keeps' {w : DpWork} {s : State} {x : Bool} {post : State} (h : dpReady w s = (x, post)) : Keeps
    guarded s post := by
  have := dpReady_keeps w s; rw [h] at this; exact this

theorem workReady_keeps (o : Nat) (d : Fetched) (s : State) :
    Keeps guarded s (workReady o d s).2 := by
  unfold workReady
  split
  · exact Keeps.refl _ _
  · exact dpReady_keeps ..

theorem workReady_keeps' {o : Nat} {d : Fetched} {s : State} {x : Bool} {post : State} (h : workReady o d s =
    (x, post)) : Keeps guarded s post := by
  have := workReady_keeps o d s; rw [h] at this; exact this

theorem checkTag_keeps (q : Nat) (d : Fetched) (s : State) :
    CheckKeeps guarded s (checkTag q d s) := by
  unfold checkTag
  dsimp -iota -proj only
  split
  · rename_i h; exact CheckKeeps.wait (takeDp_keeps' h)
  · rename_i h
    refine CheckKeeps.ite ?_ ?_
    · exact CheckKeeps.quiet (Keeps.quiet (takeDp_keeps' h) (opStarts_only ..)) (authStop_only ..)
    · exact CheckKeeps.quiet (Keeps.quiet (takeDp_keeps' h) (opStarts_only ..)) (checkCounter_only ..)

theorem checkAuth_keeps (q : Nat) (d : Fetched) (s : State) :
    CheckKeeps guarded s (checkAuth q d s) := by
  unfold checkAuth
  dsimp -iota -proj only
  split
  · exact CheckKeeps.quiet (Keeps.refl ..) (resumeCounter_only ..)
  · refine CheckKeeps.ite (.same ..) (CheckKeeps.ite ?_ (CheckKeeps.ite ?_ (CheckKeeps.ite ?_ ?_)))
    · exact CheckKeeps.quiet (Keeps.refl ..) (authStop_only ..)
    · exact CheckKeeps.quiet (Keeps.refl ..) (authStop_only ..)
    · exact CheckKeeps.quiet (Keeps.refl ..) (authStop_only ..)
    · exact checkTag_keeps ..

theorem checkCmd_keeps (q : Nat) (d : Fetched) (s : State) :
    CheckKeeps guarded s (checkCmd q d s) := by
  unfold checkCmd
  dsimp -iota -proj only
  refine CheckKeeps.ite (.same ..) (CheckKeeps.ite (.same ..) (CheckKeeps.ite ?_ ?_))
  · exact CheckKeeps.ite (CheckKeeps.ite (.same ..) (.pass (Keeps.refl ..))) (.same ..)
  · refine CheckKeeps.ite (.same ..) (CheckKeeps.ite (.same ..) (CheckKeeps.ite (.same ..)
      (CheckKeeps.ite ?_ (CheckKeeps.ite (.same ..) (.pass (Keeps.refl ..))))))
    exact checkAuth_keeps ..

theorem eccRead_keeps (target lane index : Nat) (s : State) :
    Keeps guarded s (eccRead target lane index s).2 := by
  unfold eccRead
  dsimp -iota -proj only
  split
  · refine Keeps.pair2 ?_
    refine Keeps.quiet ?_ (perfEv_only ..)
    refine Keeps.quiet ?_ (count_only ..)
    refine Keeps.then ?_ (setReg_keeps ..)
    refine Keeps.ite ?_ ?_
    · exact Keeps.refl _ _
    · exact Keeps.of_only (noteRow_only ..)
  · split
    · refine Keeps.pair2 ?_
      refine Keeps.quiet ?_ (perfEv_only ..)
      refine Keeps.quiet ?_ (count_only ..)
      refine Keeps.then ?_ (setReg_keeps ..)
      refine Keeps.ite ?_ ?_
      · exact Keeps.refl _ _
      · exact Keeps.of_only (noteRow_only ..)
    · refine Keeps.pair2 ?_
      refine Keeps.ite ?_ ?_
      · exact Keeps.refl _ _
      · exact Keeps.of_only (noteRow_only ..)

theorem eccRead_keeps' {target lane index : Nat} {s : State} {x : Bool} {post : State} (h : eccRead target lane
    index s = (x, post)) : Keeps guarded s post := by
  have := eccRead_keeps target lane index s; rw [h] at this; exact this

theorem ingressWord_keeps (pg : PageSet) (l k : Nat) (s : State) :
    Keeps guarded s (ingressWord pg l k s).2 := by
  unfold ingressWord
  dsimp -iota -proj only
  split
  · split
    · refine Keeps.pair2 ?_
      refine Keeps.quiet ?_ (ingressFill_only ..)
      refine Keeps.quiet ?_ (readError_only ..)
      exact eccRead_keeps' ‹eccRead .. = (_, _)›
    · split
      · refine Keeps.pair2 ?_
        exact eccRead_keeps' ‹eccRead .. = (_, _)›
      · split
        · split
          · refine Keeps.pair2 ?_
            refine Keeps.quiet ?_ (ingressFill_only ..)
            refine Keeps.quiet ?_ (readError_only ..)
            refine Keeps.then ?_ (eccRead_keeps' ‹eccRead .. = (_, _)›)
            exact eccRead_keeps' ‹eccRead .. = (_, _)›
          · split
            · refine Keeps.pair2 ?_
              refine Keeps.then ?_ (eccRead_keeps' ‹eccRead .. = (_, _)›)
              exact eccRead_keeps' ‹eccRead .. = (_, _)›
            · refine Keeps.pair2 ?_
              refine Keeps.quiet ?_ (ingressFill_only ..)
              refine Keeps.then ?_ (eccRead_keeps' ‹eccRead .. = (_, _)›)
              exact eccRead_keeps' ‹eccRead .. = (_, _)›
            · refine Keeps.pair2 ?_
              refine Keeps.quiet ?_ (ingressFill_only ..)
              refine Keeps.quiet ?_ (readError_only ..)
              refine Keeps.quiet ?_ (perfEv_only ..)
              refine Keeps.quiet ?_ (count_only ..)
              refine Keeps.then ?_ (eccRead_keeps' ‹eccRead .. = (_, _)›)
              exact eccRead_keeps' ‹eccRead .. = (_, _)›
            · refine Keeps.pair2 ?_
              refine Keeps.quiet ?_ (ingressFill_only ..)
              refine Keeps.quiet ?_ (readError_only ..)
              refine Keeps.quiet ?_ (perfEv_only ..)
              refine Keeps.quiet ?_ (count_only ..)
              refine Keeps.then ?_ (eccRead_keeps' ‹eccRead .. = (_, _)›)
              exact eccRead_keeps' ‹eccRead .. = (_, _)›

theorem ingressWord_keeps' {pg : PageSet} {l k : Nat} {s : State} {x : SlotWord} {post : State} (h :
    ingressWord pg l k s = (x, post)) : Keeps guarded s post := by
  have := ingressWord_keeps pg l k s; rw [h] at this; exact this

theorem ingressAll_keeps (pg : PageSet) (k : Nat) (s : State) :
    Keeps guarded s (ingressAll pg k s).2 := by
  unfold ingressAll
  refine Keeps.fold2 ?_ fun u x hu => ?_
  · exact Keeps.refl _ _
  · split
    · refine Keeps.pair2 ?_
      exact Keeps.then hu (ingressWord_keeps' ‹ingressWord .. = (_, _)›)

theorem ingressAll_keeps' {pg : PageSet} {k : Nat} {s : State} {x : List (Nat × SlotWord)} {post : State} (h :
    ingressAll pg k s = (x, post)) : Keeps guarded s post := by
  have := ingressAll_keeps pg k s; rw [h] at this; exact this

theorem spaceStep_keeps (pg : PageSet) (k : Nat) (ws : List (Nat × SlotWord)) (m : Nat) (s : State) :
    Keeps guarded s (spaceStep pg k ws m s) := by
  unfold spaceStep
  dsimp -iota -proj only
  split
  · refine Keeps.ite ?_ ?_
    · exact eccRead_keeps' ‹eccRead .. = (_, _)›
    · refine Keeps.quiet ?_ (Only.upd9 (ps := [.core]) (Only.refl ..))
      refine Keeps.cond ?_ fun u hu => ?_
      · exact eccRead_keeps' ‹eccRead .. = (_, _)›
      · refine Keeps.quiet ?_ (readError_only ..)
        exact Keeps.quiet hu (condRead_only ..)

theorem outSlot_keeps (m q rowRead : Nat) (s : State) :
    Keeps guarded s (outSlot m q rowRead s).2 := by
  unfold outSlot
  split
  · exact Keeps.refl _ _
  · split
    · split
      · refine Keeps.pair2 ?_
        refine Keeps.quiet ?_ (readError_only ..)
        refine Keeps.quiet ?_ (condRead_only ..)
        exact eccRead_keeps' ‹eccRead .. = (_, _)›
      · split
        · refine Keeps.pair2 ?_
          exact eccRead_keeps' ‹eccRead .. = (_, _)›
        · refine Keeps.pair2 ?_
          exact eccRead_keeps' ‹eccRead .. = (_, _)›
        · refine Keeps.pair2 ?_
          exact eccRead_keeps' ‹eccRead .. = (_, _)›
        · refine Keeps.pair2 ?_
          refine Keeps.quiet ?_ (readError_only ..)
          refine Keeps.quiet ?_ (condRead_only ..)
          refine Keeps.quiet ?_ (perfEv_only ..)
          refine Keeps.quiet ?_ (count_only ..)
          exact eccRead_keeps' ‹eccRead .. = (_, _)›
        · refine Keeps.pair2 ?_
          refine Keeps.quiet ?_ (readError_only ..)
          refine Keeps.quiet ?_ (perfEv_only ..)
          refine Keeps.quiet ?_ (count_only ..)
          exact eccRead_keeps' ‹eccRead .. = (_, _)›

theorem outSlot_keeps' {m q rowRead : Nat} {s : State} {x : SlotWord} {post : State} (h : outSlot m q rowRead s
    = (x, post)) : Keeps guarded s post := by
  have := outSlot_keeps m q rowRead s; rw [h] at this; exact this

theorem outRow_keeps (m r rowRead : Nat) (s : State) :
    Keeps guarded s (outRow m r rowRead s).2 := by
  unfold outRow
  refine Keeps.fold2 ?_ fun u x hu => ?_
  · exact Keeps.refl _ _
  · split
    · refine Keeps.pair2 ?_
      exact Keeps.then hu (outSlot_keeps' ‹outSlot .. = (_, _)›)

theorem outRow_keeps' {m r rowRead : Nat} {s : State} {x : List SlotWord} {post : State} (h : outRow m r
    rowRead s = (x, post)) : Keeps guarded s post := by
  have := outRow_keeps m r rowRead s; rw [h] at this; exact this

theorem emitRow_keeps (l row start : Nat) (s : State) :
    Keeps guarded s (emitRow l row start s) := by
  unfold emitRow
  refine Keeps.ite ?_ ?_
  · exact Keeps.of_only (sendRow_only ..)
  · split
    · refine Keeps.quiet ?_ (sendRow_only ..)
      exact outRow_keeps' ‹outRow .. = (_, _)›

theorem rowReadLane_keeps (m : Nat) (l : Nat) (s : State) :
    Keeps guarded s (rowReadLane m l s) := by
  unfold rowReadLane
  dsimp -iota -proj only
  refine Keeps.ite ?_ ?_
  · refine Keeps.cond ?_ fun u hu => ?_
    · exact Keeps.refl _ _
    · exact Keeps.quiet hu (latchFlags_only ..)
  · refine Keeps.then ?_ (emitRow_keeps ..)
    refine Keeps.cond ?_ fun u hu => ?_
    · exact Keeps.refl _ _
    · exact Keeps.quiet hu (latchFlags_only ..)

theorem beginCodewords_keeps (l start : Nat) (s : State) :
    Keeps guarded s (beginCodewords l start s) := by
  unfold beginCodewords
  dsimp -iota -proj only
  split
  · refine Keeps.cond ?_ fun u hu => ?_
    · refine Keeps.quiet ?_ (setLane_only ..)
      exact Keeps.of_only (draw_only' ‹draw .. = (_, _)›)
    · exact Keeps.then hu (emitRow_keeps ..)

theorem resyncEcc_keeps (s : State) :
    Keeps guarded s (resyncEcc s) := by
  unfold resyncEcc
  dsimp -iota -proj only
  refine Keeps.ite ?_ ?_
  · exact Keeps.refl _ _
  · refine Keeps.ite ?_ ?_
    · refine Keeps.quiet ?_ (raise_only ..)
      refine Keeps.quiet ?_ (count_only ..)
      exact eccRead_keeps ..
    · exact eccRead_keeps ..

/-- A write under a mask that leaves out the lock bit. -/
theorem putReg_keeps {o : Nat} {mask : Nat} (v : Word) (s : State) (h : o = 4 → mask % 2 = 0 := by decide) :
    Keeps guarded s (putReg o v mask s) := by
  by_cases ho : o = 4
  · refine .of_part .regs (putReg_only ..) fun hl => ?_
    subst ho
    rw [locked, flg, cfgN, putReg, cfg_setReg, if_pos rfl, maskIn_low _ _ (h rfl)]
    exact hl
  · exact setReg_keeps _ s ho

theorem shadowCopy_keeps (t : Nat) (s : State) :
    Keeps guarded s (shadowCopy t s) := by
  unfold shadowCopy
  dsimp -iota -proj only
  refine Keeps.ite ?_ ?_
  · refine Keeps.then ?_ (setReg_keeps ..)
    exact Keeps.of_only (Only.upd40 (ps := [.perf]) (Only.refl ..))
  · exact Keeps.of_only (Only.upd40 (ps := [.perf]) (Only.refl ..))

theorem flushWraps_keeps (ended : Nat) (s : State) : Keeps guarded s (flushWraps ended s) := by
  have h : Keeps [.regs, .ssw] s (flushWraps ended s) := by
    unfold flushWraps
    refine Keeps.quiet (Keeps.quiet (Keeps.all ?_ fun x u hu => Keeps.quiet hu (overflowEvent_only ..))
      (Only.upd52 (ps := [.tick]) (Only.refl ..))) (Only.upd40 (ps := [.perf]) (Only.refl ..))
    exact Keeps.of_only (Only.upd52 (ps := [.tick]) (Only.refl ..))
  exact h.and_tick rfl

theorem restoreRegs_keeps (s : State) : Keeps guarded s (restoreRegs s) := by
  unfold restoreRegs
  refine Keeps.all_mem ?_ fun e u he hu => Keeps.then hu (setReg_keeps e.2 u ?_)
  · exact filterRegs_keeps s _ fun _ => rfl
  · rintro h4
    have := (List.mem_filter.mp he).2
    rw [h4] at this
    exact absurd this (by decide)

theorem restoreCounter_keeps (e : Nat × Nat × Nat × Nat) (s : State) :
    Keeps guarded s (restoreCounter e s) := by
  unfold restoreCounter
  exact Keeps.ite (Keeps.quiet (setReg_keeps _ _ (by omega)) (setQueue_only ..)) (Keeps.refl ..)

theorem restoreKeys_keeps (s : State) :
    Keeps guarded s (restoreKeys s) := by
  unfold restoreKeys
  dsimp -iota -proj only
  refine Keeps.ite ?_ ?_
  · exact Keeps.refl _ _
  · refine Keeps.all ?_ fun x u hu => ?_
    · refine Keeps.all ?_ fun x u hu => ?_
      · exact Keeps.of_only (restoreOwner_only ..)
      · exact Keeps.quiet hu (restoreSlot_only ..)
    · exact Keeps.then hu (restoreCounter_keeps ..)

theorem replay_keeps (cause : Nat) (a b : Bool) (s : State) :
    Keeps guarded s (replay cause a b s) := by
  unfold replay
  dsimp -iota -proj only
  refine Keeps.ite ?_ ?_
  · refine Keeps.quiet ?_ (raise_only ..)
    refine Keeps.quiet ?_ (startRegions_only ..)
    exact Keeps.of_only (forgetLearning_only ..)
  · refine Keeps.quiet ?_ (newEpoch_only ..)
    refine Keeps.then ?_ (restoreKeys_keeps ..)
    refine Keeps.quiet ?_ (takeModel_only ..)
    refine Keeps.fold ?_ fun u x hu => ?_
    · refine Keeps.then ?_ (restoreRegs_keeps ..)
      refine Keeps.quiet ?_ (countN_only ..)
      refine Keeps.quiet ?_ (countOpens_only ..)
      refine Keeps.cond ?_ fun u hu => ?_
      · refine Keeps.quiet ?_ (resumeSeq_only ..)
        refine Keeps.quiet ?_ (startRegions_only ..)
        exact Keeps.of_only (forgetLearning_only ..)
      · exact Keeps.quiet hu (raise_only ..)
    · exact Keeps.quiet hu (applyLocal_only ..)

theorem writePortCfg_keeps (p : Nat) (v : Word) (s : State) :
    Keeps guarded s (writePortCfg p v s) := by
  unfold writePortCfg
  refine Keeps.quiet (Keeps.then (Keeps.cond (Keeps.cond (Keeps.refl ..) fun u hu => ?_) fun u hu => ?_)
    (putReg_keeps _ _ fun h => absurd h (portBase_ne_lock p))) (startPort_only ..)
  · exact Keeps.quiet hu (setFollow_only ..)
  · exact Keeps.quiet hu (setPort_only ..)

theorem writeLnCfg_keeps (l : Nat) (v : Word) (s : State) :
    Keeps guarded s (writeLnCfg l v s) := by
  have h : Keeps guarded s (putReg (laneBase l) v 0x37F s) :=
    putReg_keeps v s fun h => absurd h (by unfold laneBase; split <;> omega)
  unfold writeLnCfg
  dsimp -iota -proj only
  revert h
  generalize putReg (laneBase l) v 0x37F s = t
  intro h
  have k := fun ls => Keeps.all (xs := ls) (f := fun l s => leaveBond l 1 s)
    (Keeps.ite (c := (!pdOn t (laneDomain l)) = true) h (Keeps.ite (c := flg t (laneBase l) 9 = true)
      (Keeps.ite (c := (lane t l).trn.rx = 0) (Keeps.quiet h (startTraining_only l t)) h)
      (Keeps.ite (c := (lane t l).trn.rx = 0) h (Keeps.quiet h (laneOff_only l t)))))
    fun x u hu => Keeps.quiet hu (leaveBond_only ..)
  exact Keeps.ite (k _) (Keeps.quiet (k _) (nameMismatched_only ..))

theorem writeTdCfg_keeps (p : Nat) (v : Word) (s : State) :
    Keeps guarded s (writeTdCfg p v s) := by
  have h : Keeps guarded s (putReg (portBase p + 8) v (portMask p 8) s) :=
    putReg_keeps v s fun h => absurd h (by unfold portBase; omega)
  unfold writeTdCfg
  exact Keeps.ite h (Keeps.ite (Keeps.quiet (Keeps.quiet h (setPort_only ..)) (askRebind_only ..))
    (Keeps.quiet h (setPort_only ..)))

theorem setClaimEn_keeps (b : Bool) (s : State) :
    Keeps guarded s (setClaimEn b s) := by
  unfold setClaimEn
  exact Keeps.ite (Keeps.refl ..) (.of_part .ssw (Only.upd51 (Only.refl ..)) fun h => h)

theorem setCopySt_keeps (st : Nat) (s : State) :
    Keeps guarded s (setCopySt st s) := by
  unfold setCopySt
  dsimp -iota -proj only
  refine Keeps.ite ?_ ?_
  · exact Keeps.refl _ _
  · refine Keeps.ite ?_ ?_
    · refine Keeps.quiet ?_ (raise_only ..)
      exact Keeps.of_only (onCopy_only ..)
    · refine Keeps.ite ?_ ?_
      · refine Keeps.then ?_ (setClaimEn_keeps ..)
        refine Keeps.quiet ?_ (raise_only ..)
        exact Keeps.of_only (onCopy_only ..)
      · refine Keeps.ite ?_ ?_
        · refine Keeps.then ?_ (setClaimEn_keeps ..)
          refine Keeps.quiet ?_ (raise_only ..)
          exact Keeps.of_only (onCopy_only ..)
        · refine Keeps.quiet ?_ (raise_only ..)
          exact Keeps.of_only (onCopy_only ..)

theorem stopCopy_keeps (st : Nat) (s : State) :
    Keeps guarded s (stopCopy st s) := by
  unfold stopCopy
  refine Keeps.then ?_ (setCopySt_keeps ..)
  refine Keeps.quiet ?_ (dropItems_only ..)
  exact Keeps.of_only (onCopy_only ..)

theorem chooseCopy_keeps (s : State) :
    Keeps guarded s (chooseCopy s) := by
  unfold chooseCopy
  dsimp -iota -proj only
  refine Keeps.ite ?_ ?_
  · refine Keeps.then ?_ (setCopySt_keeps ..)
    exact Keeps.of_only (startStream_only ..)
  · refine Keeps.ite ?_ ?_
    · refine Keeps.ite ?_ ?_
      · exact Keeps.refl _ _
      · exact Keeps.of_only (Only.upd29 (ps := [.jnl]) (Only.refl ..))
    · refine Keeps.ite ?_ ?_
      · exact stopCopy_keeps ..
      · refine Keeps.ite ?_ ?_
        · refine Keeps.then ?_ (setCopySt_keeps ..)
          refine Keeps.quiet ?_ (putCkpt_only ..)
          refine Keeps.quiet ?_ (startStream_only ..)
          exact dpReady_keeps ..
        · exact dpReady_keeps ..

theorem putRecords_keeps (rs : List JRec) (s : State) : Keeps guarded s (putRecords rs s) := by
  induction rs generalizing s with
  | nil => exact Keeps.refl ..
  | cons r rs ih =>
    unfold putRecords
    refine Keeps.ite (Keeps.refl ..) (Keeps.ite ?_ (dpReady_keeps ..))
    exact Keeps.then (Keeps.quiet (dpReady_keeps ..) (putRecord_only ..)) (ih ..)

theorem formStream_keeps (s : State) :
    Keeps guarded s (formStream s) := by
  unfold formStream
  exact putRecords_keeps ..

theorem copyTick_keeps (s : State) :
    Keeps guarded s (copyTick s) := by
  unfold copyTick
  dsimp -iota -proj only
  refine Keeps.ite ?_ ?_
  · refine Keeps.quiet ?_ (settleWaiters_only ..)
    refine Keeps.ite ?_ ?_
    · refine Keeps.ite ?_ ?_
      · exact Keeps.refl _ _
      · exact stopCopy_keeps ..
    · refine Keeps.ite ?_ ?_
      · refine Keeps.ite ?_ ?_
        · exact Keeps.refl _ _
        · exact stopCopy_keeps ..
      · refine Keeps.ite ?_ ?_
        · exact stopCopy_keeps ..
        · exact Keeps.refl _ _
  · refine Keeps.ite ?_ ?_
    · refine Keeps.all ?_ fun x u hu => ?_
      · refine Keeps.then ?_ (formStream_keeps ..)
        refine Keeps.ite ?_ ?_
        · refine Keeps.then ?_ (chooseCopy_keeps ..)
          refine Keeps.ite ?_ ?_
          · refine Keeps.ite ?_ ?_
            · exact Keeps.refl _ _
            · exact stopCopy_keeps ..
          · refine Keeps.ite ?_ ?_
            · refine Keeps.ite ?_ ?_
              · exact Keeps.refl _ _
              · exact stopCopy_keeps ..
            · refine Keeps.ite ?_ ?_
              · exact stopCopy_keeps ..
              · exact Keeps.refl _ _
        · refine Keeps.ite ?_ ?_
          · refine Keeps.ite ?_ ?_
            · exact Keeps.refl _ _
            · exact stopCopy_keeps ..
          · refine Keeps.ite ?_ ?_
            · refine Keeps.ite ?_ ?_
              · exact Keeps.refl _ _
              · exact stopCopy_keeps ..
            · refine Keeps.ite ?_ ?_
              · exact stopCopy_keeps ..
              · exact Keeps.refl _ _
      · exact Keeps.quiet hu (sendCopy_only ..)
    · refine Keeps.quiet ?_ (settleWaiters_only ..)
      refine Keeps.ite ?_ ?_
      · refine Keeps.then ?_ (chooseCopy_keeps ..)
        refine Keeps.ite ?_ ?_
        · refine Keeps.ite ?_ ?_
          · exact Keeps.refl _ _
          · exact stopCopy_keeps ..
        · refine Keeps.ite ?_ ?_
          · refine Keeps.ite ?_ ?_
            · exact Keeps.refl _ _
            · exact stopCopy_keeps ..
          · refine Keeps.ite ?_ ?_
            · exact stopCopy_keeps ..
            · exact Keeps.refl _ _
      · refine Keeps.ite ?_ ?_
        · refine Keeps.ite ?_ ?_
          · exact Keeps.refl _ _
          · exact stopCopy_keeps ..
        · refine Keeps.ite ?_ ?_
          · refine Keeps.ite ?_ ?_
            · exact Keeps.refl _ _
            · exact stopCopy_keeps ..
          · refine Keeps.ite ?_ ?_
            · exact stopCopy_keeps ..
            · exact Keeps.refl _ _

theorem takeTerm_keeps (t : Nat) (s : State) :
    Keeps guarded s (takeTerm t s) := by
  unfold takeTerm
  dsimp -iota -proj only
  refine Keeps.ite ?_ ?_
  · refine Keeps.then ?_ (setCopySt_keeps ..)
    refine Keeps.quiet ?_ (onCopy_only ..)
    exact Keeps.of_only (Only.upd29 (ps := [.jnl]) (Only.refl ..))
  · refine Keeps.quiet ?_ (onCopy_only ..)
    exact Keeps.of_only (Only.upd29 (ps := [.jnl]) (Only.refl ..))

theorem takePeer_keeps (p : JPay) (origin pos : Nat) (s : State) :
    Keeps guarded s (takePeer p origin pos s) := by
  unfold takePeer
  dsimp -iota -proj only
  refine Keeps.quiet ?_ (refreshModel_only ..)
  split
  · refine Keeps.then ?_ (takeTerm_keeps ..)
    refine Keeps.quiet ?_ (onCopy_only ..)
    exact Keeps.of_only (journalPeer_only ..)
  · refine Keeps.quiet ?_ (onCopy_only ..)
    exact Keeps.of_only (journalPeer_only ..)

theorem takeRecord_keeps (b : Bytes) (pos : Nat) (s : State) :
    Keeps guarded s (takeRecord b pos s) := by
  unfold takeRecord
  dsimp -iota -proj only
  split
  · exact Keeps.of_only (copyOps_only ..)
  · refine Keeps.ite ?_ ?_
    · refine Keeps.quiet ?_ (onCopy_only ..)
      exact Keeps.of_only (copyOps_only ..)
    · split
      · refine Keeps.then ?_ (takePeer_keeps ..)
        refine Keeps.quiet ?_ (onCopy_only ..)
        exact Keeps.of_only (copyOps_only ..)
      · refine Keeps.quiet ?_ (onCopy_only ..)
        exact Keeps.of_only (copyOps_only ..)

theorem takeCkpt_keeps (id term origin : Nat) (sha : Bytes) (pays : List JPay) (pos : Nat) (s : State) :
    Keeps guarded s (takeCkpt id term origin sha pays pos s) := by
  unfold takeCkpt
  dsimp -iota -proj only
  refine Keeps.then ?_ (takeTerm_keeps ..)
  refine Keeps.quiet ?_ (refreshModel_only ..)
  refine Keeps.quiet ?_ (onCopy_only ..)
  refine Keeps.quiet ?_ (onRegions_only ..)
  refine Keeps.quiet ?_ (journalPeer_only ..)
  refine Keeps.quiet ?_ (Only.upd29 (ps := [.jnl]) (Only.refl ..))
  split
  · exact Keeps.of_only (raise_only ..)
  · exact Keeps.refl _ _

theorem takeCommitItem_keeps (b : Bytes) (pos : Nat) (s : State) :
    Keeps guarded s (takeCommitItem b pos s) := by
  unfold takeCommitItem
  dsimp -iota -proj only
  split
  · refine Keeps.ite ?_ ?_
    · refine Keeps.quiet ?_ (dropItems_only ..)
      exact Keeps.of_only (copyOps_only ..)
    · refine Keeps.then ?_ (takeCkpt_keeps ..)
      exact Keeps.of_only (copyOps_only ..)
  · refine Keeps.quiet ?_ (dropItems_only ..)
    exact Keeps.of_only (copyOps_only ..)

theorem takeStart_keeps (b : Bytes) (pos : Nat) (s : State) :
    Keeps guarded s (takeStart b pos s) := by
  unfold takeStart
  dsimp -iota -proj only
  refine Keeps.then ?_ (setCopySt_keeps ..)
  refine Keeps.quiet ?_ (dropItems_only ..)
  exact Keeps.of_only (onCopy_only ..)

theorem takeItem_keeps (kind : Nat) (b : Bytes) (pos : Nat) (s : State) :
    Keeps guarded s (takeItem kind b pos s) := by
  unfold takeItem
  refine Keeps.ite ?_ ?_
  · exact takeRecord_keeps ..
  · refine Keeps.ite ?_ ?_
    · refine Keeps.quiet ?_ (onRegions_only ..)
      exact Keeps.of_only (onCopy_only ..)
    · refine Keeps.ite ?_ ?_
      · exact takeCommitItem_keeps ..
      · refine Keeps.ite ?_ ?_
        · exact takeStart_keeps ..
        · exact Keeps.refl _ _

theorem itemReady_keeps (kind : Nat) (s : State) :
    Keeps guarded s (itemReady kind s).2 := by
  unfold itemReady
  split
  · exact dpReady_keeps ..
  · exact Keeps.refl _ _

theorem itemReady_keeps' {kind : Nat} {s : State} {x : Bool} {post : State} (h : itemReady kind s = (x, post))
    : Keeps guarded s post := by
  have := itemReady_keeps kind s; rw [h] at this; exact this

theorem takeItems_keeps (n : Nat) (s : State) : Keeps guarded s (takeItems n s) := by
  induction n generalizing s with
  | zero => exact Keeps.refl ..
  | succ n ih =>
    unfold takeItems
    refine Keeps.ite (Keeps.refl ..) (Keeps.ite (itemReady_keeps ..) ?_)
    exact Keeps.then (Keeps.then (Keeps.quiet (itemReady_keeps ..) (onCopy_only ..)) (takeItem_keeps ..)) (ih ..)

theorem takeReady_keeps (s : State) :
    Keeps guarded s (takeReady s) := by
  unfold takeReady
  dsimp -iota -proj only
  refine Keeps.ite ?_ ?_
  · refine Keeps.quiet ?_ (sendAck_only ..)
    exact takeItems_keeps ..
  · exact takeItems_keeps ..

theorem copyData_keeps (p : Nat) (b : Bytes) (s : State) :
    Keeps guarded s (copyData p b s) := by
  unfold copyData
  dsimp -iota -proj only
  refine Keeps.ite ?_ ?_
  · refine Keeps.quiet ?_ (askResend_only ..)
    refine Keeps.ite ?_ ?_
    · refine Keeps.quiet ?_ (dropItems_only ..)
      exact Keeps.of_only (onCopy_only ..)
    · exact Keeps.refl _ _
  · refine Keeps.ite ?_ ?_
    · refine Keeps.quiet ?_ (onCopy_only ..)
      refine Keeps.ite ?_ ?_
      · refine Keeps.quiet ?_ (dropItems_only ..)
        exact Keeps.of_only (onCopy_only ..)
      · exact Keeps.refl _ _
    · refine Keeps.then ?_ (takeReady_keeps ..)
      refine Keeps.quiet ?_ (onCopy_only ..)
      refine Keeps.quiet ?_ (drainHeld_only ..)
      refine Keeps.quiet ?_ (streamTake_only ..)
      refine Keeps.ite ?_ ?_
      · refine Keeps.quiet ?_ (dropItems_only ..)
        exact Keeps.of_only (onCopy_only ..)
      · exact Keeps.refl _ _

theorem marksTick_keeps (s : State) :
    Keeps guarded s (marksTick s) := by
  unfold marksTick
  dsimp -iota -proj only
  split
  · refine Keeps.ite ?_ ?_
    · exact takeReady_keeps ..
    · exact Keeps.refl _ _
  · refine Keeps.quiet ?_ (onCopy_only ..)
    refine Keeps.ite ?_ ?_
    · exact takeReady_keeps ..
    · exact Keeps.refl _ _

theorem enginesTick_keeps (ended : Nat) (s : State) :
    Keeps guarded s (enginesTick ended s) := by
  unfold enginesTick
  refine Keeps.quiet ?_ (takeMessages_only ..)
  refine Keeps.quiet ?_ (clearOverruns_only ..)
  refine Keeps.then ?_ (flushWraps_keeps ..)
  refine Keeps.then ?_ (shadowCopy_keeps ..)
  exact Keeps.of_only (enginesDone_only ..)

theorem setQcfg_keeps (q : Nat) (v : Word) (s : State) :
    Keeps guarded s (setQcfg q v s) := by
  have h := setReg_keeps (o := 0x51010 + 0x40 * q) v s (by omega)
  unfold setQcfg
  exact Keeps.ite (Keeps.quiet h (setQueue_only ..)) h

theorem closeQueue_keeps (q : Nat) (s : State) :
    Keeps guarded s (closeQueue q s) := by
  unfold closeQueue
  exact Keeps.quiet (Keeps.quiet (setReg_keeps _ _ (by omega)) (setQueue_only ..)) (finishClosing_only ..)

theorem writeQcfg_keeps (q : Nat) (v : Word) (s : State) :
    Keeps guarded s (writeQcfg q v s) := by
  unfold writeQcfg
  refine Keeps.ite ?_ ?_
  · refine Keeps.ite ?_ ?_
    · exact Keeps.refl _ _
    · exact closeQueue_keeps ..
  · refine Keeps.ite ?_ ?_
    · exact setQcfg_keeps ..
    · refine Keeps.ite ?_ ?_
      · exact Keeps.refl _ _
      · refine Keeps.quiet ?_ (openQueue_only ..)
        exact setQcfg_keeps ..

theorem writeEqcfg_keeps (r : Nat) (v : Word) (s : State) :
    Keeps guarded s (writeEqcfg r v s) := by
  have h : ∀ v, Keeps guarded s (setReg (0x56008 + 0x20 * r) v s) := fun v => setReg_keeps v s (by omega)
  unfold writeEqcfg
  refine Keeps.ite (Keeps.ite (Keeps.refl ..) (Keeps.quiet (h _) (setRing_only ..))) (Keeps.ite (h _) ?_)
  exact Keeps.ite (Keeps.refl ..) (Keeps.quiet (Keeps.quiet (h _) (setRing_only ..)) (flushDrops_only ..))

theorem resetQueue_keeps (q : Nat) (s : State) :
    Keeps guarded s (resetQueue q s) := by
  unfold resetQueue
  refine Keeps.ite (setReg_keeps _ _ (by omega)) ?_
  refine Keeps.then (Keeps.quiet (Keeps.cond (Keeps.refl ..) fun u hu => ?_) (setQueue_only ..))
      (closeQueue_keeps ..)
  exact Keeps.quiet hu (queueError_only ..)

theorem resetRing_keeps (r : Nat) (s : State) :
    Keeps guarded s (resetRing r s) := by
  unfold resetRing
  exact Keeps.quiet (setReg_keeps _ _ (by omega)) (setRing_only ..)

theorem resetFunction_keeps (f : Nat) (s : State) :
    Keeps guarded s (resetFunction f s) := by
  unfold resetFunction
  dsimp -iota -proj only
  refine Keeps.all ?_ fun x u hu => ?_
  · refine Keeps.all ?_ fun x u hu => ?_
    · exact Keeps.refl _ _
    · exact Keeps.then hu (resetRing_keeps ..)
  · exact Keeps.then hu (resetQueue_keeps ..)

theorem hostReset_keeps (s : State) :
    Keeps guarded s (hostReset s) := by
  unfold hostReset
  generalize h : { s with hif := { s.hif with
    link := false, ready := false, speed := 0, width := 0, flit := false, vfs := 0, mps := 0, mrrs := 2, turn
        := 0,
    vfTable := [] } } = u
  have k : Keeps guarded s (resetFunction 0 u) :=
    Keeps.then (h ▸ Keeps.of_only (Only.upd20 (ps := [.queues, .link]) (Only.refl ..))) (resetFunction_keeps 0 u)
  refine Keeps.then k (qs := guarded) ?_
  generalize resetFunction 0 u = t
  exact .of_parts ((filterRegs_keeps t (fun x => !(decide (0x700000 ≤ x.1) && decide (x.1 < 0x710000)) && x.1 ≠
      0x50004)
    fun _ => rfl).kept .regs (by decide)) (fun h => h) rfl

theorem setRole_keeps (r : Nat) (s : State) :
    Keeps guarded s (setRole r s) := by
  have h := onSsw_keeps (f := fun x => { x with role := r }) s fun _ ha => ha
  unfold setRole
  exact Keeps.ite (Keeps.quiet h (Only.upd44 (ps := [.pwr]) (Only.refl ..))) h

theorem holdStandbyOnly_keeps (s : State) :
    Keeps guarded s (holdStandbyOnly s) := by
  unfold holdStandbyOnly
  exact Keeps.all (onSsw_keeps s fun _ h => h) fun p u hu =>
    Keeps.then hu (setReg_keeps _ u (portBase_ne_lock p))

theorem restoreStandbyOnly_keeps (s : State) :
    Keeps guarded s (restoreStandbyOnly s) := by
  unfold restoreStandbyOnly
  exact Keeps.all (onSsw_keeps s fun _ h => h) fun p u hu =>
    Keeps.then hu (setReg_keeps _ u (portBase_ne_lock p))

theorem release_keeps (cause : Nat) (s : State) :
    Keeps guarded s (release cause s) := by
  unfold release
  refine Keeps.ite (Keeps.refl ..) ?_
  refine Keeps.then (Keeps.quiet (Keeps.then (Keeps.then (Keeps.ite (Keeps.then ?_ (setClaimEn_keeps ..)) ?_)
    (setRole_keeps ..)) (stopCopy_keeps ..)) (raise_only ..)) (holdStandbyOnly_keeps ..)
  all_goals exact Keeps.then (Keeps.of_only (count_only ..)) (onSsw_keeps _ fun _ _ => rfl)

theorem becomeActive_keeps (s : State) :
    Keeps guarded s (becomeActive s) := by
  unfold becomeActive
  dsimp -iota -proj only
  refine Keeps.quiet ?_ (request_only ..)
  refine Keeps.quiet ?_ (restoreSelectors_only ..)
  refine Keeps.quiet ?_ (journal_only ..)
  refine Keeps.quiet ?_ (Only.upd29 (ps := [.jnl]) (Only.refl ..))
  exact stopCopy_keeps ..

/-- A claim raises the line, and keeps the rest. -/
theorem claimLine_keeps (s : State) :
    Keeps [.regs, .tick] s (claimLine s) := by
  unfold claimLine
  have h : Keeps [.regs, .tick] s (onSsw (fun x => { x with
      actOut := true, claimEn := false, guardAt := none, lastChange := (count 0x40008 s).tick, giveUp := false
      peerRst := false }) (count 0x40008 s)) :=
    Keeps.quiet (Keeps.of_only (count_only ..)) (onSsw_only ..)
  refine Keeps.then (Keeps.cond (Keeps.quiet (Keeps.then (Keeps.ite (Keeps.then h (setReg_keeps ..)) h)
    (setRole_keeps ..)) (raise_only ..)) fun u hu => ?_) (becomeActive_keeps ..)
  exact Keeps.quiet (Keeps.quiet (Keeps.quiet hu (reallocateBanks_only ..)) (refreshModel_only ..))
      (loadGroups_only ..)

theorem stepNine_keeps (s : State) :
    Keeps guarded s (stepNine s) := by
  unfold stepNine
  dsimp -iota -proj only
  refine Keeps.all ?_ fun x u hu => Keeps.quiet hu (domainOn_only ..)
  refine Keeps.then ?_ (holdStandbyOnly_keeps ..)
  refine Keeps.then ?_ (onSsw_keeps _ fun _ h => h)
  exact Keeps.of_only (Only.upd44 (ps := [.pwr]) (Only.refl ..))

theorem decideClaim_keeps (may : Bool) (s : State) :
    Keeps guarded s (decideClaim may s) := by
  unfold decideClaim
  dsimp -iota -proj only
  refine Keeps.then ?_ (stepNine_keeps ..)
  refine Keeps.ite ?_ ?_
  · exact setClaimEn_keeps ..
  · refine Keeps.then ?_ (setRole_keeps ..)
    exact setClaimEn_keeps ..

theorem pathAlive_keeps (px : Bool) (s : State) :
    Keeps guarded s (pathAlive px s) := by
  unfold pathAlive
  exact Keeps.ite (onSsw_keeps _ (by intro x h; split <;> exact h))
    (Keeps.quiet (onSsw_keeps _ (by intro x h; split <;> exact h)) (raiseX_only ..))

theorem takeHeartbeat_keeps (b : Bytes) (s : State) :
    Keeps guarded s (takeHeartbeat b s) := by
  unfold takeHeartbeat
  dsimp -iota -proj only
  refine Keeps.ite ?_ ?_
  · refine Keeps.then ?_ (decideClaim_keeps ..)
    refine Keeps.cond ?_ fun u hu => Keeps.quiet hu (raise_only ..)
    refine Keeps.then ?_ (pathAlive_keeps ..)
    exact onSsw_keeps _ fun _ h => h
  · refine Keeps.cond ?_ fun u hu => Keeps.quiet hu (raise_only ..)
    refine Keeps.then ?_ (pathAlive_keeps ..)
    exact onSsw_keeps _ fun _ h => h

theorem modeClaim_keeps (old : Nat) (s : State) :
    Keeps guarded s (modeClaim old s) := by
  unfold modeClaim
  split
  · exact setClaimEn_keeps ..
  · refine Keeps.ite ?_ ?_
    · exact Keeps.refl _ _
    · exact setClaimEn_keeps ..
  · refine Keeps.ite ?_ ?_
    · exact Keeps.refl _ _
    · exact setClaimEn_keeps ..

theorem sswTick_keeps (s : State) :
    Keeps guarded s (sswTick s) := by
  unfold sswTick
  have h : Keeps guarded s (if s.tick % ms (max 1 (fld s 0x40004 23 16)) = 0 ∧ !s.mgmt.halted then
      onSsw (fun x => { x with hbOut := !x.hbOut }) s else s) :=
    Keeps.ite (onSsw_keeps s fun _ h => h) (Keeps.refl ..)
  dsimp -iota -proj only
  revert h
  generalize (if s.tick % ms (max 1 (fld s 0x40004 23 16)) = 0 ∧ !s.mgmt.halted then
      onSsw (fun x => { x with hbOut := !x.hbOut }) s else s) = u
  intro h
  have k : Keeps guarded s (if u.ssw.role = 3 ∧ u.page.gen ≠ 0 then setRole 1 u else u) :=
    Keeps.ite (Keeps.then h (setRole_keeps ..)) h
  have r := Keeps.then k (restoreStandbyOnly_keeps ..)
  exact Keeps.ite k (Keeps.ite (Keeps.ite r k) (Keeps.ite r k))

theorem coreOff_keeps (s : State) :
    Keeps guarded s (coreOff s) := by
  have h : Keeps guarded s (perfCatch (forAll (s.lanes.map (·.1)) loseRefs (stopCopy 0 (dropCoreWork s)))) :=
    Keeps.quiet (Keeps.all (Keeps.then (Keeps.of_only (dropCoreWork_only ..)) (stopCopy_keeps ..))
      fun x u hu => Keeps.quiet hu (loseRefs_only ..)) (perfCatch_only ..)
  unfold coreOff
  revert h
  generalize perfCatch _ = u
  intro h
  exact Keeps.then h (.of_parts ((filterRegs_keeps u _ fun _ => rfl).kept .regs (by decide)) (fun h => h) rfl)

theorem trip_keeps (s : State) :
    Keeps guarded s (trip s) := by
  unfold trip
  dsimp -iota -proj only
  refine Keeps.ite ?_ ?_
  · refine Keeps.quiet ?_ (onPwr_only ..)
    refine Keeps.then ?_ (onSsw_keeps _ fun _ h => h)
    refine Keeps.then ?_ (coreOff_keeps ..)
    refine Keeps.quiet ?_ (raise_only ..)
    refine Keeps.quiet ?_ (Only.upd49 (ps := [.sens]) (Only.refl ..))
    exact release_keeps ..
  · refine Keeps.quiet ?_ (raise_only ..)
    refine Keeps.quiet ?_ (Only.upd49 (ps := [.sens]) (Only.refl ..))
    exact release_keeps ..

/-- The reset of everything begins the registers and the tick again. -/
theorem fullReset_keeps (s : State) : Keeps [.ssw] s (fullReset s) :=
  ⟨fun p hp => by rw [List.mem_singleton.mp hp]; exact fun _ => rfl⟩

theorem stepsFourFive_keeps (cause : Nat) (s : State) :
    Keeps guarded s (stepsFourFive cause s) := by
  unfold stepsFourFive
  dsimp -iota -proj only
  refine Keeps.quiet ?_ (Only.upd8 (ps := [.copy]) (Only.refl ..))
  refine Keeps.then ?_ (replay_keeps ..)
  refine Keeps.quiet ?_ (deliverHeld_only ..)
  refine Keeps.quiet ?_ (toStep_only ..)
  exact Keeps.of_only (toStep_only ..)

theorem stepsSevenEight_keeps (s : State) :
    Keeps guarded s (stepsSevenEight s) := by
  unfold stepsSevenEight
  refine Keeps.then (Keeps.quiet (Keeps.quiet (Keeps.all (Keeps.quiet (Keeps.of_only (spanTime_only ..))
    (onPwr_only ..)) fun x u hu => ?_) (loadGroups_only ..)) (toStep_only ..)) (onSsw_keeps _ fun _ h => h)
  exact Keeps.quiet hu (startCluster_only ..)

theorem startFromTwo_keeps (cause : Nat) (b : BootInput) (s : State) :
    Keeps guarded s (startFromTwo cause b s) := by
  unfold startFromTwo
  dsimp -iota -proj only
  refine Keeps.ite ?_ ?_
  · refine Keeps.quiet ?_ (reportDebug_only ..)
    refine Keeps.quiet ?_ (recover_only ..)
    refine Keeps.quiet ?_ (bootFlash_only ..)
    refine Keeps.quiet ?_ (powerOn_only ..)
    refine Keeps.quiet ?_ (onPwr_only ..)
    exact Keeps.of_only (fusedRepairs_only ..)
  · refine Keeps.ite ?_ ?_
    · refine Keeps.quiet ?_ (onPwr_only ..)
      refine Keeps.quiet ?_ (reportDebug_only ..)
      refine Keeps.then ?_ (stepsFourFive_keeps ..)
      refine Keeps.quiet ?_ (stepThree_only ..)
      refine Keeps.quiet ?_ (bootFlash_only ..)
      refine Keeps.quiet ?_ (powerOn_only ..)
      refine Keeps.quiet ?_ (onPwr_only ..)
      exact Keeps.of_only (fusedRepairs_only ..)
    · refine Keeps.quiet ?_ (laterSteps_only ..)
      refine Keeps.quiet ?_ (toStep_only ..)
      refine Keeps.quiet ?_ (reportDebug_only ..)
      refine Keeps.then ?_ (stepsFourFive_keeps ..)
      refine Keeps.quiet ?_ (stepThree_only ..)
      refine Keeps.quiet ?_ (bootFlash_only ..)
      refine Keeps.quiet ?_ (powerOn_only ..)
      refine Keeps.quiet ?_ (onPwr_only ..)
      exact Keeps.of_only (fusedRepairs_only ..)

/-- Start-up begins the tick again. -/
theorem startUp_keeps (b : BootInput) (s : State) :
    Keeps [.regs, .ssw] s (startUp b s) := by
  unfold startUp
  dsimp -iota -proj only
  split
  next h =>
  refine Keeps.ite ?_ (Keeps.then (Keeps.quiet ?_ (stepTime_only ..)) (startFromTwo_keeps ..))
  all_goals
    refine Keeps.then (Keeps.of_only (randomBytes_only' h)) (qs := [.regs, .ssw]) ⟨fun p hp => ?_⟩
    rcases List.mem_pair.mp hp with rfl | rfl
    · exact fun hl => hl
    · exact fun ha => ha

theorem startUpFresh_keeps (b : BootInput) (s : State) :
    Keeps [.regs, .ssw] s (startUpFresh b s) := by
  unfold startUpFresh
  exact Keeps.cond (startUp_keeps ..) fun u hu => Keeps.quiet hu (raise_only ..)

theorem loseVin_keeps (s : State) :
    Keeps [.ssw] s (loseVin s) := by
  unfold loseVin
  exact Keeps.quiet (Keeps.then (Keeps.of_only (resetFlash_only ..)) (fullReset_keeps ..))
    (Only.upd44 (ps := [.pwr]) (Only.refl ..))

theorem warmWipe_keeps (s : State) : Keeps guarded s (warmWipe s) := by
  have h : Keeps guarded s (forAll (s.lanes.map (·.1)) loseRefs (hostReset s)) :=
    Keeps.all (hostReset_keeps s) fun x u hu => Keeps.quiet hu (loseRefs_only ..)
  unfold warmWipe
  revert h
  generalize forAll _ loseRefs (hostReset s) = u
  intro h
  exact Keeps.then h (.of_parts (locked_warmRegs u) (fun h => h) rfl)

theorem quiesce_keeps (s : State) :
    Keeps guarded s (quiesce s) := by
  unfold quiesce
  dsimp -iota -proj only
  refine Keeps.all ?_ fun x u hu => ?_
  · refine Keeps.quiet ?_ (releaseWaiters_only ..)
    refine Keeps.quiet ?_ (dropCoreWork_only ..)
    refine Keeps.ite ?_ ?_
    · refine Keeps.quiet ?_ (settleWaiters_only ..)
      refine Keeps.quiet ?_ (persistAll_only ..)
      refine Keeps.then ?_ (release_keeps ..)
      refine Keeps.quiet ?_ (abandonCompaction_only ..)
      refine Keeps.all ?_ fun x u hu => ?_
      · exact Keeps.refl _ _
      · exact Keeps.quiet hu (refuseFetched_only ..)
    · refine Keeps.then ?_ (release_keeps ..)
      refine Keeps.quiet ?_ (abandonCompaction_only ..)
      refine Keeps.all ?_ fun x u hu => ?_
      · exact Keeps.refl _ _
      · exact Keeps.quiet hu (refuseFetched_only ..)
  · refine Keeps.quiet ?_ (refuseFetched_only ..)
    exact Keeps.quiet hu (completeNow_only ..)

theorem powerDown_keeps (s : State) : Keeps guarded s (powerDown s) :=
  .of_parts ((filterRegs_keeps s (fun e => decide (e.1 < 0x30000)) fun _ => rfl).kept .regs (by decide)) (fun _
      => rfl) rfl

theorem startRestart_keeps (s : State) :
    Keeps guarded s (startRestart s) := by
  unfold startRestart
  dsimp -iota -proj only
  refine Keeps.quiet ?_ (doomFetched_only ..)
  refine Keeps.quiet ?_ (dropRecords_only ..)
  refine Keeps.quiet ?_ (dropBlowing_only ..)
  refine Keeps.quiet ?_ (dropStaging_only ..)
  refine Keeps.quiet ?_ (abandonCompaction_only ..)
  refine Keeps.then ?_ (stopCopy_keeps ..)
  refine Keeps.quiet ?_ (count_only ..)
  exact Keeps.of_only (onMgmt_only ..)

theorem leaveRecovery_keeps (faults : List MemFault) (s : State) :
    Keeps guarded s (leaveRecovery faults s) := by
  unfold leaveRecovery
  dsimp -iota -proj only
  refine Keeps.quiet ?_ (laterSteps_only ..)
  refine Keeps.quiet ?_ (toStep_only ..)
  refine Keeps.then ?_ (stepsFourFive_keeps ..)
  refine Keeps.quiet ?_ (resumeService_only ..)
  refine Keeps.quiet ?_ (stepThree_only ..)
  refine Keeps.quiet ?_ (onPwr_only ..)
  exact Keeps.of_only (emptyHistory_only ..)

theorem enterRecovery_keeps (s : State) :
    Keeps guarded s (enterRecovery s) := by
  unfold enterRecovery
  dsimp -iota -proj only
  refine Keeps.quiet ?_ (resumeService_only ..)
  refine Keeps.then ?_ (onSsw_keeps _ fun _ h => h)
  refine Keeps.quiet ?_ (recover_only ..)
  refine Keeps.then ?_ (coreOff_keeps ..)
  exact release_keeps ..

theorem holdComplex_keeps (s : State) :
    Keeps guarded s (holdComplex s) := by
  unfold holdComplex
  dsimp -iota -proj only
  refine Keeps.cond ?_ fun u hu => ?_
  · refine Keeps.quiet ?_ (Only.upd61 (ps := [.mgmt, .smb]) (Only.refl ..))
    exact startRestart_keeps ..
  · exact Keeps.then hu (release_keeps ..)

theorem lpddrLost_keeps (region : LpddrRegion) (s : State) :
    Keeps guarded s (lpddrLost region s) := by
  unfold lpddrLost
  dsimp -iota -proj only
  split
  · refine Keeps.ite ?_ ?_
    · refine Keeps.quiet ?_ (raise_only ..)
      exact Keeps.of_only (count_only ..)
    · refine Keeps.then ?_ (startRestart_keeps ..)
      refine Keeps.quiet ?_ (raise_only ..)
      exact Keeps.of_only (count_only ..)
  · refine Keeps.quiet ?_ (scenLost_only ..)
    refine Keeps.quiet ?_ (raise_only ..)
    exact Keeps.of_only (count_only ..)
  · refine Keeps.quiet ?_ (mapHist_only ..)
    refine Keeps.quiet ?_ (raise_only ..)
    exact Keeps.of_only (count_only ..)
  · refine Keeps.quiet ?_ (onMgmt_only ..)
    refine Keeps.quiet ?_ (raise_only ..)
    exact Keeps.of_only (count_only ..)
  · refine Keeps.quiet ?_ (raise_only ..)
    exact Keeps.of_only (count_only ..)
  · refine Keeps.quiet ?_ (raise_only ..)
    exact Keeps.of_only (count_only ..)

theorem startTrial_keeps (q : Nat) (s : State) :
    Keeps guarded s (startTrial q s) := by
  unfold startTrial
  refine Keeps.then ?_ (startRestart_keeps ..)
  exact Keeps.of_only (onBootRec_only ..)

theorem abandonTrial_keeps (q : Option Nat) (s : State) :
    Keeps guarded s (abandonTrial q s) := by
  unfold abandonTrial
  refine Keeps.then ?_ (startRestart_keeps ..)
  exact Keeps.of_only (onBootRec_only ..)

theorem writePerfCtrl_keeps (v : Word) (s : State) :
    Keeps guarded s (writePerfCtrl v s) := by
  unfold writePerfCtrl
  refine Keeps.ite ?_ ?_
  · refine Keeps.then ?_ (putReg_keeps ..)
    refine Keeps.quiet ?_ (keepSel_only ..)
    exact Keeps.of_only (perfThrough_only ..)
  · exact Keeps.refl _ _

theorem applyHigh_keeps (o : Nat) (v : Word) (s : State) :
    Keeps guarded s (applyHigh o v s) := by
  unfold applyHigh
  split
  · exact Keeps.refl ..
  · next h =>
    obtain ⟨h4, h8⟩ : o ≠ 4 ∧ o ≠ 8 :=
      ⟨fun e => h (by subst e; simp [show isRw64 0 = false by decide]),
        fun e => h (by subst e; simp [show isRw64 4 = false by decide])⟩
    exact Keeps.then (setReg_keeps _ _ (by omega)) (setReg_keeps _ _ h4)

/-- LOCK_SET sets the lock or leaves it. -/
theorem setLock_keeps (v : Word) (s : State) :
    Keeps guarded s (setLock v s) :=
  .of_part .regs (setLock_only ..) fun h => by
    rw [setLock, locked, flg, cfgN, cfg_setReg, if_pos rfl]
    exact low_or _ _ h

theorem writeLk_keeps (o : Nat) (v : Word) (s : State) :
    Keeps guarded s (writeLk o v s) := by
  have h : Keeps guarded s (putReg o v (lkMask o) s) := putReg_keeps v s (by rintro rfl; rfl)
  unfold writeLk
  exact Keeps.ite (Keeps.refl ..) (Keeps.ite (Keeps.quiet h (modeWritten_only ..)) h)

theorem writeRw_keeps (o : Nat) (v : Word) (s : State) :
    Keeps guarded s (writeRw o v s) := by
  have h : Keeps guarded s (putReg o v (rwMask o) s) := putReg_keeps v s (by rintro rfl; rfl)
  unfold writeRw
  exact Keeps.ite (Keeps.quiet h (unmask_only ..)) h

theorem writeBar0_keeps (off : Nat) (v : Word) (s : State) :
    Keeps guarded s (writeBar0 off v s) := by
  unfold writeBar0
  refine Keeps.ite ?_ ?_
  · exact Keeps.refl _ _
  · refine Keeps.ite ?_ ?_
    · exact Keeps.of_only (holdLow_only ..)
    · refine Keeps.ite ?_ ?_
      · exact applyHigh_keeps ..
      · split
        · refine Keeps.quiet ?_ (clearOvf_only ..)
          exact Keeps.of_only (perfCatch_only ..)
        · refine Keeps.ite ?_ ?_
          · exact writeLk_keeps ..
          · refine Keeps.ite ?_ ?_
            · exact writeRw_keeps ..
            · exact Keeps.refl _ _

theorem countTick_keeps (s : State) : Keeps [.regs, .ssw] s (countTick s) :=
  Keeps.of_only (countTick_only ..)

theorem edgeTime_keeps (s : State) : Keeps [.regs, .ssw] s (edgeTime s) := Keeps.of_only (edgeTime_only s)

theorem edgeClose_keeps (ended : Nat) (s : State) :
    Keeps guarded s (edgeClose ended s) := by
  unfold edgeClose
  refine Keeps.then ?_ (enginesTick_keeps ..)
  refine Keeps.quiet ?_ (portsTick_only ..)
  refine Keeps.quiet ?_ (clearTickCounts_only ..)
  refine Keeps.cond ?_ fun u hu => ?_
  · refine Keeps.quiet ?_ (monitorTick_only ..)
    exact Keeps.of_only (condsTick_only ..)
  · exact Keeps.quiet hu (groupsPost_only ..)

theorem edgeFirmware_keeps (s : State) :
    Keeps guarded s (edgeFirmware s) := by
  unfold edgeFirmware
  dsimp -iota -proj only
  refine Keeps.quiet ?_ (kickAll_only ..)
  refine Keeps.cond ?_ fun u hu => ?_
  · refine Keeps.quiet ?_ (pageTick_only ..)
    refine Keeps.then ?_ (marksTick_keeps ..)
    refine Keeps.then ?_ (copyTick_keeps ..)
    exact sswTick_keeps ..
  · exact Keeps.quiet hu (startRebuild_only ..)

end Sys2Proof.Proofs.Guards
end

section
/-! PROOFS. What every command keeps of GLB.LOCK, SSW_ACT_OUT and the tick. -/

set_option Elab.async false

namespace Sys2Proof.Proofs.Guards

open Sys2Proof Sys2Proof.Machine Sys2Proof.Laws Sys2Proof.Proofs.Frame

/-- A command answers a next state that keeps the parts `ps`. -/
structure NextKeeps (ps : List Part) (s : State) (r : Host.Outcome State Fault Refusal) : Prop where
  out : ∃ t, r = .next t ∧ Keeps ps s t

theorem NextKeeps.of {ps : List Part} {s t : State} (h : Keeps ps s t) : NextKeeps ps s (.next t) := ⟨t, rfl, h⟩

theorem NextKeeps.keep {ps : List Part} {s : State} : NextKeeps ps s (.next s) := .of (Keeps.refl ..)

theorem NextKeeps.branch {ps : List Part} {s : State} {c : Prop} [Decidable c]
    {a b : Host.Outcome State Fault Refusal} (h : NextKeeps ps s a) (k : NextKeeps ps s b) :
    NextKeeps ps s (if c then a else b) := by
  split <;> assumption

theorem NextKeeps.of_only {ps qs : List Part} {s : State} {r : Host.Outcome State Fault Refusal}
    (h : NextOnly qs s r) (hp : (ps.all fun p => !qs.contains p) = true := by rfl) : NextKeeps ps s r := by
  obtain ⟨t, ht, k⟩ := h.out
  exact ⟨t, ht, Keeps.of_only k hp⟩

/-- A host command keeps the parts when its body does. -/
theorem runCmd_keeps {o q : Nat} {body : Fetched → State → State} {s : State}
    (h : ∀ d u, Keeps guarded u (body d u)) : NextKeeps guarded s (runCmd o q body s) := by
  unfold runCmd
  split
  · exact .keep
  · next d ds _ =>
    have c := (checkCmd_keeps q d s).kept
    split
    · next t hk => rw [hk] at c; exact .of c
    · next a t hk =>
      rw [hk] at c
      exact .of (Keeps.quiet (Keeps.quiet c (startCmd_only ..)) (complete_only ..))
    · next t hk =>
      rw [hk] at c
      split
      · exact .of (Keeps.quiet (Keeps.quiet c (startCmd_only ..)) (complete_only ..))
      · exact .of (Keeps.ite (Keeps.then (Keeps.quiet (Keeps.then c (workReady_keeps ..)) (startCmd_only ..))
            (h d _))
          (workReady_keeps ..))

theorem BodyOnly_keeps {ps : List Part} {s : State} {r : Host.Outcome State Fault Refusal} (h : BodyOnly ps s r)
    (hp : (guarded.all fun p => !ps.contains p) = true := by rfl) : NextKeeps guarded s r := by
  obtain ⟨o, q, body, rfl, hb⟩ := h.out
  exact runCmd_keeps fun d u => Keeps.of_only (hb d u) hp

theorem configCmd_keeps (q : Nat) {base : Nat} (hb : 4 < base) (mask : Nat → Nat) (after : Nat → Nat → State →
    State)
    (d : Bytes) (s : State) (h : ∀ o m u, Keeps guarded u (after o m u)) :
    Keeps guarded s (configCmd q base mask after d s) := by
  unfold configCmd
  exact Keeps.ite (Keeps.of_only (complete_only ..))
    (Keeps.quiet (Keeps.then (setReg_keeps _ s (by omega)) (h ..)) (completeRegs_only ..))

theorem execTimingConfig_keeps (q : Nat) (s : State) :
    NextKeeps guarded s (execTimingConfig q s) := by
  unfold execTimingConfig
  exact runCmd_keeps fun _ _ => configCmd_keeps _ (by decide) _ _ _ _ fun _ _ _ => Keeps.of_only
      (modeWritten_only ..)

theorem execMtestConfig_keeps (q : Nat) (s : State) :
    NextKeeps guarded s (execMtestConfig q s) := by
  unfold execMtestConfig
  exact runCmd_keeps fun _ _ => Keeps.ite (Keeps.of_only (complete_only ..))
    (configCmd_keeps _ (by decide) _ _ _ _ fun _ _ _ => Keeps.refl ..)

theorem execImageActivate_keeps (q : Nat) (s : State) :
    NextKeeps guarded s (execImageActivate q s) := by
  unfold execImageActivate
  refine runCmd_keeps fun d u => ?_
  dsimp -iota -proj only
  split
  · exact Keeps.of_only (complete_only ..)
  · exact Keeps.ite (startTrial_keeps ..) (Keeps.ite (Keeps.of_only (confirmTrial_only ..)) (abandonTrial_keeps
        ..))

theorem execJnlConfig_keeps (q : Nat) (s : State) :
    NextKeeps guarded s (execJnlConfig q s) := by
  unfold execJnlConfig
  refine runCmd_keeps fun d u => ?_
  split
  · exact Keeps.of_only (complete_only ..)
  · exact Keeps.quiet (setReg_keeps ..) (completeRegs_only ..)

theorem execSeesawConfig_keeps (q : Nat) (s : State) :
    NextKeeps guarded s (execSeesawConfig q s) := by
  unfold execSeesawConfig
  refine runCmd_keeps fun d u => ?_
  dsimp -iota -proj only
  split
  · exact Keeps.of_only (complete_only ..)
  · exact Keeps.quiet (Keeps.then (setReg_keeps ..) (modeClaim_keeps ..)) (completeRegs_only ..)

theorem execSeesawRelease_keeps (q : Nat) (s : State) :
    NextKeeps guarded s (execSeesawRelease q s) := by
  unfold execSeesawRelease
  refine runCmd_keeps fun d u => ?_
  dsimp -iota -proj only
  split
  · exact Keeps.of_only (complete_only ..)
  · exact Keeps.quiet (release_keeps ..) (complete_only ..)

theorem execQueueEnable_keeps (q : Nat) (v : Word) (s : State) :
    NextKeeps guarded s (execQueueEnable q v s) := by
  unfold execQueueEnable
  exact .branch (.of (writeQcfg_keeps ..)) .keep

theorem execQueueDisable_keeps (q : Nat) (v : Word) (s : State) :
    NextKeeps guarded s (execQueueDisable q v s) := by
  unfold execQueueDisable
  exact .branch (.of (writeQcfg_keeps ..)) .keep

theorem execEqEnable_keeps (r : Nat) (v : Word) (s : State) :
    NextKeeps guarded s (execEqEnable r v s) := by
  unfold execEqEnable
  exact .branch (.of (writeEqcfg_keeps ..)) .keep

theorem execEqDisable_keeps (r : Nat) (v : Word) (s : State) :
    NextKeeps guarded s (execEqDisable r v s) := by
  unfold execEqDisable
  exact .branch (.of (writeEqcfg_keeps ..)) .keep

theorem execFunctionLevelReset_keeps (f : Nat) (s : State) :
    NextKeeps guarded s (execFunctionLevelReset f s) := by
  unfold execFunctionLevelReset
  exact .branch (.of (Keeps.quiet (Keeps.then (Keeps.of_only (resetConfig_only ..)) (resetFunction_keeps ..))
      (fire_only ..))) .keep

theorem execPerstNAssert_keeps (s : State) :
    NextKeeps guarded s (execPerstNAssert s) := by
  unfold execPerstNAssert
  refine .branch .keep (.of (Keeps.then ?_ (hostReset_keeps ..)))
  exact Keeps.of_only (Only.upd44 (ps := [.pwr]) (Only.refl ..))

theorem execWarmReset_keeps (v : Word) (b : BootInput) (s : State) :
    NextKeeps guarded s (execWarmReset v b s) := by
  unfold execWarmReset
  refine .branch .keep (.branch (.of (Keeps.of_only (badMagic_only ..))) ?_)
  dsimp -iota -proj only
  exact .of (Keeps.then (Keeps.quiet (Keeps.then (Keeps.then (Keeps.of_only (resetFlash_only ..))
      (release_keeps ..)) (warmWipe_keeps ..)) (onPwr_only ..)) (startFromTwo_keeps ..))

theorem execShutdown_keeps (v : Word) (s : State) :
    NextKeeps guarded s (execShutdown v s) := by
  unfold execShutdown
  exact .branch .keep (.branch (.of (Keeps.of_only (badMagic_only ..))) (.branch .keep (.of (Keeps.then
      (Keeps.then (Keeps.of_only (onPwr_only ..)) (quiesce_keeps ..)) (powerDown_keeps ..)))))

theorem execLockSet_keeps (v : Word) (s : State) :
    NextKeeps guarded s (execLockSet v s) := by
  unfold execLockSet
  exact .branch (.of (setLock_keeps ..)) .keep

theorem execCoreInjectArm_keeps (v : Word) (s : State) :
    NextKeeps guarded s (execCoreInjectArm v s) := by
  unfold execCoreInjectArm
  refine .branch .keep ?_
  dsimp -iota -proj only
  exact .of (setReg_keeps ..)

theorem execSecInjectArm_keeps (v : Word) (s : State) :
    NextKeeps guarded s (execSecInjectArm v s) := by
  unfold execSecInjectArm
  exact .branch .keep (.of (setReg_keeps ..))

theorem execHuntRestart_keeps (l : Nat) (v : Word) (s : State) :
    NextKeeps guarded s (execHuntRestart l v s) := by
  unfold execHuntRestart
  refine .branch .keep ?_
  have h := setReg_keeps (o := laneBase l + 0x804) (v &&& 2) s (by omega)
  exact .of (Keeps.ite (Keeps.quiet h (loseAlignment_only ..)) h)

theorem execTrainRestart_keeps (l : Nat) (v : Word) (s : State) :
    NextKeeps guarded s (execTrainRestart l v s) := by
  unfold execTrainRestart
  refine .branch .keep ?_
  have h := setReg_keeps (o := laneBase l + 8) (v &&& 0x03FF0000) s (by omega)
  exact .branch (.of (Keeps.quiet h (restartTraining_only ..))) (.of h)

theorem execLaneEnable_keeps (l : Nat) (v : Word) (s : State) :
    NextKeeps guarded s (execLaneEnable l v s) := by
  unfold execLaneEnable
  exact .branch (.of (writeLnCfg_keeps ..)) .keep

theorem execLaneDisable_keeps (l : Nat) (v : Word) (s : State) :
    NextKeeps guarded s (execLaneDisable l v s) := by
  unfold execLaneDisable
  exact .branch (.of (writeLnCfg_keeps ..)) .keep

theorem execPortEnable_keeps (p : Nat) (v : Word) (s : State) :
    NextKeeps guarded s (execPortEnable p v s) := by
  unfold execPortEnable
  exact .branch (.of (writePortCfg_keeps ..)) .keep

theorem execPortDisable_keeps (p : Nat) (v : Word) (s : State) :
    NextKeeps guarded s (execPortDisable p v s) := by
  unfold execPortDisable
  exact .branch (.of (writePortCfg_keeps ..)) .keep

theorem execTdCfgWrite_keeps (p : Nat) (v : Word) (s : State) :
    NextKeeps guarded s (execTdCfgWrite p v s) := by
  unfold execTdCfgWrite
  exact .branch (.of (writeTdCfg_keeps ..)) .keep

theorem execPerfSelectWrite_keeps (off : Nat) (v : Word) (s : State) :
    NextKeeps guarded s (execPerfSelectWrite off v s) := by
  unfold execPerfSelectWrite
  exact .branch .keep (.of (Keeps.then (Keeps.quiet (Keeps.of_only (perfThrough_only ..)) (keepSel_only ..))
    (putReg_keeps _ _ (by rintro rfl; rfl))))

theorem execPerfHoldClear_keeps (v : Word) (s : State) :
    NextKeeps guarded s (execPerfHoldClear v s) := by
  unfold execPerfHoldClear
  exact .of (writePerfCtrl_keeps ..)

theorem execPerfFreezeWrite_keeps (v : Word) (s : State) :
    NextKeeps guarded s (execPerfFreezeWrite v s) := by
  unfold execPerfFreezeWrite
  exact .of (writePerfCtrl_keeps ..)

theorem execReg64HighWrite_keeps (off : Nat) (v : Word) (s : State) :
    NextKeeps guarded s (execReg64HighWrite off v s) := by
  unfold execReg64HighWrite
  refine .branch .keep (.branch (.of (applyHigh_keeps ..)) ?_)
  obtain ⟨t, ht, hs⟩ := execPerfCounterWrite_only off v s
  exact ⟨t, ht, Keeps.of_only hs⟩

theorem execRegisterWrite_keeps (a : HostAddr) (v : Word) (s : State) :
    NextKeeps guarded s (execRegisterWrite a v s) := by
  unfold execRegisterWrite
  refine .branch .keep ?_
  split
  · exact .keep
  · exact .keep
  · exact .keep
  · exact .of (Keeps.ite (Keeps.of_only (writeVfMsix_only ..)) (Keeps.refl ..))
  · exact .of (writeBar0_keeps ..)

theorem execVinGood_keeps (b : BootInput) (s : State) :
    NextKeeps [.regs, .ssw] s (execVinGood b s) := by
  unfold execVinGood
  refine .branch .keep ?_
  dsimp -iota -proj only
  refine .of (Keeps.ite ?_ (Keeps.then ?_ (startUpFresh_keeps ..)))
  all_goals exact Keeps.of_only (Only.upd44 (ps := [.pwr]) (Only.refl ..))

theorem execVinLost_keeps (s : State) :
    NextKeeps [.ssw] s (execVinLost s) := by
  unfold execVinLost
  exact .branch (.of (loseVin_keeps ..)) .keep

theorem execVinOvervoltage_keeps (s : State) :
    NextKeeps [.ssw] s (execVinOvervoltage s) := by
  unfold execVinOvervoltage
  exact .branch (.of (loseVin_keeps ..)) .keep

theorem execInputOvercurrent_keeps (s : State) :
    NextKeeps [.ssw] s (execInputOvercurrent s) := by
  unfold execInputOvercurrent
  refine .branch ?_ .keep
  dsimp -iota -proj only
  exact .of (Keeps.quiet (loseVin_keeps ..) (Only.upd44 (ps := [.pwr]) (Only.refl ..)))

/-- The internal reset of POR_N keeps the line low. -/
theorem execPorNAssert_keeps (s : State) :
    NextKeeps [.ssw] s (execPorNAssert s) := by
  unfold execPorNAssert
  refine .branch .keep ?_
  dsimp -iota -proj only
  exact .of (Keeps.quiet (Keeps.then (Keeps.of_only (resetFlash_only ..)) (fullReset_keeps ..))
    (Only.upd44 (ps := [.pwr]) (Only.refl ..)))

theorem execPorNDeassert_keeps (b : BootInput) (s : State) :
    NextKeeps [.regs, .ssw] s (execPorNDeassert b s) := by
  unfold execPorNDeassert
  refine .branch .keep ?_
  dsimp -iota -proj only
  refine .of (Keeps.ite (Keeps.then ?_ (startUpFresh_keeps ..)) ?_)
  all_goals exact Keeps.of_only (Only.upd44 (ps := [.pwr]) (Only.refl ..))

theorem execSeesawDecisionTimeout_keeps (s : State) :
    NextKeeps guarded s (execSeesawDecisionTimeout s) := by
  unfold execSeesawDecisionTimeout
  dsimp -iota -proj only
  exact .branch (.of (decideClaim_keeps ..)) .keep

theorem execTickEdge_keeps (s : State) :
    NextKeeps [.regs, .ssw] s (execTickEdge s) := by
  unfold execTickEdge
  exact .branch (.of (Keeps.quiet (Keeps.then (Keeps.then (edgeTime_keeps ..) (edgeClose_keeps ..))
    (edgeFirmware_keeps ..)) (edgeOpen_only ..))) .keep

theorem execCoreStep_keeps (k : Nat) (s : State) :
    NextKeeps guarded s (execCoreStep k s) := by
  unfold execCoreStep
  refine .branch .keep ?_
  dsimp -iota -proj only
  refine .branch (.of (Keeps.of_only (Only.upd7 (ps := [.cclk]) (Only.refl ..)))) ?_
  split
  next ws u hu =>
    have h : Keeps guarded s u := Keeps.then (Keeps.of_only (Only.upd7 (ps := [.cclk]) (Only.refl ..)))
        (ingressAll_keeps' hu)
    exact .of (Keeps.all h fun _ _ hu => Keeps.then hu (spaceStep_keeps ..))

theorem execEgressRowRead_keeps (m : Nat) (s : State) :
    NextKeeps guarded s (execEgressRowRead m s) := by
  unfold execEgressRowRead
  refine .branch .keep (.of (Keeps.all ?_ fun _ _ hu => Keeps.then hu (rowReadLane_keeps ..)))
  exact Keeps.of_only (Only.upd7 (ps := [.cclk]) (Only.refl ..))

theorem execHeartbeatRx_keeps (payload : Bytes) (s : State) :
    NextKeeps guarded s (execHeartbeatRx payload s) := by
  unfold execHeartbeatRx
  split
  · exact .keep
  next l u hu =>
    have h := pxFrame_only hu
    exact .of (Keeps.ite (Keeps.of_only h) (Keeps.then (Keeps.of_only h) (takeHeartbeat_keeps ..)))

theorem execHeartbeatSend_keeps (s : State) :
    NextKeeps guarded s (execHeartbeatSend s) := by
  unfold execHeartbeatSend
  dsimp -iota -proj only
  exact .branch (.of (Keeps.then (Keeps.of_only (sendPx_only ..)) (onSsw_keeps ..))) .keep

theorem execHeartbeatPathFail_keeps (px : Bool) (s : State) :
    NextKeeps guarded s (execHeartbeatPathFail px s) := by
  have h := Keeps.quiet (onSsw_keeps (f := fun x => if px then { x with pxOk := false } else { x with wireOk :=
      false }) s
    (by intro x h; split <;> exact h)) (raise_only .hbPath (b2n px) 0 _)
  unfold execHeartbeatPathFail
  exact .branch (.branch (.of h) (.of (Keeps.quiet (Keeps.quiet (Keeps.then h (onSsw_keeps ..)) (count_only ..))
    (raise_only ..)))) .keep

theorem execPeerReset_keeps (s : State) :
    NextKeeps guarded s (execPeerReset s) := by
  unfold execPeerReset
  dsimp -iota -proj only
  exact .branch (.of (Keeps.quiet (onSsw_keeps ..) (count_only ..))) .keep

theorem execCopyDataRx_keeps (payload : Bytes) (s : State) :
    NextKeeps guarded s (execCopyDataRx payload s) := by
  unfold execCopyDataRx
  refine .branch .keep ?_
  split
  · exact .keep
  next l u hu =>
    have h := pxFrame_only hu
    exact .branch (.of (Keeps.of_only h)) (.of (Keeps.then (Keeps.of_only h) (copyData_keeps ..)))

theorem execCopyAckRx_keeps (payload : Bytes) (s : State) :
    NextKeeps guarded s (execCopyAckRx payload s) := by
  unfold execCopyAckRx
  refine .branch .keep ?_
  split
  · exact .keep
  next l u hu =>
    have h : Keeps guarded s u := Keeps.of_only (pxFrame_only hu)
    dsimp -iota -proj only
    exact .branch (.of h) (.of (Keeps.quiet (Keeps.ite
      (Keeps.then (Keeps.quiet h (onCopy_only ..)) (setCopySt_keeps ..)) (Keeps.quiet h (onCopy_only ..)))
          (settleWaiters_only ..)))

theorem execCopyResendRx_keeps (payload : Bytes) (s : State) :
    NextKeeps guarded s (execCopyResendRx payload s) := by
  unfold execCopyResendRx
  refine .branch .keep ?_
  split
  · exact .keep
  next l u hu =>
    have h : Keeps guarded s u := Keeps.of_only (pxFrame_only hu)
    exact .branch (.of h) (.branch (.of (Keeps.then (Keeps.quiet h (count_only ..)) (stopCopy_keeps ..)))
      (.of (Keeps.quiet (Keeps.quiet h (count_only ..)) (onCopy_only ..))))

theorem execSswActInFall_keeps (s : State) :
    NextKeeps guarded s (execSswActInFall s) := by
  unfold execSswActInFall
  dsimp -iota -proj only
  exact .branch .keep (.of (Keeps.ite (Keeps.quiet (onSsw_keeps ..) (raise_only ..)) (onSsw_keeps ..)))

theorem execSswActInRise_keeps (s : State) :
    NextKeeps guarded s (execSswActInRise s) := by
  unfold execSswActInRise
  dsimp -iota -proj only
  exact .branch (.of (Keeps.ite (Keeps.then (onSsw_keeps ..) (release_keeps ..)) (Keeps.mono (onSsw_keeps
    ..)))) (.of (Keeps.ite (Keeps.then (onSsw_keeps ..) (setRole_keeps ..)) (Keeps.mono (onSsw_keeps
    ..))))

theorem execClaim_keeps (s : State) :
    NextKeeps [.regs, .tick] s (execClaim s) := by
  unfold execClaim
  exact .branch (.of (claimLine_keeps ..)) .keep

theorem execClaimEnHoldExpiry_keeps (s : State) :
    NextKeeps guarded s (execClaimEnHoldExpiry s) := by
  unfold execClaimEnHoldExpiry
  refine .branch .keep ?_
  dsimp -iota -proj only
  exact .of (Keeps.ite (Keeps.then (onSsw_keeps ..) (setClaimEn_keeps ..)) (Keeps.mono (onSsw_keeps
    ..)))

theorem execTrafficStateRelease_keeps (s : State) :
    NextKeeps guarded s (execTrafficStateRelease s) := by
  unfold execTrafficStateRelease
  exact .branch .keep (.of (Keeps.quiet (Keeps.then (Keeps.quiet (Keeps.of_only (abandonPages_only ..))
      (zeroPages_only
    ..)) (onSsw_keeps ..)) (refreshModel_only ..)))

theorem execResyncDone_keeps (s : State) :
    NextKeeps guarded s (execResyncDone s) := by
  unfold execResyncDone
  refine .branch ?_ .keep
  dsimp -iota -proj only
  exact .of (Keeps.quiet (Keeps.quiet (Keeps.quiet (Keeps.quiet (resyncEcc_keeps ..) (writeStandby_only
    ..)) (onPage_only ..)) (perfEv_only ..)) (kickAll_only ..))

theorem execSensorSample_keeps (r : SensorReading) (s : State) :
    NextKeeps guarded s (execSensorSample r s) := by
  unfold execSensorSample
  refine .branch .keep ?_
  dsimp -iota -proj only
  refine .of (Keeps.ite (Keeps.then (Keeps.quiet (Keeps.quiet (Keeps.all ?_ fun _ _ hu => Keeps.quiet hu
      (takeReading_only ..)) (takeMax_only ..)) (warnStep_only ..)) (trip_keeps ..)) (Keeps.quiet (Keeps.quiet
      (Keeps.all ?_ fun _ _ hu => Keeps.quiet hu (takeReading_only ..)) (takeMax_only ..)) (warnStep_only ..)))
  · exact Keeps.of_only (Only.upd49 (ps := [.sens]) (Only.refl ..))
  · exact Keeps.of_only (Only.upd49 (ps := [.sens]) (Only.refl ..))

theorem execWatchdogExpiry_keeps (core : Nat) (s : State) :
    NextKeeps guarded s (execWatchdogExpiry core s) := by
  unfold execWatchdogExpiry
  refine .branch .keep ?_
  dsimp -iota -proj only
  exact .of (Keeps.quiet (Keeps.ite (Keeps.then (Keeps.quiet (Keeps.of_only (onMgmt_only ..))
      (countAttempt_only ..)) (holdComplex_keeps ..)) (Keeps.then (Keeps.quiet (Keeps.of_only (onMgmt_only ..))
      (countAttempt_only ..)) (startRestart_keeps ..))) (raise_only ..))

theorem execMgmtRestartDone_keeps (faults : List MemFault) (s : State) :
    NextKeeps guarded s (execMgmtRestartDone faults s) := by
  unfold execMgmtRestartDone
  dsimp -iota -proj only
  exact .branch .keep (.branch (.of (dpReady_keeps ..)) (.branch (.of (Keeps.then (Keeps.quiet (Keeps.quiet
      (Keeps.quiet (dpReady_keeps ..) (restartImage_only ..)) (onMgmt_only ..)) (onImage_only ..))
      (enterRecovery_keeps ..))) (.branch (.of (Keeps.then (Keeps.quiet (Keeps.quiet (Keeps.quiet
      (dpReady_keeps ..) (restartImage_only ..)) (onMgmt_only ..)) (onImage_only ..)) (leaveRecovery_keeps
    ..))) (.of (Keeps.quiet (Keeps.quiet (Keeps.quiet (Keeps.quiet (Keeps.quiet (Keeps.quiet (Keeps.quiet
        (dpReady_keeps ..) (restartImage_only ..)) (onMgmt_only ..)) (onImage_only ..)) (emptyHistory_only ..))
        (replayAgain_only ..)) (raiseKept_only ..)) (resumeService_only ..))))))

theorem execLpddrEccUncorr_keeps (region : LpddrReport) (s : State) :
    NextKeeps guarded s (execLpddrEccUncorr region s) := by
  unfold execLpddrEccUncorr
  refine .branch .keep ?_
  dsimp -iota -proj only
  refine .of ?_
  split
  · exact Keeps.then (Keeps.of_only (countN_only ..)) (lpddrLost_keeps ..)
  · exact Keeps.of_only (countN_only ..)

theorem execTrialTimeout_keeps (s : State) :
    NextKeeps guarded s (execTrialTimeout s) := by
  unfold execTrialTimeout
  exact .branch (.of (abandonTrial_keeps ..)) .keep

theorem execRecordPersisted_keeps (s : State) :
    NextKeeps guarded s (execRecordPersisted s) := by
  unfold execRecordPersisted
  refine .branch .keep ?_
  dsimp -iota -proj only
  exact .of (Keeps.ite (Keeps.quiet (Keeps.quiet (Keeps.quiet (dpReady_keeps ..) (persistOne_only ..))
      (autoCompact_only ..)) (settleWaiters_only ..)) (dpReady_keeps ..))

theorem execCompactionDone_keeps (s : State) :
    NextKeeps guarded s (execCompactionDone s) := by
  unfold execCompactionDone
  split
  · exact .keep
  · refine .branch .keep (.branch (.of (Keeps.of_only (abandonCompaction_only ..))) ?_)
    dsimp -iota -proj only
    exact .of (Keeps.ite (Keeps.quiet (Keeps.quiet (Keeps.quiet (dpReady_keeps ..) (commitCompaction_only ..))
        (completeOpt_only ..)) (settleWaiters_only ..)) (Keeps.mono (dpReady_keeps
      ..)))

theorem execCipherOperationDone_keeps (d : Nat) (s : State) :
    NextKeeps guarded s (execCipherOperationDone d s) := by
  unfold execCipherOperationDone
  split
  · exact .keep
  · refine .branch (.of (Keeps.quiet (secDisarm_keeps ..) (faultDp_only ..))) ?_
    split
    · exact .of (Keeps.of_only (finishOp_only ..))
    · exact .of (Keeps.of_only (finishUnwrap_only ..))
    · refine .of (Keeps.quiet ?_ (dpEnd_only ..))
      exact Keeps.of_only (Only.upd48 (ps := [.sec]) (Only.refl ..))

theorem execMemoryTestDone_keeps (faults : List MemFault) (s : State) :
    NextKeeps guarded s (execMemoryTestDone faults s) := by
  unfold execMemoryTestDone
  dsimp -iota -proj only
  refine .branch (.branch .keep (.of (Keeps.of_only (bankDone_only ..)))) (.branch .keep ?_)
  split
  · exact .of (Keeps.quiet (Keeps.quiet (Keeps.quiet (Keeps.of_only (bankRun_only ..)) (takeFaults_only ..))
        (bankDone_only ..)) (testedRows_only ..))
  · exact .of (Keeps.quiet (Keeps.quiet (Keeps.of_only (takeFaults_only ..)) (targetDone_only ..)) (onMtest_only
      ..))
  · exact .of (Keeps.quiet (Keeps.quiet (Keeps.quiet (Keeps.of_only (takeFaults_only ..)) (targetDone_only ..))
        (testedRows_only ..)) (resync_only ..))
  · exact .of (Keeps.then (Keeps.of_only (endSix_only ..)) (stepsSevenEight_keeps ..))
  · exact .of (Keeps.quiet (Keeps.quiet (Keeps.of_only (takeFaults_only ..)) (targetDone_only ..))
        (clusterTested_only ..))
  · exact .of (Keeps.quiet (Keeps.quiet (Keeps.of_only (takeFaults_only ..)) (targetDone_only ..))
        (testedRows_only
      ..))
  · exact .keep

theorem execWireHeartbeatRx_keeps (s : State) :
    NextKeeps guarded s (execWireHeartbeatRx s) := by
  unfold execWireHeartbeatRx
  exact .branch .keep (.of (pathAlive_keeps ..))

theorem execTrainingFrameTx_keeps (l : Nat) (s : State) :
    NextKeeps guarded s (execTrainingFrameTx l s) := by
  unfold execTrainingFrameTx
  dsimp -iota -proj only
  refine .branch .keep ?_
  split
  next v u hu =>
    exact .of (Keeps.cond (Keeps.quiet (Keeps.of_only (tapValue_only' hu)) (setLane_only ..)) fun _ hu =>
      Keeps.then hu (beginCodewords_keeps ..))

theorem execImageStageDone_keeps (ok : Bool) (s : State) :
    NextKeeps guarded s (execImageStageDone ok s) := by
  unfold execImageStageDone
  split
  · exact .keep
  · dsimp -iota -proj only
    exact .branch .keep (.branch (.of (dpReady_keeps ..)) (.of (Keeps.quiet (Keeps.quiet (Keeps.quiet
        (dpReady_keeps ..) (countOpens_only ..)) (onImage_only ..)) (complete_only ..))))

theorem execPeerRstOutEnd_keeps (s : State) :
    NextKeeps guarded s (execPeerRstOutEnd s) := by
  unfold execPeerRstOutEnd
  exact .branch (.of (onSsw_keeps ..)) .keep

/-- The parts that a command keeps: CLAIM may raise SSW_ACT_OUT, TICK_EDGE counts the tick, start-up begins it again,
and the internal reset begins the registers and the tick again. -/
def keptBy : Instr → List Part
  | .claim => [.regs, .tick]
  | .tickEdge | .porNDeassert _ | .vinGood _ => [.regs, .ssw]
  | .porNAssert | .vinLost | .vinOvervoltage | .inputOvercurrent => [.ssw]
  | _ => guarded

theorem exec_keeps (c : Instr) (s : State) : NextKeeps (keptBy c) s (exec c s) := by
  cases c with
  | nop q => exact BodyOnly_keeps (execNop_body q s)
  | eventCatalog q => exact BodyOnly_keeps (execEventCatalog_body q s)
  | stringCreate q => exact BodyOnly_keeps (execStringCreate_body q s)
  | stringConnect q => exact BodyOnly_keeps (execStringConnect_body q s)
  | stringDisconnect q => exact BodyOnly_keeps (execStringDisconnect_body q s)
  | stringResize q => exact BodyOnly_keeps (execStringResize_body q s)
  | stringCondition q => exact BodyOnly_keeps (execStringCondition_body q s)
  | stringDelete q => exact BodyOnly_keeps (execStringDelete_body q s)
  | batchCommit q => exact BodyOnly_keeps (execBatchCommit_body q s)
  | repack q => exact BodyOnly_keeps (execRepack_body q s)
  | pageDisarm q => exact BodyOnly_keeps (execPageDisarm_body q s)
  | pageSwapAt q => exact BodyOnly_keeps (execPageSwapAt_body q s)
  | scenSave q => exact BodyOnly_keeps (execScenSave_body q s)
  | scenLoad q => exact BodyOnly_keeps (execScenLoad_body q s)
  | scenDelete q => exact BodyOnly_keeps (execScenDelete_body q s)
  | stringRead q => exact BodyOnly_keeps (execStringRead_body q s)
  | pageRead q => exact BodyOnly_keeps (execPageRead_body q s)
  | groupCreate q => exact BodyOnly_keeps (execGroupCreate_body q s)
  | groupModify q => exact BodyOnly_keeps (execGroupModify_body q s)
  | groupDelete q => exact BodyOnly_keeps (execGroupDelete_body q s)
  | groupRequest q => exact BodyOnly_keeps (execGroupRequest_body q s)
  | groupRead q => exact BodyOnly_keeps (execGroupRead_body q s)
  | timingConfig q => exact execTimingConfig_keeps q s
  | timingFreq q => exact BodyOnly_keeps (execTimingFreq_body q s)
  | timingPhaseStep q => exact BodyOnly_keeps (execTimingPhaseStep_body q s)
  | todSet q => exact BodyOnly_keeps (execTodSet_body q s)
  | todAdj q => exact BodyOnly_keeps (execTodAdj_body q s)
  | timingRead q => exact BodyOnly_keeps (execTimingRead_body q s)
  | pmFetch q => exact BodyOnly_keeps (execPmFetch_body q s)
  | perfRead q => exact BodyOnly_keeps (execPerfRead_body q s)
  | eventLogRead q => exact BodyOnly_keeps (execEventLogRead_body q s)
  | bankAlloc q => exact BodyOnly_keeps (execBankAlloc_body q s)
  | bankRelease q => exact BodyOnly_keeps (execBankRelease_body q s)
  | mtestConfig q => exact execMtestConfig_keeps q s
  | mtestRun q => exact BodyOnly_keeps (execMtestRun_body q s)
  | keyUnwrap q => exact BodyOnly_keeps (execKeyUnwrap_body q s)
  | keyErase q => exact BodyOnly_keeps (execKeyErase_body q s)
  | keyRead q => exact BodyOnly_keeps (execKeyRead_body q s)
  | cipherOp q => exact BodyOnly_keeps (execCipherOp_body q s)
  | imageStage q container => exact BodyOnly_keeps (execImageStage_body q container s)
  | imageActivate q => exact execImageActivate_keeps q s
  | clusterActivate q => exact BodyOnly_keeps (execClusterActivate_body q s)
  | lifecycleSet q => exact BodyOnly_keeps (execLifecycleSet_body q s)
  | debugUnlock q => exact BodyOnly_keeps (execDebugUnlock_body q s)
  | attest q => exact BodyOnly_keeps (execAttest_body q s)
  | sensorRead q => exact BodyOnly_keeps (execSensorRead_body q s)
  | jnlConfig q => exact execJnlConfig_keeps q s
  | jnlCompact q => exact BodyOnly_keeps (execJnlCompact_body q s)
  | seesawConfig q => exact execSeesawConfig_keeps q s
  | seesawRelease q => exact execSeesawRelease_keeps q s
  | jnlRead q => exact BodyOnly_keeps (execJnlRead_body q s)
  | queueEnable q v => exact execQueueEnable_keeps q v s
  | queueDisable q v => exact execQueueDisable_keeps q v s
  | eqEnable r v => exact execEqEnable_keeps r v s
  | eqDisable r v => exact execEqDisable_keeps r v s
  | functionLevelReset f => exact execFunctionLevelReset_keeps f s
  | perstNAssert => exact execPerstNAssert_keeps s
  | warmReset v b => exact execWarmReset_keeps v b s
  | shutdown v => exact execShutdown_keeps v s
  | lockSet v => exact execLockSet_keeps v s
  | coreInjectArm v => exact execCoreInjectArm_keeps v s
  | secInjectArm v => exact execSecInjectArm_keeps v s
  | huntRestart l v => exact execHuntRestart_keeps l v s
  | trainRestart l v => exact execTrainRestart_keeps l v s
  | laneEnable l v => exact execLaneEnable_keeps l v s
  | laneDisable l v => exact execLaneDisable_keeps l v s
  | portEnable p v => exact execPortEnable_keeps p v s
  | portDisable p v => exact execPortDisable_keeps p v s
  | tdCfgWrite p v => exact execTdCfgWrite_keeps p v s
  | perfSelectWrite off v => exact execPerfSelectWrite_keeps off v s
  | perfHoldClear v => exact execPerfHoldClear_keeps v s
  | perfFreezeWrite v => exact execPerfFreezeWrite_keeps v s
  | reg64HighWrite off v => exact execReg64HighWrite_keeps off v s
  | registerWrite a v => exact execRegisterWrite_keeps a v s
  | vinGood b => exact execVinGood_keeps b s
  | vinLost => exact execVinLost_keeps s
  | vinOvervoltage => exact execVinOvervoltage_keeps s
  | inputOvercurrent => exact execInputOvercurrent_keeps s
  | porNAssert => exact execPorNAssert_keeps s
  | porNDeassert b => exact execPorNDeassert_keeps b s
  | seesawDecisionTimeout => exact execSeesawDecisionTimeout_keeps s
  | tickEdge => exact execTickEdge_keeps s
  | coreStep k => exact execCoreStep_keeps k s
  | egressRowRead m => exact execEgressRowRead_keeps m s
  | heartbeatRx payload => exact execHeartbeatRx_keeps payload s
  | heartbeatSend => exact execHeartbeatSend_keeps s
  | heartbeatPathFail px => exact execHeartbeatPathFail_keeps px s
  | peerReset => exact execPeerReset_keeps s
  | copyDataRx payload => exact execCopyDataRx_keeps payload s
  | copyAckRx payload => exact execCopyAckRx_keeps payload s
  | copyResendRx payload => exact execCopyResendRx_keeps payload s
  | sswActInFall => exact execSswActInFall_keeps s
  | sswActInRise => exact execSswActInRise_keeps s
  | claim => exact execClaim_keeps s
  | claimEnHoldExpiry => exact execClaimEnHoldExpiry_keeps s
  | trafficStateRelease => exact execTrafficStateRelease_keeps s
  | resyncDone => exact execResyncDone_keeps s
  | sensorSample r => exact execSensorSample_keeps r s
  | watchdogExpiry core => exact execWatchdogExpiry_keeps core s
  | mgmtRestartDone faults => exact execMgmtRestartDone_keeps faults s
  | lpddrEccUncorr region => exact execLpddrEccUncorr_keeps region s
  | trialTimeout => exact execTrialTimeout_keeps s
  | recordPersisted => exact execRecordPersisted_keeps s
  | compactionDone => exact execCompactionDone_keeps s
  | cipherOperationDone d => exact execCipherOperationDone_keeps d s
  | memoryTestDone faults => exact execMemoryTestDone_keeps faults s
  | wireHeartbeatRx => exact execWireHeartbeatRx_keeps s
  | trainingFrameTx l => exact execTrainingFrameTx_keeps l s
  | imageStageDone ok => exact execImageStageDone_keeps ok s
  | peerRstOutEnd => exact execPeerRstOutEnd_keeps s
  | _ => exact .of_only (exec_only _ s)

theorem kept_of_exec {c : Instr} {s t : State} {p : Part} (h : exec c s = .next t)
    (hp : (keptBy c).contains p = true) :
    Guarded s t p := by
  obtain ⟨u, hu, k⟩ := (exec_keeps c s).out
  cases h.symm.trans hu
  exact k.kept p (by simpa using hp)

/-- Settles O42: only the internal reset begins the registers again. -/
theorem lockHolds : Obligations.LockHolds := by
  intro c s t hl h hc
  refine kept_of_exec (p := .regs) h ?_ hl
  unfold keptBy
  split <;> first | rfl | exact absurd (by decide) hc

/-- A claim that finds the line low raises it only when the guard time has run. -/
theorem claim_rises {s t : State} (h : exec .claim s = .next t) (hs : s.ssw.actOut = false)
    (ht : t.ssw.actOut = true) :
    s.ssw.actIn = false ∧ s.ssw.claimEn = true ∧ due s s.ssw.guardAt (guardTime s) = true := by
  change execClaim s = .next t at h
  unfold execClaim at h
  split at h
  · next hc => simpa [hs, and_assoc] using hc
  · cases h; rw [hs] at ht; cases ht

/-- Settles O48: every command but CLAIM keeps the line low, and CLAIM waits for the guard time. -/
theorem activeLineRises : Obligations.ActiveLineRises := by
  intro c s t h hs ht
  have hc : c = .claim := by
    by_contra hc
    have := kept_of_exec (p := .ssw) h (by unfold keptBy; split <;> first | rfl | exact absurd rfl hc) hs
    rw [this] at ht; cases ht
  subst hc
  obtain ⟨hi, hen, hd⟩ := claim_rises h hs ht
  refine ⟨rfl, hi, hen, ?_⟩
  revert hd
  cases hg : s.ssw.guardAt with
  | none => simp [due]
  | some a =>
    intro hd
    refine ⟨a, rfl, ?_⟩
    have hd : a + ticks (if s.ssw.side then 6 else 2) ≤ s.tick * 2048 + s.cclk := of_decide_eq_true hd
    unfold ticks at hd
    omega

theorem startUpFresh_tick (b : BootInput) (s : State) : (startUpFresh b s).tick = 0 := by
  have h : (startUp b s).tick = 0 := by
    unfold startUp
    dsimp -iota -proj only
    split
    split
    · rfl
    · exact (Keeps.then (Keeps.of_only (stepTime_only ..)) (startFromTwo_keeps ..) : Keeps [.tick] _ _).kept .tick
        (by decide)
  unfold startUpFresh onlyIf
  dsimp only
  split
  · exact ((raise_only ..).same .tick (by decide)).trans h
  · exact h

/-- The internal reset and start-up begin the tick at 0. -/
theorem tick_of_restart {c : Instr} {s t : State} (h : exec c s = .next t) (hc : restarts c = true) :
    t.tick = s.tick ∨ t.tick = 0 := by
  cases c with
  | vinGood b =>
    change execVinGood b s = .next t at h
    unfold execVinGood at h
    split at h
    · cases h; exact .inl rfl
    · cases h
      split
      · exact .inl rfl
      · exact .inr (startUpFresh_tick ..)
  | porNDeassert b =>
    change execPorNDeassert b s = .next t at h
    unfold execPorNDeassert at h
    split at h
    · cases h; exact .inl rfl
    · cases h
      split
      · exact .inr (startUpFresh_tick ..)
      · exact .inl rfl
  | vinLost =>
    change execVinLost s = .next t at h
    unfold execVinLost at h
    split at h <;> cases h
    · exact .inr rfl
    · exact .inl rfl
  | vinOvervoltage =>
    change execVinOvervoltage s = .next t at h
    unfold execVinOvervoltage at h
    split at h <;> cases h
    · exact .inr rfl
    · exact .inl rfl
  | inputOvercurrent =>
    change execInputOvercurrent s = .next t at h
    unfold execInputOvercurrent at h
    split at h <;> cases h
    · exact .inr rfl
    · exact .inl rfl
  | porNAssert =>
    change execPorNAssert s = .next t at h
    unfold execPorNAssert at h
    split at h <;> cases h
    · exact .inl rfl
    · exact .inr rfl
  | _ => cases hc

/-- The edge counts the tick, and nothing else of it does. -/
theorem edgeTime_tick (s : State) : (edgeTime s).tick = s.tick + 1 := by
  have h : Keeps [.tick] (countTick s) (edgeTime s) := by
    unfold edgeTime
    refine Keeps.quiet ?_ (secondTick_only ..)
    refine Keeps.quiet ?_ (layCalendars_only ..)
    refine Keeps.quiet ?_ (takePosts_only ..)
    refine Keeps.quiet ?_ (latchPortCfg_only ..)
    refine Keeps.quiet ?_ (latchSelectors_only ..)
    exact Keeps.of_only (timingEdge_only ..)
  exact h.kept .tick (by decide)

theorem tickEdge_tick {s t : State} (h : exec .tickEdge s = .next t) :
    t.tick = if pdOn s 1 then s.tick + 1 else s.tick := by
  change execTickEdge s = .next t at h
  unfold execTickEdge tickRuns at h
  split at h
  · next hp =>
    rw [← Host.Outcome.next.inj h]
    have k : Keeps [.tick] (edgeTime s) (edgeOpen (edgeFirmware (edgeClose s.tick (edgeTime s)))) :=
      Keeps.quiet (Keeps.then (Keeps.mono (edgeClose_keeps ..)) (edgeFirmware_keeps ..)) (edgeOpen_only ..)
    rw [if_pos hp]
    exact (k.kept .tick (by decide)).trans (edgeTime_tick s)
  · next hp => cases h; rw [if_neg hp]

/-- Settles O10. -/
theorem tickRises : Obligations.TickRises := by
  intro c s t h
  refine ⟨fun hc => tickEdge_tick (hc ▸ h), tick_of_restart h, fun hc hr => ?_⟩
  refine kept_of_exec (p := .tick) h ?_
  unfold keptBy
  split <;> first | rfl | exact absurd rfl hc | exact absurd hr (by simp [restarts])

end Sys2Proof.Proofs.Guards
end

section
/-! PROOFS. The fuses: which commands touch them, and what those do. -/

set_option Elab.async false

namespace Sys2Proof.Proofs.Fuses

open Sys2Proof Sys2Proof.Machine Sys2Proof.Laws Sys2Proof.Proofs.Frame

/-- A part that its body leaves is left by a host command, or is as the body leaves it in a state in which it is
as before. -/
theorem runCmd_same {p : Part} {o q : Nat} {body : Fetched → State → State} {s t : State}
    (hp : ([.free, .regs, .rc, .rc64, .abacus, .queues, .rings, .hostOut, .sec, .mgmtLog, .mgmt, .smb, .jnl,
      .log] : List Part).contains p = false)
    (h : runCmd o q body s = .next t) : p.same s t ∨ ∃ d u, p.same s u ∧ t = body d u := by
  have hn : p ∉ ([.free, .regs, .rc, .rc64, .abacus, .queues, .rings, .hostOut, .sec, .mgmtLog, .mgmt, .smb, .jnl,
    .log] : List Part) := by simpa using hp
  unfold runCmd at h
  split at h
  · exact .inl (Host.Outcome.next.inj h ▸ same_refl ..)
  next d ds _ =>
  have c := (checkCmd_only q d s).keep
  split at h
  next u hk => rw [hk] at c; exact .inl (Host.Outcome.next.inj h ▸ c.same p hn)
  next a u hk =>
    rw [hk] at c
    rw [← Host.Outcome.next.inj h]
    exact .inl ((Only.then (Only.then c (startCmd_only ..)) (complete_only ..)).same p hn)
  next u hk =>
    rw [hk] at c
    split at h
    · rw [← Host.Outcome.next.inj h]
      exact .inl ((Only.then (Only.then c (startCmd_only ..)) (complete_only ..)).same p hn)
    · dsimp only at h
      rw [← Host.Outcome.next.inj h]
      split
      · exact .inr ⟨d, _, (Only.then (Only.then c (workReady_only ..)) (startCmd_only ..)).same p hn, rfl⟩
      · exact .inl ((Only.mono (workReady_only ..)).same p hn)

/-- What a LIFECYCLE_SET may change of the fuses: the life cycle moves forward, and an owner hash is programmed
where there was none. -/
def TokenUse (o p : Otp) : Prop :=
  ∃ l h, p = { o with life := l, ownerHash := h } ∧
    (l = o.life ∨ (o.life = 1 ∧ l = 2) ∨ (o.life = 2 ∧ l = 3) ∨ (o.life = 1 ∧ l = 3)) ∧
    ∀ x, o.ownerHash = some x → h = some x

theorem TokenUse.same (o : Otp) : TokenUse o o := ⟨o.life, o.ownerHash, rfl, .inl rfl, fun _ h => h⟩

theorem otp_of_only {ps : List Part} {s t : State} (h : Only ps s t)
    (hp : ps.contains .otp = false := by rfl) : t.otp = s.otp :=
  h.same .otp (by simpa using hp)

/-- An accepted token is one that the life cycle and the owner hash allow. -/
theorem useToken_otp {s : State} {t : Bytes} (h : tokenOk s [2, 3, 4] t = true) :
    TokenUse s.otp (useToken t s).otp := by
  obtain ⟨hp, hs, hm⟩ : ([2, 3, 4].contains (t.getD 5 0).toNat) = true ∧ signerOk s.otp t = true ∧
      moveOk s.otp (t.getD 5 0).toNat = true := by
    simp only [tokenOk, Bool.and_eq_true] at h
    obtain ⟨⟨⟨⟨⟨⟨⟨⟨⟨-, -⟩, hp⟩, -⟩, -⟩, -⟩, -⟩, hs⟩, -⟩, hm⟩ := h
    exact ⟨hp, hs, hm⟩
  unfold signerOk at hs
  unfold useToken
  revert hp hs hm
  generalize (t.getD 5 0).toNat = p
  intro hp hs hm
  split
  · exact ⟨2, _, rfl, .inr (.inl ⟨by simpa [moveOk] using hm, rfl⟩), fun _ h => h⟩
  · have hl : s.otp.life = 1 ∨ s.otp.life = 2 := by simpa [moveOk] using hm
    exact ⟨3, _, rfl, .inr (.inr (hl.elim (fun h => .inr ⟨h, rfl⟩) fun h => .inl ⟨h, rfl⟩)), fun _ h => h⟩
  · next h2 h3 =>
    obtain rfl : p = 4 := by simpa [show p ≠ 2 from h2, show p ≠ 3 from h3] using hp
    have hn : s.otp.ownerHash = none := by simp at hs; exact hs.2
    exact ⟨_, _, rfl, .inl rfl, fun x hx => by rw [hn] at hx; cases hx⟩

theorem lifecycleSet_otp {q : Nat} {s t : State} (h : exec (.lifecycleSet q) s = .next t) :
    TokenUse s.otp t.otp := by
  change execLifecycleSet q s = .next t at h
  unfold execLifecycleSet at h
  rcases runCmd_same (p := .otp) rfl h with hs | ⟨d, u, hu, rfl⟩
  · rw [show t.otp = s.otp from hs]; exact .same _
  rw [← show u.otp = s.otp from hu]
  split
  · rw [otp_of_only (complete_only ..)]; exact .same _
  · split
    · next hok =>
      rw [otp_of_only (complete_only ..), otp_of_only (newChallenge_only ..)]
      exact useToken_otp hok
    · rw [otp_of_only (complete_only ..)]; exact .same _

/-- A tick edge blows at most one fuse of the anti-rollback count. -/
theorem blowTick_otp (s : State) :
    (blowTick s).otp = s.otp ∨ (blowTick s).otp = { s.otp with arb := s.otp.arb + 1 } := by
  unfold blowTick
  split
  · exact .inl rfl
  · split
    · exact .inl rfl
    · dsimp only
      split
      · rw [otp_of_only (complete_only ..), otp_of_only (onImage_only ..)]; exact .inr rfl
      · exact .inr rfl

theorem edgeOpen_otp (s : State) :
    (edgeOpen s).otp = s.otp ∨ (edgeOpen s).otp = { s.otp with arb := s.otp.arb + 1 } := by
  have h : (idleTick (stepTick (lentTick (restartTick (onlyIf (isActive s) groupsTick s))))).otp = s.otp := by
    rw [otp_of_only (idleTick_only ..), otp_of_only (stepTick_only ..), otp_of_only (lentTick_only ..),
      otp_of_only (restartTick_only ..)]
    unfold onlyIf
    split
    · exact otp_of_only (groupsTick_only ..)
    · rfl
  unfold edgeOpen
  exact h ▸ blowTick_otp _

theorem tickEdge_otp {s t : State} (h : exec .tickEdge s = .next t) :
    t.otp = s.otp ∨ t.otp = { s.otp with arb := s.otp.arb + 1 } := by
  change execTickEdge s = .next t at h
  unfold execTickEdge at h
  split at h
  · have hs : (edgeFirmware (edgeClose s.tick (edgeTime s))).otp = s.otp := by
      rw [otp_of_only (edgeFirmware_only ..), otp_of_only (edgeClose_only ..), otp_of_only (edgeTime_only ..)]
    rw [← Host.Outcome.next.inj h, ← hs]
    exact edgeOpen_otp _
  · exact .inl (Host.Outcome.next.inj h ▸ rfl)

/-- No other command touches the fuses. -/
theorem otp_of_exec {c : Instr} {s t : State} (h : exec c s = .next t) (ht : c ≠ .tickEdge)
    (hl : ∀ q, c ≠ .lifecycleSet q) : t.otp = s.otp := by
  refine same_of_exec (p := .otp) h ?_
  unfold touches
  split <;> first | rfl | exact absurd rfl ht | exact absurd rfl (hl _)

/-- Settles O11: TICK_EDGE blows one fuse at most, LIFECYCLE_SET moves the life cycle and programs the owner hash as
its token allows, and nothing else touches the fuses. -/
theorem fusesOneWay : Obligations.FusesOneWay := by
  intro s t h
  cases hp : s.pending with
  | nil =>
    rw [stepRunsFront.2 s hp] at h
    cases h
    simp
  | cons c cs =>
    rw [stepRunsFront.1 s c cs hp] at h
    by_cases ht : c = .tickEdge
    · subst ht
      rcases tickEdge_otp h with e | e <;> simp [e]
    · by_cases hl : ∃ q, c = .lifecycleSet q
      · obtain ⟨q, rfl⟩ := hl
        obtain ⟨l, x, e, hm, hx⟩ := lifecycleSet_otp h
        rw [e]
        exact ⟨rfl, rfl, rfl, rfl, rfl, rfl, Nat.le_refl _, Nat.le_succ _, hm, hx, fun h => absurd rfl h,
          fun _ => ⟨q, cs, rfl⟩⟩
      · have e : t.otp = ({ s with pending := cs } : State).otp := otp_of_exec h ht fun q hq => hl ⟨q, hq⟩
        simp [e]

end Sys2Proof.Proofs.Fuses
end
section
/-! PROOFS. The words of the scratchpad banks. -/

set_option Elab.async false

namespace Sys2Proof.Proofs.BankWords

open Sys2Proof Sys2Proof.Machine

/-- Settles O13: no word is listed at reset. -/
theorem bankWordsCanonicalAtReset : Obligations.BankWordsCanonicalAtReset := by
  unfold Obligations.BankWordsCanonicalAtReset
  decide

/-- Bank 1 is zeroed, and a write of zero to bank 0 stalls whose offset lies one word past the end of the bank. -/
def stalledPastEnd : State := { State.reset with
  pending := [.bankAccess []]
  bank := { Banks.reset with
    zeroed := [1], stalled := [(⟨true, true, 0, true, 0, 0x40000, .write true 0, 0⟩, 0)] } }

/-- The stalled write retries in the step: bank 0 is not zeroed, so its zero is listed, at the place of the first
word of bank 1. -/
theorem step_stalledPastEnd : ∃ t, step stalledPastEnd = .next t ∧ t.bank.mem = [(32768, 0)] ∧ t.bank.zeroed = [1] :=
  ⟨_, rfl, rfl, rfl⟩

/-- Refutes O12: BANK_ACCESS takes only accesses within their bank, but one that stalls in the state retries
whatever its offset is, and writes the zero it carries into the next bank, whose unlisted words are zero. -/
theorem not_bankWordsCanonical : ¬ Obligations.BankWordsCanonical := by
  intro h
  obtain ⟨t, ht, hmem, hzero⟩ := step_stalledPastEnd
  obtain ⟨-, hw⟩ := h stalledPastEnd t (by decide) ht
  rw [hmem, hzero] at hw
  exact hw _ (List.mem_singleton.mpr rfl) (by decide) rfl

end Sys2Proof.Proofs.BankWords
end

section
/-! PROOFS. The checks of a host command, and the completion it writes. -/

set_option Elab.async false

namespace Sys2Proof.Proofs.HostCommand

open Sys2Proof Sys2Proof.Machine Sys2Proof.Laws

/-! ### The checks -/

/-- Every host command is its checks and a body. -/
theorem exec_eq_runCmd {c : Instr} {o q : Nat} (h : hostOp c = some (o, q)) :
    ∃ body, ∀ s, exec c s = runCmd o q body s := by
  unfold hostOp at h
  split at h <;> cases h
  exacts [
    ⟨_, execNop.eq_1 _⟩, ⟨_, execEventCatalog.eq_1 _⟩, ⟨_, execStringCreate.eq_1 _⟩,
    ⟨_, execStringConnect.eq_1 _⟩, ⟨_, execStringDisconnect.eq_1 _⟩, ⟨_, execStringResize.eq_1 _⟩,
    ⟨_, execStringCondition.eq_1 _⟩, ⟨_, execStringDelete.eq_1 _⟩, ⟨_, execBatchCommit.eq_1 _⟩,
    ⟨_, execRepack.eq_1 _⟩, ⟨_, execPageDisarm.eq_1 _⟩, ⟨_, execPageSwapAt.eq_1 _⟩, ⟨_, execScenSave.eq_1 _⟩,
    ⟨_, execScenLoad.eq_1 _⟩, ⟨_, execScenDelete.eq_1 _⟩, ⟨_, execStringRead.eq_1 _⟩, ⟨_, execPageRead.eq_1 _⟩,
    ⟨_, execGroupCreate.eq_1 _⟩, ⟨_, execGroupModify.eq_1 _⟩, ⟨_, execGroupDelete.eq_1 _⟩,
    ⟨_, execGroupRequest.eq_1 _⟩, ⟨_, execGroupRead.eq_1 _⟩, ⟨_, execTimingConfig.eq_1 _⟩,
    ⟨_, execTimingFreq.eq_1 _⟩, ⟨_, execTimingPhaseStep.eq_1 _⟩, ⟨_, execTodSet.eq_1 _⟩,
    ⟨_, execTodAdj.eq_1 _⟩, ⟨_, execTimingRead.eq_1 _⟩, ⟨_, execPmFetch.eq_1 _⟩, ⟨_, execPerfRead.eq_1 _⟩,
    ⟨_, execEventLogRead.eq_1 _⟩, ⟨_, execBankAlloc.eq_1 _⟩, ⟨_, execBankRelease.eq_1 _⟩,
    ⟨_, execMtestConfig.eq_1 _⟩, ⟨_, execMtestRun.eq_1 _⟩, ⟨_, execKeyUnwrap.eq_1 _⟩, ⟨_, execKeyErase.eq_1 _⟩,
    ⟨_, execKeyRead.eq_1 _⟩, ⟨_, execCipherOp.eq_1 _⟩, ⟨_, execImageStage.eq_1 _ _⟩,
    ⟨_, execImageActivate.eq_1 _⟩, ⟨_, execClusterActivate.eq_1 _⟩, ⟨_, execLifecycleSet.eq_1 _⟩,
    ⟨_, execDebugUnlock.eq_1 _⟩, ⟨_, execAttest.eq_1 _⟩, ⟨_, execSensorRead.eq_1 _⟩, ⟨_, execJnlConfig.eq_1 _⟩,
    ⟨_, execJnlCompact.eq_1 _⟩, ⟨_, execSeesawConfig.eq_1 _⟩, ⟨_, execSeesawRelease.eq_1 _⟩,
    ⟨_, execJnlRead.eq_1 _⟩]

section
variable {o q : Nat} {body : Fetched → State → State} {s u : State} {d : Fetched} {ds : List Fetched}

theorem runCmd_noHead (h : headCmd o q s = none) : runCmd o q body s = .next s := by
  rw [runCmd, h]

theorem runCmd_fail {a : Answer} (h : headCmd o q s = some (d, ds)) (hk : checkCmd q d s = .fail a u) :
    runCmd o q body s = .next (complete q a (startCmd q d ds u)) := by
  simp only [runCmd, h, hk]

theorem runCmd_wait (h : headCmd o q s = some (d, ds)) (hk : checkCmd q d s = .wait u) :
    runCmd o q body s = .next u := by
  simp only [runCmd, h, hk]

theorem runCmd_badArg {n : Nat} (h : headCmd o q s = some (d, ds)) (hk : checkCmd q d s = .pass u)
    (hn : argFault o d = some n) : runCmd o q body s = .next (complete q (badArg n) (startCmd q d ds u)) := by
  simp only [runCmd, h, hk, hn]

theorem runCmd_noDatapath (h : headCmd o q s = some (d, ds)) (hk : checkCmd q d s = .pass u)
    (hn : argFault o d = none) (hw : (workReady o d u).1 = false) :
    runCmd o q body s = .next (workReady o d s).2 := by
  simp [runCmd, h, hk, hn, hw]

/-- A command that runs does what its body does. -/
theorem runCmd_ran (h : ran o q s = some (d, u)) : runCmd o q body s = .next (body d u) := by
  unfold ran at h
  split at h
  · cases h
  next e ds hd =>
  split at h
  next t hk =>
    split at h
    next hc =>
      obtain ⟨rfl, rfl⟩ := Prod.mk.inj (Option.some.inj h)
      obtain ⟨ha, hw⟩ : argFault o e = none ∧ (workReady o e t).1 = true := by simpa using hc
      simp only [runCmd, hd, hk, ha, hw, if_true]
    · cases h
  · cases h

end

/-- Settles O14: each of the five is a case of `runCmd`. -/
theorem hostCommandChecks : Obligations.HostCommandChecks := by
  intro c o q s hc
  obtain ⟨body, hb⟩ := exec_eq_runCmd hc
  rw [hb]
  exact ⟨runCmd_noHead, fun _ _ _ _ => runCmd_fail, fun _ _ _ => runCmd_wait, fun _ _ _ _ => runCmd_badArg,
    fun _ _ _ => runCmd_noDatapath⟩

/-! ### The completion -/

theorem length_leBytes (n v : Nat) : (leBytes n v).length = n := by
  induction n generalizing v with
  | zero => rfl
  | succ n ih => rw [leBytes, List.length_cons, ih]

theorem length_sub (bs : Bytes) (o n : Nat) : (Machine.sub bs o n).length = n := by
  simp [Machine.sub]

theorem length_cplBytes (desc : Bytes) (a : Answer) (ci : Nat) (phase : Bool) :
    (cplBytes desc a ci phase).length = 32 := by
  simp [cplBytes, length_leBytes, length_sub]

theorem hostMem_of_fireIf (c : Prop) [Decidable c] (f v : Nat) (s : State) :
    (if c then fire f v s else s).hif.hostMem = s.hif.hostMem := by
  split <;> rfl

theorem queue_of_fireIf (c : Prop) [Decidable c] (f v : Nat) (s : State) (r : Nat) :
    queue (if c then fire f v s else s) r = queue s r := by
  split <;> rfl

/-- Signalling a completion moves nothing of host memory, nor an index of a queue. -/
theorem signalCpl_ring (q : Nat) (s : State) :
    (signalCpl q s).hif.hostMem = s.hif.hostMem ∧ ∃ y : Queue,
      (∀ r, queue (signalCpl q s) r = queue (setQueue q y s) r) ∧
      y.ci = (queue s q).ci ∧ y.cpi = (queue s q).cpi ∧ y.phase = (queue s q).phase := by
  unfold signalCpl
  refine ⟨hostMem_of_fireIf .., _, fun r => queue_of_fireIf .., ?_⟩
  exact ⟨rfl, rfl, rfl⟩

/-- Host memory and queue q as a completion leaves them. -/
def putCpl (q : Nat) (y : Queue) (mem : List (Nat × Byte)) (s : State) : State :=
  let s := setQueue q y s
  { s with hif := { s.hif with hostMem := mem } }

theorem queue_putCpl (q : Nat) (y : Queue) (mem : List (Nat × Byte)) (s : State) (r : Nat) :
    queue (putCpl q y mem s) r = if r = q then y else queue s r := queue_setQueue q r y s

/-- The queue after a completion: its indices move by one, and the phase turns at the wrap. -/
def cplQueue (q : Nat) (s : State) : Queue :=
  let x := queue s q
  let pi := (x.cpi + 1) % cqSize s q
  { x with ci := (x.ci + 1) % sqSize s q, cpi := pi, phase := if pi = 0 then !x.phase else x.phase }

/-- With the link up and no reset under the command, the bytes and the indices are written and signalled. -/
theorem writeCpl_linkUp {q : Nat} (desc : Bytes) (a : Answer) {s : State} (hup : linkUp s = true)
    (hmute : (queue s q).mute = false) :
    writeCpl q desc a s = signalCpl q (putCpl q (cplQueue q s) (memPut (cqBase s q + 32 * (queue s q).cpi)
        (cplBytes desc a (((queue s q).ci + 1) % sqSize s q) (queue s q).phase) s.hif.hostMem) s) := by
  unfold writeCpl
  rw [if_neg (by simp [hmute]), if_neg (by simp [hup])]
  rfl

/-- Settles O15: the bytes are put at the producer index, and signalling them moves none of it. -/
theorem completionRecord : Obligations.CompletionRecord := by
  intro q desc a s hup hmute x ci pi t
  obtain ⟨hm, y, hq, hci, hcpi, hph⟩ := signalCpl_ring q (putCpl q (cplQueue q s)
    (memPut (cqBase s q + 32 * x.cpi) (cplBytes desc a ci x.phase) s.hif.hostMem) s)
  rw [← writeCpl_linkUp desc a hup hmute] at hm hq
  rw [queue_putCpl, if_pos rfl] at hci hcpi hph
  refine ⟨fun k hk => ?_, fun b hb => ?_, ?_, ?_, ?_, fun r hr => ?_⟩
  · rw [hm, putCpl, memGet_memPut, length_cplBytes, if_pos (by omega), Nat.add_sub_cancel_left]
  · rw [hm, putCpl, memGet_memPut, length_cplBytes, if_neg (by omega)]
  · rw [hq, queue_setQueue, if_pos rfl, hci]; rfl
  · rw [hq, queue_setQueue, if_pos rfl, hcpi]; rfl
  · rw [hq, queue_setQueue, if_pos rfl, hph]; rfl
  · rw [hq, queue_setQueue, if_neg hr, queue_putCpl, if_neg hr]

end Sys2Proof.Proofs.HostCommand
end

section
/-! PROOFS. The host commands that run: what each body answers under the conditions of its rules. -/

set_option Elab.async false

namespace Sys2Proof.Proofs.HostCommand

open Sys2Proof Sys2Proof.Machine Sys2Proof.Laws

@[simp] theorem firstOf_nil : firstOf [] = none := rfl

@[simp] theorem firstOf_none (xs : List (Option Answer)) : firstOf (none :: xs) = firstOf xs := rfl

@[simp] theorem firstOf_some (a : Answer) (xs : List (Option Answer)) : firstOf (some a :: xs) = some a := rfl

@[simp] theorem refuseIf_false (a : Answer) : refuseIf false a = none := rfl

@[simp] theorem refuseIf_true (a : Answer) : refuseIf true a = some a := rfl

/-- A good buffer takes the bytes. -/
theorem answerBuffer_fits {q addr len ao lo : Nat} {bs : Bytes} {a : Answer} {s : State} (ha : addr % 32 = 0)
    (hl : bs.length ≤ len) : answerBuffer q addr len ao lo bs a s = complete q a (hostWrite q addr bs s) := by
  rw [answerBuffer, if_neg (by simpa using ha), if_neg (Nat.not_lt.mpr hl)]

/-- A host command that runs answers what its body does. -/
theorem exec_ran {c : Instr} {o q : Nat} {body : Fetched → State → State} {s u t : State} {d : Fetched}
    (hc : exec c s = runCmd o q body s) (h : ran o q s = some (d, u)) (hb : body d u = t) : exec c s = .next t := by
  rw [hc, runCmd_ran h, hb]

theorem answerBuffer_entries {q addr len ao lo n : Nat} {f : Nat → Nat} {a : Answer} {s : State} (ha : addr % 32 = 0)
    (hl : 8 * n ≤ len) :
    answerBuffer q addr len ao lo ((List.range n).flatMap fun i => leBytes 8 (f i)) a s =
      complete q a (hostWrite q addr ((List.range n).flatMap fun i => leBytes 8 (f i)) s) :=
  answerBuffer_fits ha (by simpa [List.length_flatMap, length_leBytes, Nat.mul_comm n] using hl)

/-- Settles O16: each body passes its checks and answers the buffer. -/
theorem readCommandsA : Obligations.ReadCommandsA := by
  refine ⟨?_, ?_, ?_, ?_, ?_, ?_⟩
  · intro q s d u h
    exact exec_ran (execNop.eq_1 ..) h rfl
  · intro q s d u h
    exact exec_ran (execTimingRead.eq_1 ..) h rfl
  · intro q s d u h ha hl
    refine exec_ran (execEventCatalog.eq_1 ..) h ?_
    generalize catalog = c at hl ⊢
    exact answerBuffer_fits ha hl
  · intro q s d u h hup ha hl
    refine exec_ran (execStringRead.eq_1 ..) h ?_
    simp only [hup, answerBuffer_fits ha hl]
    rfl
  · intro q s d u h hup hk hf hn ha hl
    refine exec_ran (execPageRead.eq_1 ..) h ?_
    dsimp only
    generalize (d.desc.getD 16 0).toNat = k at hk hf hn ⊢
    simp only [hup, decide_eq_false (Nat.not_le.mpr hk), decide_eq_false (Nat.not_le.mpr hf),
      decide_eq_false (Nat.not_lt.mpr hn), answerBuffer_entries ha hl, Bool.not_true, refuseIf_false, firstOf_none,
      firstOf_nil]
  · intro q s d u x h hup hg hx ha hl
    refine exec_ran (execGroupRead.eq_1 ..) h ?_
    simp [hup, Nat.not_le.mpr hg, hx, answerBuffer_fits ha hl, -List.length_append]

/-- Settles O17: each body passes its checks and answers the buffer. -/
theorem readCommandsB : Obligations.ReadCommandsB := by
  refine ⟨?_, ?_, ?_, ?_, ?_, ?_, ?_⟩
  · intro q s d u h hc day k hb hn hf ha hl
    refine exec_ran (execPmFetch.eq_1 ..) h ?_
    dsimp only
    rw [hb]
    generalize (d.desc.getD 16 0).toNat = c at hc hf hl ⊢
    obtain ⟨h1, h3⟩ : c ≠ 0 ∧ c ≤ 3 := by simp at hc; omega
    simp [h1, h3, show ¬ 6 < c by omega, show ¬ classSize c ≤ leAt d.desc 20 4 by omega, Nat.ne_of_gt hn,
      Nat.not_lt.mpr hf, answerBuffer_fits ha hl]
  · intro q s d u h hc hn hf ha hl
    refine exec_ran (execPmFetch.eq_1 ..) h ?_
    dsimp only
    generalize (d.desc.getD 16 0).toNat = c at hc hf hl ⊢
    obtain ⟨h1, h3⟩ : ¬ c ≤ 3 ∧ c ≤ 6 := by simp at hc; omega
    cases binNumber (d.desc.getD 17 0).toNat <;>
      simp [h1, show c ≠ 0 by omega, show ¬ 6 < c by omega, show ¬ classSize c ≤ leAt d.desc 20 4 by omega,
        Nat.ne_of_gt hn, Nat.not_lt.mpr hf, answerBuffer_fits ha hl]
  · intro q s d u h hb hup ha bs hbs hl
    refine exec_ran (execPerfRead.eq_1 ..) h ?_
    dsimp only
    subst hbs
    generalize (d.desc.getD 16 0).toNat = f at hb hl ⊢
    generalize (d.desc.getD 18 0).toNat = a at hb hl ⊢
    generalize (d.desc.getD 19 0).toNat = n at hb hl ⊢
    have h1 : (bitOf f 0 && decide (192 ≤ a)) = false := by
      cases hf : bitOf f 0 <;> simp [hf] at hb ⊢; exact hb.1
    have h2 : (bitOf f 0 && decide (192 < a + n)) = false := by
      cases hf : bitOf f 0 <;> simp [hf] at hb ⊢; exact hb.2
    simp [h1, h2, hup, answerBuffer_fits ha hl]
  · intro q s d u h h1 h2 first k hf hk hl ha hstep
    have hchecks : firstOf [refuseIf (decide (leAt d.desc 24 4 < 1 ∨ 65536 < leAt d.desc 24 4)) (badArg 24),
        refuseIf (decide (leAt d.desc 28 4 < 32 + 32 * k)) (badArg 28),
        refuseIf (leAt d.desc 32 8 % 32 ≠ 0) (badArg 32),
        refuseIf (decide (0 < u.pwr.step ∧ u.pwr.step < 5)) (ans stUnavailable)] = none := by
      rw [decide_eq_false (by omega), decide_eq_false (by omega), decide_eq_false hstep, decide_eq_false (by omega)]
      rfl
    refine ⟨fun hpos => exec_ran (execEventLogRead.eq_1 ..) h ?_, fun hz => exec_ran (execEventLogRead.eq_1 ..) h ?_⟩
    all_goals
      dsimp only
      rw [← hf, ← hk, hchecks]
    · rw [if_neg (Nat.ne_of_gt hpos)]
    · rw [if_pos hz, hz]; rfl
  · intro q s d u h h1 h2 h3 ha bs hbs hl
    refine exec_ran (execKeyRead.eq_1 ..) h ?_
    subst hbs
    simp [Nat.not_le.mpr h1, Nat.ne_of_gt h2, Nat.not_lt.mpr h3, answerBuffer_fits ha hl]
  · intro q s d u h h1 h2 k rs hk hrs hs ha hl v hv
    refine exec_ran (execJnlRead.eq_1 ..) h ?_
    dsimp only
    rw [← hk, ← hrs]
    have hu : onlyIf (k ≠ 0xFFFF) (opStart (some k) rs.length) u = v := by
      rw [hv]; by_cases hf : k = 0xFFFF <;> simp [onlyIf, hf]
    have hchecks : firstOf [refuseIf (decide (leAt d.desc 24 2 < 1 ∨ 4096 < leAt d.desc 24 2)) (badArg 24),
        refuseIf (k ≠ 0xFFFF && u.sec.locked) (ans stCipherLocked),
        refuseIf (k ≠ 0xFFFF && !slotServes u k 1 false rs.length) (ans stKeyPolicy)] = none := by
      rw [decide_eq_false (by omega)]
      rcases hs with rfl | ⟨hl, hs⟩
      · rfl
      · simp [hl, hs]
    rw [hchecks, hu]
    exact answerBuffer_fits ha hl
  · intro q s d u h hstep ha hl
    refine exec_ran (execSensorRead.eq_1 ..) h ?_
    simp [hstep, answerBuffer_fits ha hl]

end Sys2Proof.Proofs.HostCommand
end

section
/-! PROOFS. The host commands of strings, pages, groups and timing. -/

set_option Elab.async false

namespace Sys2Proof.Proofs.HostCommand

open Sys2Proof Sys2Proof.Machine Sys2Proof.Laws

/-- A string command whose checks pass is taken. -/
theorem stringCmd_ok {q : Nat} {parse : State → Nat → Fetched → Parsed} {d : Fetched} {u : State} {x : StrCmd}
    (hs : sharedCheck u = none) (hh : heldAgainst u q (strNum d) (bitOf (d.desc.getD 1 0).toNat 0) = false)
    (hp : parse u q d = .ok x) :
    stringCmd q parse d u = if bitOf (d.desc.getD 1 0).toNat 0 then joinBatch q x u
      else request (.batch q 0 none false)
        (onAbacus (fun a => { a with batches := a.batches ++ [⟨q, true, [x]⟩] }) u) := by
  simp only [stringCmd, hs, hh, hp]
  rfl

/-- Settles O18: each of the six is `stringCmd` with its own parser. -/
theorem stringCommands : Obligations.StringCommands := by
  intro c o parse hm q s d u x h hs hh hp
  simp only [List.mem_cons, List.not_mem_nil, or_false, Prod.mk.injEq] at hm
  have hc : exec (c q) s = runCmd o q (stringCmd q parse) s := by
    rcases hm with ⟨rfl, rfl, rfl⟩ | ⟨rfl, rfl, rfl⟩ | ⟨rfl, rfl, rfl⟩ | ⟨rfl, rfl, rfl⟩ | ⟨rfl, rfl, rfl⟩ |
      ⟨rfl, rfl, rfl⟩ <;> rfl
  exact exec_ran hc h (stringCmd_ok hs hh hp)

theorem bit1_of_lt_two {b : Nat} (h : b < 2) : bitOf b 1 = false := by
  rw [bitOf, show b / 2 ^ 1 % 2 = 0 by omega]; rfl

/-- A BATCH_COMMIT names a port below 8 when it follows one. -/
theorem batchChecks {u : State} {b p : Nat} {x : BitVec 8} (hs : sharedCheck u = none) (hp : bitOf b 0 = true → p < 8) :
    firstOf [sharedCheck u, refuseIf ((if bitOf b 0 then some (p, x) else none).isSome && decide (8 ≤ p)) (badArg 25)] =
      none := by
  cases hb : bitOf b 0
  · simp [hs]
  · simp [hs, Nat.not_le.mpr (hp hb)]

/-- Settles O19: each body passes its checks. -/
theorem pageCommands : Obligations.PageCommands := by
  refine ⟨?_, ?_, ?_, ?_, ?_, ?_, ?_, ?_, ?_, ?_, ?_, ?_⟩
  · intro q s d u h hs hp hb
    refine exec_ran (execBatchCommit.eq_1 ..) h ?_
    dsimp only
    rw [batchChecks hs hp, hb]
  · intro q s d u x h hs hp hb
    refine exec_ran (execBatchCommit.eq_1 ..) h ?_
    dsimp only
    rw [batchChecks hs hp, hb]
  · intro q s d u h hs
    refine exec_ran (execRepack.eq_1 ..) h ?_
    simp only [hs]
  · intro q s d u a h hs hst ha hg hsrc hx
    refine exec_ran (execPageDisarm.eq_1 ..) h ?_
    have hx : ¬ a.swap.getD (u.tick + 2) ≤ u.tick + 1 := by
      cases hw : a.swap with
      | none => simp
      | some x => simpa using hx x hw
    simp [hs, hst, ha, hg, hsrc, hx]
  · intro q s d u a h hs hst ha hx
    refine exec_ran (execPageSwapAt.eq_1 ..) h ?_
    simp [hs, hst, ha, hx]
  · intro q s d u h hs hn hb hst
    refine exec_ran (execScenSave.eq_1 ..) h ?_
    dsimp only
    generalize (d.desc.getD 16 0).toNat = n at hn hst ⊢
    generalize (d.desc.getD 17 0).toNat = b at hb ⊢
    rw [decide_eq_false hst]
    simp [hs, Nat.not_le.mpr hn, bit1_of_lt_two hb]
  · intro q s d u h hs hn h0 h2 h5
    refine exec_ran (execScenLoad.eq_1 ..) h ?_
    dsimp only
    generalize (d.desc.getD 16 0).toNat = n at hn h0 h2 h5 ⊢
    rw [decide_eq_false h0, decide_eq_false h2, decide_eq_false h5]
    simp [hs, Nat.not_le.mpr hn]
  · intro q s d u h hs hn h3 h4 v hv
    refine exec_ran (execScenDelete.eq_1 ..) h ?_
    dsimp only
    rw [← hv]
    generalize (d.desc.getD 16 0).toNat = n at hn h3 h4 ⊢
    rw [decide_eq_false h3, decide_eq_false h4]
    simp [hs, Nat.not_le.mpr hn]
  · intro q s d u w h hs hst hw
    refine exec_ran (execPageDisarm.eq_1 ..) h ?_
    simp [hs, hst, hw]
  · intro q s d u h hs hst
    refine exec_ran (execPageDisarm.eq_1 ..) h ?_
    simp [hs, hst]
  · intro q s d u a h hs hst ha hg
    refine exec_ran (execPageDisarm.eq_1 ..) h ?_
    simp [hs, hst, ha, hg]
  · intro q s d u w n h hs hn hlt hb hst hbuilt hw
    refine exec_ran (execScenSave.eq_1 ..) h ?_
    dsimp only
    rw [← hn]
    generalize (d.desc.getD 17 0).toNat = b at hb ⊢
    rw [decide_eq_false hst]
    simp [hs, Nat.not_le.mpr hlt, hb, hbuilt, hw]

/-- Settles O20: each body passes its checks. -/
theorem groupCommands : Obligations.GroupCommands := by
  refine ⟨?_, ?_, ?_, ?_, ?_⟩
  · intro q s d u h hc hg hcl hf
    refine exec_ran (execGroupCreate.eq_1 ..) h ?_
    simp [hc, hg, hcl, hf]
  · intro q s d u y x h hg hx hc ht hn hcl hf
    refine exec_ran (execGroupModify.eq_1 ..) h ?_
    dsimp only
    rw [← hx]
    by_cases hsr : x.sr = y.dfn.sr <;> simp [hg, hc, ht, hn, hcl, hf, hsr, onlyIf]
  · intro q s d u y h hs hg hy hl
    refine exec_ran (execGroupDelete.eq_1 ..) h ?_
    simp [hs, Nat.not_le.mpr hg, hy, hl]
  · intro q s d u y req sig h hs hg hy hr hsig hok
    refine exec_ran (execGroupRequest.eq_1 ..) h ?_
    dsimp only
    rw [← hr, ← hsig]
    rcases hok with ⟨hm, h0, hle⟩ | ⟨hm, h0⟩
    · have hm : req = 8 ∨ req = 5 ∨ req = 3 := by simpa using hm
      rcases hm with rfl | rfl | rfl <;> simp [hs, Nat.not_le.mpr hg, hy, Nat.ne_of_gt h0, Nat.not_lt.mpr hle]
    · have hm : req = 0 ∨ req = 10 := by simpa using hm
      rcases hm with rfl | rfl <;> simp [hs, Nat.not_le.mpr hg, hy, h0]
  · intro q s d u y h hs hg hy hl
    refine exec_ran (execGroupDelete.eq_1 ..) h ?_
    simp [hs, Nat.not_le.mpr hg, hy, hl]

/-- Settles O21: each body passes its checks. -/
theorem timingCommands : Obligations.TimingCommands := by
  refine ⟨?_, ?_, ?_, ?_, ?_, ?_, ?_, ?_⟩
  · intro q s d u h hm m hmv
    refine exec_ran (execTimingConfig.eq_1 ..) h ?_
    simp only [configCmd, if_neg hm, hmv]
  · intro q s d u h hm
    refine exec_ran (execTimingFreq.eq_1 ..) h ?_
    simp only [hm]
    rfl
  · intro q s d u x h hx h1 h2 ha hb hc
    refine exec_ran (execTimingPhaseStep.eq_1 ..) h ?_
    dsimp only
    rw [← hx]
    generalize (d.desc.getD 20 0).toNat = b at ha ⊢
    have ha : ¬ (anyService u = true ∧ b = 0) := by
      rintro ⟨h, rfl⟩; simp [h] at ha
    simp [h1, h2, ha, Nat.not_lt.mpr hb, Nat.not_lt.mpr hc]
  · intro q s d u h hn ht
    refine exec_ran (execTodSet.eq_1 ..) h ?_
    simp [Nat.not_le.mpr hn, show ¬ (leAt d.desc 28 8 ≠ 0 ∧ leAt d.desc 28 8 ≤ u.tick) by omega]
  · intro q s d u x h hx hp
    refine exec_ran (execTodAdj.eq_1 ..) h ?_
    dsimp only
    rw [← hx, if_neg (by omega)]
  · intro q s d u h hm
    refine exec_ran (execTimingConfig.eq_1 ..) h ?_
    simp only [configCmd, if_pos hm]
  · intro q s d u h hm
    refine exec_ran (execTimingFreq.eq_1 ..) h ?_
    simp [hm]
  · intro q s d u h hm
    refine exec_ran (execTimingPhaseStep.eq_1 ..) h ?_
    simp only [if_pos hm]

end Sys2Proof.Proofs.HostCommand
end

section
/-! PROOFS. The host commands of banks, keys, images, tokens and the journal. -/

set_option Elab.async false

namespace Sys2Proof.Proofs.HostCommand

open Sys2Proof Sys2Proof.Machine Sys2Proof.Laws

/-- Settles O22: each body passes its checks or stops at the one named. -/
theorem bankCommands : Obligations.BankCommands := by
  refine ⟨?_, ?_, ?_, ?_, ?_, ?_⟩
  · intro q s d u n h hup hn hlt
    refine ⟨fun hp => exec_ran (execBankAlloc.eq_1 ..) h ?_, fun hp => exec_ran (execBankAlloc.eq_1 ..) h ?_⟩
    all_goals
      dsimp only
      rw [← hn]
      simp [hup, show n ≠ 255 by omega, Nat.not_le.mpr hlt, hp]
  · intro q s d u h hup hn
    refine ⟨fun n hf => ⟨List.find?_some hf, exec_ran (execBankAlloc.eq_1 ..) h ?_⟩,
      fun hno => exec_ran (execBankAlloc.eq_1 ..) h ?_⟩
    · dsimp only
      rw [hn, hf]
      simp [hup]
    · have hf : (List.range 128).find? (inPool u) = none :=
        List.find?_eq_none.mpr fun n hm => by simp [hno n (List.mem_range.mp hm)]
      dsimp only
      rw [hn, hf]
      simp [hup]
  · intro q s d u n h hup hn hlt
    refine ⟨fun ho hf hh => exec_ran (execBankRelease.eq_1 ..) h ?_,
      fun ho hf hh => exec_ran (execBankRelease.eq_1 ..) h ?_, fun ho => exec_ran (execBankRelease.eq_1 ..) h ?_⟩
    all_goals
      dsimp only
      rw [← hn]
    · simp [hup, Nat.not_le.mpr hlt, ho, hf, hh]
    · simp [hup, Nat.not_le.mpr hlt, ho, hf, Option.isSome_iff_ne_none.mpr hh]
    · simp [hup, Nat.not_le.mpr hlt, ho]
  · intro q s d u h hup
    refine ⟨fun hm => exec_ran (execMtestConfig.eq_1 ..) h ?_, fun hm => exec_ran (execMtestConfig.eq_1 ..) h ?_⟩
    · simp [hup, configCmd, hm]
    · simp [hup, configCmd, hm]
  · intro q s d u n m h hup hn hlt hm hm2 hf
    refine ⟨fun ho => exec_ran (execMtestRun.eq_1 ..) h ?_, fun ho => exec_ran (execMtestRun.eq_1 ..) h ?_⟩
    all_goals
      dsimp only
      rw [← hn, ← hm]
      rcases ho with ⟨rfl, ho⟩ | ⟨rfl, ho⟩ <;> simp [hup, Nat.not_le.mpr hlt, hf, ho]
  · intro q s d u n h hup hn hlt hm hf
    refine exec_ran (execMtestRun.eq_1 ..) h ?_
    dsimp only
    rw [← hn]
    generalize (d.desc.getD 17 0).toNat = m at hm ⊢
    simp [hup, Nat.not_le.mpr hlt, Nat.not_le.mpr hm, hf]

theorem startUnwrap_ok {q k e : Nat} {b : Bytes} {u : State} (h1 : (keySlot u k).st ≠ 1) (h3 : (keySlot u k).st ≠ 3)
    (he : e = 0 ∨ e = (keySlot u k).gen) (hv : vfMay (qFunction u q) (keySlot u k) = true)
    (hf : qFunction u q = 0 ∨ ((b.getD 20 0).toNat = 0 ∧ (b.getD 21 0).toNat = qFunction u q))
    (hh : blobHeaderOk u.sec.owner.isSome b = true) :
    startUnwrap q k e b u =
      waitDp (.unwrap q (some k)) (setKeySlot k { keySlot u k with st := 1, was := (keySlot u k).st } u) := by
  have hf' : ¬ ((!vfMay (qFunction u q) (keySlot u k)) = true ∨
      (qFunction u q ≠ 0 ∧ ((b.getD 20 0).toNat ≠ 0 ∨ (b.getD 21 0).toNat ≠ qFunction u q))) := by
    rw [hv]; rintro (h | ⟨h0, h⟩)
    · cases h
    · omega
  unfold startUnwrap
  rw [if_neg (by tauto), if_neg (by omega), if_neg hf', if_neg (by simp [hh])]

/-- Settles O23: each body passes its checks or stops at the one named. -/
theorem keyCommands : Obligations.KeyCommands := by
  refine ⟨?_, ?_, ?_, ?_, ?_⟩
  · intro q s d u h hl hp hk hlt k x hkn hx h1 h3 he hv hf hh
    refine exec_ran (execKeyUnwrap.eq_1 ..) h ?_
    dsimp only
    subst hx
    rw [← hkn] at hlt ⊢
    rw [hp, if_neg hk, if_neg (Nat.not_le.mpr hlt), startUnwrap_ok h1 h3 he hv hf hh]
    simp [hl]
  · intro q s d u h hl hp hk hq hh
    refine exec_ran (execKeyUnwrap.eq_1 ..) h ?_
    dsimp only
    rw [hp, if_pos hk, if_neg (by simp [hq]), if_neg (by simp [hh])]
    simp [hl]
  · intro q s d u k x h hk hlt hx h0 h1 h3 he hv v hvu
    refine exec_ran (execKeyErase.eq_1 ..) h ?_
    dsimp only
    rw [← hk, ← hx, if_neg (by tauto), if_neg (by omega), if_neg (by simp [hv]), if_neg h0, ← hvu]
    simp [Nat.not_le.mpr hlt]
  · intro q s d u a h ha hl hs hm
    refine ⟨fun hst => exec_ran (execCipherOp.eq_1 ..) h ?_, fun r hst hr => exec_ran (execCipherOp.eq_1 ..) h ?_⟩
    all_goals
      dsimp only
      rw [← ha]
    · have hstop : (if (keySlot u a.slot).st = 1 then none else opStop u q) = none := by
        rcases hst with hst | hst <;> simp [hst]
      rw [hstop]
      simp [hl, Nat.not_le.mpr hs, Nat.not_lt.mpr hm]
    · rw [if_neg hst, hr]
      simp [hl, Nat.not_le.mpr hs, Nat.not_lt.mpr hm]
  · intro q s d u k x h hk hlt hx
    refine ⟨fun hst => exec_ran (execKeyErase.eq_1 ..) h ?_, fun h0 he hv => exec_ran (execKeyErase.eq_1 ..) h ?_⟩
    all_goals
      dsimp only
      rw [← hk, ← hx]
    · rw [if_pos hst]
      simp [Nat.not_le.mpr hlt]
    · rw [if_neg (by rw [h0]; decide), if_neg (by omega), if_neg (by simp [hv]), if_pos h0]
      simp [Nat.not_le.mpr hlt]

/-- Settles O24: each body passes its checks. -/
theorem imageCommands : Obligations.ImageCommands := by
  refine ⟨?_, ?_, ?_, ?_, ?_, ?_⟩
  · intro q b s d u h hb
    refine exec_ran (execImageStage.eq_1 ..) h ?_
    simp [hb]
  · intro q s d u h hb hm
    refine exec_ran (execImageActivate.eq_1 ..) h ?_
    dsimp only
    rw [hm]
    simp [hb]
  · intro q s d u h hb ht hm
    refine exec_ran (execImageActivate.eq_1 ..) h ?_
    dsimp only
    rw [hm]
    simp [hb, ht]
  · intro q s d u h hb ht hm
    refine exec_ran (execImageActivate.eq_1 ..) h ?_
    dsimp only
    rw [hm]
    simp [hb, ht]
  · intro q s d u c h hc hle hup ht hb h11 hu n w hn hw
    refine exec_ran (execClusterActivate.eq_1 ..) h ?_
    dsimp only
    rw [← hc, ← hn, ← hw]
    have hs : (decide (c = 11) && !(u.abacus.job = 0 && u.page.standby = .clean)) = false := by
      by_cases h : c = 11
      · obtain ⟨hj, hst⟩ := h11 h; simp [hj, hst]
      · simp [h]
    rw [hs]
    simp [hup, ht, hb, hu, Nat.not_lt.mpr hle]
    cases clusterComp u.otp u.image.running c <;> rfl
  · intro q s d u h hb
    refine exec_ran (execImageStage.eq_1 ..) h ?_
    simp [hb]

/-- The checks of ATTEST before its last, which is the time since the last report. -/
theorem attestChecks {d : Fetched} {need : Nat} {a : Option Answer} (hl : extLen d.desc = 64)
    (ha : leAt d.desc 16 8 % 32 = 0) (hn : need ≤ leAt d.desc 24 4)
    (hz : ((List.range' 32 32).find? fun i => (extOf d).getD i 0 ≠ 0) = none) :
    firstOf [refuseIf (extLen d.desc ≠ 64) (badArg 2), refuseIf (leAt d.desc 16 8 % 32 ≠ 0) (badArg 16),
      refuseIf (decide (leAt d.desc 24 4 < need)) (badArg 24),
      ((List.range' 32 32).find? fun i => (extOf d).getD i 0 ≠ 0).map fun i => badArg (64 + i), a] = a := by
  rw [hz, hl, ha, decide_eq_false (Nat.not_lt.mpr hn)]
  cases a <;> rfl

/-- Settles O25: each body passes its checks or stops at the one named. -/
theorem tokenAndJournalCommands : Obligations.TokenAndJournalCommands := by
  refine ⟨?_, ?_, ?_, ?_, ?_, ?_, ?_, ?_, ?_⟩
  · intro q s d u h ht
    refine exec_ran (execLifecycleSet.eq_1 ..) h ?_
    simp only [ht]
  · intro q s d u h ht
    refine exec_ran (execDebugUnlock.eq_1 ..) h ?_
    simp only [ht]
  · intro q s d u r h hl ha cert hc hlen hz ht hr
    refine exec_ran (execAttest.eq_1 ..) h ?_
    have hneed : (if bitOf (d.desc.getD 28 0).toNat 0 = true then u.otp.cert.length else 0) = cert.length := by
      rw [hc]; split <;> rfl
    dsimp only
    rw [attestChecks hl ha (by rw [hneed]; exact hlen) hz, hneed, ← hr, ← hc]
    cases hat : u.mgmt.attestAt with
    | none => rfl
    | some t =>
      dsimp only
      rw [decide_eq_false (Nat.not_lt.mpr (ht t hat))]
      rfl
  · intro q s d u h hk
    refine exec_ran (execJnlConfig.eq_1 ..) h ?_
    simp only [hk]
  · intro q s d u h hst hc
    refine exec_ran (execJnlCompact.eq_1 ..) h ?_
    simp [Nat.not_le.mpr hst, hc]
  · intro q s d u h h16 h18 h18' h20 h20' h21 h21'
    refine exec_ran (execSeesawConfig.eq_1 ..) h ?_
    dsimp only
    rw [decide_eq_false (by omega), decide_eq_false (by omega), decide_eq_false (by omega), decide_eq_false (by omega)]
    rfl
  · intro q s d u h hact hb
    refine exec_ran (execSeesawRelease.eq_1 ..) h ?_
    dsimp only
    generalize (d.desc.getD 16 0).toNat = b at hb ⊢
    rcases hb with rfl | ⟨hp, hs, hc⟩
    · simp [hact]
    · simp [hact, hp, hs, hc]
  · intro q s d u t h hl ha hlen hz ht hsoon
    refine exec_ran (execAttest.eq_1 ..) h ?_
    dsimp only
    rw [attestChecks hl ha (by split <;> omega) hz, ht]
    simp [hsoon]
  · intro q s d u h hact
    refine exec_ran (execSeesawRelease.eq_1 ..) h ?_
    simp [hact]

end Sys2Proof.Proofs.HostCommand
end

section
/-! PROOFS. The host interface: doorbells, rings and their enables, fetches, resets and the link. -/

set_option Elab.async false

namespace Sys2Proof.Proofs.HostInterface

open Sys2Proof Sys2Proof.Machine Sys2Proof.Laws Sys2Proof.Proofs.Frame

/-- What a write to an event ring leaves of every ring: its consumer index and its enable. -/
def sameEnds (g h : Hif) : Prop :=
  ∀ k, (spGet (fun _ => EvRing.reset) h.rings k).ci = (spGet (fun _ => EvRing.reset) g.rings k).ci ∧
    (spGet (fun _ => EvRing.reset) h.rings k).enabled = (spGet (fun _ => EvRing.reset) g.rings k).enabled

theorem sameEnds_of_rings {g h : Hif} (e : h.rings = g.rings) : sameEnds g h := by
  intro k; rw [e]; exact ⟨rfl, rfl⟩

theorem sameEnds_trans {f g h : Hif} (a : sameEnds f g) (b : sameEnds g h) : sameEnds f h :=
  fun k => ⟨(b k).1.trans (a k).1, (b k).2.trans (a k).2⟩

theorem sameEnds_put {g h : Hif} {r : Nat} {x : EvRing}
    (e : h.rings = spSet (fun _ => EvRing.reset) r x g.rings)
    (hc : x.ci = (spGet (fun _ => EvRing.reset) g.rings r).ci)
    (he : x.enabled = (spGet (fun _ => EvRing.reset) g.rings r).enabled) : sameEnds g h := by
  intro k
  rw [e, spGet_spSet]
  split
  · next hk => rw [hk]; exact ⟨hc, he⟩
  · exact ⟨rfl, rfl⟩

theorem msix_rings (s : State) (h : Hif) (fn vec : Nat) : (msix s h fn vec).rings = h.rings := by
  unfold msix; split
  · rfl
  · split <;> rfl

theorem ringWrite_ends (s : State) (h : Hif) (r : Nat) (e : EvRec) (n : Nat) :
    sameEnds h (ringWrite s h r e n) := by
  unfold ringWrite
  dsimp only
  split
  · exact sameEnds_put (msix_rings ..) rfl rfl
  · exact sameEnds_put rfl rfl rfl

theorem ringPut_ends (s : State) (h : Hif) (r : Nat) (e : EvRec) : sameEnds h (ringPut s h r e) := by
  have hb : sameEnds h (bumpSeq h r) := sameEnds_of_rings rfl
  unfold ringPut
  dsimp only
  split
  · exact hb
  · split
    · exact sameEnds_put rfl rfl rfl
    · split
      · exact sameEnds_put (msix_rings ..) rfl rfl
      · exact sameEnds_trans hb (ringWrite_ends _ _ _ _ _)

/-- What dropped records leave behind once there is room keeps index and enable of every ring. -/
theorem flushDrops_ends (r k : Nat) (s : State) :
    (ring (flushDrops r s) k).ci = (ring s k).ci ∧ (ring (flushDrops r s) k).enabled = (ring s k).enabled := by
  unfold flushDrops
  dsimp only
  split
  · exact ⟨rfl, rfl⟩
  · have h0 : sameEnds s.hif (setRing r { ring s r with dropped := 0 } s).hif := sameEnds_put rfl rfl rfl
    exact sameEnds_trans h0 (ringPut_ends _ _ _ _) k

theorem queue_of_only {ps : List Part} {s t : State} (h : Only ps s t) (hp : Part.queues ∉ ps) (q : Nat) :
    queue t q = queue s q := by
  unfold queue; rw [(h.same .queues hp).1]

theorem cfg_of_only {ps : List Part} {s t : State} (h : Only ps s t) (hp : Part.regs ∉ ps) (o : Nat) :
    cfg t o = cfg s o := by
  unfold cfg; rw [h.same .regs hp]

theorem queue_flushDrops (r q : Nat) (s : State) : queue (flushDrops r s) q = queue s q :=
  queue_of_only (flushDrops_only ..) (by decide) q

/-- A doorbell by the function of an enabled ring with an index in range moves it, or finds it there. -/
theorem doorbell_served {b : Bell} {f : Nat} {v : Word} {move : Nat → State → State} {range : State → State}
    {s : State} (he : b.enabled = true) (hf : b.fn = f) (hi : v.toNat % 65536 < b.size) :
    doorbell b f v move range s = if v.toNat % 65536 = b.index then s else move (v.toNat % 65536) s := by
  unfold doorbell
  rw [if_neg (by simp [he, hf]), if_neg (Nat.not_le.mpr hi)]

theorem doorbell_refused {b : Bell} {f : Nat} {v : Word} {move : Nat → State → State} {range : State → State}
    {s : State} (h : b.enabled = false ∨ b.fn ≠ f) : doorbell b f v move range s = count 0x50010 s := by
  unfold doorbell
  rw [if_pos (by rcases h with h | h <;> simp [h])]

theorem doorbell_range {b : Bell} {f : Nat} {v : Word} {move : Nat → State → State} {range : State → State}
    {s : State} (he : b.enabled = true) (hf : b.fn = f) (hi : b.size ≤ v.toNat % 65536) :
    doorbell b f v move range s = range (count 0x50010 s) := by
  unfold doorbell
  rw [if_neg (by simp [he, hf]), if_pos hi]

theorem exec_sqPiDoorbell {f q : Nat} {v : Word} {s t : State} (hl : linkUp s = true) (hq : okQueue q = true)
    (h : doorbell ⟨(queue s q).enabled, qFunction s q, sqSize s q, (queue s q).pi⟩ f v
      (fun i s => setQueue q { queue s q with pi := i } s) (queueRange q) s = t) :
    exec (.sqPiDoorbell f q v) s = .next t := by
  show execSqPiDoorbell .. = _
  rw [execSqPiDoorbell, if_neg (by simp [hl, hq])]
  exact congrArg Host.Outcome.next h

theorem exec_cqCiDoorbell {f q : Nat} {v : Word} {s t : State} (hl : linkUp s = true) (hq : okQueue q = true)
    (h : doorbell ⟨(queue s q).enabled, qFunction s q, cqSize s q, (queue s q).cci⟩ f v
      (fun i s => setQueue q { queue s q with cci := i } s) (queueRange q) s = t) :
    exec (.cqCiDoorbell f q v) s = .next t := by
  show execCqCiDoorbell .. = _
  rw [execCqCiDoorbell, if_neg (by simp [hl, hq])]
  exact congrArg Host.Outcome.next h

theorem exec_eqCiDoorbell {f r : Nat} {v : Word} {s t : State} (hl : linkUp s = true) (hr : okRing r = true)
    (h : doorbell ⟨(ring s r).enabled, rFunction s r, ringSize s r, (ring s r).ci⟩ f v
      (fun i s => flushDrops r (setRing r { ring s r with ci := i } s))
      (fun s => if (ring s r).error then s else ringError r 1 s) s = t) :
    exec (.eqCiDoorbell f r v) s = .next t := by
  show execEqCiDoorbell .. = _
  rw [execEqCiDoorbell, if_neg (by simp [hl, hr])]
  exact congrArg Host.Outcome.next h

/-- Settles O26, by the three ends of a doorbell. -/
theorem doorbells : Obligations.Doorbells := by
  refine ⟨?_, ?_, ?_, ?_, ?_, ?_, ?_⟩
  · intro f q v s hl hq he hf hi
    refine ⟨_, exec_sqPiDoorbell hl hq (doorbell_served he hf hi), ?_⟩
    dsimp only
    split
    · next h => exact ⟨h.symm, fun _ _ => rfl, Only.refl ..⟩
    · exact ⟨by simp, fun r hr => by simp [hr], setQueue_only ..⟩
  · intro f q v s hl hq he hf hi
    refine ⟨_, exec_cqCiDoorbell hl hq (doorbell_served he hf hi), ?_⟩
    dsimp only
    split
    · next h => exact ⟨h.symm, fun _ _ => rfl, Only.refl ..⟩
    · exact ⟨by simp, fun r hr => by simp [hr], setQueue_only ..⟩
  · intro f r v s hl hr he hf hi
    refine ⟨_, exec_eqCiDoorbell hl hr (doorbell_served he hf hi), ?_⟩
    dsimp only
    split
    · next h => exact ⟨h.symm, fun _ => rfl⟩
    · exact ⟨by rw [(flushDrops_ends ..).1]; simp, fun q => by rw [queue_flushDrops]; rfl⟩
  · intro f q v s hl hq h
    exact ⟨exec_sqPiDoorbell hl hq (doorbell_refused h), exec_cqCiDoorbell hl hq (doorbell_refused h)⟩
  · intro f r v s hl hr h
    exact exec_eqCiDoorbell hl hr (doorbell_refused h)
  · intro f q v s hl hq he hf
    exact ⟨fun hi => exec_sqPiDoorbell hl hq (doorbell_range he hf hi),
      fun hi => exec_cqCiDoorbell hl hq (doorbell_range he hf hi)⟩
  · intro f r v s hl hr he hf hi
    exact exec_eqCiDoorbell hl hr (doorbell_range he hf hi)

theorem setQcfg_cfg (q : Nat) (v : Word) (s : State) : cfg (setQcfg q v s) (0x51010 + 0x40 * q) = v := by
  have h : cfg (setReg (0x51010 + 0x40 * q) v s) (0x51010 + 0x40 * q) = v := by simp
  unfold setQcfg
  dsimp only
  split
  · exact h
  · exact h

theorem setQcfg_other {q r : Nat} (v : Word) (s : State) (h : r ≠ q) : queue (setQcfg q v s) r = queue s r := by
  unfold setQcfg
  dsimp only
  split
  · simp only [queue_setQueue, if_neg h]; rfl
  · rfl

theorem openQueue_cfg (q o : Nat) (s : State) : cfg (openQueue q s) o = cfg s o := rfl

/-- Masking with the writable bits of EQCFG keeps ENABLE. -/
theorem eqcfg_enable (v : Word) : (v &&& 0xFFFF8000).getLsbD 31 = v.getLsbD 31 := by simp

theorem exec_queueEnable {q : Nat} {v : Word} {s t : State} (hq : okQueue q = true) (hl : linkUp s = true)
    (hv : v.getLsbD 31 = true) (h : writeQcfg q v s = t) : exec (.queueEnable q v) s = .next t := by
  show execQueueEnable .. = _
  rw [execQueueEnable, if_pos (by rw [hq, hl, hv]; rfl), h]

theorem exec_queueDisable {q : Nat} {v : Word} {s t : State} (hq : okQueue q = true) (hl : linkUp s = true)
    (hv : v.getLsbD 31 = false) (h : writeQcfg q v s = t) : exec (.queueDisable q v) s = .next t := by
  show execQueueDisable .. = _
  rw [execQueueDisable, if_pos (by rw [hq, hl, hv]; rfl), h]

theorem exec_eqEnable {r : Nat} {v : Word} {s t : State} (hr : okRing r = true) (hl : linkUp s = true)
    (hv : v.getLsbD 31 = true) (h : writeEqcfg r v s = t) : exec (.eqEnable r v) s = .next t := by
  show execEqEnable .. = _
  rw [execEqEnable, if_pos (by rw [hr, hl, hv]; rfl), h]

theorem exec_eqDisable {r : Nat} {v : Word} {s t : State} (hr : okRing r = true) (hl : linkUp s = true)
    (hv : v.getLsbD 31 = false) (h : writeEqcfg r v s = t) : exec (.eqDisable r v) s = .next t := by
  show execEqDisable .. = _
  rw [execEqDisable, if_pos (by rw [hr, hl, hv]; rfl), h]

/-- Enabling a ring that is off starts it, with the records dropped until then written first. -/
theorem writeEqcfg_start {r : Nat} {v : Word} {s : State} (hv : v.getLsbD 31 = true)
    (hc : bitOf (eqcfg s r) 31 = false) (he : (ring s r).enabled = false)
    (h1 : logOk (bitsOf (v &&& 0xFFFF8000).toNat 26 22) = true) : ∃ x : EvRing, x.enabled = true ∧ x.ci = 0 ∧
    writeEqcfg r v s = flushDrops r (setRing r x (setReg (0x56008 + 0x20 * r) (v &&& 0xFFFF8000) s)) := by
  unfold writeEqcfg
  dsimp only
  rw [if_neg (by rw [hc]; decide), if_neg (by rw [eqcfg_enable, hv]; decide), if_neg (by rw [he, h1]; decide)]
  exact ⟨_, rfl, rfl, rfl⟩

/-- Settles O27, by the branches of the two configuration writes. -/
theorem ringEnables : Obligations.RingEnables := by
  refine ⟨?_, ?_, ?_, ?_, ?_, ?_, ?_, ?_⟩
  · intro q v s hq hl hv hc he h1 h2
    have hw : writeQcfg q v s = openQueue q (setQcfg q v s) := by
      rw [writeQcfg, hc, hv, he, h1, h2]; rfl
    refine ⟨_, exec_queueEnable hq hl hv hw, by rw [openQueue_cfg, setQcfg_cfg], ?_⟩
    simp only [openQueue, queue_setQueue, if_true, true_and]
    intro r hr
    rw [if_neg hr, setQcfg_other _ _ hr]
  · intro q v s hq hl hv hc
    exact exec_queueDisable hq hl hv (by rw [writeQcfg, hc, hv]; rfl)
  · intro r v s hr hl hv hc he h1
    obtain ⟨x, hxe, hxc, hw⟩ := writeEqcfg_start hv hc he h1
    refine ⟨_, exec_eqEnable hr hl hv hw, ?_, ?_, ?_⟩
    · rw [cfg_of_only (flushDrops_only ..) (by decide)]
      show cfg (setReg ..) _ = _
      simp
    · rw [(flushDrops_ends ..).2]; simp [hxe]
    · rw [(flushDrops_ends ..).1]; simp [hxc]
  · intro r v s hr hl hv hc
    have hw : writeEqcfg r v s = setRing r { ring s r with enabled := false }
        (setReg (0x56008 + 0x20 * r) (cfg s (0x56008 + 0x20 * r) &&& 0x7FFFFFFF) s) := by
      unfold writeEqcfg
      dsimp only
      rw [if_pos hc, if_neg (by rw [eqcfg_enable, hv]; decide)]
    refine ⟨_, exec_eqDisable hr hl hv hw, ?_, by simp, by simp, by simp, ?_⟩
    · show cfg (setReg ..) _ = _
      simp
    · exact Only.then (Only.then (Only.refl _ _) (setReg_only ..)) (setRing_only ..)
  · intro q v s hq hl hv h
    refine exec_queueEnable hq hl hv ?_
    rw [writeQcfg, hv]
    split
    · rfl
    · next hc =>
      rcases h with h | h | h
      · exact absurd h hc
      · simp [h]
      · simp [h]
  · intro r v s hr hl hv h
    refine exec_eqEnable hr hl hv ?_
    unfold writeEqcfg
    dsimp only
    rw [eqcfg_enable, hv]
    split
    · rfl
    · next hc =>
      rcases h with h | h
      · exact absurd h hc
      · rw [h]; simp
  · intro q v s hq hl hv hc
    exact exec_queueDisable hq hl hv (by rw [writeQcfg, hc, hv]; rfl)
  · intro r v s hr hl hv hc
    refine exec_eqDisable hr hl hv ?_
    unfold writeEqcfg
    dsimp only
    rw [eqcfg_enable, hv, hc]
    rfl

/-- Settles O28, by the guards of each event. -/
theorem hostEvents : Obligations.HostEvents := by
  refine ⟨?_, ?_, ?_, ?_, ?_, ?_, ?_, ?_, ?_, ?_, ?_⟩
  · intro q ds s hl hs hn hd
    show execDescriptorFetch .. = _
    rw [execDescriptorFetch]
    simp [hl, hs, hn]
    intro h; exact absurd (by simp [h]) hd
  · intro n s h0 h1 h2
    show execInterruptTimerExpiry .. = _
    rw [execInterruptTimerExpiry, if_pos rfl]
    dsimp only
    rw [if_neg (by omega)]
    simp [onlyIf]
  · intro n s h0 h1 h2
    show execInterruptTimerExpiry .. = _
    rw [execInterruptTimerExpiry, if_neg (by decide)]
    dsimp only
    rw [if_neg (by omega)]
    simp [onlyIf]
  · intro f s hl
    show execFunctionLevelReset .. = _
    rw [execFunctionLevelReset, if_pos hl]
  · intro s hp
    show execPerstNAssert .. = _
    rw [execPerstNAssert, if_neg (by simp [hp])]
  · intro s hp
    have hx : execPerstNDeassert s = .next _ := if_neg (by simp [hp])
    exact ⟨_, hx, rfl, rfl, rfl, only_of_exec (c := .perstNDeassert) hx⟩
  · intro sp w fl s h1 h2 h3 hk
    have hx : execPcieLinkChange true sp w fl s = .next _ :=
      (if_neg (by simp [h1, h2, h3, hk])).trans (if_pos rfl)
    exact ⟨_, hx, rfl, rfl, rfl, rfl, rfl, rfl, rfl, only_of_exec (c := .pcieLinkChange true sp w fl) hx⟩
  · intro sp w fl s hk
    show execPcieLinkChange .. = _
    rw [execPcieLinkChange, if_pos (by simp [hk])]
  · intro sp w fl s h1 h2 h3
    have hx : execPcieLinkChange false sp w fl s = .next _ :=
      (if_neg (by simp [h1, h2, h3])).trans (if_neg (by decide))
    exact ⟨_, hx, rfl, rfl, rfl, only_of_exec (c := .pcieLinkChange false sp w fl) hx⟩
  · intro q ds s hl hs hn hd
    show execDescriptorFetch .. = _
    rw [execDescriptorFetch]
    simp [hl, hs, hn]
    intro h; exact absurd (by simp [h]) hd
  · intro q ds s hn
    show execDescriptorFetch .. = _
    rw [execDescriptorFetch]
    simp [hn]

/-- Settles O29, by the guards of the three writes. -/
theorem resetWrites : Obligations.ResetWrites := by
  refine ⟨?_, ?_, ?_, ?_, ?_, ?_, ?_, ?_⟩
  · intro b s hl hs
    exact (if_neg (by simp [hl])).trans (if_neg (by simp [hs]))
  · intro fs s hl hs h4 hc
    exact (if_neg (by simp [hl])).trans ((if_neg (by simp [hs, h4])).trans (if_neg (by simp [hc])))
  · intro s hl hs
    exact (if_neg (by simp [hl])).trans ((if_neg (by simp)).trans (if_neg (by simp [hs])))
  · intro v b s hl hv
    exact (if_neg (by simp [hl])).trans (if_pos (.inl hv))
  · intro v fs s hl hv
    exact (if_neg (by simp [hl])).trans (if_pos (.inl hv))
  · intro v s hl hv
    exact (if_neg (by simp [hl])).trans (if_pos hv)
  · intro fs s hl hs h4 hc
    exact (if_neg (by simp [hl])).trans ((if_neg (by simp [hs, h4])).trans (if_pos (by simp [hc])))
  · intro v fs s hl h4
    exact (if_neg (by simp [hl])).trans (if_pos (.inr (.inr h4)))

end Sys2Proof.Proofs.HostInterface
end

section
/-! PROOFS. The register accesses, the sideband, JTAG and the state after reset. -/

set_option Elab.async false

namespace Sys2Proof.Proofs.Access

open Sys2Proof Sys2Proof.Machine Sys2Proof.Laws Sys2Proof.Proofs.Frame Sys2Proof.Proofs.HostInterface

/-- Settles O30, by the guards of the three writes. -/
theorem lockAndInject : Obligations.LockAndInject := by
  refine ⟨?_, ?_, ?_⟩
  · intro v s hl
    have hx : execLockSet v s = .next _ := if_pos hl
    exact ⟨_, hx, by simp [setLock], fun o ho => by simp [setLock, ho], setReg_only ..⟩
  · intro v s hk hr
    have hx : execCoreInjectArm v s = .next _ := if_neg (by simp [locked, hk, hr])
    exact ⟨_, hx, by simp, fun o ho => by simp [ho], setReg_only ..⟩
  · intro v s hl hk hp
    have hx : execSecInjectArm v s = .next _ := if_neg (by simp only [hl, hk, hp]; decide)
    exact ⟨_, hx, by simp, fun o ho => by simp [ho], setReg_only ..⟩

/-- A card with only bank 127 configured: the host's window owns it. -/
def windowBank : State := setBank 127 { Bank.reset with owner := 2 } State.reset

/-- The state after the one access that a write through the window makes (11_engines_banks.md). -/
def afterWindowWrite (o n : Nat) (v : DWord) (e : Nat) (s : State) : State :=
  accessStep [⟨true, false, 2, false, o / 0x40000, o % 0x40000, .write (decide (n = 8)) v, e⟩]
    { s with bank := { s.bank with answers := [] } }

/-- A window write whose word cannot be corrected draws a free value, though it returns none. -/
theorem exec_windowWrite_uncorrectable {o n e : Nat} {v : DWord} {s : State} (ho : o < 0x2000000)
    (hn : n = 4 ∨ n = 8) (ha : (afterWindowWrite o n v e s).bank.answers.map (·.2) = [.eccUncorr]) :
    exec (.bankWindowAccess o n ⟨some v, e⟩) s = .next (draw (afterWindowWrite o n v e s)).2 := by
  have hx : execBankWindowAccess o n ⟨some v, e⟩ s = _ := if_neg (by omega)
  dsimp only at hx
  refine hx.trans ?_
  rw [← afterWindowWrite]
  obtain ⟨⟨r, x⟩, hr, hxe⟩ := List.map_eq_singleton_iff.mp ha
  rw [hr]
  dsimp only at hxe
  subst hxe
  rfl

theorem narrowWrite_uncorrectable :
    (afterWindowWrite 0x1FC0000 4 0 2 windowBank).bank.answers.map (·.2) = [.eccUncorr] := by decide +kernel

/-- Refutes O36: a write of 4 bytes through the window reads its word first, and when that meets an
uncorrectable error the next free value is drawn as for a read, so the state is not that of the access alone. -/
theorem not_refusedAndWindow : ¬ Obligations.RefusedAndWindow := by
  unfold Obligations.RefusedAndWindow
  rintro ⟨-, -, h⟩
  have hw : exec (.bankWindowAccess 0x1FC0000 4 ⟨some 0, 2⟩) windowBank =
      .next (afterWindowWrite 0x1FC0000 4 0 2 windowBank) := h _ _ _ _ _ (by decide) (.inl rfl)
  rw [exec_windowWrite_uncorrectable (by decide) (.inl rfl) narrowWrite_uncorrectable] at hw
  generalize afterWindowWrite 0x1FC0000 4 0 2 windowBank = u at hw
  exact Nat.succ_ne_self u.free (congrArg State.free (Host.Outcome.next.inj hw))

theorem smbReply_served {bs : Bytes} {s : State} (h : smbServed s = true) : (smbReply bs s).smb.reply = bs := by
  simp [smbReply, h]

theorem smbReply_unserved {bs : Bytes} {s : State} (h : smbServed s = false) : (smbReply bs s).smb.reply = [] := by
  simp [smbReply, h]

/-- An SMBus read answers its bytes and changes nothing but the sideband. -/
theorem does_reply {c : Instr} {bs : Bytes} {s : State} (hx : exec c s = .next (smbReply bs s))
    (h : smbServed s = true) : Does c s fun t => t.smb.reply = bs ∧ Only [.smb] s t :=
  ⟨_, hx, smbReply_served h, smbReply_only ..⟩

/-- Without VIN an SMBus read answers nothing. -/
theorem does_silence {c : Instr} {bs : Bytes} {s : State} (hx : exec c s = .next (smbReply bs s))
    (h : smbServed s = false) : Does c s fun t => t.smb.reply = [] ∧ Only [.smb] s t :=
  ⟨_, hx, smbReply_unserved h, smbReply_only ..⟩

/-- With VIN good an instruction selects its register and takes the balls as it says; nothing else changes. -/
theorem does_jtagLoad {c : Instr} {ir : JInstr} {dr : List Bool} {s : State}
    (hx : exec c s = .next (jtagLoad ir dr s)) (h : s.pwr.vin = true) : Does c s fun t =>
      t.jtag.ir = ir ∧ t.jtag.dr = dr ∧ t.jtag.bsr = s.jtag.bsr ∧ t.jtag.balls = ballsUnder ir s.jtag.bsr ∧
      Only [.jtag] s t :=
  ⟨_, hx, by simp [jtagLoad, h], by simp [jtagLoad, h], by simp [jtagLoad, h], by simp [jtagLoad, h],
    jtagLoad_only ..⟩

/-- Settles O37: each read answers through the one reply and each instruction through the one load. -/
theorem sideband : Obligations.Sideband := by
  refine ⟨?_, fun s h => does_reply rfl h, ?_, fun s h => ⟨does_reply rfl h, does_reply rfl h, does_reply rfl h,
    does_reply rfl h, does_reply rfl h⟩, fun s h => does_reply rfl h, fun s h => does_reply rfl h,
    fun s h => does_reply rfl h, ?_, fun s h => does_reply rfl h, ?_, ?_, fun s h => ⟨does_jtagLoad rfl h,
    does_jtagLoad rfl h, does_jtagLoad rfl h⟩, ?_, ?_, fun s h => does_jtagLoad rfl h, ?_, ?_⟩
  · intro s h
    refine does_reply (congrArg Host.Outcome.next (congrArg (smbReply · s) ?_)) h
    cases s.ssw.side <;> rfl
  · intro s h
    refine does_reply (congrArg Host.Outcome.next (congrArg (smbReply · s) ?_)) h
    congr 2
    simp [fieldsOf]
    omega
  · intro v s h
    have hx : execSmbEventAck v s = .next _ := if_pos h
    exact ⟨_, hx, rfl, rfl, rfl, rfl, only_of_exec (c := .smbEventAck v) hx⟩
  · intro c s h hc
    simp only [List.mem_cons, List.not_mem_nil, or_false] at hc
    rcases hc with rfl | rfl | rfl | rfl | rfl | rfl | rfl | rfl | rfl | rfl | rfl | rfl <;> exact does_silence rfl h
  · intro v s h
    exact if_neg (by simp [h])
  · intro s h
    obtain ⟨t, hx, h1, h2, h3, h4, h5⟩ := does_jtagLoad (c := .jtagIdcode) rfl h
    exact ⟨t, hx, h1, by rw [h2]; rfl, by rw [h2]; decide, h3, h4, h5⟩
  · intro d s h
    have hx : exec (.jtagSamplePreload d) s = _ := congrArg Host.Outcome.next (if_pos h)
    exact ⟨_, hx, by simp [jtagLoad, h], by simp [jtagLoad, h], by simp [jtagLoad, h], by simp [jtagLoad, h, ballsUnder],
      only_of_exec hx⟩
  · intro s h
    have hx : exec .dbgAccess s = _ := congrArg Host.Outcome.next (if_pos h)
    exact ⟨_, hx, rfl, rfl, rfl, rfl, only_of_exec hx⟩
  · intro c s h hc
    simp only [List.mem_cons, List.not_mem_nil, or_false] at hc
    rcases hc with (rfl | rfl | rfl | rfl | rfl | rfl) | ⟨d, rfl⟩ <;>
      exact congrArg Host.Outcome.next (if_neg (by simp [h]))

/-- A lane register at offset 0 or 8 has its value at reset. -/
theorem resetOf_lane {l : Nat} (h : l < 256) :
    resetOf (laneBase l) = 0x32 ∧ resetOf (laneBase l + 8) = 0x00C80000 := by
  rw [laneBase, if_pos h]
  unfold resetOf
  constructor
  · rw [if_neg (by omega), if_neg (by omega), if_pos (by omega), if_pos (by omega)]
  · rw [if_neg (by omega), if_neg (by omega), if_pos (by omega), if_neg (by omega), if_pos (by omega)]

/-- Settles O39: the state after reset lists nothing, and the registers read their reset values. -/
theorem resetState : Obligations.ResetState := by
  refine ⟨rfl, rfl, rfl, rfl, rfl, rfl, rfl, rfl, rfl, rfl, rfl, rfl, rfl, fun _ => rfl, fun _ => ⟨rfl, rfl⟩,
    fun _ => rfl, fun _ => rfl, fun _ => rfl, fun _ => rfl, fun _ => ⟨rfl, rfl⟩, fun _ => rfl, fun _ => rfl,
    fun _ => rfl, rfl, rfl, rfl, rfl, ?_, fun l hl => resetOf_lane hl⟩
  show ∀ p, p < 8 → resetOf (portBase p) = 0x600 ∧ resetOf (portBase p + 8) = 0x01000181
  decide

end Sys2Proof.Proofs.Access
end

section
/-! PROOFS. Reads of registers and writes of the performance counters. -/

set_option Elab.async false

namespace Sys2Proof.Proofs.Access

open Sys2Proof Sys2Proof.Machine Sys2Proof.Laws Sys2Proof.Proofs.Frame Sys2Proof.Proofs.HostInterface
  Sys2Proof.Proofs.Registers

theorem onlyIf_true (f : State → State) (s : State) : onlyIf true f s = f s := rfl

theorem onlyIf_false (f : State → State) (s : State) : onlyIf false f s = s := rfl

theorem caughtUp_only (o : Nat) (s : State) : Only [.eng, .perf] s (caughtUp o s) :=
  Only.cond (Only.refl ..) fun _ h => Only.then h (perfCatch_only ..)

theorem linkUp_of_only {ps : List Part} {s t : State} (h : Only ps s t) (hp : Part.link ∉ ps) :
    linkUp t = linkUp s := by
  have e := h.same .link hp
  simp only [Part.same, linkOf, Prod.mk.injEq] at e
  obtain ⟨⟨hr, hl, -⟩, -⟩ := e
  rw [linkUp, linkUp, hr, hl]

theorem blockOn_of_only {ps : List Part} {s t : State} (h : Only ps s t) (hp : Part.pwr ∉ ps) (o : Nat) :
    blockOn t o = blockOn s o := by
  unfold blockOn
  rw [h.same .pwr hp]

theorem reach_of_only {ps : List Part} {s t : State} (h : Only ps s t) (hl : Part.link ∉ ps) (hp : Part.pwr ∉ ps)
    (o : Nat) : reach t o = reach s o := by
  rw [reach, reach, linkUp_of_only h hl, blockOn_of_only h hp]

theorem rcGet_of_only {ps : List Part} {s t : State} (h : Only ps s t) (hp : Part.rc ∉ ps) (o : Nat) :
    rcGet t o = rcGet s o := by
  unfold rcGet; rw [h.same .rc hp]

theorem port_of_only {ps : List Part} {s t : State} (h : Only ps s t) (hp : Part.ports ∉ ps) (p : Nat) :
    port t p = port s p := by
  unfold port; rw [h.same .ports hp]

/-- A read of a 32-bit word answers it and clears what clears on read. -/
theorem hostRead_word {o : Nat} {s : State} (hl : linkUp s = true) (ho : okOffset o = true)
    (h64 : isReg64 o = false) (hne : o ≠ 0x30030) : hostRead o s = onBus (readWord (caughtUp o s) o).toNat
      (onlyIf (isRc o && blockOn s o) (clearRc o) (caughtUp o s)) := by
  unfold hostRead
  dsimp only
  rw [linkUp_of_only (caughtUp_only ..) (by decide), blockOn_of_only (caughtUp_only ..) (by decide), hl, ho, h64,
    if_neg (by decide), if_neg hne]
  rfl

theorem hostRead_long {o : Nat} {s : State} (hl : linkUp s = true) (ho : okOffset o = true)
    (h64 : isReg64 o = true) (hne : o ≠ 0x30030) : hostRead o s = readLow o (caughtUp o s) := by
  unfold hostRead
  dsimp only
  rw [linkUp_of_only (caughtUp_only ..) (by decide), hl, ho, h64, if_neg (by decide), if_neg hne]
  rfl

theorem clearRc_plain {o : Nat} {s : State} (h : ∀ p, portAt o ≠ some (p, 0x14)) :
    clearRc o s = rcSet o (clearedBy o (rcGet s o)) s := by
  unfold clearRc
  split
  · next p e => exact absurd e (h p)
  · rfl

theorem clearRc_range {o p : Nat} {s : State} (h : portAt o = some (p, 0x14)) :
    clearRc o s = setPort p { port s p with bind := { (port s p).bind with range := none } } s := by
  unfold clearRc
  rw [h]
  rfl

theorem rc64_readLow {o : Nat} {s : State} (k : Nat) : spGet (fun _ => (0 : DWord)) (readLow o s).rc64 k =
    if isRc64 o = true ∧ blockOn s o = true ∧ k = o then 0 else spGet (fun _ => (0 : DWord)) s.rc64 k := by
  have hk : ∀ u, blockOn { s with latch := u } o = blockOn s o := fun _ => rfl
  unfold readLow onBus onlyIf
  dsimp only
  rw [hk]
  cases h1 : isRc64 o <;> cases h2 : blockOn s o
  · rfl
  · rfl
  · rfl
  · simp only [Bool.and_self, if_true, spGet_spSet, true_and]

theorem rc64_readLow_other {o k : Nat} (s : State) (h : k ≠ o) :
    spGet (fun _ => (0 : DWord)) (readLow o s).rc64 k = spGet (fun _ => (0 : DWord)) s.rc64 k := by
  rw [rc64_readLow, if_neg fun e => h e.2.2]

theorem latch_readLow (o : Nat) (s : State) :
    spGet (fun _ => none) (readLow o s).latch o = some (BitVec.ofNat 32 (value64 s o / 2 ^ 32)) := by
  have h : (readLow o s).latch =
      spSet (fun _ => none) o (some (BitVec.ofNat 32 (value64 s o / 2 ^ 32))) s.latch := by
    unfold readLow onBus onlyIf
    dsimp only
    split <;> rfl
  rw [h, spGet_spSet, if_pos rfl]

/-- The register of the range of skew of a port is a 32-bit word, and no high word stands there. -/
theorem range_register {o p : Nat} (h : portAt o = some (p, 0x14)) :
    o = 0x100000 + p * 0x10000 + 0x14 ∧ p < 9 := by
  unfold portAt at h
  split at h
  · simp only [Option.some.injEq, Prod.mk.injEq] at h
    omega
  · cases h

theorem not_isReg64_range {p : Nat} (h : p < 9) : isReg64 (0x100000 + p * 0x10000 + 0x14 - 4) = false := by
  revert p; decide

theorem readWord_range {o p : Nat} {s : State} (hp : portAt o = some (p, 0x14)) (h64 : isReg64 o = false)
    (hrc : isRc o = true) (hb : blockOn s o = true) :
    readWord s o = BitVec.ofNat 32 (portWord s p 0x14) := by
  obtain ⟨ho, hp9⟩ := range_register hp
  have hlow : isReg64 (o - 4) = false := by rw [ho]; exact not_isReg64_range hp9
  unfold readWord
  rw [h64, hlow, Bool.and_false, hb, hrc, hp]
  rfl

theorem value64_tod (s : State) : value64 (latchTod s) 0x30030 = s.timing.sec % 2 ^ 64 := rfl

theorem hostRead_tod {s : State} (hl : linkUp s = true) :
    hostRead 0x30030 s = readLow 0x30030 (latchTod s) := by
  unfold hostRead
  dsimp only
  rw [caughtUp_below_perf (by decide), hl]
  rfl

/-- A read of the time of day returns the low word of the seconds of the last edge and latches that edge. -/
theorem does_todRead {c : Instr} {s : State} (hc : exec c s = .next (readLow 0x30030 (latchTod s))) :
    Does c s fun t => t.hif.readData = BitVec.ofNat 64 (s.timing.sec % 2 ^ 32) ∧ t.timing.latSec = s.timing.sec ∧
      t.timing.latNs = s.timing.ns ∧ t.timing.latTick = s.tick ∧ Only [.latch, .timing, .bus] s t := by
  refine ⟨_, hc, ?_, rfl, rfl, rfl, ?_⟩
  · show BitVec.ofNat 64 (value64 (latchTod s) 0x30030 % 2 ^ 32) = _
    rw [value64_tod, Nat.mod_mod_of_dvd _ (by decide)]
  · exact Only.upd67 (Only.refl ..)

/-- Settles O33, by the kinds of registers that a read can meet. -/
theorem registerReads : Obligations.RegisterReads := by
  refine ⟨?_, ?_, ?_, ?_, ?_⟩
  · intro o s hl ho h64 hne
    refine ⟨_, exec_regReadClear_bar0 hl ho, ?_⟩
    rw [hostRead_word hl ho h64 hne]
    refine ⟨rfl, fun hrc hb hp => ?_, ?_, fun hrc => ?_⟩
    · rw [hrc, hb, Bool.and_self, onlyIf_true, clearRc_plain hp]
      have hs : ∀ k, rcGet (caughtUp o s) k = rcGet s k := rcGet_of_only (caughtUp_only ..) (by decide)
      refine ⟨?_, fun k hk => ?_⟩
      · show rcGet (rcSet ..) _ = _
        rw [rcGet_rcSet, if_pos rfl, hs]
      · show rcGet (rcSet ..) _ = _
        rw [rcGet_rcSet, if_neg hk, hs]
    · show (onlyIf ..).perf = _
      unfold onlyIf
      split
      · exact (clearRc_only o (caughtUp o s)).same .perf (by decide)
      · rfl
    · rw [hrc]
      exact Only.then (Only.mono (caughtUp_only ..)) (onBus_only ..)
  · intro o s c hl ho h64 hne hc
    have hx : exec c s = .next (readLow o (caughtUp o s)) := by
      rw [← hostRead_long hl ho h64 hne]
      simp only [List.mem_cons, List.not_mem_nil, or_false] at hc
      rcases hc with rfl | rfl
      · exact if_pos h64
      · exact exec_regReadClear_bar0 hl ho
    have hs : ∀ k, spGet (fun _ => (0 : DWord)) (caughtUp o s).rc64 k = spGet (fun _ => (0 : DWord)) s.rc64 k := by
      rw [(caughtUp_only o s).same .rc64 (by decide)]; exact fun _ => rfl
    refine ⟨_, hx, rfl, latch_readLow .., (readLow_only ..).same .perf (by decide), fun h1 h2 => ?_, fun k hk => ?_,
      Only.then (Only.mono (caughtUp_only ..)) (readLow_only ..)⟩
    · rw [rc64_readLow, if_pos ⟨h1, by rw [blockOn_of_only (caughtUp_only ..) (by decide), h2], rfl⟩]
    · rw [rc64_readLow_other _ hk, hs]
  · intro s c hl hc
    simp only [List.mem_cons, List.not_mem_nil, or_false] at hc
    rcases hc with rfl | rfl
    · have hx : execTodSecRead s = .next _ := if_neg (by simp [hl])
      exact ⟨_, hx, rfl, rfl, rfl, rfl, only_of_exec (c := .todSecRead) hx⟩
    · exact does_todRead (by rw [exec_regReadClear_bar0 hl rfl, hostRead_tod hl])
  · intro o p s hl ho h64 hp hrc hb
    obtain ⟨hop, hp9⟩ := range_register hp
    have hcu : caughtUp o s = s := caughtUp_below_perf (by omega)
    refine ⟨_, exec_regReadClear_bar0 hl ho, ?_⟩
    rw [hostRead_word hl ho h64 (by omega), hcu, hrc, hb, Bool.and_self, onlyIf_true, clearRc_range hp,
      readWord_range hp h64 hrc hb]
    refine ⟨?_, ?_, fun r hr => ?_⟩
    · show BitVec.ofNat 64 (BitVec.ofNat 32 (portWord s p 0x14)).toNat = _
      rw [BitVec.toNat_ofNat]
    · show (port (setPort ..) p).bind.range = none
      rw [port_setPort, if_pos rfl]
    · show port (setPort ..) r = _
      rw [port_setPort, if_neg hr]
  · intro f o s hl hf ho h4
    have h4' : (o % 4 == 0) = true := by simp [h4]
    have hx : ∀ w, okWindow w o = true → exec (.regReadClear ⟨w, o⟩) s = (match w with
        | .bar0 => .next (hostRead o s)
        | .vf f => .next (onBus (vfRead s f o) s)
        | .bar2 _ => .next (onBus 0 s)
        | .config f => .next (onBus (pciIdentity s f o) s)
        | .vfMsix f => .next (onBus (vfMsixWord s f o) s)) := by
      intro w hw
      have hx : execRegReadClear ⟨w, o⟩ s = _ := if_neg (by simp only [hl, hw]; decide)
      exact hx
    refine ⟨fun h0 => hx (.vf f) ?_, hx (.bar2 f) ?_, hx (.config f) ?_, fun h0 => hx (.vfMsix f) ?_⟩
    all_goals
      simp only [okWindow, h4', Bool.and_true, Bool.and_eq_true, decide_eq_true_eq]
      omega

theorem reach_perfThrough (o : Nat) (s : State) : reach (perfThrough s) o = reach s o :=
  reach_of_only (perfThrough_only ..) (by decide) (by decide) o

/-- A counter write acts on the counters caught up to the end of the cycle. -/
theorem perfCounterWrite_low {off i : Nat} {v : Word} {s : State} (hr : reach s off = true)
    (hi : perfCounterAt off = some i) : exec (.perfCounterWrite off v) s =
    .next { perfThrough s with held := spSet (fun _ => (0 : Word)) off v (perfThrough s).held } := by
  have hx : execPerfCounterWrite off v s = _ := if_neg (by simp [reach_perfThrough, hr])
  refine hx.trans ?_
  rw [hi]

/-- The state with the counters' values `cnt`, and `wrote` as what was written in this cycle. -/
def putCounts (cnt : List (Nat × DWord)) (wrote : List (Nat × Nat × Nat)) (s : State) : State :=
  { s with perf := { s.perf with cnt := cnt, wrote := wrote } }

theorem putCounts_cnt (cnt : List (Nat × DWord)) (w : List (Nat × Nat × Nat)) (s : State) :
    (putCounts cnt w s).perf.cnt = cnt := rfl

theorem putCounts_ovf (cnt : List (Nat × DWord)) (w : List (Nat × Nat × Nat)) (s : State) :
    (putCounts cnt w s).perf.ovf = s.perf.ovf := rfl

theorem putCounts_only (cnt : List (Nat × DWord)) (w : List (Nat × Nat × Nat)) (s : State) :
    Only [.perf] s (putCounts cnt w s) := Only.upd40 (Only.refl ..)

theorem perfCounterWrite_high {off i : Nat} {v : Word} {s : State} (hr : reach s off = true)
    (hn : perfCounterAt off = none) (hi : perfCounterAt (off - 4) = some i) :
    ∃ w, exec (.perfCounterWrite off v) s = .next (putCounts (spSet (fun _ => (0 : DWord)) i
      (BitVec.ofNat 64 ((v.toNat * 2 ^ 32 + (spGet (fun _ => (0 : Word)) (perfThrough s).held (off - 4)).toNat) %
        2 ^ cntWidth i)) (perfThrough s).perf.cnt) w (perfThrough s)) := by
  have hx : execPerfCounterWrite off v s = _ := if_neg (by simp [reach_perfThrough, hr])
  rw [hn, hi] at hx
  exact ⟨_, hx⟩

/-- A write of a register and of the setting in force before it. -/
theorem keptWrite {off m : Nat} {v : Word} {s t : State}
    (ht : t = putReg off v m (keepSel off (perfThrough s))) :
    cfg t off = maskIn (cfg s off) v m ∧ (∀ o, o ≠ off → cfg t o = cfg s o) ∧
      t.perf.cnt = (perfThrough s).perf.cnt ∧ t.perf = (keepSel off (perfThrough s)).perf ∧
      Only [.regs, .eng, .perf] s t := by
  have hk : Only [.eng, .perf] s (keepSel off (perfThrough s)) :=
    Only.then (perfThrough_only ..) (keepSel_only ..)
  have hc := cfg_of_only hk (by decide)
  subst ht
  refine ⟨by simp [putReg, hc], fun o ho => by simp [putReg, ho, hc], rfl, rfl, ?_⟩
  exact Only.then (Only.mono hk) (putReg_only ..)

/-- Settles O32, by the kind of register written and the state of the counter. -/
theorem perfWrites : Obligations.PerfWrites := by
  have hh : ∀ s, (perfThrough s).held = s.held := fun s => (perfThrough_only s).same .held (by decide)
  refine ⟨?_, ?_, ?_, ?_, ?_, ?_, ?_⟩
  · intro off v i s hr hi
    have hx := perfCounterWrite_low (v := v) hr hi
    exact ⟨_, hx, by rw [hh], rfl, only_of_exec hx⟩
  · intro off v i s hr hn hi
    obtain ⟨w, hx⟩ := perfCounterWrite_high (v := v) hr hn hi
    rw [hh] at hx
    exact ⟨_, hx, putCounts_cnt .., putCounts_ovf .., Only.then (perfThrough_only ..) (putCounts_only ..)⟩
  · intro off v s hr hs
    have hx : execPerfSelectWrite off v s = .next _ := if_neg (by simp [hr, hs])
    exact ⟨_, hx, keptWrite rfl⟩
  · intro v s c hr hc
    simp only [List.mem_cons, List.not_mem_nil, or_false] at hc
    refine ⟨putReg 0x600000 v 0x1F (keepSel 0x600000 (perfThrough s)), ?_, keptWrite rfl⟩
    have hw : writePerfCtrl v s = putReg 0x600000 v 0x1F (keepSel 0x600000 (perfThrough s)) := if_pos hr
    rcases hc with rfl | rfl <;> exact congrArg Host.Outcome.next hw
  · intro k s hw hk hm htop p hp
    subst hp
    have hx : execPerfCounterWrap k s = _ := if_neg (by simp only [hw]; decide)
    exact hx.trans (if_pos ⟨htop, hk, hm⟩)
  · intro k s hw
    have hx : execPerfCounterWrap k s = _ := if_pos hw
    exact hx
  · intro k s hw h
    have hx : execPerfCounterWrap k s = _ := if_neg (by simp only [hw]; decide)
    refine hx.trans (if_neg ?_)
    rintro ⟨h1, h2, h3⟩
    rcases h with h | h | h
    · rw [h] at h3; cases h3
    · omega
    · exact h h1

end Sys2Proof.Proofs.Access
end

section
/-! PROOFS. The writes of lane and port registers. -/

set_option Elab.async false

namespace Sys2Proof.Proofs.LaneWrites

open Sys2Proof Sys2Proof.Machine Sys2Proof.Laws Sys2Proof.Proofs.Frame Sys2Proof.Proofs.HostInterface
  Sys2Proof.Proofs.Access

/-- What every step of a loop keeps, the loop keeps. -/
theorem forAll_keeps {α : Type} {P : State → Prop} {xs : List α} {f : α → State → State} {s : State} (h : P s)
    (hf : ∀ x u, P u → P (f x u)) : P (forAll xs f s) := by
  unfold forAll
  induction xs generalizing s with
  | nil => exact h
  | cons x xs ih => exact ih (hf x s h)

theorem lane_of_only {ps : List Part} {s t : State} (h : Only ps s t) (hp : Part.lanes ∉ ps) (l : Nat) :
    lane t l = lane s l := by
  unfold lane; rw [h.same .lanes hp]

theorem bitOf_toNat {n : Nat} (x : BitVec n) (i : Nat) : bitOf x.toNat i = x.getLsbD i := by
  rw [BitVec.getLsbD, Nat.testBit_eq_decide_div_mod_eq, bitOf]
  rfl

/-- A bit that may be written takes the bit of the value. -/
theorem bitOf_maskIn {mask i : Nat} (old v : Word) (hm : mask.testBit i = true) (hi : i < 32) :
    bitOf (maskIn old v mask).toNat i = bitOf v.toNat i := by
  have hk : (BitVec.ofNat 32 mask).getLsbD i = true := by rw [BitVec.getLsbD_ofNat, hm]; simp [hi]
  rw [bitOf_toNat, bitOf_toNat, maskIn]
  simp only [BitVec.getLsbD_or, BitVec.getLsbD_and, BitVec.getLsbD_not, hk]
  simp

/-- Setting bit 1 leaves bit 0. -/
theorem bitOf_putBits_one (v : Word) : bitOf (putBits v 1 1 1).toNat 0 = bitOf v.toNat 0 := by
  have h := v.isLt
  unfold putBits bitOf bitsOf
  simp only [BitVec.toNat_ofNat]
  congr 1
  omega

/-- A lane that leaves its bond keeps all else, and every other lane stays. -/
theorem lane_leaveBond (l c m : Nat) (s : State) : lane (leaveBond l c s) m =
    if m = l then { lane s l with bond := { (lane s l).bond with bonded := false, good := 0 } } else lane s m := by
  unfold leaveBond
  dsimp only
  split
  · rw [lane_of_only (raise_only ..) (by decide), lane_of_only (perfEv_only ..) (by decide),
      lane_of_only (setPort_only ..) (by decide), lane_of_only (count_only ..) (by decide), lane_setLane]
  · next h =>
    rw [lane_setLane]
    split
    · have hb : (lane s l).bond = { (lane s l).bond with bonded := false } := by
        rw [← Bool.eq_false_iff.mpr h]
      rw [hb]
    · rfl

theorem trn_leaveBond (l c m : Nat) (s : State) : (lane (leaveBond l c s) m).trn = (lane s m).trn := by
  rw [lane_leaveBond]; split
  · next h => rw [h]
  · rfl

/-- A lane that loses its alignment: no candidate, no lock, not bonded; the rest stays. -/
def misaligned (x : Lane) : Lane :=
  { x with
    frm := { x.frm with
      cands := [], lock := false, takeover := false, lastRow0 := none, bip := none, inFrame := false, row0Ok := false }
    bond := { x.bond with bonded := false, good := 0 } }

theorem lane_loseAlignment (l m : Nat) (s : State) :
    lane (loseAlignment l s) m = if m = l then misaligned (lane s l) else lane s m := by
  have hd : ∀ k, lane (loseRefs l (dropAlignment l s)) k = lane (dropAlignment l s) k :=
    lane_of_only (loseRefs_only ..) (by decide)
  unfold loseAlignment
  rw [lane_leaveBond, hd, hd]
  unfold dropAlignment
  simp only [lane_setLane, if_true]
  split <;> rfl

theorem lane_startTraining_other {l m : Nat} (s : State) (h : m ≠ l) : lane (startTraining l s) m = lane s m := by
  unfold startTraining; dsimp only; rw [lane_setLane, if_neg h]

theorem trn_startTraining (l : Nat) (s : State) : (lane (startTraining l s) l).trn = { Training.reset with
    tx := 1, rx := 1, signal := (lane s l).trn.signal, cdr := (lane s l).trn.cdr
    taps := presetTaps (bitsOf (cfg s (laneBase l)).toNat 6 4) } := by
  unfold startTraining; dsimp only; rw [lane_setLane, if_pos rfl]

theorem lane_laneOff_other {l m : Nat} (s : State) (h : m ≠ l) : lane (laneOff l s) m = lane s m := by
  unfold laneOff; dsimp only; rw [lane_setLane, if_neg h, lane_loseAlignment, if_neg h]

theorem trn_laneOff (l : Nat) (s : State) : (lane (laneOff l s) l).trn = { Training.reset with
    signal := (lane s l).trn.signal, cdr := (lane s l).trn.cdr, taps := (lane s l).trn.taps } := by
  unfold laneOff; dsimp only; rw [lane_setLane, if_pos rfl, lane_loseAlignment, if_pos rfl]; rfl

/-- What LN_CFG.ENABLE, as just written, does to its lane. -/
def enableLane (l : Nat) (s : State) : State :=
  if !pdOn s (laneDomain l) then s
  else if flg s (laneBase l) 9 then (if (lane s l).trn.rx = 0 then startTraining l s else s)
  else if (lane s l).trn.rx = 0 then s
  else laneOff l s

theorem enableLane_only (l : Nat) (s : State) :
    Only [.rc, .lanes, .ports, .timing, .perf, .rings, .hostOut, .mgmtLog, .smb, .jnl, .log] s (enableLane l s) :=
  Only.ite (Only.refl ..) (Only.ite (Only.ite (Only.mono (startTraining_only ..)) (Only.refl ..))
    (Only.ite (Only.refl ..) (laneOff_only ..)))

theorem lane_enableLane_other {l m : Nat} (s : State) (h : m ≠ l) : lane (enableLane l s) m = lane s m := by
  unfold enableLane
  split
  · rfl
  · split
    · split
      · exact lane_startTraining_other s h
      · rfl
    · split
      · rfl
      · exact lane_laneOff_other s h

/-- The rates of a port written anew: the lanes that no longer agree leave the bond and are named; no training
and no register changes. -/
theorem writeLnCfg_enableLane (l : Nat) (v : Word) (s : State) :
    (∀ m, (lane (writeLnCfg l v s) m).trn = (lane (enableLane l (putReg (laneBase l) v 0x37F s)) m).trn) ∧
      ∀ o, cfg (writeLnCfg l v s) o = cfg (putReg (laneBase l) v 0x37F s) o := by
  have hl : ∀ (xs : List Nat) (u : State), (∀ m, (lane (forAll xs (fun l s => leaveBond l 1 s) u) m).trn =
      (lane u m).trn) ∧ ∀ o, cfg (forAll xs (fun l s => leaveBond l 1 s) u) o = cfg u o := fun xs u =>
    forAll_keeps (P := fun t => (∀ m, (lane t m).trn = (lane u m).trn) ∧ ∀ o, cfg t o = cfg u o)
      ⟨fun _ => rfl, fun _ => rfl⟩ fun x t h => ⟨fun m => by rw [trn_leaveBond, h.1],
        fun o => by rw [cfg_of_only (leaveBond_only ..) (by decide), h.2]⟩
  have hn : ∀ p ls u, (∀ m, lane (nameMismatched p ls u) m = lane u m) ∧ ∀ o, cfg (nameMismatched p ls u) o = cfg u o :=
    fun p ls u => ⟨lane_of_only (nameMismatched_only ..) (by decide), cfg_of_only (nameMismatched_only ..) (by decide)⟩
  have he : ∀ u o, cfg (enableLane l u) o = cfg u o := fun u => cfg_of_only (enableLane_only ..) (by decide)
  unfold writeLnCfg
  dsimp only
  rw [← enableLane]
  constructor
  · intro m
    split
    · rw [(hl ..).1]
    · rw [(hn ..).1, (hl ..).1]
  · intro o
    split
    · rw [(hl ..).2, he]
    · rw [(hn ..).2, (hl ..).2, he]

theorem cfg_putReg (o k : Nat) (v : Word) (m : Nat) (s : State) :
    cfg (putReg o v m s) k = if k = o then maskIn (cfg s o) v m else cfg s k := cfg_setReg ..

theorem flg_putReg {o m i : Nat} {v : Word} {s : State} (hm : m.testBit i = true) (hi : i < 32) :
    flg (putReg o v m s) o i = bitOf v.toNat i := by
  rw [flg, cfgN, cfg_putReg, if_pos rfl, bitOf_maskIn _ _ hm hi]

/-- A write of LN_CFG: the register, and the training of the lanes (03_lanes.md). -/
theorem lnCfg_written (l : Nat) (v : Word) (s : State) :
    cfg (writeLnCfg l v s) (laneBase l) = maskIn (cfg s (laneBase l)) v 0x37F ∧
      (∀ o, o ≠ laneBase l → cfg (writeLnCfg l v s) o = cfg s o) ∧
      (∀ m, m ≠ l → (lane (writeLnCfg l v s) m).trn = (lane s m).trn) ∧
      (pdOn s (laneDomain l) = true → bitOf v.toNat 9 = true → (lane s l).trn.rx = 0 →
        (lane (writeLnCfg l v s) l).trn = { Training.reset with
          tx := 1, rx := 1, signal := (lane s l).trn.signal, cdr := (lane s l).trn.cdr
          taps := presetTaps (bitsOf (cfg (writeLnCfg l v s) (laneBase l)).toNat 6 4) }) ∧
      (pdOn s (laneDomain l) = true → bitOf v.toNat 9 = false → (lane s l).trn.rx ≠ 0 →
        (lane (writeLnCfg l v s) l).trn = { Training.reset with
          signal := (lane s l).trn.signal, cdr := (lane s l).trn.cdr, taps := (lane s l).trn.taps }) ∧
      (pdOn s (laneDomain l) = false ∨ bitOf v.toNat 9 = decide ((lane s l).trn.rx ≠ 0) →
        (lane (writeLnCfg l v s) l).trn = (lane s l).trn) := by
  obtain ⟨ht, hc⟩ := writeLnCfg_enableLane l v s
  have hf : flg (putReg (laneBase l) v 0x37F s) (laneBase l) 9 = bitOf v.toNat 9 := flg_putReg (by decide) (by decide)
  have hp : pdOn (putReg (laneBase l) v 0x37F s) (laneDomain l) = pdOn s (laneDomain l) := rfl
  have hl : ∀ m, lane (putReg (laneBase l) v 0x37F s) m = lane s m := fun _ => rfl
  refine ⟨by rw [hc, cfg_putReg, if_pos rfl], fun o ho => by rw [hc, cfg_putReg, if_neg ho],
    fun m hm => by rw [ht, lane_enableLane_other _ hm, hl], fun hd he hx => ?_, fun hd he hx => ?_, fun h => ?_⟩
  all_goals
    rw [ht, enableLane, hp, hf, hl]
  · rw [hd, he, hc, if_neg (by decide), if_pos rfl, if_pos hx, trn_startTraining]
    rfl
  · rw [hd, he, if_neg (by decide), if_neg (by decide), if_neg hx, trn_laneOff]
    rfl
  · rcases h with h | h
    · rw [h]; rfl
    · rw [h]
      split
      · rfl
      · split
        · next hx => rw [if_neg (of_decide_eq_true hx)]; rfl
        · next hx => rw [if_pos (not_not.mp fun hn => hx (decide_eq_true hn))]; rfl

/-- What a write of CFG notes before the port starts: a follow that a swap begins to end, and that the port was
switched off. -/
def noteCfg (p : Nat) (begins off : Bool) (s : State) : State :=
  onlyIf off (fun s => setPort p { port s p with cnt := { (port s p).cnt with off := true } } s)
    (onlyIf begins (fun s => setFollow p { followOf s p with valid := false } s) s)

theorem noteCfg_only (p : Nat) (b c : Bool) (s : State) : Only [.ports, .page] s (noteCfg p b c s) :=
  Only.cond (Only.cond (Only.refl ..) fun _ h => Only.then h (setFollow_only ..))
    fun _ h => Only.then h (setPort_only ..)

theorem port_noteCfg (p r : Nat) (b c : Bool) (s : State) : (r ≠ p → port (noteCfg p b c s) r = port s r) ∧
    (port (noteCfg p b c s) p).st = (port s p).st ∧ (port (noteCfg p b c s) p).lanes = (port s p).lanes ∧
    (port (noteCfg p b c s) p).minLanes = (port s p).minLanes := by
  have hb : ∀ k, port (onlyIf b (fun s => setFollow p { followOf s p with valid := false } s) s) k = port s k :=
    port_of_only (Only.cond (Only.refl [.page] s) fun _ h => Only.then h (setFollow_only ..)) (by decide)
  unfold noteCfg
  cases c
  · simp only [onlyIf_false, hb, implies_true, and_self]
  · simp only [onlyIf_true, port_setPort, hb, if_true, and_self, and_true]
    intro h
    rw [if_neg h]

theorem writePortCfg_eq (p : Nat) (v : Word) (s : State) : ∃ b c, writePortCfg p v s =
    startPort p (putReg (portBase p) (if s.ssw.holdPorts = true ∧ p < 8 then putBits v 1 1 1 else v) (portMask p 0)
      (noteCfg p b c s)) := ⟨_, _, rfl⟩

theorem cfg_startPort (p o : Nat) (s : State) : cfg (startPort p s) o = cfg s o :=
  cfg_of_only (startPort_only ..) (by decide) o

/-- A lane outside the port's count leaves the bond. -/
def clearLane (p i : Nat) (s : State) : State :=
  setLane (laneOf p i) { lane s (laneOf p i) with
    bond := { (lane s (laneOf p i)).bond with bonded := false, good := 0 } } s

/-- The lanes outside the count of a starting port are cleared; training, ports and registers stay. -/
def clearLanes (p n : Nat) (s : State) : State :=
  forAll ((List.range 32).filter (n ≤ ·)) (clearLane p) s

theorem clearLanes_only (p n : Nat) (s : State) : Only [.lanes] s (clearLanes p n s) :=
  Only.all (Only.refl ..) fun _ _ h => Only.then h (setLane_only ..)

theorem trn_clearLanes (p n m : Nat) (s : State) : (lane (clearLanes p n s) m).trn = (lane s m).trn := by
  refine forAll_keeps (P := fun t => (lane t m).trn = (lane s m).trn) rfl fun i u h => ?_
  rw [← h, clearLane, lane_setLane]
  split
  · next e => rw [e]
  · rfl

/-- A port in TRAIN with a lane that is not in codeword lock stays there. -/
theorem advanceOnce_stays {p i : Nat} {s : State} (h1 : (port s p).st = 1) (hi : i < (port s p).lanes)
    (hr : (lane s (laneOf p i)).trn.rx ≠ 3) : advanceOnce p s = s := by
  have hall : ¬ (portLanes s p).all (fun l => (lane s l).trn.rx = 3) = true := by
    intro h
    exact hr (of_decide_eq_true (List.all_eq_true.mp h (laneOf p i)
      (List.mem_map.mpr ⟨i, List.mem_range.mpr hi, rfl⟩)))
  unfold advanceOnce
  dsimp only
  rw [if_neg fun h => hall h.2, if_neg (by rw [h1]; simp), if_neg (by rw [h1]; simp)]

theorem advancePort_stays {p i : Nat} {s : State} (h1 : (port s p).st = 1) (hi : i < (port s p).lanes)
    (hr : (lane s (laneOf p i)).trn.rx ≠ 3) : advancePort p s = s := by
  unfold advancePort
  rw [advanceOnce_stays h1 hi hr, advanceOnce_stays h1 hi hr, advanceOnce_stays h1 hi hr]

/-- The forward moves keep the lane counts. -/
theorem advanceOnce_counts (p : Nat) (s : State) :
    (port (advanceOnce p s) p).lanes = (port s p).lanes ∧
      (port (advanceOnce p s) p).minLanes = (port s p).minLanes := by
  unfold advanceOnce
  dsimp only
  split
  · simp
  · split
    · simp
    · split
      · simp [enterCapability]
      · exact ⟨rfl, rfl⟩

theorem advancePort_counts (p : Nat) (s : State) :
    (port (advancePort p s) p).lanes = (port s p).lanes ∧
      (port (advancePort p s) p).minLanes = (port s p).minLanes := by
  unfold advancePort
  simp only [advanceOnce_counts, and_self]

/-- A port that leaves DOWN takes the counts in force and begins in TRAIN. -/
theorem startPort_begins {p : Nat} {s : State} (h0 : (port s p).st = 0) (he : flg s (portBase p) 0 = true)
    (hd : pdOn s (laneDomain (laneOf p 0)) = true) : ∃ u, startPort p s = advancePort p u ∧ (port u p).st = 1 ∧
      (port u p).lanes = cfgLanes s p ∧ (port u p).minLanes = cfgMinLanes s p ∧
      ∀ m, (lane u m).trn = (lane s m).trn := by
  have hn : ∀ ls u k, port (nameMismatched p ls u) k = port u k := fun ls u =>
    port_of_only (nameMismatched_only ..) (by decide)
  have hl : ∀ ls u k, lane (nameMismatched p ls u) k = lane u k := fun ls u =>
    lane_of_only (nameMismatched_only ..) (by decide)
  have hc : cfgMinLanes (clearLanes p (cfgLanes s p) s) p = cfgMinLanes s p := by
    unfold cfgMinLanes cfgLanes fld cfgN
    rw [cfg_of_only (clearLanes_only ..) (by decide)]
  unfold startPort
  dsimp only
  rw [if_pos ⟨h0, he, hd⟩]
  refine ⟨_, rfl, ?_, ?_, ?_, fun m => ?_⟩
  · rw [hn, port_setPort, if_pos rfl]
  · rw [hn, port_setPort, if_pos rfl]
  · rw [hn, port_setPort, if_pos rfl]
    exact hc
  · rw [hl]
    exact trn_clearLanes ..

theorem startPort_stays {p : Nat} {s : State} (h : (port s p).st ≠ 0 ∨ flg s (portBase p) 0 = false ∨
    pdOn s (laneDomain (laneOf p 0)) = false) : startPort p s = s := by
  unfold startPort
  refine if_neg ?_
  rintro ⟨h0, he, hd⟩
  rcases h with h | h | h
  · exact h h0
  · rw [h] at he; cases he
  · rw [h] at hd; cases hd

theorem portMask_enable (p : Nat) : (portMask p 0).testBit 0 = true := by
  unfold portMask
  rw [if_pos rfl]
  split <;> rfl

/-- A write of CFG of a port: the register, and the port (04_ports.md). -/
theorem portCfg_written (p : Nat) (v : Word) (s : State) :
    cfg (writePortCfg p v s) (portBase p) = maskIn (cfg s (portBase p))
        (if s.ssw.holdPorts = true ∧ p < 8 then putBits v 1 1 1 else v) (portMask p 0) ∧
      (∀ o, o ≠ portBase p → cfg (writePortCfg p v s) o = cfg s o) ∧
      ((port s p).st = 0 → bitOf v.toNat 0 = true → pdOn s (laneDomain (laneOf p 0)) = true →
        (port (writePortCfg p v s) p).lanes = cfgLanes (writePortCfg p v s) p ∧
        (port (writePortCfg p v s) p).minLanes = cfgMinLanes (writePortCfg p v s) p ∧
        ((∃ i, i < cfgLanes (writePortCfg p v s) p ∧ (lane s (laneOf p i)).trn.rx ≠ 3) →
          (port (writePortCfg p v s) p).st = 1)) ∧
      ((port s p).st ≠ 0 ∨ bitOf v.toNat 0 = false ∨ pdOn s (laneDomain (laneOf p 0)) = false →
        (port (writePortCfg p v s) p).st = (port s p).st ∧ (port (writePortCfg p v s) p).lanes = (port s p).lanes ∧
        (port (writePortCfg p v s) p).minLanes = (port s p).minLanes ∧ (writePortCfg p v s).lanes = s.lanes ∧
        ∀ r, r ≠ p → port (writePortCfg p v s) r = port s r) := by
  obtain ⟨b, c, hw⟩ := writePortCfg_eq p v s
  rw [hw]
  have hv : bitOf (if s.ssw.holdPorts = true ∧ p < 8 then putBits v 1 1 1 else v).toNat 0 = bitOf v.toNat 0 := by
    split
    · exact bitOf_putBits_one v
    · rfl
  generalize (if s.ssw.holdPorts = true ∧ p < 8 then putBits v 1 1 1 else v) = w at hv ⊢
  obtain ⟨x, hx⟩ : ∃ x, x = putReg (portBase p) w (portMask p 0) (noteCfg p b c s) := ⟨_, rfl⟩
  have hnc : ∀ o, cfg (noteCfg p b c s) o = cfg s o := cfg_of_only (noteCfg_only ..) (by decide)
  have hxf : flg x (portBase p) 0 = bitOf v.toNat 0 := by
    rw [hx, flg_putReg (portMask_enable p) (by decide), hv]
  have hxp : ∀ r, port x r = port (noteCfg p b c s) r := by rw [hx]; exact fun _ => rfl
  have hxd : pdOn x (laneDomain (laneOf p 0)) = pdOn s (laneDomain (laneOf p 0)) := by
    rw [pdOn, pdOn, hx]
    show (noteCfg p b c s).pwr.on.getLsbD _ = _
    rw [(noteCfg_only ..).same .pwr (by decide)]
  have hxl : x.lanes = s.lanes := by
    rw [hx]
    exact (noteCfg_only ..).same .lanes (by decide)
  obtain ⟨hst, hln, hmn⟩ := (port_noteCfg p 0 b c s).2
  rw [← hx]
  refine ⟨?_, fun o ho => ?_, fun h0 he hd => ?_, fun h => ?_⟩
  · rw [cfg_startPort, hx, cfg_putReg, if_pos rfl, hnc]
  · rw [cfg_startPort, hx, cfg_putReg, if_neg ho, hnc]
  · obtain ⟨u, hu, hu1, hul, hum, hut⟩ := startPort_begins (by rw [hxp, hst, h0]) (hxf.trans he) (hxd.trans hd)
    have hcl : cfgLanes (startPort p x) p = cfgLanes x p := by
      unfold cfgLanes fld cfgN; rw [cfg_startPort]
    have hcm : cfgMinLanes (startPort p x) p = cfgMinLanes x p := by
      unfold cfgMinLanes cfgLanes fld cfgN; rw [cfg_startPort]
    rw [hcl, hcm, hu, (advancePort_counts ..).1, (advancePort_counts ..).2]
    refine ⟨hul, hum, ?_⟩
    rintro ⟨i, hi, hr⟩
    have hlx : (lane u (laneOf p i)).trn.rx ≠ 3 := by
      rw [hut]; unfold lane at hr ⊢; rwa [hxl]
    rw [advancePort_stays hu1 (hul ▸ hi) hlx, hu1]
  · rw [startPort_stays (by rw [hxp, hst, hxf, hxd]; exact h)]
    refine ⟨by rw [hxp, hst], by rw [hxp, hln], by rw [hxp, hmn], hxl, fun r hr => ?_⟩
    rw [hxp, (port_noteCfg p r b c s).1 hr]

theorem mem_insNat (k : Nat) (xs : List Nat) : k ∈ insNat k xs := by
  induction xs with
  | nil => exact List.mem_singleton.mpr rfl
  | cons x xs ih =>
    unfold insNat
    split
    · exact List.mem_cons_self
    · split
      · next h => rw [h]; exact List.mem_cons_self
      · exact List.mem_cons_of_mem _ ih

/-- A write of TD_CFG: the register, and the mode of the port (02_tray_format.md). -/
theorem tdCfg_written (p : Nat) (v : Word) (s : State) (hp9 : p < 9) :
    cfg (writeTdCfg p v s) (portBase p + 8) = maskIn (cfg s (portBase p + 8)) v (portMask p 8) ∧
      (∀ o, o ≠ portBase p + 8 → cfg (writeTdCfg p v s) o = cfg s o) ∧
      (∀ r, r ≠ p → port (writeTdCfg p v s) r = port s r) ∧
      (p < 8 → (port s p).st = 5 → (port (writeTdCfg p v s) p).bind = { (port s p).bind with modePending := true } ∧
        p ∈ (writeTdCfg p v s).page.rebinds) ∧
      (p < 8 → (port s p).st ≠ 5 → (port (writeTdCfg p v s) p).bind = { (port s p).bind with
        td := cfg (writeTdCfg p v s) (portBase p + 8)
        mode := BitVec.ofNat 2 (tdMode (cfg (writeTdCfg p v s) (portBase p + 8))), modePending := false }) ∧
      (p = 8 → port (writeTdCfg p v s) p = port s p) := by
  have hc : ∀ o, cfg (writeTdCfg p v s) o = cfg (putReg (portBase p + 8) v (portMask p 8) s) o := by
    intro o
    unfold writeTdCfg
    dsimp only
    split
    · rfl
    · split
      · rw [cfg_of_only (askRebind_only ..) (by decide)]; rfl
      · rfl
  have ha : ∀ u r, port (askRebind p u) r = port u r := fun u => port_of_only (askRebind_only ..) (by decide)
  refine ⟨by rw [hc, cfg_putReg, if_pos rfl], fun o ho => by rw [hc, cfg_putReg, if_neg ho], fun r hr => ?_,
    fun hp h5 => ?_, fun hp h5 => ?_, fun hp => ?_⟩
  · unfold writeTdCfg
    dsimp only
    split
    · rfl
    · split
      · rw [ha, port_setPort, if_neg hr]; rfl
      · rw [port_setPort, if_neg hr]; rfl
  · have hw : writeTdCfg p v s = _ := (if_neg (by omega)).trans (if_pos h5)
    rw [hw, ha, port_setPort, if_pos rfl]
    exact ⟨rfl, mem_insNat ..⟩
  · rw [hc]
    have hw : writeTdCfg p v s = _ := (if_neg (by omega)).trans (if_neg h5)
    rw [hw, port_setPort, if_pos rfl]
    rfl
  · have hw : writeTdCfg p v s = _ := if_pos hp
    rw [hw]
    rfl

theorem loseAlignment_cfg (l o : Nat) (s : State) : cfg (loseAlignment l s) o = cfg s o :=
  cfg_of_only (loseAlignment_only ..) (by decide) o

theorem startTraining_cfg (l o : Nat) (s : State) : cfg (startTraining l s) o = cfg s o :=
  cfg_of_only (startTraining_only ..) (by decide) o

theorem bitOf_eq_false {x i : Nat} (h : bitOf x i = false) : ¬ bitOf x i = true := by rw [h]; decide

/-- Settles O31, by what each write does to its register and to its lane or port. -/
theorem laneAndPortWrites : Obligations.LaneAndPortWrites := by
  refine ⟨?_, ?_, ?_, ?_, ?_, ?_, ?_⟩
  · intro l v s c hl hu hc
    simp only [List.mem_cons, List.not_mem_nil, or_false] at hc
    have hg : (laneOk l && linkUp s) = true := by rw [hl, hu]; rfl
    refine ⟨writeLnCfg l v s, ?_, rfl, lnCfg_written l v s⟩
    rcases hc with rfl | rfl
    · exact if_pos hg
    · exact if_pos hg
  · intro p v s c hp hu hc
    simp only [List.mem_cons, List.not_mem_nil, or_false] at hc
    have hg : (p < 9 && linkUp s) = true := by simp [hp, hu]
    refine ⟨writePortCfg p v s, ?_, rfl, portCfg_written p v s⟩
    rcases hc with rfl | rfl
    · exact if_pos hg
    · exact if_pos hg
  · intro p v s hp hu
    have hg : (p < 9 && linkUp s) = true := by simp [hp, hu]
    exact ⟨writeTdCfg p v s, if_pos hg, tdCfg_written p v s hp⟩
  · intro l v s hl hu hb hx
    have h1 : execTrainRestart l v s = _ := if_neg (by rw [hl, hu]; decide)
    have h2 : (bitOf v.toNat 31 && decide ((lane (setReg (laneBase l + 8) (v &&& 0x03FF0000) s) l).trn.rx ≠ 0)) = true := by
      rw [hb, Bool.true_and]; exact decide_eq_true hx
    refine ⟨_, h1.trans (if_pos h2), rfl, ?_, fun m hm => ?_, ?_, fun o ho => ?_⟩
    · rw [restartTraining, trn_startTraining, lane_loseAlignment, if_pos rfl, loseAlignment_cfg, cfg_setReg,
        if_neg (by omega)]
      rfl
    · rw [restartTraining, lane_startTraining_other _ hm, lane_loseAlignment, if_neg hm]
      rfl
    · rw [restartTraining, startTraining_cfg, loseAlignment_cfg, cfg_setReg, if_pos rfl]
    · rw [restartTraining, startTraining_cfg, loseAlignment_cfg, cfg_setReg, if_neg ho]
  · intro l v s hl hu h
    have h1 : execTrainRestart l v s = _ := if_neg (by rw [hl, hu]; decide)
    refine h1.trans (if_neg ?_)
    rw [Bool.and_eq_true, decide_eq_true_eq]
    rintro ⟨hb, hx⟩
    rcases h with h | h
    · exact bitOf_eq_false h hb
    · exact hx h
  · intro l v s hl hu hb
    have h1 : execHuntRestart l v s = _ := if_neg (by rw [hl, hu]; decide)
    have hs : ∀ m, lane (setReg (laneBase l + 0x804) (v &&& 2) s) m = lane s m :=
      lane_of_only (setReg_only ..) (by decide)
    refine ⟨_, h1.trans (congrArg Host.Outcome.next (if_pos hb)), rfl, ?_, ?_, ?_, fun m hm => ?_, ?_, fun o ho => ?_⟩
    · rw [lane_loseAlignment, if_pos rfl, hs]; rfl
    · rw [lane_loseAlignment, if_pos rfl, hs]; rfl
    · rw [lane_loseAlignment, if_pos rfl, hs]; rfl
    · rw [lane_loseAlignment, if_neg hm, hs]
    · rw [loseAlignment_cfg, cfg_setReg, if_pos rfl]
    · rw [loseAlignment_cfg, cfg_setReg, if_neg ho]
  · intro l v s hl hu hb
    have h1 : execHuntRestart l v s = _ := if_neg (by rw [hl, hu]; decide)
    exact h1.trans (congrArg Host.Outcome.next (if_neg (bitOf_eq_false hb)))

end Sys2Proof.Proofs.LaneWrites
end

section
/-! PROOFS. The tick edge, the engines and a cluster's moves. -/

set_option Elab.async false

namespace Sys2Proof.Proofs.EngineEvents

open Sys2Proof Sys2Proof.Machine Sys2Proof.Laws Sys2Proof.Proofs.Frame Sys2Proof.Proofs.HostInterface
  Sys2Proof.Proofs.Access Sys2Proof.Proofs.LaneWrites

/-! ### The tick edge -/

theorem core_of_only {ps : List Part} {s t : State} (h : Only ps s t) (hp : Part.core ∉ ps) : t.core = s.core :=
  h.same .core hp

theorem latched_edgeTime (s : State) : (edgeTime s).core.latched =
    s.prot.late.foldr (fun b m => spSet (fun _ => false) b.1 b.2 m) s.prot.sel := by
  have ht : (timingEdge (countTick s)).prot = s.prot :=
    ((timingEdge_only _).same .prot (by decide)).trans ((countTick_only s).same .prot (by decide))
  have hl : Only [.rc, .lanes, .prot, .pm] (latchSelectors (timingEdge (countTick s))) (edgeTime s) := by
    refine Only.then ?_ (secondTick_only ..)
    refine Only.then ?_ (layCalendars_only ..)
    refine Only.then ?_ (takePosts_only ..)
    exact Only.mono (latchPortCfg_only ..)
  rw [core_of_only hl (by decide)]
  show List.foldr _ (timingEdge (countTick s)).prot.sel (timingEdge (countTick s)).prot.late = _
  rw [ht]

theorem latched_edgeClose (n : Nat) (s : State) : (edgeClose n s).core.latched = s.core.latched := by
  have h1 : (onlyIf (isActive s) groupsPost (monitorTick (condsTick s))).core = s.core := by
    rw [core_of_only (Only.cond (Only.refl [.prot] _) fun _ h => Only.then h (groupsPost_only ..)) (by decide),
      core_of_only (monitorTick_only ..) (by decide), core_of_only (condsTick_only ..) (by decide)]
  unfold edgeClose
  rw [core_of_only (enginesTick_only ..) (by decide), core_of_only (portsTick_only ..) (by decide), ← h1]
  rfl

theorem latched_lentTick (s : State) : (lentTick s).core.latched = s.core.latched := by
  unfold lentTick
  split
  · rfl
  · split
    · rfl
    · rfl

theorem latched_edgeOpen (s : State) : (edgeOpen s).core.latched = s.core.latched := by
  unfold edgeOpen
  rw [core_of_only (blowTick_only ..) (by decide), core_of_only (idleTick_only ..) (by decide),
    core_of_only (stepTick_only ..) (by decide), latched_lentTick, core_of_only (restartTick_only ..) (by decide)]
  unfold onlyIf
  split
  · rw [core_of_only (groupsTick_only ..) (by decide)]
  · rfl

theorem cclk_edgeTime (s : State) : (edgeTime s).cclk = 0 := by
  have h : Only [.rc, .lanes, .core, .prot, .pm, .timing, .rings, .hostOut, .mgmtLog, .smb, .jnl, .log] (countTick s)
      (edgeTime s) := by
    refine Only.then ?_ (secondTick_only ..)
    refine Only.then ?_ (layCalendars_only ..)
    refine Only.then ?_ (takePosts_only ..)
    refine Only.then ?_ (latchPortCfg_only ..)
    refine Only.then ?_ (latchSelectors_only ..)
    exact Only.mono (timingEdge_only ..)
  exact h.same .cclk (by decide)

/-- A frame without the banks leaves them whole. -/
theorem bank_of_only {ps : List Part} {s t : State} (h : Only ps s t) (hb : Part.bank ∉ ps) (hm : Part.sram ∉ ps) :
    t.bank = s.bank := by
  have h1 : bankOf t.bank = bankOf s.bank := h.same .bank hb
  have h2 : sramOf t.bank = sramOf s.bank := h.same .sram hm
  simp only [bankOf, Banks.mk.injEq, true_and] at h1
  simp only [sramOf, Prod.mk.injEq] at h2
  obtain ⟨ho, hs, ha⟩ := h1
  obtain ⟨hm, he, hz⟩ := h2
  cases ht : t.bank
  cases hs : s.bank
  simp_all

/-! ### Engines -/

theorem eng_of_only {ps : List Part} {s t : State} (h : Only ps s t) (hp : Part.eng ∉ ps) (e : Nat) :
    eng t e = eng s e := by
  unfold eng; rw [h.same .eng hp]

/-- Counting the cycles of the engines leaves of each what it is; only what it has counted changes. -/
structure Counted (s t : State) : Prop where
  active : t.eng.active = s.eng.active
  host : t.eng.host = s.eng.host
  cls : t.eng.cls = s.eng.cls
  st : ∀ e, (eng t e).st = (eng s e).st
  consec : ∀ e, (eng t e).consec = (eng s e).consec
  imem : ∀ e, (eng t e).imem = (eng s e).imem

theorem Counted.refl (s : State) : Counted s s := ⟨rfl, rfl, rfl, fun _ => rfl, fun _ => rfl, fun _ => rfl⟩

theorem Counted.trans {s t u : State} (h : Counted s t) (k : Counted t u) : Counted s u :=
  ⟨k.active.trans h.active, k.host.trans h.host, k.cls.trans h.cls, fun e => (k.st e).trans (h.st e),
    fun e => (k.consec e).trans (h.consec e), fun e => (k.imem e).trans (h.imem e)⟩

theorem Counted.of_eng {s t : State} (h : t.eng = s.eng) : Counted s t := by
  have he : ∀ e, eng t e = eng s e := fun e => by unfold eng; rw [h]
  exact ⟨by rw [h], by rw [h], by rw [h], fun e => by rw [he], fun e => by rw [he], fun e => by rw [he]⟩

theorem Counted.setPerf {s t : State} (h : Counted s t) (p : Perf) : Counted s { t with perf := p } :=
  ⟨h.active, h.host, h.cls, h.st, h.consec, h.imem⟩

theorem Counted.of_setEng {s : State} {e : Nat} {x : Eng} (h1 : x.st = (eng s e).st)
    (h2 : x.consec = (eng s e).consec) (h3 : x.imem = (eng s e).imem) : Counted s (setEng e x s) := by
  refine ⟨rfl, rfl, rfl, fun k => ?_, fun k => ?_, fun k => ?_⟩ <;> rw [eng_setEng] <;> split
  all_goals
    first | (next hk => rw [hk]; assumption) | rfl

theorem engineRun_counted (t n e : Nat) (s : State) : Counted s (engineRun t n e s) := by
  have hs : ∀ (xs : List EngOccur) (x : Eng), x.st = (eng s e).st → x.consec = (eng s e).consec →
      x.imem = (eng s e).imem → Counted s (setEng e x (engineEvs e xs s)) := fun xs x h1 h2 h3 => by
    have hE : ∀ k, eng (engineEvs e xs s) k = eng s k := eng_of_only (engineEvs_only ..) (by decide)
    refine (Counted.of_eng ((engineEvs_only e xs s).same .eng (by decide))).trans (Counted.of_setEng ?_ ?_ ?_)
    all_goals
      rw [hE]; assumption
  unfold engineRun
  dsimp only
  split
  · exact hs _ _ rfl rfl rfl
  · refine Counted.setPerf ?_ _
    exact hs _ _ rfl rfl rfl

theorem perfCatch_counted (s : State) : Counted s (perfCatch s) := by
  unfold perfCatch runEngines
  dsimp only
  split
  · exact (Counted.refl s).setPerf _
  · refine Counted.setPerf ?_ _
    exact forAll_keeps (P := Counted s) (Counted.refl s) fun e u h => h.trans (engineRun_counted ..)

/-- Giving the selectors of an overrunning engine back leaves the posts that are out. -/
theorem overrunGroups_posts (e : Nat) (s : State) :
    (overrunGroups e s).prot.posts = s.prot.posts.filter (fun p => decide (runs s (ownerOf p.1) ≠ e)) ∧
      (overrunGroups e s).prot.latePosts = s.prot.latePosts ++
        (s.prot.posts.filter fun p => decide (runs s (ownerOf p.1) = e)).map (fun p => (s.tick + 2, p)) := by
  have hp : ∀ bits : List (Nat × Bool), (forAll bits (fun b s => pinSel b.1 b.2 s) s).prot.posts = s.prot.posts ∧
      (forAll bits (fun b s => pinSel b.1 b.2 s) s).prot.latePosts = s.prot.latePosts ∧
      (forAll bits (fun b s => pinSel b.1 b.2 s) s).tick = s.tick := fun bits =>
    forAll_keeps (P := fun t => t.prot.posts = s.prot.posts ∧ t.prot.latePosts = s.prot.latePosts ∧ t.tick = s.tick)
      ⟨rfl, rfl, rfl⟩ fun b u h => by unfold pinSel; split <;> exact h
  unfold overrunGroups
  dsimp only
  obtain ⟨h1, h2, h3⟩ := hp (((s.prot.groups.filter fun x => decide (runs s (ownerOf x.1) = e)).flatMap fun x =>
    (List.range x.2.dfn.width).map fun i => (x.1 + i, spGet (fun _ => false) s.prot.edgeSel (x.1 + i))).filter
      fun b => b.2 ≠ selBit s b.1)
  rw [h1, h2, h3]
  refine ⟨?_, rfl⟩
  congr 1
  funext p
  exact (decide_not ..).symm

/-- An overrun counted, before its groups are given back. -/
def overrunCounted (e : Nat) (s : State) : State :=
  engineEv e 3 1 1 true none (count (engBase (e / 16) + 0x200 + 4 * (e % 16))
    (setEng e { eng s e with consec := min 1023 ((eng s e).consec + 1), overran := true } s))

theorem overrunCounted_only (e : Nat) (s : State) : Only [.rc, .eng, .perf] s (overrunCounted e s) := by
  refine Only.then ?_ (engineEv_only ..)
  refine Only.then ?_ (count_only ..)
  exact Only.mono (setEng_only ..)

theorem eng_overrunCounted (e k : Nat) (s : State) : eng (overrunCounted e s) k =
    if k = e then { eng s e with consec := min 1023 ((eng s e).consec + 1), overran := true } else eng s k := by
  unfold overrunCounted
  rw [eng_of_only (engineEv_only ..) (by decide), eng_of_only (count_only ..) (by decide), eng_setEng]

theorem host_overrunCounted (e : Nat) (s : State) : (overrunCounted e s).eng.host = s.eng.host := by
  unfold overrunCounted
  rw [(engineEv_only ..).same .eng (by decide), (count_only ..).same .eng (by decide)]
  rfl

theorem rcGet_overrunCounted (e o : Nat) (s : State) :
    rcGet (overrunCounted e s) o = rcGet (count (engBase (e / 16) + 0x200 + 4 * (e % 16)) s) o := by
  unfold overrunCounted
  rw [rcGet_of_only (engineEv_only ..) (by decide), rcGet_count, rcGet_count,
    rcGet_of_only (setEng_only ..) (by decide), rcGet_of_only (setEng_only ..) (by decide)]

/-- The state after the count of an overrun, before the halt at 1,000 in a row. -/
def overrun (e : Nat) (s : State) : State := overrunGroups e (overrunCounted e s)

theorem overrun_only (e : Nat) (s : State) : Only [.rc, .prot, .eng, .perf] s (overrun e s) :=
  Only.then (Only.mono (overrunCounted_only ..)) (overrunGroups_only ..)

theorem eng_overrun (e k : Nat) (s : State) : eng (overrun e s) k =
    if k = e then { eng s e with consec := min 1023 ((eng s e).consec + 1), overran := true } else eng s k := by
  unfold overrun
  rw [eng_of_only (overrunGroups_only ..) (by decide), eng_overrunCounted]

/-- What runs the engine of a number depends on the engines' states and hosts only. -/
theorem runs_congr {s t : State} (hst : ∀ e, (eng t e).st = (eng s e).st) (hh : t.eng.host = s.eng.host) (k : Nat) :
    runs t k = runs s k := by
  have h := hst k
  unfold eng at h
  unfold runs
  rw [h, hh]

theorem posts_overrun (e : Nat) (s : State) :
    (overrun e s).prot.posts = s.prot.posts.filter (fun p => decide (runs s (ownerOf p.1) ≠ e)) ∧
      (overrun e s).prot.latePosts = s.prot.latePosts ++
        (s.prot.posts.filter fun p => decide (runs s (ownerOf p.1) = e)).map (fun p => (s.tick + 2, p)) := by
  have hr : ∀ k, runs (overrunCounted e s) k = runs s k := by
    refine runs_congr (fun k => ?_) (host_overrunCounted ..)
    rw [eng_overrunCounted]
    split
    · next h => rw [h]
    · rfl
  have h := overrunGroups_posts e (overrunCounted e s)
  rw [(overrunCounted_only e s).same .prot (by decide), (overrunCounted_only e s).same .tick (by decide)] at h
  simp only [hr] at h
  exact h

/-- A running engine that overruns for the first time before it is done. -/
theorem exec_tickOverrun {e : Nat} {s : State} (h2 : (eng s e).st = 2) (ho : (eng s e).overran = false)
    (hd : (eng s e).done = false) : exec (.tickOverrun e) s =
      .next (if 1000 ≤ min 1023 ((eng s e).consec + 1) then haltEngine e (overrun e s) else overrun e s) := by
  have hx : execTickOverrun e s = _ := if_neg (by simp [h2, ho, hd])
  exact hx

/-- A halted engine is HALTED and keeps its count of overruns. -/
theorem eng_haltEngine (e : Nat) (s : State) :
    (eng (haltEngine e s) e).st = 3 ∧ (eng (haltEngine e s) e).consec = (eng s e).consec := by
  have hb : ∀ r u k, eng (beginRestart r u) k = eng u k := fun r u k => by
    unfold beginRestart onlyIf
    dsimp only
    generalize (if r.q.isSome = true then r else _) = r'
    split
    · rw [eng_of_only (count_only ..) (by decide)]; rfl
    · rfl
  have ha : ∀ r u k, eng (askRestart r u) k = eng u k := fun r u k => by
    unfold askRestart
    split
    · exact hb ..
    · split
      · rw [hb]; rfl
      · rfl
  have hc : ∀ o v, eng (raise .engHalt e 0 (count o (setEng e v (perfCatch s)))) e = v := fun o v => by
    rw [eng_of_only (raise_only ..) (by decide), eng_of_only (count_only ..) (by decide), eng_setEng, if_pos rfl]
  have hp := (perfCatch_counted s).consec e
  unfold haltEngine
  dsimp only
  split
  · rw [hc]; exact ⟨rfl, hp⟩
  · rw [ha, hc]; exact ⟨rfl, hp⟩

/-! ### Clusters -/

/-- Mapping a list of engines maps those that have not FAILED, once each. -/
theorem eng_mapEngines (f : Eng → Eng) (e : Nat) {xs : List Nat} (hn : xs.Nodup) (s : State) :
    eng (forAll xs (fun e s => let x := eng s e; if x.st = 4 then s else setEng e (f x) s) s) e =
      if e ∈ xs ∧ (eng s e).st ≠ 4 then f (eng s e) else eng s e := by
  induction xs generalizing s with
  | nil => simp [forAll]
  | cons k xs ih =>
    obtain ⟨hk, hxs⟩ := List.nodup_cons.mp hn
    have step : ∀ t, eng (let x := eng t k; if x.st = 4 then t else setEng k (f x) t) e =
        if e = k ∧ (eng t e).st ≠ 4 then f (eng t e) else eng t e := fun t => by
      dsimp only
      split
      · next h4 => rw [if_neg]; rintro ⟨rfl, hne⟩; exact hne h4
      · next h4 =>
        rw [eng_setEng]
        by_cases he : e = k
        · subst he; rw [if_pos rfl, if_pos ⟨rfl, h4⟩]
        · rw [if_neg he, if_neg fun h => he h.1]
    refine (ih hxs _).trans ?_
    rw [step]
    by_cases he : e = k
    · subst he; simp [hk]
    · simp [he]

theorem engsOf_nodup (c : Nat) : (engsOf c).Nodup :=
  List.Nodup.map (fun a b h => by simpa using h) List.nodup_range

theorem eng_mapCluster (c e : Nat) (f : Eng → Eng) (s : State) : eng (mapCluster c f s) e =
    if e ∈ engsOf c ∧ (eng s e).st ≠ 4 then f (eng s e) else eng s e :=
  eng_mapEngines f e (engsOf_nodup c) s

theorem mapCluster_rest (c : Nat) (f : Eng → Eng) (s : State) : (mapCluster c f s).eng.active = s.eng.active ∧
    (mapCluster c f s).eng.host = s.eng.host := by
  unfold mapCluster
  refine forAll_keeps (P := fun t => t.eng.active = s.eng.active ∧ t.eng.host = s.eng.host) ⟨rfl, rfl⟩
    fun x u h => ?_
  dsimp only
  split
  · exact h
  · exact h

theorem clState_setCl (c x : Nat) (s : State) : clState (setCl c x s) c = x :=
  (spGet_spSet ..).trans (if_pos rfl)

theorem setCl_active (c x : Nat) (s : State) : (setCl c x s).eng.active = s.eng.active := rfl

theorem setCl_host (c x : Nat) (s : State) : (setCl c x s).eng.host = s.eng.host := rfl

theorem eng_setCl (c x k : Nat) (s : State) : eng (setCl c x s) k = eng s k := rfl

/-- The banks of a cluster's move `r` that goes on: those of the cluster, when another can run its groups. -/
def movedBanks (r : Restart) (s : State) : List Nat := if hostCluster r.cl < 12 then banksOf s r.cl else []

/-- The move under way and the hosts of the clusters noted. -/
def putMove (a : Restart) (host : List (Nat × Nat)) (s : State) : State :=
  onEngines (fun e => { e with active := some a, host := host }) s

theorem putMove_active (a : Restart) (host : List (Nat × Nat)) (s : State) :
    (putMove a host s).eng.active = some a := rfl

theorem putMove_host (a : Restart) (host : List (Nat × Nat)) (s : State) : (putMove a host s).eng.host = host := rfl

theorem eng_putMove (a : Restart) (host : List (Nat × Nat)) (s : State) (e : Nat) :
    eng (putMove a host s) e = eng s e := rfl

/-- What moves a cluster leaves of the move, of the hosts and of the engines that have FAILED. -/
theorem moved_engines (c x : Nat) (f : Eng → Eng) (a : Restart) (host : List (Nat × Nat)) (u : State) :
    clState (setCl c x (mapCluster c f (perfCatch (putMove a host u)))) c = x ∧
    (setCl c x (mapCluster c f (perfCatch (putMove a host u)))).eng.active = some a ∧
    (setCl c x (mapCluster c f (perfCatch (putMove a host u)))).eng.host = host ∧
    ∀ e, e ∈ engsOf c → ∃ y, y.st = (eng u e).st ∧ y.imem = (eng u e).imem ∧
      eng (setCl c x (mapCluster c f (perfCatch (putMove a host u)))) e = if (eng u e).st = 4 then y else f y := by
  have hp := perfCatch_counted (putMove a host u)
  obtain ⟨hma, hmh⟩ := mapCluster_rest c f (perfCatch (putMove a host u))
  rw [setCl_active, hma, hp.active, putMove_active, setCl_host, hmh, hp.host, putMove_host]
  refine ⟨clState_setCl .., rfl, rfl, fun e he => ⟨eng (perfCatch (putMove a host u)) e, ?_, ?_, ?_⟩⟩
  · rw [hp.st, eng_putMove]
  · rw [hp.imem, eng_putMove]
  rw [eng_setCl, eng_mapCluster, hp.st, eng_putMove]
  by_cases h4 : (eng u e).st = 4
  · rw [if_neg fun h => h.2 h4, if_pos h4]
  · rw [if_pos ⟨he, h4⟩, if_neg h4]

/-- A cluster that migrates: its banks move, its groups run on the host cluster, its engines are LOADING. -/
def migrate (r : Restart) (s : State) : State :=
  setCl r.cl 2 (mapCluster r.cl (fun x => { x with st := 1, consec := 0, imem := none, dmem := x.dmem + 1 })
    (perfCatch (putMove { r with moved := some s.tick, banks := movedBanks r s }
      (if hostCluster r.cl < 12 then spSet (fun _ => 0) r.cl (hostCluster r.cl + 1) s.eng.host else s.eng.host)
      (moveBanks (movedBanks r s) (hostCluster r.cl) s))))

theorem moveBanks_eng (bs : List Nat) (h : Nat) (s : State) : (moveBanks bs h s).eng = s.eng :=
  (moveBanks_only ..).same .eng (by decide)

theorem moveBanks_tick (bs : List Nat) (h : Nat) (s : State) : (moveBanks bs h s).tick = s.tick :=
  (moveBanks_only ..).same .tick (by decide)

theorem eng_moveBanks (bs : List Nat) (h : Nat) (s : State) (e : Nat) : eng (moveBanks bs h s) e = eng s e := by
  unfold eng; rw [moveBanks_eng]

theorem migrate_engines (r : Restart) (s : State) : clState (migrate r s) r.cl = 2 ∧
    (migrate r s).eng.active = some { r with
      moved := some s.tick, banks := (if hostCluster r.cl < 12 then banksOf s r.cl else []) } ∧
    (hostCluster r.cl < 12 → spGet (fun _ => 0) (migrate r s).eng.host r.cl = hostCluster r.cl + 1) ∧
    ∀ e, e ∈ engsOf r.cl → (eng (migrate r s) e).st = (if (eng s e).st = 4 then 4 else 1) := by
  obtain ⟨h1, h2, h3, h4⟩ := moved_engines r.cl 2 (fun x => { x with
    st := 1, consec := 0, imem := none, dmem := x.dmem + 1 })
    { r with moved := some s.tick, banks := movedBanks r s }
    (if hostCluster r.cl < 12 then spSet (fun _ => 0) r.cl (hostCluster r.cl + 1) s.eng.host else s.eng.host)
    (moveBanks (movedBanks r s) (hostCluster r.cl) s)
  rw [← migrate] at h1 h2 h3 h4
  refine ⟨h1, h2, fun hh => ?_, fun e he => ?_⟩
  · rw [h3, if_pos hh, spGet_spSet, if_pos rfl]
  · obtain ⟨y, hy, -, hx⟩ := h4 e he
    rw [hx]
    rw [eng_moveBanks] at hy ⊢
    split
    · next h => rw [hy, h]
    · rfl

theorem exec_clusterMigration {s : State} {r : Restart} (ha : s.eng.active = some r) (hm : r.moved = none)
    (hmay : mayMigrate s r = true) : exec (.clusterMigration r.cl) s =
      .next (if mtIdle (migrate r s) then takeTarget 5 2 r.cl 0 (migrate r s) else migrate r s) := by
  show execClusterMigration r.cl s = _
  unfold execClusterMigration
  rw [ha]
  dsimp only
  rw [if_neg (by simp [hm, hmay])]
  unfold migrate putMove onEngines
  rw [← movedBanks, moveBanks_tick, moveBanks_eng]

/-- A cluster that returns: its banks come back, its groups run on it again, its loaded engines run. -/
def comeBack (r : Restart) (s : State) : State :=
  setCl r.cl 3 (mapCluster r.cl (fun x => { x with st := if x.imem.isSome then 2 else x.st })
    (perfCatch (putMove { r with back := some s.tick, banks := [] } (spSet (fun _ => 0) r.cl 0 s.eng.host)
      (moveBanks (returning s r) r.cl s))))

theorem exec_clusterReturn {s : State} {r : Restart} {m : Nat} (ha : s.eng.active = some r) (hr : r.ready = some m)
    (hb : r.back = none) (ht : m + 2 ≤ s.tick) : exec (.clusterReturn r.cl) s = .next (comeBack r s) := by
  show execClusterReturn r.cl s = _
  unfold execClusterReturn
  rw [ha]
  dsimp only
  rw [hr]
  dsimp only
  rw [if_neg (by simp [hb, ht])]
  unfold comeBack putMove onEngines
  rw [moveBanks_tick, moveBanks_eng, hr]

/-- Settles O43, by the guards of each event. -/
theorem engines : Obligations.Engines := by
  refine ⟨?_, ?_, ?_, ?_, ?_, ?_, ?_, ?_, ?_, ?_, ?_⟩
  · intro s hp
    have hx : exec .tickEdge s = .next _ := if_pos hp
    refine ⟨_, hx, rfl, ?_, ?_, ?_⟩
    · exact (Proofs.Guards.tickEdge_tick hx).trans (if_pos hp)
    · rw [(edgeOpen_only ..).same .cclk (by decide), (edgeFirmware_only ..).same .cclk (by decide),
        (edgeClose_only ..).same .cclk (by decide), cclk_edgeTime]
    · rw [latched_edgeOpen, core_of_only (edgeFirmware_only ..) (by decide), latched_edgeClose, latched_edgeTime]
  · intro s hp
    exact if_neg (by rw [tickRuns, hp]; decide)
  · intro e s h2 ho hd hc
    have hm : min 1023 ((eng s e).consec + 1) = (eng s e).consec + 1 := by omega
    refine ⟨_, (exec_tickOverrun h2 ho hd).trans (congrArg _ (if_neg (by omega))), ?_, ?_, (posts_overrun e s).1,
      (posts_overrun e s).2, fun f hf => ?_, overrun_only e s⟩
    · rw [eng_overrun, if_pos rfl, hm]
    · rw [overrun, rcGet_of_only (overrunGroups_only ..) (by decide), rcGet_overrunCounted]
    · rw [eng_overrun, if_neg hf]
  · intro e s h2 ho hd hc
    refine ⟨_, (exec_tickOverrun h2 ho hd).trans (congrArg _ (if_pos (by omega))), (eng_haltEngine ..).1, ?_⟩
    rw [(eng_haltEngine ..).2, eng_overrun, if_pos rfl]
  · intro e s h
    exact if_pos h
  · intro e s
    refine ⟨fun h => ⟨_, if_neg (not_not.mpr h), rfl, (eng_haltEngine ..).1, ?_, ?_, ?_⟩, fun h => if_pos h⟩
    · exact (haltEngine_only ..).same .tick (by decide)
    · exact (haltEngine_only ..).same .prot (by decide)
    · exact bank_of_only (haltEngine_only ..) (by decide) (by decide)
  · intro a b m s
    refine ⟨fun h => ?_, fun h => if_pos h⟩
    have hx : execFabricMessage a b m s = .next _ := if_neg (not_not.mpr h)
    have he : ∀ k, eng (engineEv (runs s a) 3 2 1 (levelAt (runs s a) (now s / 2)) none s) k = eng s k :=
      eng_of_only (engineEv_only ..) (by decide)
    refine ⟨_, hx, ?_, fun e hne => ?_, only_of_exec (c := .fabricMessage a b m) hx⟩
    · rw [eng_setEng, if_pos rfl, he, now, now, (engineEv_only ..).same .tick (by decide),
        (engineEv_only ..).same .cclk (by decide)]
    · rw [eng_setEng, if_neg hne, he]
  · intro c s r ha hc hm hmay
    subst hc
    refine ⟨_, exec_clusterMigration ha hm hmay, ?_⟩
    have h := migrate_engines r s
    generalize migrate r s = u at h ⊢
    split
    · have he : (takeTarget 5 2 r.cl 0 u).eng = u.eng := (takeTarget_only ..).same .eng (by decide)
      dsimp only
      unfold clState eng at h ⊢
      rw [he]
      exact h
    · exact h
  · intro c s r m ha hc hm hr ht
    subst hc
    have hx : execClusterReady r.cl s = .next (onEngines (fun e => { e with
        active := some { r with ready := some s.tick } })
        (mapCluster r.cl (fun x => { x with imem := some (r.version, r.meas) }) s)) := by
      unfold execClusterReady
      rw [ha]
      exact if_neg (by simp [hm, hr, ht])
    refine ⟨_, hx, rfl, fun e he => ?_, only_of_exec (c := .clusterReady r.cl) hx⟩
    have hk : ∀ u a, eng (onEngines (fun x => { x with active := a }) u) e = eng u e := fun _ _ => rfl
    rw [hk, eng_mapCluster]
    by_cases h4 : (eng s e).st = 4
    · rw [if_neg fun h => h.2 h4, if_pos h4]
    · rw [if_pos ⟨he, h4⟩, if_neg h4]
  · intro c s r m ha hc hr ht hb
    subst hc
    obtain ⟨h1, h2, h3, h4⟩ := moved_engines r.cl 3 (fun x => { x with st := if x.imem.isSome then 2 else x.st })
      { r with back := some s.tick, banks := [] } (spSet (fun _ => 0) r.cl 0 s.eng.host)
      (moveBanks (returning s r) r.cl s)
    rw [← comeBack] at h1 h2 h3 h4
    refine ⟨_, exec_clusterReturn ha hr hb ht, h1, ?_, h2, fun e he => ?_⟩
    · rw [h3, spGet_spSet, if_pos rfl]
    · obtain ⟨y, hy, him, hx⟩ := h4 e he
      rw [hx]
      rw [eng_moveBanks] at hy him ⊢
      by_cases h : (eng s e).st = 4
      · rw [if_pos h, if_neg fun k => k.1 h, hy]
      · rw [if_neg h]
        dsimp only
        rw [hy, him]
        simp only [ne_eq, h, not_false_eq_true, true_and]
  · intro c s h
    refine ⟨?_, ?_, ?_⟩
    · show execClusterMigration c s = _
      unfold execClusterMigration
      split
      · rfl
      · next r hr => rw [if_pos (.inl (h r hr))]
    · show execClusterReady c s = _
      unfold execClusterReady
      split
      · rfl
      · next r hr => rw [if_pos (.inl (h r hr))]
    · show execClusterReturn c s = _
      unfold execClusterReturn
      split
      · rfl
      · next r hr =>
        split
        · rfl
        · rw [if_pos (.inl (h r hr))]

end Sys2Proof.Proofs.EngineEvents
end

section
/-! PROOFS. Core steps and rows, the training of lanes, capability frames and the messages of groups. -/

set_option Elab.async false

namespace Sys2Proof.Proofs.LineEvents

open Sys2Proof Sys2Proof.Machine Sys2Proof.Laws Sys2Proof.Proofs.Frame Sys2Proof.Proofs.HostInterface
  Sys2Proof.Proofs.Access Sys2Proof.Proofs.LaneWrites

/-- A row that the codewords of a lane in lock hold is read against the group's close. -/
theorem exec_rowRx {l p k : Nat} {bs : Bytes} {s u : State} {h : HeaderStep} (hl : laneOk l = true)
    (hx : (lane s l).trn.rx = 3) (hr : rowAt s l p = some bs)
    (hu : u = closeGroup (portOf l) { s with cclk := k % 2048 })
    (hh : h = headerStep (lane s l).frm (rowsOf (laneRate u l)) p (headerFits (laneRate u l) bs) (hdrRow bs)) :
    exec (.rowRx l p k bs) s =
      (if h.sync then .next (advancePort (portOf l) (syncRow l p h bs
          (onlyIf h.mimic (fun s => raise .mimic l 0 (count (laneBase l + 0x82C) s)) u)))
        else .next (setLane l { lane (onlyIf h.mimic (fun s => raise .mimic l 0 (count (laneBase l + 0x82C) s)) u) l with
          frm := h.frm } (onlyIf h.mimic (fun s => raise .mimic l 0 (count (laneBase l + 0x82C) s)) u))) := by
  show execRowRx l p k bs s = _
  unfold execRowRx
  dsimp only
  rw [if_neg (by simp [hl, hx]), if_neg (by simp [hr]), ← hu, ← hh]

/-- Settles O44, by the guards of the three events. -/
theorem coreAndRows : Obligations.CoreAndRows := by
  refine ⟨?_, ?_, ?_, ?_, ?_, ?_, ?_, ?_⟩
  · intro k s u v hr hk hn hu hv
    have hx : execCoreStep k s = _ := if_neg (by simp [hr, hk])
    subst hv hu
    exact hx.trans (if_neg (by rw [hn]; decide))
  · intro k s hr hk hn
    have hx : execCoreStep k s = _ := if_neg (by simp [hr, hk])
    exact hx.trans (if_pos hn)
  · intro m s hr hm
    exact if_neg (by simp [hr, hm])
  · intro l p k bs s u h hl hx hr hu hh hm
    have he := exec_rowRx hl hx hr hu hh
    rw [hm] at he
    refine ⟨fun hs => ?_, fun hs => ?_⟩
    · rw [he, if_pos hs]; rfl
    · rw [he, hs]; rfl
  · intro l p k bs s u v h hl hx hr hu hh hm hs hv
    rw [exec_rowRx hl hx hr hu hh, hm, hs, hv]
    rfl
  · intro l p k bs s h
    show execRowRx l p k bs s = _
    unfold execRowRx
    dsimp only
    split
    · rfl
    · next hg =>
      refine if_pos ?_
      rcases h with h | h | h
      · exact absurd (by simp [h]) hg
      · exact absurd (by rw [decide_eq_true h, Bool.or_true]) hg
      · exact h
  · intro k s h
    refine if_pos ?_
    rcases h with h | h <;> simp [h]
  · intro m s h
    refine if_pos ?_
    rcases h with h | h <;> simp [h]

theorem decodeCodeword_ui (b : Bool) (c : CodewordIn) : (decodeCodeword b c).ui = c.ui := by
  unfold decodeCodeword
  dsimp only
  split <;> rfl

theorem frameSent_training {l v more : Nat} {x : Lane} (h : x.trn.tx ≠ 2) : frameSent l v more x =
    startCountdown { x.trn with
      sent := frameLevels (inPort l) (sentControl l x) (sentStatus x.trn v) more, readySent := x.trn.ready } := if_pos h

theorem frameSent_counting {l v more : Nat} {x : Lane} (h : x.trn.tx = 2) (hf : x.trn.framesLeft ≠ 1) :
    frameSent l v more x = { x.trn with
      sent := frameLevels (inPort l) (sentControl l x) (sentStatus x.trn v) more, readySent := x.trn.ready
      framesLeft := x.trn.framesLeft - 1 } := (if_neg (not_not.mpr h)).trans (if_neg hf)

theorem frameSent_last {l v more : Nat} {x : Lane} (h : x.trn.tx = 2) (hf : x.trn.framesLeft = 1) :
    frameSent l v more x = { x.trn with
      sent := frameLevels (inPort l) (sentControl l x) (sentStatus x.trn v) more, readySent := x.trn.ready
      framesLeft := 0, tx := 3 } := (if_neg (not_not.mpr h)).trans (if_pos hf)

/-- A training frame sent: the lane, and after the last frame the codewords (03_lanes.md). -/
theorem exec_trainingFrameTx {l more : Nat} {s : State} {last : Bool} (hl : laneOk l = true)
    (hx : (lane s l).trn.tx = 1 ∨ (lane s l).trn.tx = 2)
    (hlast : (decide ((lane s l).trn.tx = 2) && decide ((lane s l).trn.framesLeft = 1)) = last)
    (hm : more = (2720 - cycleUi (tapValue (lane s l).trn s).2 (laneRate (tapValue (lane s l).trn s).2 l) % 2720) %
      2720) :
    exec (.trainingFrameTx l) s = .next (onlyIf last (beginCodewords l
      ((cycleUi (tapValue (lane s l).trn s).2 (laneRate (tapValue (lane s l).trn s).2 l) + more) / 2720 * 640))
      (setLane l { lane s l with
        trn := frameSent l (tapValue (lane s l).trn s).1 (if last then more else 0) (lane s l)
        tim := { (lane s l).tim with
          trainAt := (if (last && decide ((lane s l).trn.rx = 3)) = true then none else (lane s l).tim.trainAt) } }
        (tapValue (lane s l).trn s).2)) := by
  have hg : ¬ (!laneOk l || !(decide ((lane s l).trn.tx = 1) || decide ((lane s l).trn.tx = 2))) = true := by
    rw [hl]
    rcases hx with h | h <;> rw [h] <;> decide
  show execTrainingFrameTx l s = _
  unfold execTrainingFrameTx
  dsimp only
  rw [if_neg hg, hlast]
  generalize tapValue (lane s l).trn s = w at hm ⊢
  obtain ⟨v, u⟩ := w
  dsimp only at hm ⊢
  rw [← hm]

/-- A write of a lane after the tap value is read touches the free values and that lane only. -/
theorem sentLane (l : Nat) (x : Lane) (t : Training) (s : State) :
    lane (setLane l x (tapValue t s).2) l = x ∧
      (∀ m, m ≠ l → lane (setLane l x (tapValue t s).2) m = lane s m) ∧
      Only [.free, .lanes] s (setLane l x (tapValue t s).2) := by
  refine ⟨by rw [lane_setLane, if_pos rfl], fun m hm => ?_, Only.then (Only.mono (tapValue_only ..)) (setLane_only ..)⟩
  rw [lane_setLane, if_neg hm, lane_of_only (tapValue_only ..) (by decide)]

/-- Settles O45, by the guards of the events of a lane. -/
theorem laneTraining : Obligations.LaneTraining := by
  refine ⟨?_, ?_, ?_, ?_, ?_, ?_, ?_, ?_, ?_, ?_, ?_, ?_, ?_, ?_, ?_, ?_, ?_⟩
  · intro l fr s T hl hx hi hh hT
    subst hT
    have he : execTrainingFrameRx l fr s = .next _ := (if_neg (by simp [hl, hx, hi])).trans
      ((if_neg (by simp [hh])).trans (if_neg (by simp [hx])))
    refine ⟨_, he, by rw [lane_setLane, if_pos rfl], fun m hm => by rw [lane_setLane, if_neg hm], setLane_only ..⟩
  · intro l fr s a T hl hx hi hh hT
    have he : execTrainingFrameRx l fr s = _ :=
      (if_neg (by rw [hl, decide_eq_false hx, hi]; decide)).trans (if_pos (by rw [hh]; rfl))
    dsimp only at he
    rw [← hT] at he
    refine ⟨fun h1 h2 => he.trans (if_pos (by simp [h1, h2])), fun h => he.trans (if_neg ?_)⟩
    rcases h with h | h <;> simp [h]
  · intro l s v hl hx hv
    subst hv
    have hb : (decide ((lane s l).trn.tx = 2) && decide ((lane s l).trn.framesLeft = 1)) = false := by
      rw [hx]; rfl
    refine ⟨_, exec_trainingFrameTx hl (.inl hx) hb rfl, ?_⟩
    rw [onlyIf_false]
    obtain ⟨h1, h2, h3⟩ := sentLane l _ (lane s l).trn s
    refine ⟨?_, h2, h3⟩
    rw [h1]
    exact frameSent_training (by rw [hx]; decide)
  · intro l s v hl hx hf hv
    subst hv
    have hb : (decide ((lane s l).trn.tx = 2) && decide ((lane s l).trn.framesLeft = 1)) = false := by
      rw [decide_eq_false hf, Bool.and_false]
    refine ⟨_, exec_trainingFrameTx hl (.inr hx) hb rfl, ?_⟩
    rw [onlyIf_false]
    obtain ⟨h1, h2, h3⟩ := sentLane l _ (lane s l).trn s
    refine ⟨?_, h2, h3⟩
    rw [h1]
    exact frameSent_counting hx hf
  · intro l s w u more hl hx hf hw hu hm
    have hb : (decide ((lane s l).trn.tx = 2) && decide ((lane s l).trn.framesLeft = 1)) = true := by
      rw [decide_eq_true hx, decide_eq_true hf, Bool.and_self]
    subst hw hu
    rw [exec_trainingFrameTx hl (.inr hx) hb hm, onlyIf_true, if_pos rfl, frameSent_last hx hf]
    simp only [Bool.true_and, decide_eq_true_eq]
  · intro l n s hl hd
    exact if_pos (by rw [hl, hd]; rfl)
  · intro l s hl hd hf
    exact if_pos (by rw [hl, hd, hf]; rfl)
  · intro l s hl hd
    exact if_pos (by rw [hl, hd]; rfl)
  · intro l a b s hl
    have he : execLaneSignalChange l a b s = .next _ := if_neg (by simp [hl])
    exact ⟨_, he, by rw [lane_setLane, if_pos rfl], fun m hm => by rw [lane_setLane, if_neg hm], setLane_only ..⟩
  · intro l c s d hl hx hd hu
    subst hd
    have he : execCodewordRx l c s = _ := (if_neg (by simp [hl])).trans (if_pos hx)
    exact he.trans (if_pos (by rw [decodeCodeword_ui, hu]))
  · intro l c s hl hx
    exact (if_neg (by simp [hl])).trans ((if_neg (by rw [hx]; decide)).trans (if_pos hx))
  · intro l c s hl h
    refine (if_neg (by simp [hl])).trans ?_
    rcases h with ⟨hx, hu⟩ | ⟨h3, h2⟩
    · exact (if_pos hx).trans (if_neg (by rw [decodeCodeword_ui]; exact hu))
    · exact (if_neg h3).trans (if_neg h2)
  · intro l fr s hl h
    show execTrainingFrameRx l fr s = _
    unfold execTrainingFrameRx
    dsimp only
    split
    · rfl
    · next hg =>
      rcases h with h | h | ⟨hh, hx⟩
      · exact absurd (by rw [decide_eq_true h, Bool.or_true]; rfl) hg
      · exact absurd (by rw [h, Bool.or_true]) hg
      · rw [if_neg (by rw [hh]; decide), if_pos hx]
  · intro l s hl h1 h2
    exact if_pos (by rw [decide_eq_false h1, decide_eq_false h2, hl]; rfl)
  · intro l n s h
    refine if_neg ?_
    rcases h with h | h <;> simp [h]
  · intro l s h
    refine if_neg ?_
    rcases h with h | h | h <;> simp [h]
  · intro l s h
    refine if_neg ?_
    rcases h with h | h <;> simp [h]

theorem takeFrame_frame {l : Nat} {ty : Byte} {bs : Bytes} {s u : State} (h : takeFrame l ty bs s = some u) :
    u = { s with frames := s.frames.erase (l, ty, bs) } := by
  unfold takeFrame at h
  split at h
  · exact (Option.some.inj h).symm
  · cases h

/-- What a capability frame taken leaves of the ports: it was heard, and is good or has its reason. -/
theorem capTake_ports (p : Nat) (b : Bytes) (s : State) :
    (port (capTake p b s) p).cap.heardAt = some (now s) ∧ (port (capTake p b s) p).cap.silent = false ∧
      ((port (capTake p b s) p).cap.ok = true ↔ capReason s p b = 0) ∧
      (capReason s p b ≠ 0 → (port (capTake p b s) p).cap.reason = BitVec.ofNat 4 (capReason s p b)) ∧
      (port (capTake p b s) p).st = (port s p).st ∧ ∀ r, r ≠ p → port (capTake p b s) r = port s r := by
  have hr : ∀ c x u k, port (onlyIf c (raise .capChange p x) u) k = port u k := fun c x u k => by
    unfold onlyIf
    split
    · exact port_of_only (raise_only ..) (by decide) k
    · rfl
  unfold capTake
  dsimp only
  split
  · next h =>
    simp only [port_setPort, if_true, h, Bool.false_eq_true, implies_true, true_and]
    intro r hp
    rw [if_neg hp]
  · next h =>
    rw [not_not] at h
    simp only [hr, port_setPort, if_true, h, true_and, ne_eq, not_true_eq_false, false_implies]
    intro r hp
    rw [if_neg hp]

/-- Settles O46, by the guards of the four events. -/
theorem capability : Obligations.Capability := by
  refine ⟨?_, ?_, ?_, ?_, ?_, ?_, ?_⟩
  · intro l bs s u hu hb h4
    have hx : execCapabilityFrameRx l bs s = .next (capTake (portOf l) bs u) := by
      unfold execCapabilityFrameRx
      rw [hu]
      exact if_pos (by rw [hb, decide_eq_true h4]; rfl)
    have hs := takeFrame_frame hu
    have hn : now u = now s := by rw [hs]; rfl
    have hp : ∀ r, port u r = port s r := by rw [hs]; exact fun _ => rfl
    have h := capTake_ports (portOf l) bs u
    rw [hn] at h
    simp only [hp] at h
    exact ⟨_, hx, rfl, h⟩
  · intro l bs s u hu h
    show execCapabilityFrameRx l bs s = _
    unfold execCapabilityFrameRx
    rw [hu]
    refine if_neg ?_
    rcases h with h | h
    · rw [h, Bool.false_and]; decide
    · rw [decide_eq_false (Nat.not_le.mpr h), Bool.and_false]; decide
  · intro l bs s hu
    show execCapabilityFrameRx l bs s = _
    unfold execCapabilityFrameRx
    rw [hu]
  · intro p l s hp hl h
    have hd : (if (port s p).st = 4 then (lane s l).out.msg.isEmpty
        else decide ((port s p).cap.sentAt + 1000 ≤ s.tick) || decide (capPayload s p ≠ (port s p).cap.sent)) = true := by
      rcases h with ⟨h4, hm⟩ | ⟨h5, hm⟩
      · rw [if_pos h4, hm]
      · rw [if_neg (by intro e; rw [e] at h5; exact absurd h5 (by decide)), Bool.or_eq_true, decide_eq_true_eq,
          decide_eq_true_eq]
        exact hm
    have h4 : ¬ (port s p).st.toNat < 4 := by
      rcases h with ⟨h4, -⟩ | ⟨h5, -⟩
      · rw [h4]; decide
      · omega
    obtain ⟨a, hx⟩ : ∃ a, execCapabilitySend p s = .next (setPort p { port s p with cap := { (port s p).cap with
        sent := capPayload s p, sentAt := s.tick, agreeNow := a } } (sendFrame l 0x01 (capPayload s p) s)) := by
      unfold execCapabilitySend
      rw [hl]
      dsimp only
      rw [hd, if_neg (by rintro (h | h | h); exacts [by omega, h4 h, by cases h])]
      exact ⟨_, rfl⟩
    have ho : ∀ r, port (sendFrame l 0x01 (capPayload s p) s) r = port s r :=
      port_of_only (sendFrame_only ..) (by decide)
    refine ⟨_, hx, ?_, ?_, ?_, rfl, fun r hr => ?_, ?_⟩
    · rw [port_setPort, if_pos rfl]
    · rw [port_setPort, if_pos rfl]
    · rw [port_setPort, if_pos rfl]
    · rw [port_setPort, if_neg hr, ho]
    · exact Only.then (Only.mono (sendFrame_only ..)) (setPort_only ..)
  · intro p s h
    show execCapabilitySend p s = _
    unfold execCapabilitySend
    split
    · rfl
    · next l hl =>
      rcases h with h | h
      · rw [h] at hl; cases hl
      · exact if_pos (.inr (.inl h))
  · intro p s hp h4 ha hd
    have hx : execCapabilityTimeout p s = .next _ := if_pos (by rw [decide_eq_true hp, decide_eq_true h4, ha, hd]; rfl)
    have hport : ∀ v r, port (raise .capFail p (port s p).cap.reason.toNat (count (portBase p + 0x40) v)) r = port v r :=
      fun v r => by rw [port_of_only (raise_only ..) (by decide), port_of_only (count_only ..) (by decide)]
    refine ⟨_, hx, ?_, ?_, fun r hr => ?_, rfl⟩
    · rw [hport, port_setPort, if_pos rfl]
    · rw [hport, port_setPort, if_pos rfl]; exact h4
    · rw [hport, port_setPort, if_neg hr]
  · intro p s hp h5 hs hd
    have hx : execCapabilitySilence p s = .next _ := if_pos (by rw [decide_eq_true hp, decide_eq_true h5, hs, hd]; rfl)
    exact ⟨_, hx, by rw [port_setPort, if_pos rfl], fun r hr => by rw [port_setPort, if_neg hr], setPort_only ..⟩

/-- What becomes of a message that the framer delivered, once it has left the inbox (08_protection.md). -/
def heardOn (l : Nat) (w : Word) (u : State) : State :=
  if !srOn u (portOf l) then u
  else if 0xA < (msgReq w).1 ∨ bitsOf w.toNat 2 0 ≠ 0 then count 0x330050 u
  else match group u (bitsOf w.toNat 27 15) with
    | none => count 0x330050 u
    | some x =>
      if x.dfn.sr.map (·.1) ≠ some (portOf l) then count 0x330050 u
      else if x.dfn.srLane ≠ some l then count 0x33004C u
      else if x.dfn.n < (msgReq w).2 ∨ x.dfn.n < msgBr w then count 0x330050 u
      else heardMsg (bitsOf w.toNat 27 15) (persistOf u (portOf l)) w x u

theorem exec_srmRx {l : Nat} {w : Word} {s u : State} {m : SrMsg}
    (hm : s.prot.inbox.find? (fun m => m.lane = l && m.msg = w) = some m)
    (hu : u = { s with prot := { s.prot with inbox := s.prot.inbox.erase m } }) :
    exec (.srmRx l w) s = .next (heardOn l w u) := by
  show execSrmRx l w s = _
  unfold execSrmRx
  rw [hm]
  dsimp only
  rw [← hu]
  unfold heardOn
  split
  · rfl
  · split
    · rfl
    · cases group u (bitsOf w.toNat 27 15) with
      | none => rfl
      | some x =>
        dsimp only
        split
        · rfl
        · split
          · rfl
          · split <;> rfl

/-- A channel that fails is noted once. -/
theorem chFail_first {g c : Nat} {s : State} {x : Group} (hx : group s g = some x) (h : x.chCause = 0) :
    chFail g c s = raise .chFail g c (count 0x330044 (setGroup g { x with chCause := c, changed := true } s)) := by
  unfold chFail
  rw [hx]
  exact if_neg (not_not.mpr h)

theorem chFail_again {g c : Nat} {s : State} {x : Group} (hx : group s g = some x) (h : x.chCause ≠ 0) :
    chFail g c s = s := by
  unfold chFail
  rw [hx]
  exact if_pos h

/-- Settles O47, by the order of the checks of a message and the times of a group. -/
theorem groupEvents : Obligations.GroupEvents := by
  refine ⟨?_, ?_, ?_, ?_, ?_, ?_⟩
  · intro l w s m u hm hu ho
    have hx := exec_srmRx hm hu
    have ho' : ¬ (!srOn u (portOf l)) = true := by rw [ho]; decide
    refine ⟨fun h => hx.trans (congrArg _ ?_), fun x h1 h2 hg => ?_⟩
    · refine (if_neg ho').trans ?_
      split
      · rfl
      · next hn =>
        rcases h with h | h | h
        · exact absurd (.inl h) hn
        · exact absurd (.inr h) hn
        · rw [h]
    · have hy : heardOn l w u = (if x.dfn.sr.map (·.1) ≠ some (portOf l) then count 0x330050 u
          else if x.dfn.srLane ≠ some l then count 0x33004C u
          else if x.dfn.n < (msgReq w).2 ∨ x.dfn.n < msgBr w then count 0x330050 u
          else heardMsg (bitsOf w.toNat 27 15) (persistOf u (portOf l)) w x u) := by
        unfold heardOn
        rw [if_neg ho', if_neg (by rintro (h | h); exacts [by omega, h h2]), hg]
      rw [hx, hy]
      refine ⟨fun h => ?_, fun h hl => ?_, fun h hl hn => ?_, fun h hl hn hb => ?_⟩
      · rw [if_pos h]
      · rw [if_neg (not_not.mpr h), if_pos hl]
      · rw [if_neg (not_not.mpr h), if_neg (not_not.mpr hl), if_pos hn]
      · rw [if_neg (not_not.mpr h), if_neg (not_not.mpr hl), if_neg (by omega)]
  · intro l w s m hm ho
    refine (exec_srmRx hm rfl).trans (congrArg _ (if_pos ?_))
    show (!srOn s (portOf l)) = true
    rw [ho]; rfl
  · intro g s x e hg hw he
    show execWtrExpiry g s = _
    unfold execWtrExpiry
    rw [hg]
    dsimp only
    rw [hw]
    exact if_pos he
  · intro g s x ended hg he hne
    subst he
    show execExerTimeout g s = _
    unfold execExerTimeout
    rw [hg]
    dsimp only
    rw [List.partition_eq_filter_filter]
    exact if_neg (by rw [List.isEmpty_iff]; exact hne)
  · intro c g s x cause hg hc
    have hx : exec c s = .next (chFail g cause s) := by
      rcases hc with ⟨rfl, rfl, l, hl, hd⟩ | ⟨rfl, rfl, a, ha, hd⟩
      · show execChannelTimeout g s = _
        unfold execChannelTimeout
        rw [hg]
        dsimp only
        rw [hl]
        exact if_pos hd
      · show execNoResponseTimeout g s = _
        unfold execNoResponseTimeout
        rw [hg]
        dsimp only
        rw [ha]
        exact if_pos hd
    exact ⟨fun h => by rw [hx, chFail_first hg h], fun h => by rw [hx, chFail_again hg h]⟩
  · intro g s x a n u hg hb hr hd ht hu
    subst hu
    show execRestoreHoldExpiry g s = _
    unfold execRestoreHoldExpiry
    rw [hg]
    dsimp only
    rw [hb, hr]
    refine if_neg ?_
    rintro (h | h)
    · rw [hd] at h; cases h
    · omega

end Sys2Proof.Proofs.LineEvents
end

section
/-! PROOFS. What the events of the journal keep: TERM. -/

set_option Elab.async false

namespace Sys2Proof.Proofs.Term

open Sys2Proof Sys2Proof.Machine Sys2Proof.Laws

/-- TERM, the term in force, is the same in both states. -/
structure TermKept (s t : State) : Prop where
  term : t.jnl.term = s.jnl.term

theorem TermKept.refl (s : State) : TermKept s s := ⟨rfl⟩

theorem TermKept.then {s t u : State} (h : TermKept s t) (k : TermKept t u) : TermKept s u :=
  ⟨k.term.trans h.term⟩

/-- An operation that leaves the journal leaves TERM. -/
theorem TermKept.quiet {ps : List Part} {s t u : State} (h : TermKept s t) (k : Only ps t u)
    (hp : (!ps.contains .jnl) = true := by rfl) : TermKept s u :=
  ⟨(congrArg Jnl.term (k.same .jnl (by simpa using hp))).trans h.term⟩

theorem TermKept.ite {s t u : State} {c : Prop} [Decidable c] (h : TermKept s t) (k : TermKept s u) :
    TermKept s (if c then t else u) := by
  split <;> assumption

theorem TermKept.fold {α : Type} {xs : List α} {s t : State} {f : State → α → State} (h : TermKept s t)
    (k : ∀ u x, TermKept s u → TermKept s (f u x)) : TermKept s (xs.foldl f t) := by
  induction xs generalizing t with
  | nil => exact h
  | cons x xs ih => exact ih (k t x h)

theorem TermKept.all {α : Type} {xs : List α} {s t : State} {f : α → State → State} (h : TermKept s t)
    (k : ∀ x u, TermKept s u → TermKept s (f x u)) : TermKept s (forAll xs f t) :=
  TermKept.fold h fun u x => k x u

theorem TermKept.updAbacus {s t : State} (h : TermKept s t) {x} : TermKept s { t with abacus := x } := ⟨h.term⟩

theorem TermKept.updSmb {s t : State} (h : TermKept s t) {x} : TermKept s { t with smb := x } := ⟨h.term⟩

theorem TermKept.updMem {s t : State} (h : TermKept s t) {x} :
    TermKept s { t with hif := { t.hif with hostMem := x } } := ⟨h.term⟩

theorem TermKept.updPast {s t : State} (h : TermKept s t) {x} :
    TermKept s { t with mgmt := { t.mgmt with past := x } } := ⟨h.term⟩

theorem journal_term (p : JPay) (s : State) : TermKept s (journal p s) := by
  constructor
  unfold journal
  dsimp only
  split <;> rfl

theorem deliver_term (e : EvRec) (s : State) : TermKept s (deliver e s) := by
  constructor
  unfold deliver
  dsimp only
  split
  · exact (journal_term ..).term
  · rfl

theorem deliverAll_term (n : Nat) (e : EvRec) (s : State) : TermKept s (deliverAll n e s) := by
  induction n generalizing e s with
  | zero => exact deliver_term e s
  | succ n ih =>
    unfold deliverAll
    refine TermKept.fold (deliver_term e s) fun u x hu => ?_
    refine TermKept.then ?_ (ih ..)
    exact TermKept.updSmb hu

theorem raiseX_term (ev : Ev) (clear : Bool) (obj data : Nat) (s : State) : TermKept s (raiseX ev clear obj data s) := by
  unfold raiseX
  dsimp -iota -proj only
  refine TermKept.ite ?_ ?_
  · exact TermKept.then (TermKept.updSmb (TermKept.refl _)) (deliverAll_term ..)
  · exact TermKept.quiet (TermKept.updSmb (TermKept.refl _)) (holdBack_only ..)

theorem raise_term (ev : Ev) (obj data : Nat) (s : State) : TermKept s (raise ev obj data s) := by
  unfold raise
  exact TermKept.then (TermKept.refl _) (raiseX_term ..)

theorem queueError_term (q cause : Nat) (s : State) : TermKept s (queueError q cause s) := by
  unfold queueError
  dsimp -iota -proj only
  exact TermKept.then (TermKept.quiet (TermKept.quiet (TermKept.refl _) (setQueue_only ..)) (fire_only ..)) (raise_term ..)

theorem discardBatch_term (q : Nat) (s : State) : TermKept s (discardBatch q s) := by
  unfold discardBatch
  refine TermKept.ite ?_ ?_
  · exact TermKept.then (TermKept.updAbacus (TermKept.refl _)) (raise_term ..)
  · exact TermKept.refl _

theorem finishClosing_term (q : Nat) (s : State) : TermKept s (finishClosing q s) := by
  unfold finishClosing
  dsimp -iota -proj only
  refine TermKept.ite ?_ ?_
  · exact TermKept.then (TermKept.quiet (TermKept.refl _) (setQueue_only ..)) (discardBatch_term ..)
  · exact TermKept.refl _

theorem writeCpl_term (q : Nat) (desc : Bytes) (a : Answer) (s : State) : TermKept s (writeCpl q desc a s) := by
  unfold writeCpl
  dsimp -iota -proj only
  refine TermKept.ite ?_ ?_
  · exact TermKept.quiet (TermKept.refl _) (setQueue_only ..)
  · refine TermKept.ite ?_ ?_
    · refine TermKept.ite ?_ ?_
      · exact TermKept.quiet (TermKept.refl _) (setQueue_only ..)
      · exact TermKept.then (TermKept.quiet (TermKept.refl _) (setQueue_only ..)) (queueError_term ..)
    · exact TermKept.quiet (TermKept.updMem (TermKept.quiet (TermKept.refl _) (setQueue_only ..))) (signalCpl_only ..)

theorem skipUndefined_term (fuel q : Nat) (s : State) : TermKept s (skipUndefined fuel q s) := by
  induction fuel generalizing s with
  | zero => exact TermKept.refl _
  | succ n ih =>
    unfold skipUndefined
    dsimp -iota -proj only
    split
    · refine TermKept.ite (TermKept.refl _) (TermKept.ite ?_ (TermKept.ite (TermKept.refl _) ?_))
      · exact TermKept.then (TermKept.then (TermKept.quiet (TermKept.refl _) (setQueue_only ..)) (writeCpl_term ..)) (ih ..)
      · exact TermKept.then (TermKept.then (TermKept.quiet (TermKept.refl _) (setQueue_only ..)) (writeCpl_term ..)) (ih ..)
    · exact TermKept.refl _

theorem completeNow_term (q : Nat) (a : Answer) (s : State) : TermKept s (completeNow q a s) := by
  unfold completeNow
  dsimp -iota -proj only
  split
  · exact TermKept.refl _
  · refine TermKept.then ?_ (finishClosing_term ..)
    refine TermKept.then ?_ (skipUndefined_term ..)
    refine TermKept.ite ?_ ?_
    · exact TermKept.quiet (TermKept.then (TermKept.quiet (TermKept.refl _) (setQueue_only ..)) (writeCpl_term ..))
        (setQueue_only ..)
    · exact TermKept.then (TermKept.quiet (TermKept.refl _) (setQueue_only ..)) (writeCpl_term ..)

theorem completeAs_term (kept q : Nat) (a : Answer) (s : State) : TermKept s (completeAs kept q a s) := by
  unfold completeAs
  refine TermKept.ite ?_ ?_
  · exact TermKept.updPast (TermKept.refl _)
  · exact TermKept.then (TermKept.refl _) (completeNow_term ..)

theorem complete_term (q : Nat) (a : Answer) (s : State) : TermKept s (complete q a s) := by
  unfold complete
  exact TermKept.then (TermKept.refl _) (completeAs_term ..)

theorem completeOpt_term (q : Option Nat) (a : Answer) (s : State) : TermKept s (completeOpt q a s) := by
  unfold completeOpt
  split
  · exact TermKept.refl _
  · exact TermKept.then (TermKept.refl _) (complete_term ..)

theorem onRegions_term (f : Region → Region) (s : State) : TermKept s (onRegions f s) := ⟨rfl⟩

theorem restoreFail_term (g : Nat) (s : State) : TermKept s (restoreFail g s) := by
  unfold restoreFail
  exact TermKept.then (TermKept.refl _) (raise_term ..)

theorem startWork_term (w : PageWork) (s : State) : TermKept s (startWork w s) := by
  unfold startWork
  dsimp -iota -proj only
  split
  · refine TermKept.ite ?_ ?_
    · exact TermKept.quiet (TermKept.quiet (TermKept.refl _) (setScen_only ..)) (onPage_only ..)
    · exact TermKept.then (TermKept.refl _) (complete_term ..)
  · refine TermKept.ite ?_ ?_
    · refine TermKept.ite ?_ ?_
      · exact TermKept.quiet (TermKept.quiet (TermKept.refl _) (setScen_only ..)) (onPage_only ..)
      · exact TermKept.then (TermKept.refl _) (restoreFail_term ..)
    · exact TermKept.then (TermKept.refl _) (restoreFail_term ..)
  · exact TermKept.quiet (TermKept.quiet (TermKept.quiet (TermKept.quiet (TermKept.refl _) (endRebuild_only ..))
      (onPage_only ..)) (setScen_only ..)) (onPage_only ..)
  · exact TermKept.quiet (TermKept.quiet (TermKept.refl _) (onAbacus_only ..)) (onPage_only ..)

theorem kick_term (fuel : Nat) (s : State) : TermKept s (kick fuel s) := by
  induction fuel generalizing s with
  | zero => exact TermKept.refl _
  | succ n ih =>
    unfold kick
    refine TermKept.ite (TermKept.refl _) ?_
    split
    · exact TermKept.refl _
    · exact TermKept.then (TermKept.then (TermKept.quiet (TermKept.refl _) (onPage_only ..)) (startWork_term ..)) (ih ..)

theorem kickAll_term (s : State) : TermKept s (kickAll s) := by
  unfold kickAll
  exact TermKept.then (TermKept.refl _) (kick_term ..)

theorem preempt_term (s : State) : TermKept s (preempt s) := by
  have h : ∀ q, TermKept s (completeOpt q (ans stPreempted) (perfEv 0x13 0x03 0 1 (count 0x310020 s))) := fun q =>
    TermKept.then (TermKept.quiet (TermKept.quiet (TermKept.refl s) (count_only ..)) (perfEv_only ..))
      (completeOpt_term ..)
  have hw : ∀ q w, TermKept s (resync (dropWork w (completeOpt q (ans stPreempted)
      (perfEv 0x13 0x03 0 1 (count 0x310020 s))))) := fun q w =>
    TermKept.quiet (TermKept.quiet (h q) (dropWork_only ..)) (resync_only ..)
  unfold preempt
  dsimp -iota -proj only
  split
  · exact TermKept.refl s
  · refine TermKept.ite (TermKept.refl s) ?_
    split
    · refine TermKept.ite ?_ ?_
      · exact TermKept.quiet (TermKept.quiet (h _) (dropSave_only ..)) (resync_only ..)
      · exact TermKept.quiet (TermKept.quiet (h _) (dropSave_only ..)) (onPage_only ..)
    · exact TermKept.quiet (TermKept.quiet (h _) (setScen_only ..)) (resync_only ..)
    · exact hw ..
    · exact hw ..
    · exact TermKept.ite (TermKept.refl s) (hw ..)
    · exact TermKept.refl s

theorem request_term (w : PageWork) (s : State) : TermKept s (request w s) := by
  unfold request
  dsimp -iota -proj only
  refine TermKept.then ?_ (kickAll_term ..)
  refine TermKept.quiet ?_ (onPage_only ..)
  refine TermKept.ite ?_ ?_
  · exact TermKept.then (TermKept.quiet (TermKept.refl _) (abandonPageTest_only ..)) (preempt_term ..)
  · exact TermKept.quiet (TermKept.refl _) (abandonPageTest_only ..)

theorem endRelease_term (b st : Nat) (s : State) : TermKept s (endRelease b st s) := by
  unfold endRelease
  dsimp -iota -proj only
  exact TermKept.then (TermKept.quiet (TermKept.refl _) (setBank_only ..)) (completeOpt_term ..)

theorem reallocateBanks_term (s : State) : TermKept s (reallocateBanks s) := by
  unfold reallocateBanks
  dsimp -iota -proj only
  refine TermKept.all ?_ fun x u hu => ?_
  · exact TermKept.refl _
  · refine TermKept.ite ?_ ?_
    · assumption
    · refine TermKept.ite ?_ ?_
      · exact TermKept.quiet hu (setBank_only ..)
      · exact TermKept.quiet (TermKept.then hu (endRelease_term ..)) (handOver_only ..)

theorem writeSel_term (e g : Nat) (bs : List (Nat × Bool)) (s : State) : TermKept s (writeSel e g bs s) := by
  unfold writeSel
  refine TermKept.ite ?_ ?_
  · exact TermKept.quiet (TermKept.refl _) (setSel_only ..)
  · exact TermKept.then (TermKept.refl _) (raise_term ..)

theorem setCopySt_term (st : Nat) (s : State) : TermKept s (setCopySt st s) := by
  have h : TermKept s (raise .copyState st s.copy.st (onCopy (fun c => { c with st := st }) s)) :=
    TermKept.then (TermKept.quiet (TermKept.refl s) (onCopy_only ..)) (raise_term ..)
  unfold setCopySt
  dsimp -iota -proj only
  exact TermKept.ite (TermKept.refl s) (TermKept.ite h (TermKept.ite (TermKept.quiet h (setClaimEn_only ..))
    (TermKept.ite (TermKept.quiet h (setClaimEn_only ..)) h)))

theorem dropItems_term (s : State) : TermKept s (dropItems s) := by
  unfold dropItems
  exact TermKept.then (TermKept.quiet (TermKept.refl _) (onCopy_only ..)) (onRegions_term ..)

theorem stopCopy_term (st : Nat) (s : State) : TermKept s (stopCopy st s) := by
  unfold stopCopy
  exact TermKept.then (TermKept.then (TermKept.quiet (TermKept.refl _) (onCopy_only ..)) (dropItems_term ..)) (setCopySt_term ..)

theorem restoreSelectors_term (s : State) : TermKept s (restoreSelectors s) := by
  unfold restoreSelectors
  refine TermKept.all ?_ fun x u hu => ?_
  · exact TermKept.refl _
  · exact TermKept.then hu (writeSel_term ..)

end Sys2Proof.Proofs.Term
end

section
/-! PROOFS. The line of the seesaw, its heartbeats and the state copy. -/

set_option Elab.async false

namespace Sys2Proof.Proofs.Twin

open Sys2Proof Sys2Proof.Machine Sys2Proof.Laws Sys2Proof.Proofs.Frame Sys2Proof.Proofs.HostInterface
open Sys2Proof.Proofs.Access Sys2Proof.Proofs.LaneWrites Sys2Proof.Proofs.Term

/-! The line and TERM under the operations of a claim and a release -/

theorem ssw_of_only {ps : List Part} {s t : State} (h : Only ps s t) (hp : Part.ssw ∉ ps) : t.ssw = s.ssw :=
  h.same .ssw hp

theorem now_of_only {ps : List Part} {s t : State} (h : Only ps s t) (hp : Part.tick ∉ ps) (hc : Part.cclk ∉ ps) :
    now t = now s := by
  have ht : t.tick = s.tick := h.same .tick hp
  have hk : t.cclk = s.cclk := h.same .cclk hc
  rw [now, now, ht, hk]

theorem setRole_ssw (r : Nat) (s : State) : (setRole r s).ssw = { s.ssw with role := r } := by
  unfold setRole
  dsimp only
  split <;> rfl

/-- CLAIM_EN follows the state of the copy on a twin that is not active only. -/
theorem setCopySt_ssw_active (st : Nat) (s : State) (h : s.ssw.actOut = true) : (setCopySt st s).ssw = s.ssw := by
  have hr : (raise .copyState st s.copy.st (onCopy (fun c => { c with st := st }) s)).ssw = s.ssw :=
    (ssw_of_only (raise_only ..) (by decide)).trans (ssw_of_only (onCopy_only ..) (by decide))
  unfold setCopySt
  dsimp only
  rw [hr, h, Bool.true_or, if_pos rfl]
  split
  · rfl
  · exact hr

theorem stopCopy_ssw_active (st : Nat) (s : State) (h : s.ssw.actOut = true) : (stopCopy st s).ssw = s.ssw :=
  setCopySt_ssw_active st _ h

/-- A change of the copy's state changes at most CLAIM_EN and the guard time. -/
theorem setCopySt_ssw (st : Nat) (s : State) :
    ∃ b g, (setCopySt st s).ssw = { s.ssw with claimEn := b, guardAt := g } := by
  have hr : (raise .copyState st s.copy.st (onCopy (fun c => { c with st := st }) s)).ssw = s.ssw :=
    (ssw_of_only (raise_only ..) (by decide)).trans (ssw_of_only (onCopy_only ..) (by decide))
  have hc : ∀ b u, u.ssw = s.ssw → ∃ b' g, (setClaimEn b u).ssw = { s.ssw with claimEn := b', guardAt := g } := by
    intro b u hu
    unfold setClaimEn
    dsimp only
    split
    · exact ⟨s.ssw.claimEn, s.ssw.guardAt, hu⟩
    · rw [hu]
      exact ⟨_, _, rfl⟩
  unfold setCopySt
  dsimp only
  split
  · exact ⟨_, _, rfl⟩
  · split
    · exact ⟨_, _, hr⟩
    · split
      · exact hc true _ hr
      · split
        · exact hc false _ hr
        · exact ⟨_, _, hr⟩

theorem becomeActive_ssw (s : State) (h : s.ssw.actOut = true) : (becomeActive s).ssw = s.ssw := by
  unfold becomeActive
  dsimp only
  rw [ssw_of_only (request_only ..) (by decide), ssw_of_only (restoreSelectors_only ..) (by decide),
    ssw_of_only (journal_only ..) (by decide)]
  exact stopCopy_ssw_active 0 s h

theorem becomeActive_newTerm (s : State) (h : s.ssw.actOut = true) :
    (becomeActive s).jnl.term = max s.jnl.term s.ssw.hb.term + 1 := by
  unfold becomeActive
  dsimp only
  rw [(request_term ..).term, (restoreSelectors_term ..).term, (journal_term ..).term]
  dsimp only
  rw [(stopCopy_term ..).term, stopCopy_ssw_active 0 s h]

/-- The seesaw of a twin that raises its line at the tick `t`. -/
def raisedLine (t : Nat) (x : Seesaw) : Seesaw :=
  { x with
    actOut := true, claimEn := false, guardAt := none, lastChange := t, giveUp := false, peerRst := false }

/-- The seesaw of a twin that claims at the tick `t`. -/
def claimed (t : Nat) (x : Seesaw) : Seesaw :=
  { raisedLine t x with role := if x.role = 0 then 1 else 3 }

/-- FORCE_CLAIM has been used: the mode is AUTO again. -/
def autoAgain (s : State) : State :=
  if sswMode s = 2 then setReg 0x40004 (putBits (cfg s 0x40004) 31 30 0) s else s

def takeRole (s : State) : State :=
  raise .sswChange 0 1 (setRole (if decide (s.ssw.role = 0) = true then 1 else 3) s)

/-- What was held of the twin's state is loaded, unless start-up claims. -/
def loadHeld (start : Bool) (s : State) : State :=
  onlyIf (!start) (fun s => loadGroups (refreshModel (reallocateBanks s))) s

theorem claimLine_eq (s : State) : claimLine s =
    let a := autoAgain (onSsw (raisedLine (count 0x40008 s).tick) (count 0x40008 s))
    becomeActive (loadHeld (decide (a.ssw.role = 0)) (takeRole a)) := by
  unfold claimLine autoAgain takeRole loadHeld
  rfl

theorem autoAgain_only (s : State) : Only [.regs] s (autoAgain s) := by
  unfold autoAgain
  split
  · exact setReg_only ..
  · exact Only.refl ..

theorem takeRole_line (s : State) :
    (takeRole s).ssw = { s.ssw with role := if s.ssw.role = 0 then 1 else 3 } ∧
      (takeRole s).jnl.term = s.jnl.term := by
  unfold takeRole
  rw [(raise_term ..).term, ssw_of_only (raise_only ..) (by decide), setRole_ssw]
  simp only [decide_eq_true_eq]
  exact ⟨trivial, congrArg Jnl.term ((setRole_only ..).same .jnl (by decide))⟩

theorem loadHeld_line (b : Bool) (s : State) :
    (loadHeld b s).ssw = s.ssw ∧ (loadHeld b s).jnl.term = s.jnl.term := by
  unfold loadHeld onlyIf
  split
  · exact ⟨(ssw_of_only (loadGroups_only ..) (by decide)).trans ((ssw_of_only (refreshModel_only ..) (by decide)).trans
      (ssw_of_only (reallocateBanks_only ..) (by decide))),
      (TermKept.quiet (TermKept.quiet (reallocateBanks_term s) (refreshModel_only ..)) (loadGroups_only ..)).term⟩
  · exact ⟨rfl, rfl⟩

theorem claimLine_line (s : State) :
    (claimLine s).ssw = claimed s.tick s.ssw ∧ (claimLine s).jnl.term = max s.jnl.term s.ssw.hb.term + 1 := by
  have hc := count_only 0x40008 s
  have hs : ∀ u, (onSsw (raisedLine (count 0x40008 s).tick) u).ssw = raisedLine (count 0x40008 s).tick u.ssw :=
    fun _ => rfl
  have hj : ∀ u, (onSsw (raisedLine (count 0x40008 s).tick) u).jnl = u.jnl := fun _ => rfl
  have ha := autoAgain_only (onSsw (raisedLine (count 0x40008 s).tick) (count 0x40008 s))
  rw [claimLine_eq]
  dsimp only
  generalize autoAgain _ = a at ha ⊢
  have hsa : a.ssw = raisedLine s.tick s.ssw := by
    rw [ssw_of_only ha (by decide), hs, ssw_of_only hc (by decide), hc.same .tick (by decide)]
  have hja : a.jnl = s.jnl := by
    rw [ha.same .jnl (by decide), hj]
    exact hc.same .jnl (by decide)
  obtain ⟨hr, ht⟩ := takeRole_line a
  obtain ⟨hl, hlt⟩ := loadHeld_line (decide (a.ssw.role = 0)) (takeRole a)
  have hact : (loadHeld (decide (a.ssw.role = 0)) (takeRole a)).ssw.actOut = true := by
    rw [hl, hr, hsa]
    rfl
  rw [becomeActive_ssw _ hact, becomeActive_newTerm _ hact, hl, hlt, hr, ht, hsa, hja]
  exact ⟨rfl, rfl⟩

/-- A copy that stops changes at most CLAIM_EN and the guard time. -/
theorem stopCopy_ssw (st : Nat) (s : State) :
    ∃ b g, (stopCopy st s).ssw = { s.ssw with claimEn := b, guardAt := g } :=
  setCopySt_ssw st _

theorem holdStandbyOnly_ssw (s : State) : (holdStandbyOnly s).ssw = { s.ssw with holdPorts := true } :=
  forAll_keeps (P := fun u => u.ssw = { s.ssw with holdPorts := true }) rfl fun _ _ h => h

/-- The seesaw of a twin that SSW_ACT_IN makes withdraw at the tick `t`. -/
def withdrawn (x : Seesaw) (t : Nat) : Seesaw :=
  { x with actOut := false, lastRelease := 4, lastChange := t, giveUp := true, role := 2, holdPorts := true }

theorem release_withdrawn (s : State) (h : s.ssw.actOut = true) :
    ∃ b g, (release 4 s).ssw = { withdrawn s.ssw s.tick with claimEn := b, guardAt := g } := by
  let a := setRole 2 (onSsw (fun x => { x with
    actOut := false, lastRelease := 4, lastChange := s.tick, giveUp := true }) (count 0x40010 s))
  have ha : a.ssw = { s.ssw with
      actOut := false, lastRelease := 4, lastChange := s.tick, giveUp := true, role := 2 } := setRole_ssw ..
  have hr : release 4 s = holdStandbyOnly (raise .sswChange 0 0 (stopCopy 0 a)) := by
    unfold release
    rw [h, Bool.not_true, if_neg Bool.false_ne_true]
    rfl
  obtain ⟨b, g, hs⟩ := stopCopy_ssw 0 a
  refine ⟨b, g, ?_⟩
  rw [hr, holdStandbyOnly_ssw, ssw_of_only (raise_only ..) (by decide), hs, ha]
  rfl

/-- A standby whose twin has fallen silent on the line. -/
theorem inFall_line (c : Bool) (u : State) :
    (if c then raise .noTakeover 0 0 u else u).ssw = u.ssw := by
  split
  · exact ssw_of_only (raise_only ..) (by decide)
  · rfl

/-- The end of the hold changes CLAIM_EN and the guard time only. -/
theorem holdEnd_claimEn (c : Bool) (s : State) :
    (if c then setClaimEn true s else s).ssw.claimEn = (s.ssw.claimEn || c) ∧
      (if c then setClaimEn true s else s).ssw.holdAt = s.ssw.holdAt ∧
      (if c then setClaimEn true s else s).ssw.actOut = s.ssw.actOut ∧
      Only [.ssw] s (if c then setClaimEn true s else s) := by
  have hc : (setClaimEn true s).ssw.claimEn = true ∧ (setClaimEn true s).ssw.holdAt = s.ssw.holdAt ∧
      (setClaimEn true s).ssw.actOut = s.ssw.actOut := by
    unfold setClaimEn
    dsimp only
    split
    · next h => exact ⟨h, rfl, rfl⟩
    · exact ⟨rfl, rfl, rfl⟩
  cases c
  · exact ⟨(Bool.or_false _).symm, rfl, rfl, Only.refl _ s⟩
  · exact ⟨hc.1.trans (Bool.or_true _).symm, hc.2.1, hc.2.2, setClaimEn_only ..⟩

/-- Settles O49, by the guards of the five events and what a claim and a release leave. -/
theorem interlock : Obligations.Interlock := by
  refine ⟨fun s h => ?_, fun s h hr hc => ?_, fun s ho hi he hd => ?_, fun s ho hb => ?_, fun s ho hb => ?_,
    fun s ho hr => ?_, fun s hd => ?_, fun s hg hs ho => ?_, fun s ho hr => ?_, fun s h => ?_, fun s h => ?_,
    fun s hd => ?_, fun s h => ?_⟩
  · refine ⟨_, (if_neg (by simp [h]) : execSswActInFall s = _), ?_⟩
    dsimp only
    rw [inFall_line]
    exact ⟨rfl, rfl, rfl, rfl⟩
  · refine (if_neg (by simp [h]) : execSswActInFall s = _).trans ?_
    dsimp only [onSsw]
    rw [if_pos (by simp [hr, hc]), hc]
    rfl
  · have hx : execClaim s = .next (claimLine s) := if_pos (by simp [ho, hi, he, hd, guardTime])
    obtain ⟨hl, ht⟩ := claimLine_line s
    refine ⟨_, hx, ?_⟩
    dsimp only
    rw [hl, ht]
    exact ⟨rfl, rfl, rfl, rfl, rfl⟩
  · have hx : execSswActInRise s = .next (release 4 (onSsw (fun x => { x with actIn := true, guardAt := none }) s)) :=
      (if_pos ho).trans (congrArg _ (if_pos hb))
    obtain ⟨b, g, hl⟩ := release_withdrawn (onSsw (fun x => { x with actIn := true, guardAt := none }) s) ho
    refine ⟨_, hx, ?_⟩
    dsimp only
    rw [hl]
    exact ⟨rfl, rfl, rfl, rfl, rfl⟩
  · exact (if_pos ho : execSswActInRise s = _).trans (congrArg _ (if_neg (by simp [onSsw, hb])))
  · exact (if_neg (by simp [onSsw, ho]) : execSswActInRise s = _).trans (congrArg _ (if_neg (by simp [onSsw, hr])))
  · refine ⟨_, (if_neg (by simp [hd]) : execClaimEnHoldExpiry s = _), ?_⟩
    dsimp only
    obtain ⟨hc, hh, ho, hs⟩ := holdEnd_claimEn (!s.ssw.actOut && ((sswMode s = 0 && s.copy.st = 5) || sswMode s = 2))
      (onSsw (fun x => { x with holdAt := none }) s)
    exact ⟨hh, hc, ho, Only.then (onSsw_only ..) hs⟩
  · let v := zeroPages (abandonPages s)
    let u := onSsw (fun x => { x with giveUp := false }) v
    have hx : execTrafficStateRelease s = .next (refreshModel u) := if_neg (by simp [hg, hs, ho])
    have ha : v.ssw = s.ssw :=
      (ssw_of_only (zeroPages_only ..) (by decide)).trans (ssw_of_only (abandonPages_only ..) (by decide))
    exact ⟨_, hx, rfl, rfl, rfl, rfl, rfl, rfl, (congrArg Seesaw.actOut ha).trans ho⟩
  · refine (if_neg (by simp [onSsw, ho]) : execSswActInRise s = _).trans (congrArg _ ?_)
    simp only [onSsw, hr, decide_true, Bool.true_and, decide_eq_true_eq]
  · exact if_neg (by rw [guardTime]; rcases h with h | h | h | h <;> simp [h])
  · exact if_pos (by rw [h]; rfl)
  · exact if_pos (by rw [hd]; rfl)
  · exact if_pos (by rcases h with h | h | h <;> simp [h])

/-! Heartbeats -/

theorem pathAlive_wire (s : State) : (pathAlive false s).ssw =
    { s.ssw with wireAt := some (now s), wireOk := true, silentAt := none } := by
  unfold pathAlive
  simp only [Bool.false_eq_true, if_false]
  split
  · rfl
  · exact ssw_of_only (raiseX_only ..) (by decide)

theorem heartbeatRx_of {b : Bytes} {s u : State} {l : Nat} (h : pxFrame 0x03 b s = some (l, u)) :
    exec (.heartbeatRx b) s = .next (if b.length < 22 then u else takeHeartbeat b u) := by
  show execHeartbeatRx b s = _
  unfold execHeartbeatRx
  rw [h]

theorem heartbeatSend_waits {s : State} (h : s.mgmt.up = 0 ∨ s.mgmt.restartAt.isSome = true ∨ s.mgmt.halted = true ∨
    pxLinked s = false ∨ (s.ssw.sent ≠ 0 ∧ now s < s.ssw.sentAt + hbPeriod s)) : exec .heartbeatSend s = .next s := by
  refine if_neg ?_
  rcases h with h | h | h | h | ⟨h, k⟩
  · simp [h]
  · simp [Option.isSome_iff_ne_none.mp h]
  · simp [h]
  · simp [h]
  · simp [h, Nat.not_le.mpr k]

/-- The paths of the heartbeat after one of them has failed: with both down the loss of the twin is dated. -/
def pathLost (u : State) : State :=
  if u.ssw.pxOk || u.ssw.wireOk then u
  else raise .peerHbLost 0 0 (count 0x40014 (onSsw (fun x => { x with silentAt := some (now u) }) u))

theorem pathLost_ssw (u : State) : (pathLost u).ssw =
    { u.ssw with silentAt := if u.ssw.pxOk || u.ssw.wireOk then u.ssw.silentAt else some (now u) } := by
  unfold pathLost
  split
  · rfl
  · exact (ssw_of_only (raise_only ..) (by decide)).trans (ssw_of_only (count_only ..) (by decide))

theorem heartbeatPathFail_of {s : State} (px : Bool) (hp : (if px then s.ssw.pxOk else s.ssw.wireOk) = true)
    (hd : due s (if px then s.ssw.pxAt else s.ssw.wireAt) (hbSpan s) = true) :
    exec (.heartbeatPathFail px) s = .next (pathLost (raise .hbPath (b2n px) 0
      (onSsw (fun x => if px then { x with pxOk := false } else { x with wireOk := false }) s))) := by
  refine (if_pos (by rw [hp, hd]; rfl) : execHeartbeatPathFail px s = _).trans ?_
  exact (apply_ite Host.Outcome.next _ _ _).symm

/-- The path `px` has failed: it is down, the other one is as it was, and with both down the loss is dated. -/
theorem pathFailed_ssw (px : Bool) (s : State) : (pathLost (raise .hbPath (b2n px) 0
      (onSsw (fun x => if px then { x with pxOk := false } else { x with wireOk := false }) s))).ssw =
    (if px then { s.ssw with pxOk := false, silentAt := if s.ssw.wireOk then s.ssw.silentAt else some (now s) }
      else { s.ssw with wireOk := false, silentAt := if s.ssw.pxOk then s.ssw.silentAt else some (now s) }) := by
  have h := raise_only .hbPath (b2n px) 0
    (onSsw (fun x => if px then { x with pxOk := false } else { x with wireOk := false }) s)
  rw [pathLost_ssw, now_of_only h (by decide) (by decide), ssw_of_only h (by decide)]
  cases px
  · simp only [onSsw, Bool.false_eq_true, if_false, Bool.or_false]
    rfl
  · simp only [onSsw, if_true, Bool.false_or]
    rfl

theorem count_rc (o : Nat) {s t : State} (h : t.rc = s.rc) : (count o t).rc = (count o s).rc := by
  simp only [count, countN, rcSet, rcGet, h]

/-! The reset of the twin: a standby whose twin holds its line in silence resets it, at most every 10 s. -/

theorem peerReset_resets {s : State} (ho : s.ssw.actOut = false) (hr : s.ssw.role = 2) (hf : flg s 0x40004 29 = true)
    (hi : s.ssw.actIn = true) (hp : s.ssw.peerRst = false)
    (ha : ∀ a, s.ssw.rstAt = some a → a + ticks (ms 10000) ≤ now s)
    (hd : due s s.ssw.silentAt (ticks (ms (fld s 0x40004 15 0))) = true) :
    exec .peerReset s = .next (count 0x40018 (onSsw (fun x => { x with peerRst := true, rstAt := some (now s) }) s)) := by
  show execPeerReset s = _
  unfold execPeerReset
  generalize ticks (ms 10000) = d at *
  cases h : s.ssw.rstAt with
  | none => exact if_pos (by simp only [h, ho, hr, hf, hi, hp, hd, Bool.not_false, Bool.and_true, decide_true])
  | some a =>
    exact if_pos (by simp only [h, ho, hr, hf, hi, hp, hd, decide_eq_true (ha a h), Bool.not_false, Bool.and_true,
      decide_true])

theorem peerReset_waits {s : State} (h : s.ssw.actOut = true ∨ s.ssw.role ≠ 2 ∨ flg s 0x40004 29 = false ∨
      s.ssw.actIn = false ∨ s.ssw.peerRst = true ∨ (∃ a, s.ssw.rstAt = some a ∧ now s < a + ticks (ms 10000)) ∨
      due s s.ssw.silentAt (ticks (ms (fld s 0x40004 15 0))) = false) : exec .peerReset s = .next s := by
  show execPeerReset s = _
  unfold execPeerReset
  generalize ticks (ms 10000) = d at *
  refine if_neg ?_
  rcases h with h | h | h | h | h | ⟨a, h, ha⟩ | h
  · simp only [h, Bool.not_true, Bool.false_and, Bool.false_eq_true, not_false_eq_true]
  · simp only [h, decide_false, Bool.and_false, Bool.false_and, Bool.false_eq_true, not_false_eq_true]
  · simp only [h, Bool.and_false, Bool.false_and, Bool.false_eq_true, not_false_eq_true]
  · simp only [h, Bool.and_false, Bool.false_and, Bool.false_eq_true, not_false_eq_true]
  · simp only [h, Bool.not_true, Bool.and_false, Bool.false_and, Bool.false_eq_true, not_false_eq_true]
  · simp only [h, decide_eq_false (Nat.not_le.mpr ha), Bool.and_false, Bool.false_and, Bool.false_eq_true, not_false_eq_true]
  · simp only [h, Bool.and_false, Bool.false_eq_true, not_false_eq_true]
/-- Settles O50, by the guards of the six events. -/
theorem heartbeats : Obligations.Heartbeats := by
  refine ⟨fun b s l u h hb => ?_, fun b s h => ?_, fun b s l u h hb => ?_, fun s h => ?_,
    fun s h => heartbeatSend_waits h, fun s h => ?_, fun s h => ?_, fun s hp hv => ?_, fun s hu hr hh hl hd => ?_,
    fun s hp hd => ?_, fun s hp hd => ?_, fun s ho hr hf hi hp ha hd => ?_, fun s h => ?_, fun s hp hd => ?_,
    fun s h => ?_⟩
  · rw [heartbeatRx_of h, if_neg (Nat.not_lt.mpr hb)]
  · show execHeartbeatRx b s = _
    unfold execHeartbeatRx
    rw [h]
  · rw [heartbeatRx_of h, if_pos hb]
  · exact if_pos (by rcases h with h | h <;> simp [h])
  · exact if_neg (by rcases h with h | h <;> simp [h])
  · exact if_neg (by rcases h with h | h <;> simp [h])
  · refine ⟨_, (if_neg (by simp [hp, hv]) : execWireHeartbeatRx s = _), ?_⟩
    dsimp only
    rw [pathAlive_wire]
    exact ⟨rfl, rfl, rfl, rfl, rfl⟩
  · have hx : execHeartbeatSend s = .next (onSsw (fun x => { x with sent := (x.sent + 1) % 2 ^ 32, sentAt := now s })
        (sendPx 0x03 (hbPayload s) s)) := if_pos (by simp only [hr, hh, hl, decide_eq_true hu]; simpa using hd)
    have hs := sendPx_only 0x03 (hbPayload s) s
    refine ⟨_, hx, ?_, rfl, rfl, only_of_exec (c := .heartbeatSend) hx⟩
    exact congrArg (fun n : Nat => (n + 1) % 2 ^ 32) (congrArg Seesaw.sent (ssw_of_only hs (by decide)))
  · refine ⟨_, heartbeatPathFail_of true hp hd, ?_⟩
    dsimp only
    rw [pathFailed_ssw]
    exact ⟨rfl, rfl, rfl⟩
  · refine ⟨_, heartbeatPathFail_of false hp hd, ?_⟩
    dsimp only
    rw [pathFailed_ssw]
    exact ⟨rfl, rfl, rfl⟩
  · have hx := peerReset_resets ho hr hf hi hp ha hd
    exact ⟨_, hx, rfl, rfl, count_rc _ rfl, only_of_exec (c := .peerReset) hx⟩
  · exact peerReset_waits h
  · exact if_pos (by rw [hp, hd]; rfl)
  · exact if_neg (by rcases h with h | h <;> simp [h])

/-! The state copy -/

theorem copyAckRx_of {b : Bytes} {s u : State} {l : Nat} (hm : mgmtRuns s = true)
    (h : pxFrame 0x41 b s = some (l, u)) : exec (.copyAckRx b) s =
      if b.length < 28 ∨ !(u.copy.st = 2 ∨ u.copy.st = 3) ∨ beAt b 8 8 < u.copy.ackPos ∨ u.copy.pos < beAt b 8 8
      then .next u
      else .next (settleWaiters (
        let v := onCopy (fun c => { c with
          ackSeq := max u.copy.ackSeq (beAt b 0 8), out := u.copy.out.drop (beAt b 8 8 - u.copy.ackPos),
          ackPos := beAt b 8 8, sendFrom := max u.copy.sendFrom (beAt b 8 8) }) u
        if u.copy.st = 2 ∧ beAt b 24 4 = v.jnl.ckptId then setCopySt 3 v else v)) := by
  refine (if_neg (by simp [hm]) : execCopyAckRx b s = _).trans ?_
  rw [h]
  rfl

theorem copyResendRx_of {b : Bytes} {s u : State} {l : Nat} (hm : mgmtRuns s = true)
    (h : pxFrame 0x42 b s = some (l, u)) : exec (.copyResendRx b) s =
      if b.length < 8 ∨ !(u.copy.st = 2 ∨ u.copy.st = 3) ∨ u.copy.pos < beAt b 0 8 then .next u
      else if beAt b 0 8 < u.copy.ackPos then .next (stopCopy 0 (count 0x80048 u))
      else .next (onCopy (fun c => { c with sendFrom := beAt b 0 8 }) (count 0x80048 u)) := by
  refine (if_neg (by simp [hm]) : execCopyResendRx b s = _).trans ?_
  rw [h]

theorem copyDataRx_of {b : Bytes} {s u : State} {l : Nat} (hm : mgmtRuns s = true)
    (h : pxFrame 0x40 b s = some (l, u)) : exec (.copyDataRx b) s =
      if u.ssw.actOut || !pxLinked u || !copyKeyOk u || decide (b.length < 8 ∨ 240 < b.length) then .next u
      else .next (copyData (beAt b 0 8) (b.drop 8) u) := by
  refine (if_neg (by simp [hm]) : execCopyDataRx b s = _).trans ?_
  rw [h]

theorem copyGapTimeout_of {s : State} {a : Nat} (h : s.copy.gapAt = some a) : exec .copyGapTimeout s =
    if a + 16 ≤ s.tick && mgmtRuns s && !s.ssw.actOut && pxLinked s then .next (askResend s) else .next s := by
  show execCopyGapTimeout s = _
  unfold execCopyGapTimeout
  rw [h]

/-- Settles O51, by the guards of the events of the copy. -/
theorem stateCopy : Obligations.StateCopy := by
  refine ⟨fun b s l u v hm h hb hc ha hp hv => ?_, fun b s l u hm h hb hc hp => ⟨fun ha => ?_, fun ha => ?_⟩,
    fun b s l u hm h ho hl hk hb hb' => ?_, fun s a hg ha hm ho hl => ?_, fun s ho hm hl hc ha => ?_, fun s => rfl,
    fun b s l u hm h k => ?_, fun b s l u hm h k => ?_, fun b s l u hm h k => ?_, fun b s k => ?_, fun b s k => ?_,
    fun b s k => ?_, fun s k => ?_, fun s k => ?_⟩
  · rw [copyAckRx_of hm h, if_neg (by
      simp only [not_or, Nat.not_lt]; exact ⟨hb, by simpa [Decidable.or_iff_not_imp_left] using hc, ha, hp⟩), hv]
    rfl
  · have hx := (copyResendRx_of hm h).trans ((if_neg (by
      simp only [not_or, Nat.not_lt]; exact ⟨hb, by simpa [Decidable.or_iff_not_imp_left] using hc, hp⟩)).trans
        (if_neg (Nat.not_lt.mpr ha)))
    exact ⟨_, hx, rfl, rfl, rfl⟩
  · exact (copyResendRx_of hm h).trans ((if_neg (by
      simp only [not_or, Nat.not_lt]; exact ⟨hb, by simpa [Decidable.or_iff_not_imp_left] using hc, hp⟩)).trans (if_pos ha))
  · exact (copyDataRx_of hm h).trans (if_neg (by simp [ho, hl, hk, Nat.not_lt.mpr hb, Nat.not_lt.mpr hb']))
  · have hx := (copyGapTimeout_of hg).trans (if_pos (by simp [ha, hm, ho, hl]))
    refine ⟨_, hx, rfl, ?_, only_of_exec (c := .copyGapTimeout) hx⟩
    unfold askResend
    rw [(sendPx_only ..).same .copy (by decide)]
    rfl
  · have hx : execCopyAckSend s = .next (sendAck s) := if_pos (by simp [ho, hm, hl, hc, ha])
    refine ⟨_, hx, rfl, ?_, only_of_exec (c := .copyAckSend) hx⟩
    exact congrArg Copy.ackAt ((sendPx_only ..).same .copy (by decide))
  · exact (copyAckRx_of hm h).trans (if_pos (by simpa only [Bool.not_eq_true', decide_eq_false_iff_not, not_or] using k))
  · exact (copyResendRx_of hm h).trans (if_pos (by simpa only [Bool.not_eq_true', decide_eq_false_iff_not, not_or] using k))
  · exact (copyDataRx_of hm h).trans (if_pos (by rcases k with k | k | k | k | k <;> simp [k]))
  · by_cases hm : mgmtRuns s = true
    · have h := k.resolve_left (by simp [hm])
      refine (if_neg (by simp [hm]) : execCopyAckRx b s = _).trans ?_
      rw [h]
    · exact if_pos (by simpa using hm)
  · by_cases hm : mgmtRuns s = true
    · have h := k.resolve_left (by simp [hm])
      refine (if_neg (by simp [hm]) : execCopyResendRx b s = _).trans ?_
      rw [h]
    · exact if_pos (by simpa using hm)
  · by_cases hm : mgmtRuns s = true
    · have h := k.resolve_left (by simp [hm])
      refine (if_neg (by simp [hm]) : execCopyDataRx b s = _).trans ?_
      rw [h]
    · exact if_pos (by simpa using hm)
  · cases hg : s.copy.gapAt with
    | none =>
      show execCopyGapTimeout s = _
      unfold execCopyGapTimeout
      rw [hg]
    | some a =>
      refine (copyGapTimeout_of hg).trans (if_neg ?_)
      rcases k with k | ⟨a', k, ha⟩ | k | k | k
      · rw [k] at hg
        nomatch hg
      · obtain rfl := Option.some.inj (hg.symm.trans k)
        simp [Nat.not_le.mpr ha]
      · simp [k]
      · simp [k]
      · simp [k]
  · refine if_neg ?_
    rcases k with k | k | k | ⟨k, k'⟩ | k
    · simp [k]
    · simp [k]
    · simp [k]
    · simp [k, k']
    · simp [Nat.not_le.mpr k]

end Sys2Proof.Proofs.Twin
end

section
/-! PROOFS. The journal's flash and the cipher engine. -/

set_option Elab.async false

namespace Sys2Proof.Proofs.CipherAndJournal

open Sys2Proof Sys2Proof.Machine Sys2Proof.Laws Sys2Proof.Proofs.Frame Sys2Proof.Proofs.HostInterface
open Sys2Proof.Proofs.Access Sys2Proof.Proofs.LaneWrites Sys2Proof.Proofs.EngineEvents

/-! Records, compaction and flash regions -/

theorem recordPersisted_of {s : State} (hw : s.jnl.waiting ≠ []) (hj : jnlWrites s = true) (hm : mgmtRuns s = true) :
    exec .recordPersisted s = .next (if (dpReady .seal s).1
      then settleWaiters (autoCompact (persistOne (dpReady .seal s).2)) else (dpReady .seal s).2) :=
  if_neg (by simp [hw, hj, hm])

theorem compactionDone_of {s : State} {x q} (hc : s.jnl.compacting = some (x, q)) : exec .compactionDone s =
    if !mgmtRuns s then .next s
    else if !jnlWrites s then .next (abandonCompaction stNotPersisted s)
    else .next (if (dpReady .seal s).1
      then settleWaiters (completeOpt q ⟨stOk, (commitCompaction x (dpReady .seal s).2).jnl.ckptId, 0, 0, 0⟩
        (commitCompaction x (dpReady .seal s).2))
      else (dpReady .seal s).2) := by
  show execCompactionDone s = _
  unfold execCompactionDone
  rw [hc]

/-- Settles O57, by the guards of the four events. -/
theorem journalEvents : Obligations.JournalEvents := by
  refine ⟨fun s hw hj hm => ⟨fun h => ?_, fun h => ?_⟩, fun s h => ?_,
    fun s x q u hc hm hj hu => ⟨fun h => ?_, fun h => ?_⟩,
    fun s x q hc hm hj => ?_, fun s h => ?_, fun d k e s u hd hk ho hu => ⟨fun h => ?_, fun h => ?_⟩,
    fun d s hd ho => if_neg (by simp [hd, ho]), fun d k e s h => ⟨if_pos ?_, if_pos ?_⟩⟩
  · rw [recordPersisted_of hw hj hm, if_pos h]
  · rw [recordPersisted_of hw hj hm, h, if_neg Bool.false_ne_true]
  · exact if_pos (by rcases h with h | h | h <;> simp [h])
  · rw [compactionDone_of hc, hm, hj, h, hu]
    rfl
  · rw [compactionDone_of hc, hm, hj, h]
    rfl
  · rw [compactionDone_of hc, hm, hj]
    refine congrArg Host.Outcome.next ?_
    unfold abandonCompaction
    rw [hc]
  · cases hc : s.jnl.compacting with
    | none =>
      show execCompactionDone s = _
      unfold execCompactionDone
      rw [hc]
    | some c => rw [compactionDone_of (x := c.1) (q := c.2) hc, h.resolve_left (by simp [hc])]; rfl
  · rw [hu]
    exact (if_neg (by simp [Nat.not_le.mpr hd, hk, ho]) : execFlashBlockFail d k e s = _).trans (if_neg h)
  · rw [hu]
    exact (if_neg (by simp [Nat.not_le.mpr hd, hk, ho]) : execFlashBlockFail d k e s = _).trans (if_pos h)
  · rcases h with h | h <;> simp [h]
  · rcases h with h | h <;> simp [h]

/-! Datapaths, windows and key slots -/

theorem datapathGrant_of {d : Nat} {i : Option Bytes} {s : State} {j : CipherJob} (h : nextJob s = some (j, d)) :
    exec (.datapathGrant d i) s =
      (fun u => match j with
      | .op q =>
        match opStop u q, i with
        | some r, _ => .next (refuseOp q r u)
        | none, none => .next (complete q (ans stExtFault) (fire (qFunction u q) 0 (opStarts (some (askOf u q).slot) u)))
        | none, some bs => .next (startDp d (jobRun u j bs) u)
      | _ => .next (startDp d (jobRun u j []) u)) { s with sec := { s.sec with waiting := s.sec.waiting.erase j } } := by
  show execDatapathGrant d i s = _
  unfold execDatapathGrant
  rw [h]
  refine (if_neg (not_not.mpr rfl)).trans ?_
  cases j <;> rfl

theorem cipherOperationDone_of {d : Nat} {s : State} {x : DpRun} (h : dpRun s d = some x) :
    exec (.cipherOperationDone d) s = if secInjected s d then .next (faultDp d x (secDisarm s))
    else match x.job with
      | .op q => .next (finishOp d q x s)
      | .unwrap q slot => .next (finishUnwrap d q slot x s)
      | .work w => .next (dpEnd d { s with sec := { s.sec with won := s.sec.won ++ [(w, true)] } }) := by
  show execCipherOperationDone d s = _
  unfold execCipherOperationDone
  rw [h] <;> rfl

theorem zeroBank_bank (b : Nat) {s t : State} (h : t.bank = s.bank) : (zeroBank b t).bank = (zeroBank b s).bank := by
  unfold zeroBank otherWords
  rw [h]

theorem keySlot_of_only {ps : List Part} {s t : State} (h : Only ps s t) (hp : Part.sec ∉ ps) (k : Nat) :
    keySlot t k = keySlot s k := by
  unfold keySlot
  rw [h.same .sec hp]

/-- The slot `k` after its erasure: empty at its generation and its count of faults, and counted. -/
def erasedSlot (k : Nat) (s : State) : State :=
  count 0x60028 (resetCounters k (setKeySlot k { KeySlot.reset with
    gen := (keySlot s k).gen, faults := (keySlot s k).faults } s))

theorem erasedSlot_slot (k j : Nat) (s : State) : keySlot (erasedSlot k s) j =
    if j = k then { KeySlot.reset with gen := (keySlot s k).gen, faults := (keySlot s k).faults } else keySlot s j := by
  unfold erasedSlot
  rw [keySlot_of_only (count_only ..) (by decide), keySlot_of_only (resetCounters_only ..) (by decide),
    keySlot_setKeySlot]

theorem keySlotErased_of {k : Nat} {s : State} (h : (keySlot s k).st = 3) (hu : keyUnheld s k = true) :
    exec (.keySlotErased k) s = match s.sec.erasing.find? fun e => e.2 = k with
      | none => .next (erasedSlot k s)
      | some (q, _) => .next (completePersisted q false (ans stOk) (journal (.keyRef k (keySlot s k).gen true [])
          { erasedSlot k s with sec := { (erasedSlot k s).sec with
            erasing := (erasedSlot k s).sec.erasing.filter fun e => e.2 ≠ k } })) := by
  refine (if_neg (by simp [h, hu]) : execKeySlotErased k s = _).trans ?_
  rfl

/-- Settles O58, by the guards of the five events. -/
theorem cipherEvents : Obligations.CipherEvents := by
  refine ⟨fun d i s q u h hu => ⟨fun r hr => ?_, fun hr hi => ?_, fun b x hr hi hx => ?_⟩,
    fun d i s j u x h hj hu hx => ?_, fun d i s h => ?_, fun d s x h => ?_, fun d s q h hc => ?_, fun d s h hc => ?_,
    fun d s x h => ⟨fun hi => ?_, fun q hi hj => ?_, fun q k hi hj => ?_, fun w hi hj => ?_⟩, fun d s h => ?_,
    fun w s h => ?_, fun w s h => if_neg h, fun k s h hu he => ?_, fun k s q j u h hu he hk => ?_,
    fun k s h => if_pos ?_⟩
  · rw [datapathGrant_of h, ← hu]
    dsimp only
    rw [hr]
  · rw [datapathGrant_of h, ← hu, hi]
    dsimp only
    rw [hr]
  · rw [datapathGrant_of h, ← hu, hi]
    dsimp only
    rw [hr, hx]
    rfl
  · rw [datapathGrant_of h, ← hu, hx]
    cases j with
    | op q => exact absurd rfl (hj q)
    | _ => rfl
  · show execDatapathGrant d i s = _
    unfold execDatapathGrant
    split
    · rfl
    · next j d' hn => exact if_pos (show d ≠ d' from fun hd => h j (hd ▸ hn))
  · show execDatapathFault d s = _
    unfold execDatapathFault
    rw [h]
  · show execDatapathFault d s = _
    unfold execDatapathFault
    rw [h, hc]
  · show execDatapathFault d s = _
    unfold execDatapathFault
    rw [h, hc]
  · rw [cipherOperationDone_of h, if_pos hi]
  · rw [cipherOperationDone_of h, hi, hj]
    rfl
  · rw [cipherOperationDone_of h, hi, hj]
    rfl
  · rw [cipherOperationDone_of h, hi, hj]
    rfl
  · show execCipherOperationDone d s = _
    unfold execCipherOperationDone
    rw [h]
  · have hx : execWindowZeroed w s = .next (setWindow w .free (zeroBank (114 + w) (windowRun w 0x40000 0 1 s))) :=
      if_pos h
    have hk := windowRun_only w 0x40000 0 1 s
    refine ⟨_, hx, by rw [window_setWindow, if_pos rfl], fun v hv => ?_, zeroBank_bank _ ?_, ?_⟩
    · rw [window_setWindow, if_neg hv]
      unfold window
      rw [(zeroBank_only ..).same .sec (by decide), hk.same .sec (by decide)]
    · exact bank_of_only hk (by decide) (by decide)
    · exact only_of_exec (c := .windowZeroed w) hx
  · have hx := keySlotErased_of h hu
    rw [he] at hx
    refine ⟨_, hx, ?_, fun j hj => ?_⟩
    · rw [erasedSlot_slot, if_pos rfl]
    · rw [erasedSlot_slot, if_neg hj]
  · rw [keySlotErased_of h hu, he, hk]
    rfl
  · rcases h with h | h <;> simp [h]

end Sys2Proof.Proofs.CipherAndJournal
end

section
/-! PROOFS. Monitoring, the time of day and the references. -/

set_option Elab.async false

namespace Sys2Proof.Proofs.ServiceEvents

open Sys2Proof Sys2Proof.Machine Sys2Proof.Laws Sys2Proof.Proofs.Frame Sys2Proof.Proofs.HostInterface
open Sys2Proof.Proofs.Access Sys2Proof.Proofs.LaneWrites Sys2Proof.Proofs.EngineEvents Sys2Proof.Proofs.Twin

/-! Monitoring -/

theorem hist_of_only {ps : List Part} {s t : State} (h : Only ps s t) (hp : Part.pm ∉ ps) (o : Nat) :
    hist t o = hist s o := by
  unfold hist
  rw [h.same .pm hp]

theorem halves_of_only {ps : List Part} {s t : State} (h : Only ps s t) (hp : Part.pm ∉ ps) (p : Nat) :
    halves t p = halves s p := by
  unfold halves
  rw [h.same .pm hp]

/-- The history of an object whose defect `d` has cleared. -/
def clearedHist (c d : Nat) (h : Hist) : Hist :=
  { h with
    defects := clrBit h.defects d, reported := clrBit h.reported d, absent := spDel d h.absent
    csRun := if c = 3 ∧ d = 1 then 0 else h.csRun }

/-- A clearing defect changes the history of its object only: its report leaves the histories. -/
theorem defectClear_hist {c n d : Nat} {s : State} (h1 : 1 ≤ c) (h3 : c ≤ 3)
    (hd : (hist s (objOf c n)).defects.getLsbD d = true) (hc : clears s c n d (hist s (objOf c n)) = true) :
    Does (.defectClear c n d) s fun t => ∀ o,
      hist t o = if o = objOf c n then clearedHist c d (hist s (objOf c n)) else hist s o := by
  refine ⟨_, (if_neg (by simp [h1, h3, hd, hc]) : execDefectClear c n d s = _), fun o => ?_⟩
  cases defectEv c d with
  | none => exact hist_setHist ..
  | some e =>
    dsimp only
    split
    · exact (hist_of_only (raiseX_only ..) (by decide) o).trans (hist_setHist ..)
    · exact hist_setHist ..

/-- What the turn of bins leaves of the clock of the monitoring. -/
structure PmKept (s t : State) : Prop where
  second : t.pm.second = s.pm.second
  running : t.pm.running = s.pm.running
  timing : t.timing = s.timing

theorem PmKept.refl (s : State) : PmKept s s := ⟨rfl, rfl, rfl⟩

theorem PmKept.then {s t u : State} (h : PmKept s t) (k : PmKept t u) : PmKept s u :=
  ⟨k.second.trans h.second, k.running.trans h.running, k.timing.trans h.timing⟩

theorem PmKept.ite {s t u : State} {c : Prop} [Decidable c] (h : PmKept s t) (k : PmKept s u) :
    PmKept s (if c then t else u) := by
  split <;> assumption

theorem turnBins_pmKept (day change : Bool) (s : State) : PmKept s (turnBins day change s) := by
  unfold turnBins
  dsimp only
  have hc : ∀ a b, PmKept s (closeBins day a b s) := fun _ _ => ⟨rfl, rfl, rfl⟩
  have hf : PmKept s (flagBins day 2 s) := ⟨rfl, rfl, rfl⟩
  exact .ite (.ite hf (hc ..)) (.ite (hc ..) (.refl s))

theorem turnDay_pmKept (change : Bool) (s : State) : PmKept s (turnDay change s) := by
  unfold turnDay
  exact .ite ⟨rfl, rfl, rfl⟩ (turnBins_pmKept ..)

theorem endSecond_pm (s : State) : (endSecond s).pm.second = s.pm.second + 1 ∧ (endSecond s).pm.ticks = 1 ∧
    (endSecond s).pm.lastSec = s.timing.sec ∧ (endSecond s).pm.todChange = false ∧
    (endSecond s).pm.running = s.pm.running := by
  unfold endSecond
  dsimp only
  generalize hu : mapHist _ (countN 0x34001C _ s) = u
  have hk : PmKept s u := by
    rw [← hu]
    exact ⟨rfl, rfl, rfl⟩
  have h := (hk.then (t := u) (u := countInfo u) ⟨rfl, rfl, rfl⟩).then
    ((turnBins_pmKept false s.pm.todChange _).then (turnDay_pmKept s.pm.todChange _))
  exact ⟨congrArg (· + 1) h.second, rfl, congrArg Timing.sec h.timing, rfl, h.running⟩

theorem foldDone_of {p n : Nat} {ns : List Nat} {s : State} (h : (halves s p).out = n :: ns) :
    exec (.foldDone p) s = if !mgmtRuns s then .next s
      else .next (setHalves p { halves s p with out := ns } (giveHalf p n
        (16 + match spGet (fun _ => 0) s.eng.host p with
          | 0 => p
          | k + 1 => k) (clearRecords p n (foldPort p n s)))) := by
  show execFoldDone p s = _
  unfold execFoldDone
  dsimp only
  rw [h] <;> rfl

/-- Settles O53, by the guards of the five events. -/
theorem monitoringEvents : Obligations.MonitoringEvents := by
  refine ⟨fun c n d s h1 h3 hd hc => ?_, fun s hv ht hr => ?_, fun s hv ht hr => ?_, fun p s hr hg ht => ?_,
    fun p s n ns hm ho => ?_, fun p s hr hl h2 hg => ?_, fun s hv ht hc hr => ?_, fun s h => if_pos ?_,
    fun c n d s h => if_pos ?_, fun p s h => if_pos ?_, fun p s h => ?_, fun p s h => if_pos ?_⟩
  · obtain ⟨t, hx, h⟩ := defectClear_hist h1 h3 hd hc
    refine ⟨t, hx, ?_, ?_, fun o ho => ?_⟩
    · rw [h, if_pos rfl]
      rfl
    · rw [h, if_pos rfl]
      rfl
    · rw [h, if_neg ho]
  · have hx : execSecondBoundary s = .next (endSecond s) :=
      (if_neg (by simpa [hv, Decidable.or_iff_not_imp_left] using ht)).trans (if_pos hr)
    obtain ⟨h1, h2, h3, h4, h5⟩ := endSecond_pm s
    exact ⟨_, hx, rfl, h1, h2, h3, h4, h5.trans hr, endSecond_only s⟩
  · have hx : execSecondBoundary s = .next (startMonitor s) :=
      (if_neg (by simp [hv, ht])).trans ((if_neg (by simp [hr])).trans (if_pos (by simpa using ht)))
    exact ⟨_, hx, rfl, rfl, rfl, rfl, rfl, startMonitor_only s⟩
  · have hx : execTallyHandoff p s = .next _ := if_neg (by
      simp only [hr, Bool.not_true, Bool.false_eq_true, false_or, not_or, Nat.not_le]
      exact ⟨hg, fun k => ht.elim (Nat.not_le.mpr k.1) fun e => e k.2⟩)
    refine ⟨_, hx, ?_, ?_, fun r hne => ?_, only_of_exec (c := .tallyHandoff p) hx⟩
    · rw [halves_setHalves, if_pos rfl]
    · rw [halves_setHalves, if_pos rfl]
    · rw [halves_setHalves, if_neg hne, halves_of_only (giveHalf_only ..) (by decide)]
  · have hx := (foldDone_of ho).trans (if_neg (by simp [hm]))
    refine ⟨_, hx, ?_, ?_, fun r hne => ?_, ?_, only_of_exec (c := .foldDone p) hx⟩
    · rw [halves_setHalves, if_pos rfl]
    · rw [halves_setHalves, if_pos rfl]
    · rw [halves_setHalves, if_neg hne, halves_of_only (giveHalf_only ..) (by decide),
        halves_of_only (clearRecords_only ..) (by decide)]
      rfl
    · refine Eq.trans (b := (giveHalf p n _ (clearRecords p n (foldPort p n s))).pm.hist) rfl ?_
      rw [(giveHalf_only ..).same .pm (by decide), (clearRecords_only ..).same .pm (by decide)]
  · have hx : execTallyHandbackMissed p s = .next _ := if_neg (by
      simp only [hr, hl, Bool.not_true, Bool.false_eq_true, false_or, not_or, Nat.not_lt]
      exact ⟨h2, by simpa [Decidable.or_iff_not_imp_left] using hg⟩)
    refine ⟨_, hx, ?_, ?_, only_of_exec (c := .tallyHandbackMissed p) hx⟩
    · rw [halves_of_only (count_only ..) (by decide), halves_setHalves, if_pos rfl]
    · unfold rcGet
      exact congrArg (fun m => spGet (fun _ => 0) m 0x34001C) (count_rc (s := s) _ rfl)
  · exact (if_neg (by simp [hv, hc]) : execSecondBoundary s = _).trans
      ((if_neg (by simp [hr])).trans (if_neg (by simp [ht])))
  · rcases h with h | ⟨h, k⟩
    · simp [h]
    · simp [h, k]
  · rcases h with h | h <;> simp [h]
  · rcases h with h | h
    · simp [h]
    · exact .inr (.inl h)
  · cases ho : (halves s p).out with
    | nil =>
      show execFoldDone p s = _
      unfold execFoldDone
      dsimp only
      rw [ho]
    | cons n ns => exact (foldDone_of ho).trans (if_pos (by simp [h.resolve_right (by simp [ho])]))
  · rcases h with h | h | h <;> simp [h]

/-! The time of day -/

/-- The time of day and its requests are the same in both states. -/
structure TodKept (s t : State) : Prop where
  sec : t.timing.sec = s.timing.sec
  ns : t.timing.ns = s.timing.ns
  ask : t.timing.todAsk = s.timing.todAsk
  done : t.timing.todDone = s.timing.todDone
  tick : t.tick = s.tick

theorem TodKept.refl (s : State) : TodKept s s := ⟨rfl, rfl, rfl, rfl, rfl⟩

theorem TodKept.then {s t u : State} (h : TodKept s t) (k : TodKept t u) : TodKept s u :=
  ⟨k.sec.trans h.sec, k.ns.trans h.ns, k.ask.trans h.ask, k.done.trans h.done, k.tick.trans h.tick⟩

theorem TodKept.ite {s t u : State} {c : Prop} [Decidable c] (h : TodKept s t) (k : TodKept s u) :
    TodKept s (if c then t else u) := by
  split <;> assumption

theorem TodKept.of_only {ps : List Part} {s t : State} (h : Only ps s t) (hp : Part.timing ∉ ps) (hk : Part.tick ∉ ps) :
    TodKept s t := by
  have e : t.timing = s.timing := h.same .timing hp
  exact ⟨by rw [e], by rw [e], by rw [e], by rw [e], h.same .tick hk⟩

theorem setMode_tod (m : Nat) (s : State) : TodKept s (setMode m s) := by
  have hd : ∀ c x u, TodKept u (onlyIf c (raise .stepDropped 0 x) u) := fun c x u =>
    .ite (.of_only (raise_only ..) (by decide) (by decide)) (.refl u)
  have hc : ∀ c u, TodKept u (onlyIf c (count 0x30054) u) := fun c u =>
    .ite (.of_only (count_only ..) (by decide) (by decide)) (.refl u)
  have hr : ∀ x u, TodKept u (refreshQl (raise .dpllMode m x u)) := fun x u =>
    (TodKept.of_only (raise_only ..) (by decide) (by decide)).then ⟨rfl, rfl, rfl, rfl, rfl⟩
  unfold setMode
  dsimp only
  refine .ite (.refl s) ?_
  refine .then ?_ (hr ..)
  refine .then ?_ (hc ..)
  refine .then ?_ (hd ..)
  exact ⟨rfl, rfl, rfl, rfl, rfl⟩

theorem modeEdge_tod (s : State) : TodKept s (modeEdge s) := by
  have hh : ∀ u, TodKept u (enterHold u) := fun u => setMode_tod _ u
  have hu : ∀ u, TodKept u (if u.timing.urgent = true ∧ (u.timing.mode = 1 ∨ u.timing.mode = 2) ∧ reqMode u = 0 then
      enterHold (count 0x30050 { u with timing := { u.timing with selected := none } }) else u) := fun u =>
    .ite (.then (.then (t := { u with timing := { u.timing with selected := none } }) ⟨rfl, rfl, rfl, rfl, rfl⟩
      (.of_only (count_only ..) (by decide) (by decide))) (hh _)) (.refl u)
  unfold modeEdge
  dsimp only
  cases s.timing.modeAsk with
  | none => exact hu s
  | some m => exact .then (.then (t := { s with timing := { s.timing with modeAsk := none } }) ⟨rfl, rfl, rfl, rfl, rfl⟩
      (setMode_tod m _)) (hu _)

theorem pullEdge_tod (s : State) : TodKept s (pullEdge s) := by
  have h : ∀ c u, TodKept u (onlyIf c startPull u) := fun c u => by
    refine .ite ?_ (.refl u)
    unfold startPull
    split
    · exact .refl u
    · exact ⟨rfl, rfl, rfl, rfl, rfl⟩
  unfold pullEdge
  refine .then ?_ (h ..)
  exact ⟨rfl, rfl, rfl, rfl, rfl⟩

theorem driftEdge_tod (s : State) : TodKept s (driftEdge s) := .ite ⟨rfl, rfl, rfl, rfl, rfl⟩ (.refl s)

theorem gatherEdge_tod (s : State) : TodKept s (gatherEdge s) := .ite (.refl s) ⟨rfl, rfl, rfl, rfl, rfl⟩

/-- The last part of the timing's edge: the outputs and the quality level. -/
theorem timingEdge_tod (s : State) :
    TodKept (todEdge (gatherEdge (driftEdge (pullEdge (modeEdge s))))) (timingEdge s) := by
  have hq : ∀ u, TodKept u (refreshQl u) := fun _ => ⟨rfl, rfl, rfl, rfl, rfl⟩
  have hp : ∀ c u, TodKept u (onlyIf c pulseOutputs u) := fun c u => .ite ⟨rfl, rfl, rfl, rfl, rfl⟩ (.refl u)
  exact .then (hp ..) (hq _)

theorem todEdge_timing (s : State) : (todEdge s).timing =
    { s.timing with
      sec := (todAt s.tick s.timing.todAsk (todNs s.timing) / 1000000000).toNat % 2 ^ 48
      ns := (todAt s.tick s.timing.todAsk (todNs s.timing) % 1000000000).toNat
      todAsk := s.timing.todAsk.filter fun a => a.at ≠ s.tick
      todDone := s.timing.todDone ++ (s.timing.todAsk.filter fun a => a.at = s.tick).filterMap TodAsk.queue
      todValid := s.timing.todValid || (s.timing.todAsk.filter fun a => a.at = s.tick).any TodAsk.sets } := by
  have hj : ∀ d u, (todJump d u).timing = u.timing := fun d u => by
    unfold todJump
    split <;> rfl
  unfold todEdge onlyIf
  dsimp only
  split
  · exact hj ..
  · exact hj ..

theorem sendFrame_lanes (l : Nat) (type : Byte) (b : Bytes) (s : State) (x : Timing) :
    (sendFrame l type b { s with timing := x }).lanes = (sendFrame l type b s).lanes := rfl

theorem todFrameSend_of {s : State} {l : Nat} (h : [256, 257, 258, 259].find? (fun l => (lane s l).bond.bonded) = some l) :
    exec .todFrameSend s = if (port s 8).st ≠ 7 ∨ !s.ssw.actOut ∨ s.tick < s.timing.todSentAt + 1000000 then .next s
      else .next (sendFrame l 0x02 (beBytes 6 s.timing.sec ++ beBytes 4 s.timing.ns ++ beBytes 8 s.tick
        ++ [BitVec.ofNat 8 (b2n s.timing.todValid)]) { s with timing := { s.timing with todSentAt := s.tick } }) := by
  show execTodFrameSend s = _
  unfold execTodFrameSend
  rw [h]

theorem todFrameRx_of {b : Bytes} {s u : State} {l m : Nat} {q : BitVec 32} (h : pxFrame 0x02 b s = some (l, u))
    (hr : (lane u l).bond.row0 = some (q, m)) : exec (.todFrameRx b) s =
      if u.ssw.actOut ∨ (u.timing.selected ≠ some 12 ∧ u.timing.selected ≠ some 13) ∨ u.timing.mode ≠ 2 then .next u
      else .next { u with timing := { u.timing with todAsk := u.timing.todAsk ++ [.twin (u.tick + 1)
        ((beAt b 0 6 : Int) * 1000000000 + beAt b 6 4 + 1000 * ((u.tick : Int) + 1
          - (((m + 1024) / 2048 : Nat) + (BitVec.ofNat 32 (beAt b 10 8) - q).toInt)))] } } := by
  show execTodFrameRx b s = _
  unfold execTodFrameRx
  rw [h]
  dsimp only
  rw [hr]

/-- Settles O54, by the guards of the four events and what the edge makes of the requests. -/
theorem timeOfDay : Obligations.TimeOfDay := by
  refine ⟨fun s q r h => ?_, fun s u x hu hx => ?_, fun b s l u q m x h hr ho hs hm hx => ?_, fun b s l u h k => ?_,
    fun s l hl hp ho ht => ?_, fun s hm hr ht v u hv hu => ?_⟩
  · show execTodApply s = _
    unfold execTodApply
    rw [h]
  · obtain ⟨ksec, kns, kask, kdone, ktick⟩ := (modeEdge_tod (countTick s)).then ((pullEdge_tod _).then
      ((driftEdge_tod _).then (gatherEdge_tod _)))
    obtain ⟨esec, ens, eask, edone, -⟩ := timingEdge_tod (countTick s)
    rw [todEdge_timing] at esec ens eask edone
    have hn : ∀ v : State, v.timing.sec = s.timing.sec → v.timing.ns = s.timing.ns → todNs v.timing = todNs s.timing :=
      fun v h h' => by rw [todNs, todNs, h, h']
    rw [hu, hx, esec, ens, eask, edone]
    dsimp only
    rw [hn _ ksec kns, kask, kdone, ktick]
    exact ⟨rfl, rfl, rfl, rfl⟩
  · rw [todFrameRx_of h hr, if_neg (by
      simp only [ho, hm, ne_eq, not_true_eq_false, or_false, Bool.false_eq_true, false_or]
      exact fun k => hs.elim k.1 k.2), hx]
  · cases hr : (lane u l).bond.row0 with
    | none =>
      show execTodFrameRx b s = _
      unfold execTodFrameRx
      rw [h]
      dsimp only
      rw [hr]
    | some r =>
      refine (todFrameRx_of (q := r.1) (m := r.2) h hr).trans (if_pos ?_)
      rcases k with k | k | k
      · exact .inl k
      · exact .inr (.inr k)
      · exact .inr (.inl k)
  · have hx : exec .todFrameSend s = .next _ := (todFrameSend_of hl).trans (if_neg (by simp [hp, ho, ht]))
    refine ⟨_, hx, ?_, sendFrame_lanes .., only_of_exec (c := .todFrameSend) hx⟩
    exact (sendFrame_only ..).same .timing (by decide)
  · have hx : execSelectionEvaluation s = .next _ := if_neg (by
      simp only [hm, hr, Option.isSome_none, Bool.false_eq_true, false_or, Bool.not_eq_true', not_and,
        Bool.not_eq_false]
      intro k
      exact ht.resolve_left (Nat.not_le.mpr k))
    rw [hu, hv]
    exact hx

/-! References and the DPLL -/

theorem timing_of_only {ps : List Part} {s t : State} (h : Only ps s t) (hp : Part.timing ∉ ps) :
    t.timing = s.timing :=
  h.same .timing hp

theorem setMode_mode (m : Nat) (s : State) : (setMode m s).timing.mode = m := by
  have hd : ∀ c x u, (onlyIf c (raise .stepDropped 0 x) u).timing = u.timing := fun c x u => by
    unfold onlyIf
    split
    · exact timing_of_only (raise_only ..) (by decide)
    · rfl
  have hc : ∀ c u, (onlyIf c (count 0x30054) u).timing = u.timing := fun c u => by
    unfold onlyIf
    split
    · exact timing_of_only (count_only ..) (by decide)
    · rfl
  have hr : ∀ x u, (refreshQl (raise .dpllMode m x u)).timing.mode = u.timing.mode := fun x u => by
    show (raise .dpllMode m x u).timing.mode = _
    rw [timing_of_only (raise_only ..) (by decide)]
  unfold setMode
  dsimp only
  split
  · assumption
  · rw [hr, hc, hd]

theorem ref_retarget (n k : Nat) (f : Int) (s : State) : ref (retarget n f s) k = ref s k := by
  unfold retarget
  split
  · rfl
  · split <;> rfl

theorem ref_disqualify (n k : Nat) (s : State) : ref (disqualify n s) k =
    if k = n then { ref s n with qualified := false, active := false, freqOk := false, wtrAt := none } else ref s k := by
  unfold disqualify
  dsimp only
  split
  · exact ref_setRef ..
  · exact ref_setRef ..

/-- The checks of a reference start its wait-to-restore time, or clear it. -/
theorem ref_checkRef (n k : Nat) (s : State) : ∃ w, ref (checkRef n s) k =
    if k = n then { ref s n with wtrAt := w } else ref s k := by
  have h : ∀ w, ref (setRef n { ref s n with wtrAt := w } s) k = if k = n then { ref s n with wtrAt := w } else ref s k :=
    fun w => ref_setRef ..
  unfold checkRef
  dsimp only
  split
  · split
    · refine ⟨(ref s n).wtrAt, ?_⟩
      split
      · next e => rw [e]
      · rfl
    · exact ⟨_, h _⟩
  · exact ⟨_, h _⟩

/-- A frequency measured over a window is in range of its limit: the rejecting one for a qualified reference. -/
def windowOk (n : Nat) (f : Int) (s : State) : Bool :=
  if (ref s n).qualified then decide ((sat32 f).natAbs ≤ (qualLimits s).1)
  else decide ((sat32 f).natAbs ≤ (qualLimits s).2)

/-- The state once a frequency window has ended, before a wait-to-restore time of 0 counts. -/
def windowed (n : Nat) (f : Int) (s : State) : State :=
  checkRef n (setRef n { ref s n with
    freq := sat32 f, freqOk := windowOk n f s, winAt := s.tick, qualified := (ref s n).qualified && windowOk n f s }
    (retarget n (sat32 f) s))

theorem frequencyWindowEnd_of {n : Nat} {f : Int} {s : State} (ho : refOn s n = true) (ha : (ref s n).active = true)
    (ht : (ref s n).winAt + (if 8 ≤ n ∧ n < 12 ∧ refFreqCode s n = 0 then 10000000 else 1000000) ≤ s.tick) :
    exec (.frequencyWindowEnd n f) s =
      if windowOk n f s && !(ref s n).qualified && refPasses (windowed n f s) n && decide (refWtr (windowed n f s) n = 0)
      then .next (setRef n { ref (windowed n f s) n with qualified := true, wtrAt := none } (windowed n f s))
      else .next (windowed n f s) :=
  if_neg (by simp only [ho, ha, Bool.not_true, Bool.false_eq_true, false_or]; exact Nat.not_lt.mpr ht)

theorem ref_windowed (n k : Nat) (f : Int) (s : State) : ∃ w, ref (windowed n f s) k =
    if k = n then { ref s n with
      freq := sat32 f, freqOk := windowOk n f s, winAt := s.tick, qualified := (ref s n).qualified && windowOk n f s,
      wtrAt := w }
    else ref s k := by
  obtain ⟨w, h⟩ := ref_checkRef n k (setRef n { ref s n with
    freq := sat32 f, freqOk := windowOk n f s, winAt := s.tick, qualified := (ref s n).qualified && windowOk n f s }
    (retarget n (sat32 f) s))
  refine ⟨w, h.trans ?_⟩
  rw [ref_setRef, ref_setRef, if_pos rfl, ref_retarget]
  split
  · rfl
  · rfl

theorem windowed_only (n : Nat) (f : Int) (s : State) : Only [.timing] s (windowed n f s) := by
  unfold windowed
  exact Only.then (Only.then (retarget_only ..) (setRef_only ..)) (checkRef_only ..)

theorem inForce_windowed (n : Nat) (f : Int) (s : State) : (windowed n f s).timing.inForce = s.timing.inForce := by
  have hc : ∀ u, (checkRef n u).timing.inForce = u.timing.inForce := fun u => by
    unfold checkRef
    dsimp only
    split
    · split <;> rfl
    · rfl
  have hr : (retarget n (sat32 f) s).timing.inForce = s.timing.inForce := by
    unfold retarget
    split
    · rfl
    · split <;> rfl
  exact (hc _).trans hr

theorem refCfg_inForce {s t : State} (h : t.timing.inForce = s.timing.inForce) (n : Nat) : refCfg t n = refCfg s n := by
  simp only [refCfg, tcfg, h]

/-- Settles O55, by the guards of the events and what each leaves of the reference it is for. -/
theorem timingEvents : Obligations.TimingEvents := by
  refine ⟨fun n x s ho h8 h12 => if_neg ?_, fun n s ho ha hf => ?_, fun n s a hw hp hz ha => ?_, fun n f s ho ha ht => ?_,
    fun s a ha hm ht => ?_, fun s hm hw ht u hu => ?_, fun b s h => ?_, fun b s h => if_neg (Nat.not_le.mpr h),
    fun s h => if_neg (Nat.not_le.mpr h), fun n x s h => if_pos ?_, fun s h => if_neg fun k => h k.1, fun s h => ?_,
    fun s h => ?_, fun s h => if_pos h, fun s a ha hm ht => ?_, fun s h => if_pos h,
    fun n f s r ho ha hq hw hk ht hf hr => ?_⟩
  · simp [ho, Nat.not_lt.mpr h8, h12]
  · have hx : execReferenceActivityFail n s = .next (disqualify n s) := if_pos (by rw [ho, ha, hf]; rfl)
    refine ⟨_, hx, rfl, by rw [ref_disqualify, if_pos rfl], fun h hq => ?_, fun m hm => by rw [ref_disqualify, if_neg hm],
      disqualify_only n s⟩
    unfold disqualify
    dsimp only
    rw [if_pos (show _ from ⟨h, hq⟩)]
  · have hx : execReferenceWtrExpiry n s = .next (setRef n { ref s n with qualified := true, wtrAt := none } s) := by
      unfold execReferenceWtrExpiry
      dsimp only
      rw [hw]
      exact if_pos ⟨hp, hz, ha⟩
    exact ⟨_, hx, by rw [ref_setRef, if_pos rfl], fun m hm => by rw [ref_setRef, if_neg hm], setRef_only ..⟩
  · obtain ⟨w, hn⟩ := ref_windowed n n f s
    rw [if_pos rfl] at hn
    have hm : ∀ m, m ≠ n → ref (windowed n f s) m = ref s m := fun m hm => by
      obtain ⟨_, h⟩ := ref_windowed n m f s
      rw [h, if_neg hm]
    have hx := frequencyWindowEnd_of (f := f) ho ha ht
    by_cases hq : (windowOk n f s && !(ref s n).qualified && refPasses (windowed n f s) n &&
        decide (refWtr (windowed n f s) n = 0)) = true
    · rw [if_pos hq] at hx
      refine ⟨_, hx, ?_, ?_, ?_, fun m hne => ?_, Only.then (windowed_only n f s) (setRef_only ..)⟩
      · rw [ref_setRef, if_pos rfl, hn]
      · rw [ref_setRef, if_pos rfl, hn]
      · rw [ref_setRef, if_pos rfl, hn]
        rfl
      · rw [ref_setRef, if_neg hne, hm m hne]
    · rw [if_neg hq] at hx
      refine ⟨_, hx, ?_, ?_, ?_, hm, windowed_only n f s⟩
      · rw [hn]
      · rw [hn]
      · rw [hn]
        rfl
  · have hx : execDpllLocked s = .next (setMode 2 s) := by
      unfold execDpllLocked
      rw [ha]
      exact if_pos ⟨hm, ht⟩
    exact ⟨_, hx, rfl, setMode_mode 2 s⟩
  · have hx : execSoftWatchdogExpiry s = .next (raise .softWatchdog 0 0 (count 0x3005C
        { u with timing := { u.timing with softOut := true } })) := by
      rw [hu]
      exact if_pos ⟨hm, hw, ht⟩
    refine ⟨_, hx, rfl, ?_, ?_⟩
    · rw [timing_of_only (raise_only ..) (by decide), timing_of_only (count_only ..) (by decide), hu]
      exact setMode_mode 3 s
    · rw [timing_of_only (raise_only ..) (by decide), timing_of_only (count_only ..) (by decide)]
  · have hx : execLearnHour b s = .next _ := if_pos h
    exact ⟨_, hx, rfl, rfl, rfl, rfl, rfl, only_of_exec (c := .learnHour b) hx⟩
  · rcases h with h | h | h <;> simp [h]
  · show execHoldQlTimeExpiry s = _
    unfold execHoldQlTimeExpiry
    split
    · rfl
    · exact if_neg fun k => h k.1
  · show execDpllLocked s = _
    unfold execDpllLocked
    split
    · rfl
    · exact if_neg fun k => h k.1
  · have hx : execHoldQlTimeExpiry s = .next (refreshQl { s with timing := { s.timing with holdOld := true } }) := by
      unfold execHoldQlTimeExpiry
      rw [ha]
      exact if_pos ⟨hm, ht⟩
    exact ⟨_, hx, rfl, hm, rfl, only_of_exec (c := .holdQlTimeExpiry) hx⟩
  · obtain ⟨w, hn⟩ := ref_windowed n n f s
    rw [if_pos rfl] at hn
    have hok : windowOk n f s = true := by
      unfold windowOk
      rw [hq, if_neg Bool.false_ne_true, decide_eq_true hf]
    have hi := refCfg_inForce (inForce_windowed n f s)
    have hp : refPasses (windowed n f s) n = true := by
      rw [refPasses, refOn, hi, hn, hok]
      simp only [ha, hk, Bool.and_true]
      exact ho
    have hx := (frequencyWindowEnd_of (f := f) ho ha ht).trans (if_pos (by
      rw [hok, hq, hp, refWtr, hi]
      simpa [refWtr] using hw))
    exact ⟨_, hx, by rw [ref_setRef, if_pos rfl], by rw [ref_setRef, if_pos rfl]⟩

end Sys2Proof.Proofs.ServiceEvents
end

section
/-! PROOFS. The scratchpad banks and their hand-over. -/

set_option Elab.async false

namespace Sys2Proof.Proofs.BankEvents

open Sys2Proof Sys2Proof.Machine Sys2Proof.Laws Sys2Proof.Proofs.Frame Sys2Proof.Proofs.HostInterface
open Sys2Proof.Proofs.Access Sys2Proof.Proofs.EngineEvents Sys2Proof.Proofs.Twin

theorem bank_bankEv (k : Nat) (m : Master) (v : Bool) (p : Option (Nat × Nat)) (b : Nat) (s : State) :
    bank (bankEv k m v p s) b = bank s b := by
  unfold bank
  rw [bank_of_only (bankEv_only ..) (by decide) (by decide)]

/-- A bank handed over has its new owner at once and no hand-over pending. -/
theorem bank_handOver (b c o : Nat) (s : State) : bank (handOver b o s) c = if c = b then
    { bank s b with owner := o, handover := none, idleFrom := 0, ownFrom := now s / 2 + 1 } else bank s c := by
  have hw : ∀ u, (windowOwner b o u).bank = u.bank := fun u =>
    bank_of_only (windowOwner_only ..) (by decide) (by decide)
  have hc : ∀ u, (count 0x500410 u).bank = u.bank := fun u => bank_of_only (count_only ..) (by decide) (by decide)
  have hb : ∀ u, (bankEv 7 .nobody true none u).bank = u.bank := fun u =>
    bank_of_only (bankEv_only ..) (by decide) (by decide)
  have e : (handOver b o s).bank = (setBank b { bank s b with
      owner := o, handover := none, idleFrom := 0, ownFrom := now s / 2 + 1 } s).bank := by
    unfold handOver
    rw [hw, hb, hc]
  unfold bank at e ⊢
  rw [e]
  exact bank_setBank ..

theorem bankHandover_owner {b : Nat} {a : BankWriter} {o : Nat} {s : State} (hf : (bank s b).failed = false)
    (ht : (bank s b).test = 0) (hm : mayWriteBank (bank s b) a.agent a.kernel = true)
    (ho : o = 4 → writerCode a.agent = 1) : exec (.bankHandover b a (.owner o)) s =
      if o = (bank s b).owner then .next s
      else match (bank s b).handover with
        | some (_, t, w) =>
          if now s / 2 = t / 2 ∧ !stands w a.agent
          then .next (endRelease b stBusy (count 0x500414 (setBank b { bank s b with
            handover := some (o, now s, a.agent) } s)))
          else .next (count 0x500414 s)
        | none => .next (setBank b { bank s b with handover := some (o, now s, a.agent) } s) := by
  obtain ⟨agent, kernel⟩ := a
  refine (if_neg (by simp [hf]) : execBankHandover b ⟨agent, kernel⟩ (.owner o) s = _).trans ((if_neg (by simp [ht])).trans
    (if_neg ?_))
  rw [hm]
  simp only [Bool.not_true, Bool.false_or, Bool.and_eq_true, decide_eq_true_eq, not_and, not_not]
  exact ho

/-- Settles O59, by the guards of the five events and what a hand-over leaves of its bank. -/
theorem bankEvents : Obligations.BankEvents := by
  refine ⟨fun xs s u hu => ?_, fun b a o s hf ht hm ho => ⟨fun hne hn => ?_, fun he => ?_, fun x m w hne hx =>
    ⟨fun h => ?_, fun h => ?_⟩⟩, fun b a o s h => ?_, fun b a v s hm hv => ?_, fun b a v s h => ?_,
    fun b s o m w h hq ht => ⟨?_, ?_⟩, fun b s h => ?_, fun b s o m w h k => ?_, fun b s h => ?_, fun s b x h => ?_,
    fun s h => ?_⟩
  · rw [hu]
    rfl
  · have hx := bankHandover_owner hf ht hm ho
    rw [if_neg hne, hn] at hx
    exact ⟨_, hx, by rw [bank_setBank, if_pos rfl], fun c hc => by rw [bank_setBank, if_neg hc], setBank_only ..⟩
  · exact (bankHandover_owner hf ht hm ho).trans (if_pos he)
  · rw [bankHandover_owner hf ht hm ho, if_neg hne, hx]
    exact if_pos (by simp [h])
  · rw [bankHandover_owner hf ht hm ho, if_neg hne, hx]
    exact if_neg (by simpa using h)
  · obtain ⟨agent, kernel⟩ := a
    by_cases hf : (bank s b).failed = true
    · refine (if_pos hf : execBankHandover b ⟨agent, kernel⟩ (.owner o) s = _).trans ?_
      rw [if_pos hf]
    · refine (if_neg hf : execBankHandover b ⟨agent, kernel⟩ (.owner o) s = _).trans ?_
      rw [if_neg hf]
      by_cases ht : (bank s b).test ≠ 0
      · exact (if_pos ht).trans (by rw [if_pos ht])
      · refine (if_neg ht).trans ((if_pos ?_).trans (by rw [if_neg ht]))
        rcases h with h | h | h | ⟨h, k⟩
        · exact absurd h hf
        · exact absurd h ht
        · rw [h]
          rfl
        · rw [h, decide_eq_true k]
          exact Bool.or_true _
  · obtain ⟨agent, kernel⟩ := a
    have hx : execBankHandover b ⟨agent, kernel⟩ (.lend v) s = .next (setBank b { bank s b with lendOk := v } s) := by
      refine if_neg ?_
      rw [hm]
      simp only [Bool.not_true, Bool.false_or, Bool.and_eq_true, decide_eq_true_eq, not_and, not_lt]
      intro hv' h
      exact (hv hv').resolve_left (Nat.not_lt.mpr h)
    exact ⟨_, hx, by rw [bank_setBank, if_pos rfl], fun c hc => by rw [bank_setBank, if_neg hc], setBank_only ..⟩
  · obtain ⟨agent, kernel⟩ := a
    refine (if_pos ?_ : execBankHandover b ⟨agent, kernel⟩ (.lend v) s = _)
    rcases h with h | ⟨h, k⟩
    · rw [h]
      rfl
    · rw [h, decide_eq_true k]
      exact Bool.or_true _
  · show execHandoverEffect b s = _
    unfold execHandoverEffect
    dsimp only
    rw [h]
    exact if_neg (by simp [hq, ht])
  · rw [bank_handOver, if_pos rfl]
    exact ⟨rfl, rfl⟩
  · show execHandoverEffect b s = _
    unfold execHandoverEffect
    dsimp only
    split
    · rfl
    · next hs => exact if_pos (by simp [h.resolve_left (by simp [hs])])
  · show execHandoverTimeout b s = _
    unfold execHandoverTimeout
    dsimp only
    rw [h]
    refine if_neg ?_
    rcases k with k | ⟨k, k'⟩
    · rintro (e | ⟨-, e⟩) <;> omega
    · rw [k]
      rintro (e | ⟨e, -⟩)
      · omega
      · exact Bool.false_ne_true e
  · show execHandoverTimeout b s = _
    unfold execHandoverTimeout
    dsimp only
    rcases h with h | ⟨o, m, w, h, k⟩
    · rw [h]
    · rw [h]
      exact if_pos (.inl k)
  · show execBankAllocDone s = _
    unfold execBankAllocDone
    rw [h]
  · show execBankAllocDone s = _
    unfold execBankAllocDone
    rw [h]

end Sys2Proof.Proofs.BankEvents
end

section
/-! PROOFS. Sensors, watchdogs, restarts, memory errors, trials and staging of the management complex. -/

set_option Elab.async false

namespace Sys2Proof.Proofs.ManagementEvents

open Sys2Proof Sys2Proof.Machine Sys2Proof.Laws Sys2Proof.Proofs.Frame Sys2Proof.Proofs.HostInterface
open Sys2Proof.Proofs.Access Sys2Proof.Proofs.LaneWrites Sys2Proof.Proofs.EngineEvents Sys2Proof.Proofs.Twin

/-! Sensors, watchdogs and restarts -/

theorem watchdogExpiry_of {k : Nat} {s : State} (hr : s.mgmt.restartAt = none) (hh : s.mgmt.halted = false)
    (hu : s.mgmt.up.getLsbD k = true) {ds : List Nat}
    (hd : ds = s.tick :: s.mgmt.dogs.filter fun t => decide (s.tick < t + 600000000)) :
    exec (.watchdogExpiry k) s = .next (raise .watchdog k 0 (if 3 ≤ ds.length
      then holdComplex (countAttempt { s with mgmt := { s.mgmt with dogs := ds } })
      else startRestart (countAttempt { s with mgmt := { s.mgmt with dogs := ds } }))) := by
  rw [hd]
  exact if_neg (by simp only [hr, hh, hu, Option.isSome_none]; decide)

theorem mgmtRestartDone_of {fs : List MemFault} {s v : State} {a : Nat} {r : State × Bool}
    (ha : s.mgmt.restartAt = some a) (hd : (dpReady .image s).1 = true) (hv : v = (dpReady .image s).2)
    (hr : r = restartImage v) : exec (.mgmtRestartDone fs) s =
      (fun u => if !r.2 then .next (enterRecovery u)
        else if v.mgmt.recovery then .next (leaveRecovery fs u)
        else .next (resumeService (raiseKept (replayAgain (emptyHistory u)))))
      (onImage (fun x => { x with reboot := false }) (onMgmt (fun m => { m with restartAt := none, up := 0xF }) r.1)) := by
  rw [hr, hv]
  exact (if_neg (by simp [ha]) : execMgmtRestartDone fs s = _).trans (if_neg (by simp [hd]))

/-! Memory errors -/

theorem lpddrEccUncorr_of {s : State} (h : pdOn s 3 = true) (m : LpddrRegion) (n : Nat) :
    exec (.lpddrEccUncorr ⟨some m, n⟩) s = .next (lpddrLost m (countN 0x70024 n s)) :=
  if_neg (by rw [h]; decide)

/-- An uncorrectable error before what it hits is marked: the corrected ones are counted, it is counted and told. -/
def lpddrTold (m : LpddrRegion) (n : Nat) (s : State) : State :=
  raise .lpddrUncorr m.ctorIdx 0 (count 0x70028 (countN 0x70024 n s))

theorem lpddrTold_only (m : LpddrRegion) (n : Nat) (s : State) :
    Only [.rc, .rings, .hostOut, .mgmtLog, .smb, .jnl, .log] s (lpddrTold m n s) :=
  Only.then (Only.then (Only.mono (countN_only 0x70024 n s)) (count_only 0x70028 _)) (raise_only ..)

theorem page_lpddrTold (m : LpddrRegion) (n : Nat) (s : State) : (lpddrTold m n s).page = s.page :=
  (lpddrTold_only m n s).same .page (by decide)

theorem pm_lpddrTold (m : LpddrRegion) (n : Nat) (s : State) : (lpddrTold m n s).pm = s.pm :=
  (lpddrTold_only m n s).same .pm (by decide)

theorem pm_mapHist {s t : State} (h : t.pm = s.pm) (f : Nat → Hist → Hist) : (mapHist f t).pm = (mapHist f s).pm := by
  unfold mapHist
  rw [h]

theorem scen_setScen (n k : Nat) (x : Scenario) (s : State) :
    scen (setScen n x s) k = if k = n then x else scen s k := spGet_spSet ..

/-- A scenario an uncorrectable error hits is stale and no longer fits its CRC. -/
def lostScen (x : Scenario) : Scenario :=
  { x with crc := ~~~ pageCrc x.pages, st := 2, reason := if x.st = 2 then x.reason else 4 }

theorem scen_scenLost {n : Nat} {s : State} (h : (scen s n).st ≠ 0) (k : Nat) :
    scen (scenLost n s) k = if k = n then lostScen (scen s n) else scen s k := by
  unfold scenLost
  dsimp only
  rw [if_neg h]
  refine Eq.trans ?_ (scen_setScen n k (lostScen (scen s n)) s)
  unfold scen
  rw [(endRebuild_only ..).same .page (by decide)]
  rfl

theorem lpddrLost_scenario (n k : Nat) (s : State) : lpddrLost (.scenario n) (countN 0x70024 k s) =
    scenLost n (lpddrTold (.scenario n) k s) := rfl

/-- A sample trips the card when it is critical, unless the card has tripped and is off. -/
theorem sensorSample_of {r : SensorReading} {s u : State} (hv : s.pwr.vin = true) (hp : s.pwr.por = false)
    (hu : u = warnStep (takeMax ((List.range 64).map fun i =>
        (r.temps.getD i 0).toInt) (forAll (List.range 64) (takeReading ((List.range 64).map fun i =>
        (r.temps.getD i 0).toInt)) { s with sens := { s.sens with
          vin := r.vin, iin := r.iin, pin := r.pin, oven := r.oven,
          dom := (List.range 20).foldl (fun m d => spSet (fun _ => 0) d (r.domains.getD d 0) m) s.sens.dom } }))) :
    exec (.sensorSample r) s = .next (if (944 ≤ u.sens.max.toInt ∨ u.sens.valid < 32) ∧
      (u.sens.tripped = false ∨ u.pwr.st = 1 ∨ u.pwr.st = 2 ∨ u.pwr.st = 3) then trip u else u) := by
  have hx : execSensorSample r s = .next (if (decide (944 ≤ u.sens.max.toInt) || decide (u.sens.valid < 32)) &&
      (!u.sens.tripped || (u.pwr.st = 1 || u.pwr.st = 2 || u.pwr.st = 3)) then trip u else u) := by
    rw [hu]
    exact if_neg (by rw [hv, hp]; decide)
  refine hx.trans (congrArg _ (if_congr ?_ rfl rfl))
  simp only [Bool.and_eq_true, Bool.or_eq_true, decide_eq_true_eq, Bool.not_eq_true', or_assoc]

/-! Staging of images -/

theorem imageStageDone_of {ok : Bool} {s : State} {q : Nat} {b : Bytes} (h : s.image.staging = some (q, b)) :
    exec (.imageStageDone ok) s = if !mgmtRuns s then .next s
      else if !(dpReady .image s).1 then .next (dpReady .image s).2
      else
        let n := imageOpens (dpReady .image s).2.otp true b
        let v := countOpens none n.1 n.2 (dpReady .image s).2
        let f := imageFault v.otp true b
        let good := f = 0 && ok && slotThere v (!v.image.boot)
        .next (complete q (if f = 6 then ans stRollbackRefused else if !good then ans stImageInvalid
            else ⟨stOk, imgId b + 2 ^ 32 * imgVersion b, 0, 0, 0⟩)
          (onImage (fun x => { setSlot (!v.image.boot) (if good then b else []) x with staging := none }) v)) := by
  show execImageStageDone ok s = _
  unfold execImageStageDone
  rw [h]

/-- Settles O56, by the guards of the events and what an uncorrectable error marks. -/
theorem managementEvents : Obligations.ManagementEvents := by
  refine ⟨fun r s hv hp u hu => ⟨fun h => ?_, fun h k => ?_⟩,
    fun k s hr hh hu ds hd u hu' => ⟨fun h => ?_, fun h => ?_⟩,
    fun fs s a v r u ha hd hv hr hu => ?_, fun fs s => ⟨fun h => ?_, fun h hd => ?_⟩, fun s n h => ?_,
    fun s n m u h hm hu => ?_, fun s k n h hn => ?_, fun s k n h hn => ?_, fun s k n h => ?_,
    fun s k o h => ⟨?_, ?_, fun i => ?_⟩,
    fun s ht hm ha => ?_, fun s h => if_neg ?_, fun ok s q b u n v f good hs hm hd hu hn hv hf hg => ?_,
    fun ok s q b hs hm hd => ?_, fun ok s h => ?_⟩
  · rw [sensorSample_of hv hp hu, if_neg]
    rintro ⟨k | k, -⟩
    · exact Int.not_le.mpr h.1 k
    · exact Nat.not_lt.mpr h.2 k
  · rw [sensorSample_of hv hp hu, if_pos ⟨h, k⟩]
  · rw [watchdogExpiry_of hr hh hu hd, if_neg (Nat.not_le.mpr h), hu']
  · rw [watchdogExpiry_of hr hh hu hd, if_pos h, hu']
  · rw [mgmtRestartDone_of ha hd hv hr, ← hu]
    cases r.2
    · rfl
    · cases v.mgmt.recovery <;> rfl
  · exact if_pos (by simp [h])
  · exact (if_neg (by simpa [Option.isNone_iff_eq_none] using h) : execMgmtRestartDone fs s = _).trans
      (if_pos (by rw [hd]; rfl))
  · have hx : execLpddrEccUncorr ⟨none, n⟩ s = .next (countN 0x70024 n s) := if_neg (by rw [h]; decide)
    refine ⟨_, hx, rfl, ?_, countN_only ..⟩
    exact spGet_spSet .. |>.trans (if_pos rfl)
  · have hl : lpddrLost m (countN 0x70024 n s) = if m = .firmware then
        if u.mgmt.restartAt.isSome || u.mgmt.halted || u.mgmt.up = 0 then u else startRestart u else u := by
      rcases hm with rfl | rfl | rfl
      · rw [if_pos rfl, hu]
        rfl
      · rw [if_neg (by decide), hu]
        rfl
      · rw [if_neg (by decide), hu]
        rfl
    rw [lpddrEccUncorr_of h, hl]
    by_cases hf : m = .firmware
    · rw [if_pos hf]
      by_cases hc : u.mgmt.restartAt = none ∧ u.mgmt.halted = false ∧ u.mgmt.up ≠ 0
      · obtain ⟨h1, h2, h3⟩ := hc
        rw [if_neg (by rw [h1, h2, decide_eq_false h3]; decide)]
        exact congrArg _ (if_pos ⟨hf, h1, h2, h3⟩).symm
      · rw [if_neg fun k : _ ∧ _ => hc k.2]
        refine congrArg _ (if_pos ?_)
        by_contra k
        simp only [Bool.or_eq_true, decide_eq_true_eq, not_or, Bool.not_eq_true] at k
        obtain ⟨⟨k1, k2⟩, k3⟩ := k
        exact hc ⟨by simpa using k1, k2, k3⟩
    · rw [if_neg hf]
      exact congrArg _ (if_neg fun k => hf k.1).symm
  · have hx := lpddrEccUncorr_of h (.scenario n) k
    rw [lpddrLost_scenario] at hx
    have hp : ∀ m, scen (lpddrTold (.scenario n) k s) m = scen s m := fun m => by
      unfold scen
      rw [page_lpddrTold]
    have hl := scen_scenLost (n := n) (s := lpddrTold (.scenario n) k s) (by rw [hp]; exact hn)
    refine ⟨_, hx, ?_, ?_, ?_, ?_, fun m hm => ?_⟩
    · rw [hl, if_pos rfl]
      rfl
    · rw [hl, if_pos rfl, hp]
      rfl
    · rw [hl, if_pos rfl, hp]
      rfl
    · rw [hl, if_pos rfl, hp]
      rfl
    · rw [hl, if_neg hm, hp]
  · have hx := lpddrEccUncorr_of h (.scenario n) k
    rw [lpddrLost_scenario] at hx
    refine ⟨_, hx, ?_⟩
    unfold scenLost scen
    rw [page_lpddrTold]
    exact (congrArg State.page (if_pos hn)).trans (page_lpddrTold ..)
  · have hx := lpddrEccUncorr_of h (.log n) k
    exact ⟨_, hx, mem_insNat .., page_lpddrTold ..⟩
  · exact ⟨_, lpddrEccUncorr_of h _ k, pm_mapHist (pm_lpddrTold (.history o false 0) k s) _⟩
  · exact ⟨_, lpddrEccUncorr_of h _ k, pm_mapHist (pm_lpddrTold (.history o true 0) k s) _⟩
  · exact ⟨_, lpddrEccUncorr_of h _ k, pm_mapHist (pm_lpddrTold (.history o false (i + 1)) k s) _⟩
  · exact if_pos (by rw [ht, hm, decide_eq_true ha]; rfl)
  · rcases h with h | h
    · simp [h]
    · simp [Nat.not_le.mpr h]
  · have hb : v.image.boot = s.image.boot := by
      rw [hv, (countOpens_only ..).same .image (by decide), hu, (dpReady_only ..).same .image (by decide)]
    rw [← hb] at hg ⊢
    rw [imageStageDone_of hs, if_neg (by rw [hm]; decide), if_neg (by rw [hd]; decide)]
    dsimp only
    rw [← hu, ← hn, ← hv, ← hf, ← hg]
    cases good <;> rfl
  · rw [imageStageDone_of hs, if_neg (by rw [hm]; decide), if_pos (by rw [hd]; rfl)]
  · cases hs : s.image.staging with
    | none =>
      show execImageStageDone ok s = _
      unfold execImageStageDone
      rw [hs]
    | some e => rw [imageStageDone_of (q := e.1) (b := e.2) hs, if_pos (by rw [h.resolve_left (by simp [hs])]; rfl)]

end Sys2Proof.Proofs.ManagementEvents
end

section
/-! PROOFS. The page controller: swaps, builds, saves, loads and the scenarios. -/

set_option Elab.async false

namespace Sys2Proof.Proofs.PageEvents

open Sys2Proof Sys2Proof.Machine Sys2Proof.Laws Sys2Proof.Proofs.Frame Sys2Proof.Proofs.HostInterface
open Sys2Proof.Proofs.Access Sys2Proof.Proofs.EngineEvents Sys2Proof.Proofs.ManagementEvents

/-! Swaps and saves -/

theorem swapCommit_other {s : State} (h : s.page.standby ≠ .armed) : exec .swapCommit s = .next s := by
  show execSwapCommit s = _
  unfold execSwapCommit
  split
  · next hs _ => exact absurd hs h
  · rfl

theorem pageSwap_other {s : State} (h : s.page.standby ≠ .committed) : exec .pageSwap s = .next s := by
  show execPageSwap s = _
  unfold execPageSwap
  split
  · next hs _ => exact absurd hs h
  · rfl

theorem scenSaveDone_other {s : State} (h : s.page.standby ≠ .saving) : exec .scenSaveDone s = .next s := by
  show execScenSaveDone s = _
  unfold execScenSaveDone
  split
  · next hs _ => exact absurd hs h
  · rfl

theorem scenLoadDone_other {s : State} (h : s.page.standby ≠ .loading) : exec .scenLoadDone s = .next s := by
  show execScenLoadDone s = _
  unfold execScenLoadDone
  split
  · next hs _ => exact absurd hs h
  · next hs _ => exact absurd hs h
  · rfl

/-! Builds, loads and scenarios -/

theorem placementDone_of {s : State} (hs : s.page.standby = .building) (hj : s.abacus.job ≠ 2)
    (ha : abacusUp s = true) : exec .placementDone s = match s.page.holder with
      | some (.batch q t f st) => .next (placeBatch q t f st s)
      | some (.rebind _) => .next (placeRebind s)
      | some (.vacate k) => .next (placeVacate k s)
      | some (.groupBridge g sig) => .next (placeBridge g sig s)
      | some .first => .next (placeFirst s)
      | _ => .next s :=
  if_neg (by
    simp only [hs, ha, ne_eq, not_true_eq_false, false_or, Bool.not_true, Bool.false_eq_true, or_false]
    exact hj)

theorem repackDone_of {s : State} {c : Option (List (Nat × Nat))} (hs : s.page.standby = .building)
    (hj : s.abacus.job = 2) (ha : abacusUp s = true) : exec (.repackDone c) s =
      (fun v pick u => match s.page.holder with
      | some (.batch q t f st) =>
        (match repackBase v pick s.abacus.map (((batchOf s q).map (·.cmds)).getD []) with
        | .error e => .next (noPlacement q (.batch q t f st)
          (failReport v pick s.abacus.map (((batchOf s q).map (·.cmds)).getD []) e s) s)
        | .ok p => .next (repacked q (.batch q t f st) v pick (if st then [] else s.page.rebinds)
          (some (((batchOf s q).map (·.cmds)).getD [])) p c
          (fun e => failReport v pick s.abacus.map (((batchOf s q).map (·.cmds)).getD []) e s) u))
      | some (.repack q) =>
        (match repackBase v pick s.abacus.map [] with
        | .error e => .next (noPlacement q (.repack q) e s)
        | .ok p => .next (repacked q (.repack q) v pick s.page.rebinds none p c id u))
      | some (.vacate k) =>
        (match repackBase v pick s.abacus.map [] with
        | .error _ => .next (raise .stepUnvacated k 0 (resync s))
        | .ok p => .next (repackVacate k v pick p c u))
      | _ => .next s) (rebindEnv s s.page.rebinds) (Config.free s.free) { s with free := s.free + 1 } := by
  refine (if_neg (by simp [hs, hj, ha]) : execRepackDone c s = _).trans ?_
  rfl

theorem scenLoadDone_host {s : State} {q n t : Nat} {st : Bool} (hs : s.page.standby = .loading)
    (hh : s.page.holder = some (.hostLoad q n t st)) : exec .scenLoadDone s =
      if loadCause (scen s n) s ≠ 0 then
        .next (complete q (ans stScenarioStale) (loadFails n (loadCause (scen s n) s) s))
      else if st then .next (complete q (ans stOk) (onPage (fun p => { p with standby := .built }) (loadPasses n s)))
      else .next (armPage (.hostLoad q n t st) (some q) 0 [] (some t) (loadPasses n s)) := by
  show execScenLoadDone s = _
  unfold execScenLoadDone
  rw [hs, hh]

theorem scenLoadDone_group {s : State} {g n : Nat} (hs : s.page.standby = .loading)
    (hh : s.page.holder = some (.groupLoad g n)) : exec .scenLoadDone s =
      if loadCause (scen s n) s ≠ 0 then .next (restoreFail g (loadFails n (loadCause (scen s n) s) s))
      else .next (armPage (.groupLoad g n) none 0 [] (some 0) (loadPasses n s)) := by
  show execScenLoadDone s = _
  unfold execScenLoadDone
  rw [hs, hh]

/-- The state in which a rebuild stores its result: the draw is taken and the rebuild has ended. -/
def rebuildEnded (n : Nat) (s : State) : State := endRebuild n { s with free := s.free + 1 }

theorem rebuildEnded_only (n : Nat) (s : State) : Only [.free, .abacus] s (rebuildEnded n s) := by
  unfold rebuildEnded
  exact Only.then (Only.upd12 (Only.refl _ s)) (endRebuild_only ..)

theorem rebuildEnded_rebuilding {n : Nat} {s : State} (h : s.abacus.rebuilding = some n) :
    (rebuildEnded n s).abacus.rebuilding = none := by
  unfold rebuildEnded endRebuild
  rw [if_pos h]
  rfl

theorem rebuildEnded_free (n : Nat) (s : State) : (rebuildEnded n s).free = s.free + 1 :=
  (endRebuild_only ..).same .free (by decide)

theorem groupDef_of_only {ps : List Part} {s t : State} (h : Only ps s t) (hp : Part.prot ∉ ps) :
    groupDef t = groupDef s := by
  funext g
  unfold groupDef
  rw [h.same .prot hp]

/-- A scenario rebuilt from its map. -/
def rebuiltScen (p : Placing) (s : State) (x : Scenario) : Scenario :=
  { x with
    st := 1, reason := 0, map := p.map, pages := buildPages p.map (groupDef s)
    crc := pageCrc (buildPages p.map (groupDef s)), fromJnl := false, modes := boundModes s }

/-- A rebuild ends with new pages, or leaves the scenario stale. -/
def storeRebuilt (n : Nat) (m : Option Placing) (x : Scenario) (s : State) : State :=
  match m with
  | none => setScen n { x with st := 2, fromJnl := false } s
  | some p => setScen n (rebuiltScen p s x) (countN 0x32000C p.placed (countN 0x320014 p.paths s))

theorem scenarioRebuildDone_of {n : Nat} {s : State} (hr : s.abacus.rebuilding = some n) (hn : (scen s n).st = 5)
    (ha : abacusUp s = true) : ∃ m,
      exec (.scenarioRebuildDone n) s = .next (storeRebuilt n m (scen s n) (rebuildEnded n s)) := by
  let u := rebuildEnded n s
  let m := rebuildMap { placeEnv u with native := u.abacus.rebuildCfg.getLsbD 2 } (Config.free s.free) (scen s n).map
  refine ⟨m, (if_neg (by simp [hr, hn, ha]) : execScenarioRebuildDone n s = _).trans ?_⟩
  change (match m with
    | none => _
    | some p => _) = _
  unfold storeRebuilt
  cases m <;> rfl

theorem storeRebuilt_kept (n : Nat) (m : Option Placing) (x : Scenario) (s : State) :
    (storeRebuilt n m x s).abacus = s.abacus ∧ (storeRebuilt n m x s).free = s.free ∧
      ∀ k, k ≠ n → scen (storeRebuilt n m x s) k = scen s k := by
  unfold storeRebuilt
  cases m with
  | none => exact ⟨rfl, rfl, fun k h => by rw [scen_setScen, if_neg h]⟩
  | some p =>
    refine ⟨rfl, rfl, fun k h => ?_⟩
    dsimp only
    rw [scen_setScen, if_neg h]
    rfl

theorem storeRebuilt_scen (n : Nat) (m : Option Placing) (x : Scenario) (s : State) :
    scen (storeRebuilt n m x s) n = { x with st := 2, fromJnl := false } ∨
      ∃ p, scen (storeRebuilt n m x s) n = rebuiltScen p s x := by
  unfold storeRebuilt
  cases m with
  | none => exact .inl (by rw [scen_setScen, if_pos rfl])
  | some p => exact .inr ⟨p, by dsimp only; rw [scen_setScen, if_pos rfl]⟩

/-- Settles O52, by the guards of the events. -/
theorem pageEvents : Obligations.PageEvents := by
  refine ⟨fun s a x hs ha hx => ?_, fun s a x hs ha hx ht hl => ?_, fun s u hs ht hu => ?_,
    fun s hs hj hu => ⟨fun q t f st h => ?_, fun r h => ?_, fun k h => ?_, fun g n h => ?_, fun h => ?_⟩,
    fun c s v u hs hj ha hv hu => ⟨fun q h => ⟨fun e he => ?_, fun p hp => ?_⟩,
      fun q t f st cmds h hc => ⟨fun e he => ?_, fun p hp => ?_⟩, fun k h => ⟨fun e he => ?_, fun p hp => ?_⟩⟩,
    fun n s hn hc => ?_, fun n s hr hn ha => ?_, fun n s h => if_pos ?_, fun n s h => if_neg ?_,
    fun s h => ⟨if_pos ?_, fun c => if_pos ?_⟩, fun s h => scenSaveDone_other h, fun s h => scenLoadDone_other h,
    fun s h => swapCommit_other h, fun s h => pageSwap_other h, fun s h => if_neg ?_,
    fun s q n auto name u hs hh hu w hw => ?_, fun s q n auto name u hs hh hu w hw => ?_,
    fun s q n x st hs hh => ⟨fun h => ?_, fun h k => ?_, fun h k => ?_⟩, fun s g n hs hh => ⟨fun h => ?_, fun h => ?_⟩⟩
  · show execSwapCommit s = _
    unfold execSwapCommit
    rw [hs, ha]
    dsimp only
    rw [hx]
    rfl
  · show execPageSwap s = _
    unfold execPageSwap
    rw [hs, ha]
    dsimp only
    rw [hx]
    exact congrArg _ (if_pos ⟨ht, hl⟩)
  · rw [hu]
    exact if_pos ⟨hs, ht⟩
  · rw [placementDone_of hs hj hu, h]
  · rw [placementDone_of hs hj hu, h]
  · rw [placementDone_of hs hj hu, h]
  · rw [placementDone_of hs hj hu, h]
  · rw [placementDone_of hs hj hu, h]
  · rw [repackDone_of hs hj ha, h, ← hv]
    dsimp only
    rw [he]
  · rw [repackDone_of hs hj ha, h, ← hv, hu]
    dsimp only
    rw [hp]
  · rw [repackDone_of hs hj ha, h, ← hv]
    dsimp only
    rw [← hc, he]
  · rw [repackDone_of hs hj ha, h, ← hv, hu]
    dsimp only
    rw [← hc, hp]
  · rw [repackDone_of hs hj ha, h, ← hv]
    dsimp only
    rw [he]
  · rw [repackDone_of hs hj ha, h, ← hv, hu]
    dsimp only
    rw [hp]
  · have hx : execScenarioMarkStale n s = .next _ := if_pos ⟨hn, hc⟩
    exact ⟨_, hx, by rw [scen_setScen, if_pos rfl], by rw [scen_setScen, if_pos rfl],
      fun k hk => by rw [scen_setScen, if_neg hk], setScen_only ..⟩
  · have hk : ∀ m, scen (rebuildEnded n s) m = scen s m := fun m => by
      unfold scen
      rw [(rebuildEnded_only n s).same .page (by decide)]
    have hg := groupDef_of_only (rebuildEnded_only n s) (by decide)
    obtain ⟨m, hx⟩ := scenarioRebuildDone_of hr hn ha
    obtain ⟨hab, hf, ho⟩ := storeRebuilt_kept n m (scen s n) (rebuildEnded n s)
    refine ⟨_, hx, by rw [hab]; exact rebuildEnded_rebuilding hr, ?_, ?_, fun k h => by rw [ho k h, hk],
      by rw [hf]; exact rebuildEnded_free n s, only_of_exec (c := .scenarioRebuildDone n) hx⟩
    · rcases storeRebuilt_scen n m (scen s n) (rebuildEnded n s) with h | ⟨p, h⟩
      · exact .inr (by rw [h])
      · exact .inl (by rw [h]; rfl)
    · rcases storeRebuilt_scen n m (scen s n) (rebuildEnded n s) with h | ⟨p, h⟩
      · rw [h]
        exact fun e => absurd e (show (2 : BitVec 3) ≠ 1 by decide)
      · rw [h, ← hg]
        exact fun _ => ⟨rfl, rfl⟩
  · rcases h with h | h | h
    · exact .inl h
    · exact .inr (.inl h)
    · simp [h]
  · rintro ⟨k, k'⟩
    exact h.elim (absurd k) (absurd · k')
  · rcases h with h | h <;> simp [h]
  · rcases h with h | h <;> simp [h]
  · rintro ⟨k, k'⟩
    exact h.elim (absurd k) (absurd k' <| Nat.not_le.mpr ·)
  · show execScenSaveDone s = _
    unfold execScenSaveDone
    rw [hs, hh, hw, hu]
    rfl
  · show execScenSaveDone s = _
    unfold execScenSaveDone
    rw [hs, hh, hw, hu]
    rfl
  · rw [scenLoadDone_host hs hh]
    exact if_pos h
  · rw [scenLoadDone_host hs hh]
    exact (if_neg (not_not.mpr h)).trans (if_pos k)
  · rw [scenLoadDone_host hs hh, k]
    exact (if_neg (not_not.mpr h)).trans (if_neg Bool.false_ne_true)
  · rw [scenLoadDone_group hs hh]
    exact if_pos h
  · rw [scenLoadDone_group hs hh]
    exact if_neg (not_not.mpr h)

end Sys2Proof.Proofs.PageEvents
end

section
/-! PROOFS. What faults keep of the test in progress, and what reports keep of the counters. -/

set_option Elab.async false

namespace Sys2Proof.Proofs.TestKept

open Sys2Proof Sys2Proof.Machine Sys2Proof.Laws Sys2Proof.Proofs.Frame Sys2Proof.Proofs.Access
open Sys2Proof.Proofs.LaneWrites

/-! The mark of a test of one row -/

/-- The test in progress is, or is not, of one row, in both states alike. -/
structure SingleKept (s t : State) : Prop where
  single : t.mtest.single = s.mtest.single

theorem SingleKept.refl (s : State) : SingleKept s s := ⟨rfl⟩

theorem SingleKept.then {s t u : State} (h : SingleKept s t) (k : SingleKept t u) : SingleKept s u :=
  ⟨k.single.trans h.single⟩

/-- An operation that leaves the memory tests leaves the mark. -/
theorem SingleKept.quiet {ps : List Part} {s t u : State} (h : SingleKept s t) (k : Only ps t u)
    (hp : (!ps.contains .mtest) = true := by rfl) : SingleKept s u :=
  ⟨(congrArg Mtest.single (k.same .mtest (by simpa using hp))).trans h.single⟩

theorem SingleKept.ite {s t u : State} {c : Prop} [Decidable c] (h : SingleKept s t) (k : SingleKept s u) :
    SingleKept s (if c then t else u) := by
  split <;> assumption

theorem setMemBlock_single (m : Nat) (x : MemBlock) (s : State) : SingleKept s (setMemBlock m x s) := ⟨rfl⟩

theorem setLast_single (w : Word) (s : State) : SingleKept s (onMtest (fun t => { t with last := w }) s) := ⟨rfl⟩

theorem repairLast_single (w : Word) (s : State) :
    SingleKept s (count 0x510028 (onMtest (fun t => { t with last := w }) s)) :=
  .quiet (setLast_single w s) (count_only ..)

theorem softRepair_single (m kind spare index : Nat) (s : State) : SingleKept s (softRepair m kind spare index s) := by
  have h := repairLast_single (BitVec.ofNat 32 (m * 65536 + kind * 32768 + spare * 4096 + index % 4096)) s
  unfold softRepair
  dsimp only
  split
  · exact .quiet h (journal_only ..)
  · exact .quiet h (raise_only ..)

theorem flagSlot_single (kind gs : Nat) (s : State) : SingleKept s (flagSlot kind gs s) := by
  have h : ∀ (w : Word) x y, SingleKept s { s with core := x, mtest := { s.mtest with flagLast := w } } ∧
      SingleKept s { s with mtest := { s.mtest with outFlags := y, flagLast := w } } := fun w x y => ⟨⟨rfl⟩, ⟨rfl⟩⟩
  unfold flagSlot
  exact .ite (h _ _ []).1 (h _ s.core _).2

theorem failLane_single (l : Nat) (a b : Bool) (s : State) : SingleKept s (failLane l a b s) := by
  unfold failLane
  refine .quiet ?_ (raise_only ..)
  exact ⟨rfl⟩

theorem abandonPageTest_single (s : State) : SingleKept s (abandonPageTest s) := by
  unfold abandonPageTest
  split
  · refine .quiet ?_ (resync_only ..)
    exact ⟨rfl⟩
  · exact .refl s

theorem request_single (w : PageWork) (s : State) : SingleKept s (request w s) := by
  unfold request
  refine .quiet (.quiet (.ite ?_ ?_) (onPage_only ..)) (kickAll_only ..)
  · exact .quiet (abandonPageTest_single s) (preempt_only ..)
  · exact abandonPageTest_single s

theorem failStep_single (k : Nat) (s : State) : SingleKept s (failStep k s) := by
  unfold failStep
  split
  · exact .refl s
  · split
    · exact .quiet (.refl s) (retireStep_only ..)
    · refine .then ?_ (request_single ..)
      exact ⟨rfl⟩

theorem failBank_single (b : Nat) (s : State) : SingleKept s (failBank b s) := .quiet (.refl s) (failBank_only ..)

theorem failEngine_single (e : Nat) (s : State) : SingleKept s (failEngine e s) := .quiet (.refl s) (failEngine_only ..)

theorem rowBeyond_single (m row : Nat) (s : State) : SingleKept s (rowBeyond m row s) := by
  unfold rowBeyond
  dsimp only
  split
  · exact failBank_single ..
  · exact flagSlot_single ..
  · exact failStep_single ..
  · exact failStep_single ..
  · exact failStep_single ..
  · exact flagSlot_single ..
  · exact failEngine_single ..
  · exact failEngine_single ..
  · exact .refl s

theorem colBeyond_single (m : Nat) (s : State) : SingleKept s (colBeyond m s) := by
  unfold colBeyond
  dsimp only
  split
  · exact failBank_single ..
  · exact failLane_single ..
  · exact failLane_single ..
  · exact failLane_single ..
  · exact failLane_single ..
  · exact failLane_single ..
  · exact failEngine_single ..
  · exact failEngine_single ..
  · exact .refl s

theorem colFault_single (m col : Nat) (x : MemBlock) (s : State) : SingleKept s (colFault m col x s) := by
  unfold colFault
  dsimp only
  exact .ite (.then (setMemBlock_single ..) (softRepair_single ..)) (.ite (.refl s)
    (.ite (.quiet (setMemBlock_single ..) (raise_only ..)) (.then (setMemBlock_single ..) (colBeyond_single ..))))

theorem faultFound_single (f : MemFault) (s : State) : SingleKept s (faultFound f s) := by
  unfold faultFound
  dsimp only
  have h : SingleKept s (onMtest (fun t => { t with found := t.found + 1 }) (count 0x510024 s)) := ⟨rfl⟩
  refine h.then ?_
  exact .ite (.refl _) (.ite (colFault_single ..) (.ite (.then (setMemBlock_single ..) (softRepair_single ..))
    (.then (setMemBlock_single ..) (rowBeyond_single ..))))

theorem takeFaults_single (p : Nat → Bool) (fs : List MemFault) (s : State) : SingleKept s (takeFaults p fs s) :=
  forAll_keeps (P := SingleKept s) (.refl s) fun f u h => h.then (faultFound_single f u)

/-! Reports leave every counter but those of lost critical records and of dropped events -/

/-- `o` is not a counter that a report counts. -/
def NotReport (o : Nat) : Prop := o ≠ 0x7002C ∧ ∀ r, o ≠ 0x56010 + 0x20 * r

theorem notReport_of_mod {o : Nat} (h : o ≠ 0x7002C) (hm : o % 0x20 ≠ 0x10) : NotReport o :=
  ⟨h, fun r e => by omega⟩

theorem spGet_foldl_spSet_ne {α β : Type} [DecidableEq α] (d : Nat → α) (k : β → Nat) (f : List (Nat × α) → β → α)
    {o : Nat} (xs : List β) (m : List (Nat × α)) (h : ∀ x, o ≠ k x) :
    spGet d (xs.foldl (fun m x => spSet d (k x) (f m x) m) m) o = spGet d m o := by
  induction xs generalizing m with
  | nil => rfl
  | cons x xs ih => rw [List.foldl_cons, ih, spGet_spSet, if_neg (h x)]

theorem rcGet_deliver {o : Nat} (h : NotReport o) (e : EvRec) (s : State) : rcGet (deliver e s) o = rcGet s o := by
  obtain ⟨h1, h2⟩ := h
  have hc : ∀ (c : Prop) [Decidable c] (v : Word), spGet (fun _ => (0 : Word))
      (if c then spSet (fun _ => 0) 0x7002C v s.rc else s.rc) o = spGet (fun _ => 0) s.rc o := fun c _ v => by
    split
    · rw [spGet_spSet, if_neg h1]
    · rfl
  unfold deliver rcGet
  dsimp only
  by_cases hr : s.hif.rings.isEmpty = true
  · rw [if_pos hr, hc]
  · rw [if_neg hr, spGet_foldl_spSet_ne _ (fun d : Nat × Nat => 0x56010 + 0x20 * d.1)
      (fun m d => BitVec.ofNat 32 (min 0xFFFFFFFF ((spGet (fun _ => (0 : Word)) m (0x56010 + 0x20 * d.1)).toNat + d.2)))
      _ _ fun d => h2 d.1, hc]

theorem rcGet_holdBack {o : Nat} (h : NotReport o) (e : EvRec) (s : State) : rcGet (holdBack e s) o = rcGet s o := by
  obtain ⟨-, h2⟩ := h
  unfold holdBack rcGet
  dsimp only
  split
  · rfl
  · rw [spGet_foldl_spSet_ne _ _ _ _ _ fun r => h2 r]

theorem rcGet_deliverAll {o : Nat} (h : NotReport o) (n : Nat) (e : EvRec) (s : State) :
    rcGet (deliverAll n e s) o = rcGet s o := by
  induction n generalizing e s with
  | zero => exact rcGet_deliver h e s
  | succ n ih =>
    unfold deliverAll
    dsimp only
    refine List.foldlRecOn (motive := fun u => rcGet u o = rcGet s o) _ _ (rcGet_deliver h e s) fun u hu r _ => ?_
    rw [ih]
    exact hu

theorem rcGet_raise {o : Nat} (h : NotReport o) (ev : Ev) (obj data : Nat) (s : State) :
    rcGet (raise ev obj data s) o = rcGet s o := by
  unfold raise raiseX
  dsimp only
  split
  · rw [rcGet_deliverAll h]
    rfl
  · rw [rcGet_holdBack h]
    rfl

end Sys2Proof.Proofs.TestKept
end

section
/-! PROOFS. The march test: banks, steps, pages and ports lent to it. -/

set_option Elab.async false

namespace Sys2Proof.Proofs.MemoryTests

open Sys2Proof Sys2Proof.Machine Sys2Proof.Laws Sys2Proof.Proofs.Frame Sys2Proof.Proofs.HostInterface
open Sys2Proof.Proofs.Access Sys2Proof.Proofs.LaneWrites Sys2Proof.Proofs.EngineEvents Sys2Proof.Proofs.Twin
open Sys2Proof.Proofs.BankEvents Sys2Proof.Proofs.TestKept

/-! Runs, segments and recalls -/

theorem beginRun_starts (e n : Nat) (t : Mtest) : (beginRun e n t).element = e ∧ (beginRun e n t).runAt = n ∧
    (beginRun e n t).segment = t.segment ∧ (beginRun e n t).target = t.target ∧ (beginRun e n t).mode = t.mode ∧
    (beginRun e n t).index = t.index ∧ (beginRun e n t).q = t.q := by
  unfold beginRun
  dsimp only
  split <;> exact ⟨rfl, rfl, rfl, rfl, rfl, rfl, rfl⟩

theorem bank_onMtest (f : Mtest → Mtest) (b : Nat) (s : State) : bank (onMtest f s) b = bank s b := rfl

theorem retentionPauseEnd_waits {s : State} (h : s.mtest.pausedAt = none ∨
    ∃ a, s.mtest.pausedAt = some a ∧ now s < a + ticks s.mtest.pause) : exec .retentionPauseEnd s = .next s := by
  show execRetentionPauseEnd s = _
  unfold execRetentionPauseEnd
  dsimp only
  rcases h with h | ⟨a, h, k⟩
  · rw [h]
  · rw [h]
    exact if_pos k

/-- The tests go on with segment `n`, or have done the last one. -/
def toSegment (n now : Nat) (t : Mtest) : Mtest :=
  let u := { t with segment := n }
  if 512 ≤ n then { u with element := 0 } else beginRun 0 now u

theorem toSegment_starts (n at_ : Nat) (t : Mtest) : (toSegment n at_ t).segment = n ∧ (toSegment n at_ t).element = 0 ∧
    (n < 512 → (toSegment n at_ t).runAt = at_) := by
  obtain ⟨h1, h2, h3, -⟩ := beginRun_starts 0 at_ { t with segment := n }
  unfold toSegment
  dsimp only
  split
  · next h => exact ⟨rfl, rfl, fun k => absurd h (Nat.not_le.mpr k)⟩
  · exact ⟨h3, h1, fun _ => h2⟩

theorem segmentDone_of {b : Nat} {fs : List MemFault} {s : State} (ht : s.mtest.target = 1) (hm : s.mtest.mode = 1)
    (hi : s.mtest.index = b) (hb : (bank s b).test = 1) (hg : s.mtest.segment < 512) (hr : runOver s = true) :
    exec (.segmentDone b fs) s = (fun u n =>
      if (bank u b).failed then .next (bankDone b u)
      else .next (onMtest (toSegment n (now u)) (setBank b { bank u b with
        recalls := 0, segment := if s.mtest.single then (bank u b).segment else n % 512 } u)))
      (takeFaults (· = b) (fs.filter fun f => f.row = s.mtest.segment) (bankRun b 4 s.mtest.segment 1 384 384 s))
      (if s.mtest.single then 512 else s.mtest.segment + 1) :=
  if_neg (by simp [ht, hm, hi, hb, Nat.not_le.mpr hg, hr])

theorem mem_of_only {ps : List Part} {s t : State} (h : Only ps s t) (hp : Part.sram ∉ ps) : t.bank.mem = s.bank.mem := by
  have e : sramOf t.bank = sramOf s.bank := h.same .sram hp
  simp only [sramOf, Prod.mk.injEq] at e
  exact e.1

/-- A bank back at the lender `o` from the tests: the words are as they were. -/
theorem returned_facts (b o n : Nat) (x : Bank) (f : Mtest → Mtest) (c : Bool) (s w : State)
    (hw : w = handOver b o (setBank b x s)) :
    bank (onlyIf c (count 0x510030) (onMtest f (setBank b { bank w b with ownFrom := n } w))) b =
        { x with owner := o, handover := none, idleFrom := 0, ownFrom := n } ∧
      (onlyIf c (count 0x510030) (onMtest f (setBank b { bank w b with ownFrom := n } w))).mtest = f s.mtest ∧
      (onlyIf c (count 0x510030) (onMtest f (setBank b { bank w b with ownFrom := n } w))).bank.mem = s.bank.mem := by
  have hc : ∀ u, bank (onlyIf c (count 0x510030) u) b = bank u b ∧ (onlyIf c (count 0x510030) u).mtest = u.mtest ∧
      (onlyIf c (count 0x510030) u).bank.mem = u.bank.mem := fun u => by
    cases c <;> exact ⟨rfl, rfl, rfl⟩
  have hb : bank w b = { x with owner := o, handover := none, idleFrom := 0, ownFrom := now (setBank b x s) / 2 + 1 } := by
    rw [hw, bank_handOver, if_pos rfl, bank_setBank, if_pos rfl]
  have hk := handOver_only b o (setBank b x s)
  rw [← hw] at hk
  obtain ⟨h1, h2, h3⟩ := hc (onMtest f (setBank b { bank w b with ownFrom := n } w))
  rw [h1, h2, h3, bank_onMtest, bank_setBank, if_pos rfl, hb]
  have hm := mem_of_only hk (by decide)
  exact ⟨rfl, congrArg f (hk.same .mtest (by decide)), hm⟩

/-- What waited for a bank that is recalled is late: its words are as they were. -/
theorem stalledOver_mem (xs : List (BankReq × Nat)) (b row r w : Nat) (s : State) :
    (forAll xs stallOver (bankRun b 4 row 1 r w s)).bank.mem = s.bank.mem :=
  forAll_keeps (P := fun u => u.bank.mem = s.bank.mem) (mem_of_only (bankRun_only ..) (by decide))
    fun x u h => (mem_of_only (stallOver_only ..) (by decide)).trans h

theorem recallDone_of {b : Nat} {s : State} (h : (bank s b).test = 3) : Does (.recallDone b) s fun t => ∃ u,
      t = drain (u.bank.stalled.length + 1) { u with bank := { u.bank with answers := [] } } ∧ (bank u b).test = 0 ∧
      (bank u b).owner = (bank s b).lender ∧ (bank u b).lender = 0 ∧ u.mtest.target = 0 ∧ u.bank.mem = s.bank.mem := by
  have hx : execRecallDone b s = .next _ := if_neg (not_not.mpr h)
  refine ⟨_, hx, _, rfl, ?_⟩
  dsimp only
  obtain ⟨h1, h2, h3⟩ := returned_facts b (bank s b).lender _ _ _ _ _ _ rfl
  rw [h1, h2, h3, stalledOver_mem]
  exact ⟨rfl, rfl, rfl, rfl, rfl⟩

/-! Steps -/

theorem abacus_setLent (ks : List Nat) (s : State) : (setLent ks s).abacus = { s.abacus with lent := ks } := by
  have hr : ∀ c ev x u, (onlyIf c (raise ev 0 x) u).abacus = u.abacus := fun c ev x u => by
    unfold onlyIf
    split
    · exact (raise_only ..).same .abacus (by decide)
    · rfl
  unfold setLent reportUsable
  dsimp only
  rw [hr, hr]
  rfl

theorem stepVacateRequest_of {k : Nat} {s : State} (ht : testOn s 2 = true) (hi : mtIdle s = true)
    (hs : s.mtest.stepAt ≤ s.tick) (hc : s.core.running = true) (h1 : s.core.retired.contains k = false)
    (h2 : s.core.retiring.contains k = false) (h3 : s.abacus.lent.contains k = false)
    (h4 : s.abacus.lending.any (·.1 = k) = false) : exec (.stepVacateRequest k) s =
      (fun u => if !mayLend u then .next u
        else if !u.abacus.map.names k ∧ !((u.page.next.map fun m => m.names k).getD false) then
          .next (onAbacus (fun a => { a with lending := a.lending ++ [(k, u.tick + 1)] }) u)
        else .next (request (.vacate k) u))
      (onMtest (fun t => { t with stepNext := (k + 1) % 2048, stepAt := s.tick + sched s 7 0 * 1000 }) s) :=
  if_neg (by
    rw [ht, hi, hc, h1, h2, h3, h4]
    simpa using hs)

theorem rcGet_count (o : Nat) (s : State) :
    rcGet (count o s) o = BitVec.ofNat 32 (min 0xFFFFFFFF ((rcGet s o).toNat + 1)) :=
  (spGet_spSet ..).trans (if_pos rfl)

theorem rcGet_setLent {o : Nat} (h : NotReport o) (ks : List Nat) (s : State) : rcGet (setLent ks s) o = rcGet s o := by
  have hr : ∀ c ev x u, rcGet (onlyIf c (raise ev 0 x) u) o = rcGet u o := fun c ev x u => by
    unfold onlyIf
    split
    · exact rcGet_raise h ..
    · rfl
  unfold setLent reportUsable
  dsimp only
  rw [hr, hr]
  rfl

/-- A test taken depends on the configuration, the time and the tests alone. -/
theorem takeTarget_mtest {s t : State} (hr : t.regs = s.regs) (hm : t.mtest = s.mtest) (hn : now t = now s)
    (a b c d : Nat) : (takeTarget a b c d t).mtest = (takeTarget a b c d s).mtest := by
  simp only [takeTarget, onMtest, retPause, fld, cfgN, cfg, hr, hm, hn]

theorem testStep_mtest (k : Nat) (s : State) : (testStep k s).mtest =
    { (takeTarget 2 2 k 0 s).mtest with lentWait := s.mtest.lentWait.erase k } := by
  let v := { s with core := { s.core with steps := s.core.steps.filter fun e => e.1 % 2048 ≠ k } }
  have hw : ∀ n t, (beginRun 0 n t).lentWait = t.lentWait := fun n t => by
    unfold beginRun
    dsimp only
    split <;> rfl
  have hv : (takeTarget 2 2 k 0 v).mtest = (takeTarget 2 2 k 0 s).mtest := takeTarget_mtest rfl rfl rfl 2 2 k 0
  have hl : (takeTarget 2 2 k 0 s).mtest.lentWait = s.mtest.lentWait := hw ..
  unfold testStep onMtest
  dsimp only
  rw [hv, hl]

/-- The step `k` is among those lent, and counted. -/
def lentStep (k : Nat) (s : State) : State := count 0x32001C (setLent (insNat k s.abacus.lent) s)

theorem lentStep_only (k : Nat) (s : State) :
    Only [.rc, .abacus, .rings, .hostOut, .mgmtLog, .smb, .jnl, .log] s (lentStep k s) :=
  Only.then (setLent_only ..) (count_only ..)

theorem rcGet_lentStep (k : Nat) (s : State) : rcGet (lentStep k s) 0x32001C = rcGet (count 0x32001C s) 0x32001C := by
  unfold lentStep
  rw [rcGet_count, rcGet_count, rcGet_setLent (notReport_of_mod (by decide) (by decide))]

theorem stepLend_of {k : Nat} {s : State} {e : Nat × Nat}
    (h : s.abacus.lending.find? (fun e => e.1 = k && decide (e.2 ≤ s.tick)) = some e) : exec (.stepLend k) s =
      (fun u => if u.core.retired.contains k ∨ u.abacus.map.names k ∨ !mayLend u then .next u
        else .next (if mtIdle (lentStep k u) then testStep k (lentStep k u)
          else onMtest (fun t => { t with
            lentWait := t.lentWait.filter (lentStep k u).abacus.lent.contains ++ [k] }) (lentStep k u)))
      { s with abacus := { s.abacus with lending := s.abacus.lending.erase e } } := by
  show execStepLend k s = _
  unfold execStepLend
  rw [h]
  rfl

theorem named_next (o : Option CMap) (k : Nat) : (!((o.map fun m => m.names k).getD false)) = true ↔
    ∀ m, o = some m → m.names k = false := by
  cases o <;> simp

/-! Banks and ports of the pool -/

theorem find?_filter_of_key {α : Type} (p : Nat → Bool) {k : Nat} (xs : List (Nat × α)) (h : p k = true) :
    (xs.filter fun e => p e.1).find? (·.1 = k) = xs.find? (·.1 = k) := by
  rw [List.find?_filter]
  congr 1
  funext e
  by_cases he : e.1 = k
  · simp [he, h]
  · simp [he]

/-- The test of a free bank has taken its bank from the pool. -/
def testedBank (b : Nat) (s : State) : State :=
  handOver b 4 (setBank b { bank (takeTarget 1 2 b 0 s) b with lender := 0, test := 2 } (takeTarget 1 2 b 0 s))

theorem testedBank_facts (b : Nat) (s : State) : (bank (testedBank b s) b).test = 2 ∧
    (bank (testedBank b s) b).owner = 4 ∧ (testedBank b s).mtest = (takeTarget 1 2 b 0 s).mtest := by
  unfold testedBank
  rw [bank_handOver, if_pos rfl, bank_setBank, if_pos rfl]
  exact ⟨rfl, rfl, (handOver_only ..).same .mtest (by decide)⟩

theorem destructiveTestStart_bank {b : Nat} {s : State} (hi : mtIdle s = true) (hb : b < 128) (hp : inPool s b = true)
    (hk : (s.mtest.asks.any fun a => a.bank = b && a.destructive) = true ∨
      (testOn s 0 = true ∧ roundTakes s b = true)) : Does (.destructiveTestStart b) s fun t =>
      (bank t b).test = 2 ∧ (bank t b).owner = 4 ∧ t.mtest.target = 1 ∧ t.mtest.mode = 2 ∧ t.mtest.index = b ∧
        t.mtest.q = (match s.mtest.asks.find? (fun a => a.bank = b && a.destructive) with
          | some a => some a.q | none => s.mtest.q) := by
  have hx : execDestructiveTestStart b s = .next (scrambleBank b
      (match s.mtest.asks.find? (fun a => a.bank = b && a.destructive) with
        | some a => onMtest (fun t => { t with q := some a.q, asks := t.asks.erase a }) (testedBank b s)
        | none => testedBank b s)) := by
    refine (if_neg (by rw [hi]; decide)).trans ((if_pos hb).trans ((if_neg ?_).trans ?_))
    · rw [hp]
      rintro (k | ⟨k, k'⟩)
      · exact Bool.false_ne_true k
      · rcases hk with h | ⟨h, h'⟩
        · have hs := List.find?_isSome.mpr (List.any_eq_true.mp h)
          rw [Option.isNone_iff_eq_none.mp k] at hs
          exact Bool.false_ne_true hs
        · rw [h, h'] at k'
          exact Bool.false_ne_true k'
    · rfl
  obtain ⟨h1, h2, h3⟩ := testedBank_facts b s
  obtain ⟨-, -, -, k1, k2, k3, k4⟩ := beginRun_starts 0 (now s) { s.mtest with
    target := 1, mode := 2, index := b, segment := 0, pause := retPause s, pass := 0, found := 0, single := false
    sched := cfg s 0x51000C, trig := fld s 0x510010 7 0 }
  refine ⟨_, hx, ?_⟩
  cases s.mtest.asks.find? (fun a => a.bank = b && a.destructive) with
  | none => exact ⟨h1, h2, (congrArg Mtest.target h3).trans k1, (congrArg Mtest.mode h3).trans k2,
      (congrArg Mtest.index h3).trans k3, (congrArg Mtest.q h3).trans k4⟩
  | some a => exact ⟨h1, h2, (congrArg Mtest.target h3).trans k1, (congrArg Mtest.mode h3).trans k2,
      (congrArg Mtest.index h3).trans k3, rfl⟩

/-- Settles O60, by the guards of the events. -/
theorem memoryTests : Obligations.MemoryTests := by
  refine ⟨fun b s => ⟨fun r h => ?_, fun a h => ?_, fun h => ?_, fun h => ?_⟩,
    fun b fs s u ht hm hi hb hg hr hu => ⟨fun hf => ?_, fun hf => ?_⟩, fun b fs s h => if_pos ?_,
    fun b s h => recallDone_of h, fun b s h => if_pos h, fun s a m ha ht hm => ?_, fun s h => retentionPauseEnd_waits h,
    fun s hi ht hs hw hc => ?_, fun s h => if_pos ?_, fun fs s ht hm => ⟨fun h => ?_, fun h => ?_⟩, fun fs s ht hr => ?_,
    fun fs s hr => ⟨fun ht hm => ?_, fun ht => ?_, fun conn ht hc => ?_, fun ht => ?_, fun ht => ?_, fun mine ht hm => ?_⟩,
    fun b s hi hb hp hk => ?_, fun b s h => ?_, fun p s hi ht hp => ?_,
    fun k s ht hi hs hc h1 h2 h3 h4 u hu => ⟨fun h => ?_, fun h hn hm => ?_, fun h hn => ?_⟩,
    fun k s e u he hu => ⟨fun h => ?_, fun h1 h2 h3 => ?_⟩, fun k s h => ?_, fun k s h => if_pos ?_,
    fun k s h => if_pos ?_, fun k s h hn => ?_⟩
  · show execBankBorrow b s = _
    unfold execBankBorrow
    rw [h]
  · show execBankBorrow b s = _
    unfold execBankBorrow
    rw [h]
  · show execBankBorrow b s = _
    unfold execBankBorrow
    rw [h]
  · show execBankBorrow b s = _
    unfold execBankBorrow
    rw [h]
  · rw [segmentDone_of ht hm hi hb hg hr, ← hu]
    exact if_pos hf
  · have hx := segmentDone_of (fs := fs) ht hm hi hb hg hr
    rw [← hu] at hx
    have hs : u.mtest.single = s.mtest.single := by
      rw [hu, (takeFaults_single ..).single]
      exact congrArg Mtest.single ((bankRun_only ..).same .mtest (by decide))
    have hn : now u = now s := by
      rw [hu, now_of_only (takeFaults_only ..) (by decide) (by decide),
        now_of_only (bankRun_only ..) (by decide) (by decide)]
    obtain ⟨h1, h2, h3⟩ := toSegment_starts (if s.mtest.single then 512 else s.mtest.segment + 1) (now u) u.mtest
    refine ⟨_, hx.trans (if_neg (by rw [hf]; decide)), ?_⟩
    dsimp only
    rw [hs]
    refine ⟨h1, h2, fun k => ?_, ?_, fun c hc => ?_⟩
    · rw [← hn]
      exact h3 (h1 ▸ k)
    · rw [bank_onMtest, bank_setBank, if_pos rfl]
    · rw [bank_onMtest, bank_setBank, if_neg hc]
  · rcases h with h | h | h <;> simp [h]
  · show execRetentionPauseEnd s = _
    unfold execRetentionPauseEnd
    dsimp only
    rw [ha, hm]
    exact if_neg (Nat.not_lt.mpr ht)
  · have hx : execPageBorrow s = .next _ := if_neg (by simp [hi, ht, hs, hw, hc])
    exact ⟨_, hx, rfl, (beginRun_starts ..).2.2.2.1, only_of_exec (c := .pageBorrow) hx⟩
  · rcases h with h | h | h <;> simp [h]
  · exact (if_pos ⟨ht, hm⟩ : execMemoryTestDone fs s = _).trans (if_neg (Nat.not_lt.mpr h))
  · exact (if_pos ⟨ht, hm⟩ : execMemoryTestDone fs s = _).trans (if_pos h)
  · exact (if_neg fun k => ht k.1 : execMemoryTestDone fs s = _).trans (if_pos (by rw [hr]; rfl))
  · have hx : execMemoryTestDone fs s = _ := (if_neg fun k => hm k.2).trans (if_neg (by rw [hr]; decide))
    rw [ht] at hx
    exact hx
  · have hx : execMemoryTestDone fs s = _ :=
      (if_neg fun k => absurd (ht.symm.trans k.1) (by decide)).trans (if_neg (by rw [hr]; decide))
    rw [ht] at hx
    exact hx
  · have hx : execMemoryTestDone fs s = _ :=
      (if_neg fun k => absurd (ht.symm.trans k.1) (by decide)).trans (if_neg (by rw [hr]; decide))
    rw [ht] at hx
    rw [hc]
    exact hx
  · have hx : execMemoryTestDone fs s = _ :=
      (if_neg fun k => absurd (ht.symm.trans k.1) (by decide)).trans (if_neg (by rw [hr]; decide))
    rw [ht] at hx
    exact hx
  · have hx : execMemoryTestDone fs s = _ :=
      (if_neg fun k => absurd (ht.symm.trans k.1) (by decide)).trans (if_neg (by rw [hr]; decide))
    rw [ht] at hx
    exact hx
  · have hx : execMemoryTestDone fs s = _ :=
      (if_neg fun k => absurd (ht.symm.trans k.1) (by decide)).trans (if_neg (by rw [hr]; decide))
    rw [ht] at hx
    rw [hm]
    exact hx
  · exact destructiveTestStart_bank hi hb hp hk
  · rcases h with h | ⟨hb, h⟩ | ⟨hb, h⟩
    · exact if_pos (by rw [h]; rfl)
    · by_cases hi : mtIdle s = true
      · exact (if_neg (by rw [hi]; decide) : execDestructiveTestStart b s = _).trans
          ((if_pos hb).trans (if_pos (.inl (by rw [h]; rfl))))
      · exact if_pos (by simpa using hi)
    · by_cases hi : mtIdle s = true
      · refine (if_neg (by rw [hi]; decide) : execDestructiveTestStart b s = _).trans
          ((if_neg (Nat.not_lt.mpr hb)).trans (if_pos ?_))
        exact h.imp (fun k => by rw [k]; rfl) id
      · exact if_pos (by simpa using hi)
  · have hx : execDestructiveTestStart (128 + p) s = .next _ := (if_neg (by rw [hi]; decide)).trans
      ((if_neg (by omega)).trans (if_neg (by rw [Nat.add_sub_cancel_left, ht, hp]; decide)))
    refine ⟨_, hx, (beginRun_starts ..).2.2.2.1, ?_, fun l hl k hk => ?_⟩
    · exact (beginRun_starts ..).2.2.2.2.2.1.trans (Nat.add_sub_cancel_left ..)
    · rw [Nat.add_sub_cancel_left]
      exact find?_filter_of_key (fun j => j / 64 / 32 ≠ p) _ (by rw [hk]; exact decide_eq_true hl)
  · rw [stepVacateRequest_of ht hi hs hc h1 h2 h3 h4, ← hu]
    dsimp only
    rw [h]
    rfl
  · rw [stepVacateRequest_of ht hi hs hc h1 h2 h3 h4, ← hu]
    dsimp only
    rw [h, if_neg (by decide), if_pos]
    · rw [hu]
      rfl
    · rw [hu]
      exact ⟨by rw [show (onMtest _ s).abacus = s.abacus from rfl, hn]; rfl, (named_next ..).mpr hm⟩
  · rw [stepVacateRequest_of ht hi hs hc h1 h2 h3 h4, ← hu]
    dsimp only
    rw [h, if_neg (by decide), if_neg]
    rw [hu]
    rintro ⟨c1, c2⟩
    rcases hn with hn | ⟨m, hm, hn⟩
    · rw [show (onMtest _ s).abacus = s.abacus from rfl, hn] at c1
      exact Bool.false_ne_true c1
    · have c3 := (named_next ..).mp c2 m hm
      rw [hn] at c3
      exact Bool.false_ne_true c3.symm
  · rw [stepLend_of he, ← hu]
    refine if_pos ?_
    rw [hu] at h ⊢
    rcases h with h | h | h
    · exact .inl h
    · exact .inr (.inl h)
    · exact .inr (.inr (by rw [h]; rfl))
  · have hx := stepLend_of he
    rw [← hu] at hx
    dsimp only at hx
    have huc : u.core = s.core ∧ u.abacus.map = s.abacus.map ∧ u.abacus.lent = s.abacus.lent ∧ u.mtest = s.mtest ∧
        u.rc = s.rc ∧ u.regs = s.regs ∧ now u = now s := by
      rw [hu]
      exact ⟨rfl, rfl, rfl, rfl, rfl, rfl, rfl⟩
    obtain ⟨hc, hm, hl, ht, hr, hreg, hnow⟩ := huc
    rw [if_neg (by rw [hc, hm, h1, h2, h3]; decide)] at hx
    have ha : (lentStep k u).abacus = { u.abacus with lent := insNat k u.abacus.lent } :=
      ((count_only ..).same .abacus (by decide)).trans (abacus_setLent ..)
    have hk := lentStep_only k u
    have hv : (lentStep k u).mtest = s.mtest := (hk.same .mtest (by decide)).trans ht
    have hi : mtIdle (lentStep k u) = mtIdle s := by rw [mtIdle, mtIdle, hv]
    have hg : rcGet (lentStep k u) 0x32001C = rcGet (count 0x32001C s) 0x32001C := by
      rw [rcGet_lentStep, rcGet_count, rcGet_count, rcGet, rcGet, hr]
    rw [hi] at hx
    by_cases hs : mtIdle s = true
    · rw [if_pos hs] at hx
      refine ⟨_, hx, ?_, ?_, ?_, ?_⟩
      · rw [(testStep_only ..).same .abacus (by decide), ha, hl]
      · rw [(testStep_only ..).same .abacus (by decide), ha]
      · rw [rcGet_of_only (testStep_only ..) (by decide), hg]
      · rw [if_pos hs, testStep_mtest, hv, takeTarget_mtest ((hk.same .regs (by decide)).trans hreg) hv
          ((now_of_only hk (by decide) (by decide)).trans hnow)]
    · rw [if_neg hs] at hx
      refine ⟨_, hx, ?_, ?_, ?_, ?_⟩
      · show (lentStep k u).abacus.lent = _
        rw [ha, hl]
      · show (lentStep k u).abacus.lending = _
        rw [ha]
      · exact hg
      · rw [if_neg hs, ha, hl, ← hv]
        rfl
  · show execStepLend k s = _
    unfold execStepLend
    rw [h]
  · rcases h with h | h | h | h
    · simp [h]
    · simp [h]
    · exact .inr (.inr (.inl h))
    · simp [h]
  · rcases h with h | h
    · exact .inl (by rw [h]; rfl)
    · exact .inr h
  · have hx : execStepReturn k s = .next (setLent (s.abacus.lent.erase k) s) := if_neg (by
      rw [h]
      exact fun c => c.elim (fun e => Bool.false_ne_true e) hn)
    exact ⟨_, hx, by dsimp only; rw [abacus_setLent]⟩

end Sys2Proof.Proofs.MemoryTests
end

section
/-! PROOFS. Power, start-up, the decision about the role and the port domains. -/

set_option Elab.async false

namespace Sys2Proof.Proofs.PowerAndStartup

open Sys2Proof Sys2Proof.Machine Sys2Proof.Laws Sys2Proof.Proofs.Frame Sys2Proof.Proofs.HostInterface
open Sys2Proof.Proofs.Access Sys2Proof.Proofs.LaneWrites Sys2Proof.Proofs.EngineEvents Sys2Proof.Proofs.Twin

/-! Power lost -/

theorem resetFlash_kept (s : State) : (resetFlash s).otp = s.otp ∧ (resetFlash s).pwr.vin = s.pwr.vin ∧
    (resetFlash s).pwr.por = s.pwr.por ∧ (resetFlash s).pwr.overcurrent = s.pwr.overcurrent := by
  unfold resetFlash
  split <;> exact ⟨rfl, rfl, rfl, rfl⟩

/-- The parts of a card switched off that no loss of power leaves. -/
structure SwitchedOff (s t : State) : Prop where
  line : t.ssw.actOut = false
  lock : flg t 4 0 = false
  trip : t.sens.tripped = false
  tod : t.timing.todValid = false
  tick : t.tick = 0
  core : t.core.running = false
  ports : ∀ p, (port t p).st = 0
  lanes : ∀ l, (lane t l).trn.rx = 0
  log : t.log = []
  otp : t.otp = s.otp

/-- Whatever the power record becomes, the internal reset leaves the card switched off. -/
theorem switchedOff_fullReset (s : State) (p : Pwr) : SwitchedOff s { fullReset (resetFlash s) with pwr := p } :=
  ⟨rfl, show flg State.reset 4 0 = false by decide, rfl, rfl, rfl, rfl, fun _ => rfl, fun _ => rfl, rfl,
    (resetFlash_kept s).1⟩

theorem pwr_fullReset (s : State) : (fullReset (resetFlash s)).pwr.vin = s.pwr.vin ∧
    (fullReset (resetFlash s)).pwr.por = s.pwr.por ∧
    (fullReset (resetFlash s)).pwr.overcurrent = s.pwr.overcurrent :=
  (resetFlash_kept s).2

/-- The card after the internal reset, with its power record as `p`. -/
def switched (s : State) (p : Pwr) : State := { fullReset (resetFlash s) with pwr := p }

/-! Start-up -/

/-- Start-up keeps VIN and POR_N, and the power state until it decides. -/
structure UpKept (s t : State) : Prop where
  vin : t.pwr.vin = s.pwr.vin
  por : t.pwr.por = s.pwr.por
  st : t.pwr.st = s.pwr.st

theorem UpKept.then {s t u : State} (h : UpKept s t) (k : UpKept t u) : UpKept s u :=
  ⟨k.vin.trans h.vin, k.por.trans h.por, k.st.trans h.st⟩

theorem UpKept.withCopy {s t : State} (h : UpKept s t) (c : Copy) : UpKept s { t with copy := c } :=
  ⟨h.vin, h.por, h.st⟩

theorem UpKept.of_only {ps : List Part} {s t : State} (h : Only ps s t) (hp : Part.pwr ∉ ps) : UpKept s t := by
  have e : t.pwr = s.pwr := h.same .pwr hp
  exact ⟨by rw [e], by rw [e], by rw [e]⟩

theorem toStep_up (k : Nat) (s : State) : UpKept s (toStep k s) ∧ (toStep k s).pwr.step = k := ⟨⟨rfl, rfl, rfl⟩, rfl⟩

theorem domainOn_pwr (d : Nat) (s : State) : (domainOn d s).pwr = { s.pwr with on := s.pwr.on ||| BitVec.ofNat 20 (2 ^ d) } := by
  unfold domainOn
  dsimp only
  rw [(startPort_only ..).same .pwr (by decide)]
  exact forAll_keeps (P := fun u => u.pwr = { s.pwr with on := s.pwr.on ||| BitVec.ofNat 20 (2 ^ d) }) rfl
    fun l u h => ((startTraining_only l u).same .pwr (by decide)).trans h

theorem beginSix_facts (fs : List MemFault) (s : State) : UpKept s (beginSix fs s) ∧
    (beginSix fs s).pwr.step = s.pwr.step ∧ (beginSix fs s).mtest.target = 4 := by
  unfold beginSix
  dsimp only
  generalize ho : onMtest (fun m => { m with known := fs }) (takeTarget 4 2 0 0 (powerOn 0xF8000 s)) = v
  have hv : v.pwr = { s.pwr with on := s.pwr.on ||| BitVec.ofNat 20 0xF8000 } := by rw [← ho]; rfl
  have ht : v.mtest.target = 4 := by
    rw [← ho]
    exact (MemoryTests.beginRun_starts ..).2.2.2.1
  have hk : ∀ u, (forAll (List.range 128) (fun b s => setBank b { bank s b with test := 2 } s) u).pwr = u.pwr ∧
      (forAll (List.range 128) (fun b s => setBank b { bank s b with test := 2 } s) u).mtest = u.mtest := fun u =>
    forAll_keeps (P := fun w => w.pwr = u.pwr ∧ w.mtest = u.mtest) ⟨rfl, rfl⟩ fun _ _ h => h
  rw [(hk _).2]
  refine ⟨⟨?_, ?_, ?_⟩, ?_, ht⟩
  all_goals
    rw [(hk _).1]
    unfold onPwr
    rw [hv]

theorem recovery_of_only {ps : List Part} {s t : State} (h : Only ps s t) (hp : Part.mgmt ∉ ps) :
    t.mgmt.recovery = s.mgmt.recovery := by
  have e : mgmtOf t.mgmt = mgmtOf s.mgmt := h.same .mgmt hp
  have h := congrArg Mgmt.recovery e
  exact h

theorem recover_facts (s : State) : (recover s).pwr.vin = s.pwr.vin ∧ (recover s).pwr.por = s.pwr.por ∧
    (recover s).pwr.st = 5 ∧ (recover s).pwr.step = 0 ∧ (recover s).mgmt.recovery = true := by
  unfold recover
  dsimp only
  rw [(deliverHeld_only ..).same .pwr (by decide), recovery_of_only (deliverHeld_only ..) (by decide)]
  exact ⟨rfl, rfl, rfl, rfl, rfl⟩

/-- How start-up has ended: in the memory test of step 6, in MGMT_ONLY or in recovery. -/
def StartedUp (t : State) : Prop :=
  (t.pwr.st = 1 ∧ t.pwr.step = 6 ∧ t.mtest.target = 4) ∨ (t.pwr.st = 4 ∧ t.pwr.step = 0) ∨
    (t.pwr.st = 5 ∧ t.pwr.step = 0 ∧ t.mgmt.recovery = true)

/-- A debug port that is open is reported: start-up ends as it did. -/
theorem startedUp_reportDebug {s : State} (h : StartedUp s) : StartedUp (reportDebug s) := by
  have hk := reportDebug_only s
  have hp : (reportDebug s).pwr = s.pwr := hk.same .pwr (by decide)
  have hm : (reportDebug s).mtest = s.mtest := hk.same .mtest (by decide)
  unfold StartedUp
  rw [hp, hm, recovery_of_only hk (by decide)]
  exact h

theorem stepThree_up (s : State) : UpKept s (stepThree s) := ⟨rfl, rfl, rfl⟩

theorem stepsFourFive_up (cause : Nat) (s : State) : UpKept s (stepsFourFive cause s) := by
  have hr : ∀ u a b, UpKept u (replay cause a b (deliverHeld u)) := fun u a b =>
    (UpKept.of_only (deliverHeld_only u) (by decide)).then (.of_only (replay_only ..) (by decide))
  unfold stepsFourFive
  dsimp only
  exact (((toStep_up 4 s).1.then (toStep_up 5 (toStep 4 s)).1).then (hr (toStep 5 (toStep 4 s)) _ _)).withCopy _

/-- Up to step 5 start-up keeps VIN, POR_N and the power state. -/
theorem startUp_toFive (b : BootInput) (s : State) :
    UpKept s (bootFlash (powerOn 0xC (onPwr (fun p => { p with step := 2, flash := flashFound b }) (fusedRepairs s)))).1 := by
  have h1 : UpKept s (fusedRepairs s) := .of_only (fusedRepairs_only s) (by decide)
  have h2 : ∀ u, UpKept u (powerOn 0xC (onPwr (fun p => { p with step := 2, flash := flashFound b }) u)) :=
    fun u => ⟨rfl, rfl, rfl⟩
  exact (h1.then (h2 _)).then (.of_only (bootFlash_only ..) (by decide))

theorem laterSteps_facts (fs : List MemFault) (s : State) : UpKept s (laterSteps fs s) ∧
    (laterSteps fs s).pwr.step = s.pwr.step ∧ (laterSteps fs s).mtest.target = 4 := by
  obtain ⟨h1, h2, h3⟩ := beginSix_facts fs (domainOn 6 s)
  have hd := domainOn_pwr 6 s
  refine ⟨UpKept.then ⟨by rw [hd], by rw [hd], by rw [hd]⟩ h1, h2.trans (by rw [hd]), h3⟩

theorem startFromTwo_ends (cause : Nat) (b : BootInput) (s : State) (h : s.pwr.st = 1) :
    StartedUp (startFromTwo cause b s) ∧ (startFromTwo cause b s).pwr.vin = s.pwr.vin ∧
      (startFromTwo cause b s).pwr.por = s.pwr.por := by
  have hu := startUp_toFive b s
  have hd : ∀ u, (reportDebug u).pwr = u.pwr := fun u => (reportDebug_only u).same .pwr (by decide)
  unfold startFromTwo
  dsimp only
  generalize bootFlash _ = r at hu ⊢
  split
  · obtain ⟨h1, h2, h3, h4, h5⟩ := recover_facts r.1
    rw [hd, h1, h2]
    exact ⟨startedUp_reportDebug (.inr (.inr ⟨h3, h4, h5⟩)), hu.vin, hu.por⟩
  · have hv := (hu.then (stepThree_up r.1)).then (stepsFourFive_up cause (stepThree r.1))
    have hw := hv.then (.of_only (reportDebug_only _) (by decide))
    generalize reportDebug _ = w at hw ⊢
    split
    · exact ⟨.inr (.inl ⟨rfl, rfl⟩), hw.vin, hw.por⟩
    · obtain ⟨hk, hs, ht⟩ := laterSteps_facts b.faults (toStep 6 w)
      have hx := (hw.then (toStep_up 6 _).1).then hk
      exact ⟨.inl ⟨hx.st.trans h, hs, ht⟩, hx.vin, hx.por⟩

/-- Step 1 of start-up: the straps are taken and the first domains switched on. -/
def stepOne (b : BootInput) (s : State) : State :=
  let st := b.straps &&& 0x7B
  let (c, s) := randomBytes 32 s
  { s with
    tick := 0
    smb := { s.smb with addr := BitVec.ofNat 3 (bitsOf st.toNat 5 3), alert := s.smb.alert || !b.otpOk }
    ssw := { s.ssw with side := st.getLsbD 6 }
    mgmt := { s.mgmt with challenge := c }
    pwr := { s.pwr with
      st := 1, step := 1, late := false, resuming := false, on := 0x13, straps := st, times := []
      otpOk := b.otpOk, cause := 1, warm := 0, overcurrent := false, shutting := false } }

theorem startUp_eq (b : BootInput) (s : State) :
    startUp b s = if !b.otpOk then stepOne b s else startFromTwo 1 b (stepTime 1 (stepOne b s)) := rfl

/-- What start-up from step 1 on leaves. -/
theorem startUp_ends (b : BootInput) (s : State) : (startUp b s).tick = 0 ∧ (startUp b s).otp = s.otp ∧
    (startUp b s).pwr.vin = s.pwr.vin ∧ (startUp b s).pwr.por = s.pwr.por ∧
    (startUp b s).ssw = { s.ssw with side := b.straps.getLsbD 6 } ∧
    (b.otpOk = false → (startUp b s).pwr.st = 1 ∧ (startUp b s).pwr.step = 1 ∧ (startUp b s).pwr.on = 0x13) ∧
    (b.otpOk = true → StartedUp (startUp b s)) := by
  have hb : (b.straps &&& 0x7B).getLsbD 6 = b.straps.getLsbD 6 := by
    rw [BitVec.getLsbD_and]
    exact Bool.and_true _
  rw [startUp_eq]
  cases ho : b.otpOk
  · rw [if_pos (show (!false) = true from rfl)]
    refine ⟨rfl, rfl, rfl, rfl, ?_, fun _ => ⟨rfl, rfl, rfl⟩, fun h => nomatch h⟩
    rw [← hb]
    rfl
  · rw [if_neg (by decide)]
    have hk := startFromTwo_only 1 b (stepTime 1 (stepOne b s))
    obtain ⟨h1, h2, h3⟩ := startFromTwo_ends 1 b (stepTime 1 (stepOne b s)) rfl
    refine ⟨hk.same .tick (by decide), hk.same .otp (by decide), h2, h3, ?_, (fun h => nomatch h), fun _ => h1⟩
    rw [hk.same .ssw (by decide), ← hb]
    rfl

theorem startUpFresh_ends (b : BootInput) (s : State) : (startUpFresh b s).tick = 0 ∧ (startUpFresh b s).otp = s.otp ∧
    (startUpFresh b s).pwr.vin = s.pwr.vin ∧ (startUpFresh b s).pwr.por = s.pwr.por ∧
    (startUpFresh b s).ssw = { s.ssw with side := b.straps.getLsbD 6 } ∧
    (b.otpOk = false → (startUpFresh b s).pwr.st = 1 ∧ (startUpFresh b s).pwr.step = 1 ∧
      (startUpFresh b s).pwr.on = 0x13) ∧
    (b.otpOk = true → StartedUp (startUpFresh b s)) := by
  have hk : Only [.rc, .rings, .hostOut, .mgmtLog, .smb, .jnl, .log] (startUp b s) (startUpFresh b s) := by
    unfold startUpFresh onlyIf
    dsimp only
    split
    · exact raise_only ..
    · exact Only.refl ..
  have hp : (startUpFresh b s).pwr = (startUp b s).pwr := hk.same .pwr (by decide)
  have hm : (startUpFresh b s).mtest = (startUp b s).mtest := hk.same .mtest (by decide)
  have ht : (startUpFresh b s).tick = (startUp b s).tick := hk.same .tick (by decide)
  have ho : (startUpFresh b s).otp = (startUp b s).otp := hk.same .otp (by decide)
  have hs : (startUpFresh b s).ssw = (startUp b s).ssw := hk.same .ssw (by decide)
  rw [StartedUp, hp, hm, ht, ho, hs, recovery_of_only hk (by decide)]
  exact startUp_ends b s

/-! The decision about the role -/

theorem setClaimEn_line (b : Bool) (s : State) : (setClaimEn b s).ssw.claimEn = b ∧
    (setClaimEn b s).ssw.role = s.ssw.role ∧ (setClaimEn b s).ssw.actOut = s.ssw.actOut ∧
    (setClaimEn b s).ssw.actIn = s.ssw.actIn := by
  unfold setClaimEn
  dsimp only
  split
  · next h => exact ⟨h, rfl, rfl, rfl⟩
  · exact ⟨rfl, rfl, rfl, rfl⟩

theorem stepNine_facts (s : State) : (stepNine s).pwr.step = 9 ∧
    (stepNine s).ssw = { s.ssw with decideAt := none, holdPorts := true } := by
  have hf : ∀ xs u, (forAll xs (fun p s => domainOn (7 + p) s) u).pwr.step = u.pwr.step ∧
      (forAll xs (fun p s => domainOn (7 + p) s) u).ssw = u.ssw := fun xs u =>
    forAll_keeps (P := fun w => w.pwr.step = u.pwr.step ∧ w.ssw = u.ssw) ⟨rfl, rfl⟩ fun p w h =>
      ⟨by rw [domainOn_pwr]; exact h.1, (ssw_of_only (domainOn_only ..) (by decide)).trans h.2⟩
  unfold stepNine
  dsimp only
  rw [(hf _ _).1, (hf _ _).2, (holdStandbyOnly_only ..).same .pwr (by decide), holdStandbyOnly_ssw]
  exact ⟨rfl, rfl⟩

theorem decideClaim_facts (may m : Bool) (s : State)
    (h : m = (if sswMode s = 1 then false else may || decide (sswMode s = 2))) :
    (decideClaim may s).pwr.step = 9 ∧ (decideClaim may s).ssw.decideAt = none ∧ (decideClaim may s).ssw.claimEn = m ∧
      (decideClaim may s).ssw.role = (if m = true ∧ s.ssw.actIn = false then s.ssw.role else 2) ∧
      (decideClaim may s).ssw.actOut = s.ssw.actOut := by
  have hd : decideClaim may s = stepNine (if m && !(setClaimEn m s).ssw.actIn then setClaimEn m s
      else setRole 2 (setClaimEn m s)) := by
    rw [h]
    rfl
  obtain ⟨h1, h2, h3, h4⟩ := setClaimEn_line m s
  rw [hd, (stepNine_facts _).1, (stepNine_facts _).2, h4]
  by_cases hc : m = true ∧ s.ssw.actIn = false
  · rw [if_pos (by rw [hc.1, hc.2]; rfl), if_pos hc]
    exact ⟨rfl, rfl, h1, h2, h3⟩
  · rw [if_neg (by simpa using hc), if_neg hc, setRole_ssw]
    exact ⟨rfl, rfl, h1, rfl, h3⟩

/-! The port domains -/

theorem getLsbD_domain {d e : Nat} (hd : d < 20) : (BitVec.ofNat 20 (2 ^ d)).getLsbD e = decide (e = d) := by
  rw [BitVec.getLsbD_ofNat, Nat.testBit_two_pow]
  by_cases h : d = e
  · subst h
    simp [hd]
  · simp [h, Ne.symm h]

theorem pdOn_domainOn {d : Nat} (hd : d < 20) (e : Nat) (s : State) :
    pdOn (domainOn d s) e = (pdOn s e || decide (e = d)) := by
  unfold pdOn
  rw [domainOn_pwr, BitVec.getLsbD_or, getLsbD_domain hd]

theorem domainOff_pwr (d : Nat) (s : State) : (domainOff d s).pwr =
    { s.pwr with on := s.pwr.on &&& ~~~(BitVec.ofNat 20 (2 ^ d)), idle := spDel d s.pwr.idle } := by
  have h : ∀ xs u, (forAll xs (fun l s => setLane l Lane.reset (loseAlignment l s)) u).pwr = u.pwr := fun xs u =>
    forAll_keeps (P := fun w => w.pwr = u.pwr) rfl fun l w k => ((loseAlignment_only l w).same .pwr (by decide)).trans k
  unfold domainOff
  dsimp only
  rw [(setPort_only ..).same .pwr (by decide)]
  dsimp only
  rw [h]

theorem pdOn_domainOff {d e : Nat} (hd : d < 20) (he : e < 20) (s : State) :
    pdOn (domainOff d s) e = (pdOn s e && !decide (e = d)) := by
  unfold pdOn
  rw [domainOff_pwr, BitVec.getLsbD_and, BitVec.getLsbD_not, getLsbD_domain hd, decide_eq_true he, Bool.true_and]

/-- Lanes that are forgotten one after the other are all forgotten. -/
theorem lane_forgotten {l : Nat} (xs : List Nat) (s : State) (h : l ∈ xs ∨ lane s l = Lane.reset) :
    lane (forAll xs (fun l s => setLane l Lane.reset (loseAlignment l s)) s) l = Lane.reset := by
  unfold forAll
  induction xs generalizing s with
  | nil => exact h.resolve_left (List.not_mem_nil)
  | cons x xs ih =>
    refine ih _ ?_
    by_cases hx : l = x
    · exact .inr (by rw [lane_setLane, if_pos hx])
    · rw [lane_setLane, if_neg hx, lane_loseAlignment, if_neg hx]
      exact h.imp_left fun k => (List.mem_cons.mp k).resolve_left hx

/-- A late step of start-up: it is marked, counted and reported. -/
def lateStep (n : Nat) (s : State) : State :=
  raise .stepLate n 0 (count 0x10024 (onPwr (fun p => { p with late := true }) s))

theorem lateStep_pwr (n : Nat) (s : State) : (lateStep n s).pwr = { s.pwr with late := true } := by
  unfold lateStep
  rw [(raise_only ..).same .pwr (by decide)]
  rfl

theorem lateStep_ssw (n : Nat) (s : State) : (lateStep n s).ssw = s.ssw := by
  unfold lateStep
  rw [(raise_only ..).same .ssw (by decide)]
  rfl

theorem startupStepLate_eq {n : Nat} {s : State} (hs : s.pwr.step ≠ 0) (hn : n ≠ 0) (hl : n ≤ s.pwr.step) (h10 : n ≠ 10) :
    exec (.startupStepLate n) s =
      .next (if n = 9 ∧ (lateStep n s).pwr.step = 9 then beginTen (lateStep n s) else lateStep n s) :=
  if_neg fun h => h.elim hs (·.elim hn (·.elim h10 (Nat.not_lt.mpr hl)))

theorem startupStepLate_stays {n : Nat} {s : State} (hs : s.pwr.step ≠ 0) (hn : n ≠ 0) (hl : n ≤ s.pwr.step)
    (h10 : n ≠ 10) (h9 : n ≠ 9 ∨ s.pwr.step ≠ 9) : exec (.startupStepLate n) s = .next (lateStep n s) := by
  rw [startupStepLate_eq hs hn hl h10, if_neg]
  rw [lateStep_pwr]
  exact fun ⟨k9, k⟩ => h9.elim (absurd k9) (absurd k)

theorem startupStepLate_nine {s : State} (hs : s.pwr.step = 9) : Does (.startupStepLate 9) s fun t =>
    t = beginTen (lateStep 9 s) ∧ t.pwr.step = 10 ∧ t.pwr.late = true ∧
      t.pwr.st = if s.ssw.role = 1 ∨ s.ssw.role = 3 then 2 else 3 := by
  have hp := lateStep_pwr 9 s
  have hr := lateStep_ssw 9 s
  have hx := startupStepLate_eq (n := 9) (s := s) (by omega) (by decide) (by omega) (by decide)
  generalize lateStep 9 s = t at hp hr hx ⊢
  rw [if_pos ⟨rfl, by rw [hp]; exact hs⟩] at hx
  refine ⟨_, hx, rfl, rfl, ?_, ?_⟩
  · exact congrArg Pwr.late hp
  · rw [← hr]
    rfl

/-- POR_N low and the losses of VIN are the internal reset, with the pins and the over-current as they are. -/
theorem powerLost_switched {c : Instr} {s : State} (h : (c = .porNAssert ∧ s.pwr.por = false) ∨
    (c ∈ [Instr.vinLost, .vinOvervoltage, .inputOvercurrent] ∧ s.pwr.vin = true)) :
    ∃ p, exec c s = .next (switched s p) ∧ p.on = (if c = .porNAssert ∧ s.pwr.vin = true then 1 else 0) ∧
      p.vin = (s.pwr.vin && decide (c = .porNAssert)) ∧ p.por = (s.pwr.por || decide (c = .porNAssert)) ∧
      p.overcurrent = (s.pwr.overcurrent || decide (c = .inputOvercurrent)) := by
  obtain ⟨h1, h2, h3⟩ := pwr_fullReset s
  rcases h with ⟨rfl, hp⟩ | ⟨hc, hv⟩
  · refine ⟨_, (if_neg (by simp [hp]) : execPorNAssert s = _), ?_, ?_, ?_, ?_⟩
    · simp
    · simp [h1]
    · simp
    · simp [h3]
  · simp only [List.mem_cons, List.not_mem_nil, or_false] at hc
    rcases hc with rfl | rfl | rfl
    · refine ⟨_, (if_pos hv : execVinLost s = _), ?_, ?_, ?_, ?_⟩
      · simp
      · simp
      · simp [h2]
      · simp [h3]
    · refine ⟨_, (if_pos hv : execVinOvervoltage s = _), ?_, ?_, ?_, ?_⟩
      · simp
      · simp
      · simp [h2]
      · simp [h3]
    · refine ⟨_, (if_pos hv : execInputOvercurrent s = _), ?_, ?_, ?_, ?_⟩
      · simp [loseVin]
      · simp [loseVin]
      · simp [loseVin, h2]
      · simp

theorem silent_eq (o : Option Nat) (p : Nat → Bool) : (match o with | some t => p t | none => true) = o.all p := by
  cases o <;> rfl

theorem seesawDecisionTimeout_due {s : State} (hd : due s s.ssw.decideAt (ticks (ms 2000)) = true)
    (hl : pxLinked s = false) : exec .seesawDecisionTimeout s =
      .next (decideClaim (s.ssw.wireAt.all fun t => decide (t + ticks (ms 2000) ≤ now s)) s) := by
  have h : (due s s.ssw.decideAt (ticks (ms 2000)) && !pxLinked s) = true := by
    rw [hd, hl, Bool.not_false, Bool.and_true]
  exact (if_pos h).trans (congrArg (fun b => Host.Outcome.next (decideClaim b s)) (silent_eq ..))

theorem mayClaim_eq (k : Nat) (b : Bool) :
    (decide (k ≠ 1) && (decide (k = 2) || b)) = if k = 1 then false else b || decide (k = 2) := by
  by_cases h1 : k = 1
  · rw [if_pos h1, decide_eq_false (not_not.mpr h1), Bool.false_and]
  · rw [if_neg h1, decide_eq_true h1, Bool.true_and, Bool.or_comm]

/-- Settles O38, by the ends of start-up and what the internal reset and a port domain leave. -/
theorem powerAndStartup : Obligations.PowerAndStartup := by
  refine ⟨fun c s h => ?_, fun c s h => ?_, fun b s hv hp => ?_, fun b s hp hv => ?_, fun b s c u h => ?_,
    fun b s => ⟨fun h => if_pos h, fun h => if_pos (by rw [h]; rfl)⟩, fun n s hs hn hl h10 h9 => ?_, fun s hs => ?_,
    fun n s h => if_pos h, fun s m hd hl hm => ?_, fun d x s h6 h14 ho hi hx ht => ?_, fun d s h6 h14 ho hi ha => ?_⟩
  · obtain ⟨p, hx, h1, h2, h3, h4⟩ := powerLost_switched h
    obtain ⟨k1, k2, k3, k4, k5, k6, k7, k8, k9, k10⟩ := switchedOff_fullReset s p
    exact ⟨_, hx, h1, h2, h3, h4, k1, k2, k3, k4, k5, k6, k7, k8, k9, k10⟩
  · rcases h with ⟨rfl, hp⟩ | ⟨hc, hv⟩
    · exact if_pos hp
    · simp only [List.mem_cons, List.not_mem_nil, or_false] at hc
      rcases hc with rfl | rfl | rfl <;> exact if_neg (by simp [hv])
  · exact (if_neg (by simp [hv]) : execVinGood b s = _).trans (congrArg _ (if_pos hp))
  · exact (if_neg (by simp [hp]) : execPorNDeassert b s = _).trans (congrArg _ (if_neg (by simp [hv])))
  · have hx : exec c s = .next (startUpFresh b u) ∧ u.otp = s.otp ∧ u.pwr.vin = true ∧ u.pwr.por = false ∧
        u.ssw = s.ssw := by
      rcases h with ⟨rfl, hv, hp, rfl⟩ | ⟨rfl, hp, hv, rfl⟩
      · exact ⟨(if_neg (by simp [hv]) : execVinGood b s = _).trans (congrArg _ (if_neg (by simp [hp]))), rfl, rfl, hp, rfl⟩
      · exact ⟨(if_neg (by simp [hp]) : execPorNDeassert b s = _).trans (congrArg _ (if_pos hv)), rfl, hv, rfl, rfl⟩
    obtain ⟨hx, ho, hv, hp, hs⟩ := hx
    obtain ⟨k1, k2, k3, k4, k5, k6, k7⟩ := startUpFresh_ends b u
    exact ⟨_, hx, rfl, k1, k2.trans ho, k3.trans hv, k4.trans hp, by rw [k5], by rw [k5, hs], k6, k7⟩
  · exact startupStepLate_stays hs hn hl h10 h9
  · exact startupStepLate_nine hs
  · refine ⟨_, seesawDecisionTimeout_due hd hl, decideClaim_facts _ m s ?_⟩
    rw [hm]
    exact mayClaim_eq ..
  · have hx : execPortDomainPowerDown d s = .next (domainOff d (count 0x10028 s)) := if_pos (by
      simp [h6, h14, ho, hi, hx, ht])
    have hd : ∀ e, pdOn (count 0x10028 s) e = pdOn s e := fun e => rfl
    refine ⟨_, hx, rfl, ?_, ?_, fun l hl => ?_, fun e he h20 => ?_⟩
    · rw [pdOn_domainOff (by omega) (by omega), decide_eq_true rfl]
      exact Bool.and_false _
    · exact (port_setPort ..).trans (if_pos rfl)
    · exact lane_forgotten _ _ (.inl hl)
    · rw [pdOn_domainOff (by omega) h20, decide_eq_false he]
      exact Bool.and_true _
  · have hx : execPortDomainPowered d s = .next (domainOn d (count 0x10028 s)) := if_pos (by
      simp [h6, h14, ho, hi, ha])
    refine ⟨_, hx, rfl, ?_, fun e he _ => ?_⟩
    · rw [pdOn_domainOn (by omega), decide_eq_true rfl]
      exact Bool.or_true _
    · rw [pdOn_domainOn (by omega), decide_eq_false he]
      exact Bool.or_false _

end Sys2Proof.Proofs.PowerAndStartup
end
